-- ==== Sys2Proof/Word.lean ====
section
/-!
DEFINITION. The words and bytes of the SX9's control and data spaces (R11: every register is 64 bits wide).
-/

namespace Sys2Proof

/-- A register word of the control space, or an 8-byte word of the data space (R11). -/
abbrev Word := BitVec 64

/-- One byte of the data space. -/
abbrev Byte := BitVec 8

end Sys2Proof
end

