-- ==== Sys2Proof/Config.lean ====
section
/-!
DEFINITION. What one part or one run fixes and the spec leaves open: per-unit production values (R5, R157, R449) and free values.
None has a body, so nothing can be proved of the value of any of them.
-/

namespace Sys2Proof

/-- A job as the JOBS record gives it (R410): its class, its tile plan and tensor table (R118), its recipes' seeds (R338), and
whether its data may be exported (R349). -/
structure PkgJob where
  job : Nat
  cls : Nat
  cores : Nat
  tensorBase : Nat
  tensorCount : Nat
  permit : Bool
  /-- The job's units, as event block code and instance (R213). -/
  units : List (Nat × Nat)
  /-- Tasks that Hopper writes with each work item (R203), each eight descriptor words. -/
  itemTasks : List (List Word)
  /-- Seeds of each recipe: weight randomness and stochastic rounding. -/
  seeds : List (Word × Word)
  /-- The floor image, one instruction a word (R149). -/
  image : List (BitVec 32)
  deriving DecidableEq, Repr

/-- What a Gelra package's records say (R409 to R413). The CBOR keys of the record bodies are not in the spec. -/
structure Package where
  /-- First 8 bytes of the package digest (R411). -/
  digest : Word
  arithRev : Nat
  /-- UNITS, WINDOWS and the registers of HOPPER: control offsets and values (R410). -/
  regs : List (Nat × Word)
  jobs : List PkgJob
  /-- IMAGE and the page tables of HOPPER: data addresses and bytes. -/
  images : List (Nat × List Byte)
  /-- POSITION parts: chain position and registers (R313). -/
  parts : List (Nat × List (Nat × Word))
  /-- Positions that are twin pairs. -/
  pairs : List Nat
  /-- TABLES: linearisation (port, exposure, index, value), flat field (port, index, gain, offset), tone (context, channel, index, knot). -/
  lin : List (Nat × Nat × Nat × Nat)
  ff : List (Nat × Nat × Nat × Nat)
  tone : List (Nat × Nat × Nat × Nat)
  /-- SERVICE: the serials listed (R384); none without a valid service record. -/
  service : List Word
  /-- START: AUTORUN, AUTORUN_MS, START_TMO_S (R408, R414). -/
  autorun : Bool
  autorunMs : Nat
  startTmoS : Nat
  deriving DecidableEq, Repr, Inhabited

/-- A CAL record's values (R419), applied over the package's (R420). -/
structure CalVals where
  regs : List (Nat × Word)
  ff : List (Nat × Nat × Nat × Nat)
  deriving DecidableEq, Repr, Inhabited

/-- What a TRAIN cell's payload says (R300); its layout is not in the spec. -/
structure TrainInfo where
  serial : Word
  /-- The sender's chain position, once assigned. -/
  pos : Option Nat
  /-- The sender's module index: it is module B. -/
  modB : Bool
  link : Nat
  /-- The lane's index within its link. -/
  lane : Nat
  /-- The sender's training state. -/
  state : Nat
  scrambler : BitVec 58
  /-- The sender asks for far-end loopback (R308). -/
  loopFar : Bool
  deriving DecidableEq, Repr, Inhabited

namespace Config

/-- What the bytes of a TRAIN cell's payload say (log entry 14). -/
opaque trainOf : List Byte → TrainInfo

/-- The bytes of a message whose layout is not in the spec, by its channel, kind and values (R295; log entry 14). -/
opaque msgBody : Nat → Nat → List Nat → List Byte

/-- AES-256-GCM under the keys of a link and direction (R310, R380), which no register shows: the cipher text of a cell, by the link,
the key's generation, the segment counter, the cell's number in its segment and its plain text; the plain text back; and a
segment's tag, by the link, the generation, the counter, the headers and the plain text (log entry 146). -/
opaque gcmSeal : Nat → Nat → Nat → Nat → List Byte → List Byte
opaque gcmOpen : Nat → Nat → Nat → Nat → List Byte → List Byte
opaque gcmTag : Nat → Nat → Nat → List Word → List (List Byte) → BitVec 128

/-- A PAIR cell's payload says that a SOLO partner accepts this module (R329; log entry 14). -/
opaque pairAccepts : List Byte → Bool

/-- The n-th free value: a 64-bit word that the spec leaves open (log entry 9). -/
opaque freeWord : Nat → Word

/-- ID_SERIAL.SERIAL, written at production (R5). -/
opaque idSerial : Word

/-- Floor clusters enabled beyond the 80 that every part has, 0 to 16 (R5). -/
opaque spareClusters : Fin 17

/-- ID_HARVEST.ENGINES, the kinds whose spare instance is fused off (R5, R21). -/
opaque sparesFused : BitVec 6

/-- ENG_INFO.PHYS of an engine instance, by block window and instance (R157). -/
opaque physEngine : Nat → Nat → BitVec 4

/-- MGT_MAC.MAC (R471). -/
opaque mac : BitVec 48

/-- TIM_PTP_LAT at production (R449, R472). -/
opaque ptpLat : Word

/-- Length in bytes of the device certificate (R388), and its words. -/
opaque certLen : BitVec 10
opaque certWord : Nat → Word

/-- The result an engine or a core gives where the spec states none, by the operation and its operands' words (log entry 10). -/
opaque unstated : Nat → List Nat → Nat

/-- VDOTF8 reads its products as E5M2, else as E4M3: the spec names no FP8 format for it (R149, R150; log entry 10). -/
opaque dotE5 : Bool

/-- What the records of a package slot's bytes say (R410, R412): the CBOR keys are not in the spec (log entry 14). -/
opaque packageOf : List (Nat × Byte) → Package

/-- What a CAL record's bytes say (R419). -/
opaque calOf : List (Nat × Byte) → CalVals

/-- Coupler delays of the production record (R420), one register value per channel. -/
opaque prodCpl : Nat → Word

end Config

end Sys2Proof
end

