-- ==== Sys2Proof/Machine/Regs.lean ====
section
/-!
DEFINITION. The register file of the control space: the address of every register, the place of every field, and for every
register its reset value and the access kind of each of its bits, as the register tables of spec/ give them (R11, R14, R16, R25).
Addresses are offsets from the control base 0x20_0000_0000 (R30).
-/

namespace Sys2Proof.Machine

/-- A field of a register: its register's control offset, its lowest bit and its width (R13). -/
structure Fld where
  off : Nat
  lo : Nat
  w : Nat
  deriving DecidableEq, Repr

/-- When a register's configuration fields may change (R25 and the rule that opens each block's register section). -/
inductive Lock where
  | never | port | pipe | ctx | entry | job | anyJob | owner | posAxis | cmpStopped | fioSafe | laneOff
  | stoppedMode | window | stoppedOrMinimal | ptpOff | recOff | traceOff
  deriving DecidableEq, Repr

/-- A register, or an array of them (`dims`: count and stride of each index), with its reset value and the masks of its
configuration, run-time, shadow (R87), W1C, W1S, RC and WO bits (R14). A bit of no mask is RO or reserved (R13). -/
structure RegRow where
  base : Nat
  dims : List (Nat × Nat)
  reset : Nat
  cfg : Nat
  run : Nat
  shadow : Nat
  w1c : Nat
  w1s : Nat
  rc : Nat
  wo : Nat
  lock : Lock
  deriving DecidableEq, Repr

namespace R

/-- ID_PART (R5). -/
def idPart : Nat := 0x1f00000
/-- ID_SERIAL (R5). -/
def idSerial : Nat := 0x1f00008
/-- ID_HARVEST (R5). -/
def idHarvest : Nat := 0x1f00010
/-- GRS_CTL (R70). -/
def grsCtl (i : Nat) : Nat := 0x0 + 0x10000 * i
/-- GRS_FMT (R70). -/
def grsFmt (i : Nat) : Nat := 0x8 + 0x10000 * i
/-- GRS_TRG (R70). -/
def grsTrg (i : Nat) : Nat := 0x10 + 0x10000 * i
/-- GRS_TRG_PERIOD (R70). -/
def grsTrgPeriod (i : Nat) : Nat := 0x18 + 0x10000 * i
/-- GRS_TRG_PHASE (R70). -/
def grsTrgPhase (i : Nat) : Nat := 0x20 + 0x10000 * i
/-- GRS_TRG_MIN (R70). -/
def grsTrgMin (i : Nat) : Nat := 0x28 + 0x10000 * i
/-- GRS_STATUS (R70). -/
def grsStatus (i : Nat) : Nat := 0x30 + 0x10000 * i
/-- GRS_CONCEAL (R70). -/
def grsConceal (i : Nat) : Nat := 0x38 + 0x10000 * i
/-- GRS_CONCEAL_POS (R70). -/
def grsConcealPos (i : Nat) : Nat := 0x40 + 0x10000 * i
/-- GRS_CNT_LINES (R70). -/
def grsCntLines (i : Nat) : Nat := 0x48 + 0x10000 * i
/-- GRS_CNT_ERR (R70). -/
def grsCntErr (i : Nat) : Nat := 0x50 + 0x10000 * i
/-- GRS_CNT_TRG (R70). -/
def grsCntTrg (i : Nat) : Nat := 0x58 + 0x10000 * i
/-- GRS_UART_CFG (R70). -/
def grsUartCfg (i : Nat) : Nat := 0x60 + 0x10000 * i
/-- GRS_UART_TX (R70). -/
def grsUartTx (i : Nat) : Nat := 0x68 + 0x10000 * i
/-- GRS_UART_RX (R70). -/
def grsUartRx (i : Nat) : Nat := 0x70 + 0x10000 * i
/-- GRS_UART_STAT (R70). -/
def grsUartStat (i : Nat) : Nat := 0x78 + 0x10000 * i
/-- GRS_COR_CTL (R108). -/
def grsCorCtl (i : Nat) : Nat := 0x800 + 0x10000 * i
/-- GRS_HDR_K (R108). -/
def grsHdrK (i : Nat) : Nat := 0x808 + 0x10000 * i
/-- GRS_LIN_ACC (R108). -/
def grsLinAcc (i : Nat) : Nat := 0x810 + 0x10000 * i
/-- GRS_FF_ACC (R108). -/
def grsFfAcc (i : Nat) : Nat := 0x818 + 0x10000 * i
/-- MSH_CTL (R108). -/
def mshCtl (i : Nat) : Nat := 0x100000 + 0x10000 * i
/-- MSH_SRC (R108). -/
def mshSrc (i : Nat) : Nat := 0x100008 + 0x10000 * i
/-- MSH_CNT (R108). -/
def mshCnt (i : Nat) : Nat := 0x100010 + 0x10000 * i
/-- MSH_CX_CFG (R108). -/
def mshCxCfg (i j : Nat) : Nat := 0x102000 + 0x10000 * i + 0x2000 * j
/-- MSH_CX_COMMIT (R108). -/
def mshCxCommit (i j : Nat) : Nat := 0x102008 + 0x10000 * i + 0x2000 * j
/-- MSH_CX_TOOK (R108). -/
def mshCxTook (i j : Nat) : Nat := 0x102010 + 0x10000 * i + 0x2000 * j
/-- MSH_CX_DONE_REEL (R108). -/
def mshCxDoneReel (i j : Nat) : Nat := 0x102018 + 0x10000 * i + 0x2000 * j
/-- MSH_CX_WB (R108). -/
def mshCxWb (i j : Nat) : Nat := 0x102040 + 0x10000 * i + 0x2000 * j
/-- MSH_CX_CCM0 (R108). -/
def mshCxCcm0 (i j : Nat) : Nat := 0x102048 + 0x10000 * i + 0x2000 * j
/-- MSH_CX_CCM1 (R108). -/
def mshCxCcm1 (i j : Nat) : Nat := 0x102050 + 0x10000 * i + 0x2000 * j
/-- MSH_CX_CCM2 (R108). -/
def mshCxCcm2 (i j : Nat) : Nat := 0x102058 + 0x10000 * i + 0x2000 * j
/-- MSH_CX_TONE_ACC (R108). -/
def mshCxToneAcc (i j : Nat) : Nat := 0x102080 + 0x10000 * i + 0x2000 * j
/-- MSH_CX_STATS_CFG (R108). -/
def mshCxStatsCfg (i j : Nat) : Nat := 0x1020c0 + 0x10000 * i + 0x2000 * j
/-- MSH_CX_STATS_BASE (R108). -/
def mshCxStatsBase (i j : Nat) : Nat := 0x1020c8 + 0x10000 * i + 0x2000 * j
/-- MSH_CX_CNT (R108). -/
def mshCxCnt (i j : Nat) : Nat := 0x1020d0 + 0x10000 * i + 0x2000 * j
/-- STRM_CFG (R108). -/
def strmCfg (i j k : Nat) : Nat := 0x102100 + 0x10000 * i + 0x2000 * j + 0x40 * k
/-- STRM_CROP (R108). -/
def strmCrop (i j k : Nat) : Nat := 0x102108 + 0x10000 * i + 0x2000 * j + 0x40 * k
/-- STRM_BASE (R108). -/
def strmBase (i j k : Nat) : Nat := 0x102110 + 0x10000 * i + 0x2000 * j + 0x40 * k
/-- STRM_RING (R108). -/
def strmRing (i j k : Nat) : Nat := 0x102118 + 0x10000 * i + 0x2000 * j + 0x40 * k
/-- STRM_TAGBASE (R108). -/
def strmTagbase (i j k : Nat) : Nat := 0x102120 + 0x10000 * i + 0x2000 * j + 0x40 * k
/-- STRM_STAT (R108). -/
def strmStat (i j k : Nat) : Nat := 0x102128 + 0x10000 * i + 0x2000 * j + 0x40 * k
/-- MSH_CX_ASSIST (R108). -/
def mshCxAssist (i j : Nat) : Nat := 0x102200 + 0x10000 * i + 0x2000 * j
/-- MSH_CX_ASSIST_Q (R108). -/
def mshCxAssistQ (i j : Nat) : Nat := 0x102208 + 0x10000 * i + 0x2000 * j
/-- MSH_CX_HOST_BASE (R108). -/
def mshCxHostBase (i j : Nat) : Nat := 0x102210 + 0x10000 * i + 0x2000 * j
/-- MSH_CX_ASSIST_STAT (R108). -/
def mshCxAssistStat (i j : Nat) : Nat := 0x102218 + 0x10000 * i + 0x2000 * j
/-- MSH_CX_ASSIST_DONE (R108). -/
def mshCxAssistDone (i j : Nat) : Nat := 0x102220 + 0x10000 * i + 0x2000 * j
/-- ENG_STAT (R157). -/
def engStat (blk n : Nat) : Nat := 0x0 + 0x100000 * blk + 0x10000 * n
/-- ENG_FAULT (R157). -/
def engFault (blk n : Nat) : Nat := 0x8 + 0x100000 * blk + 0x10000 * n
/-- ENG_FAULT_ADDR (R157). -/
def engFaultAddr (blk n : Nat) : Nat := 0x10 + 0x100000 * blk + 0x10000 * n
/-- ENG_INFO (R157). -/
def engInfo (blk n : Nat) : Nat := 0x18 + 0x100000 * blk + 0x10000 * n
/-- FLR_STAT (R158). -/
def flrStat (i : Nat) : Nat := 0x800000 + 0x1000 * i
/-- FLR_TRAP (R158). -/
def flrTrap (i : Nat) : Nat := 0x800008 + 0x1000 * i
/-- FLR_TRAP_ADDR (R158). -/
def flrTrapAddr (i : Nat) : Nat := 0x800010 + 0x1000 * i
/-- HOP_STAT (R192). -/
def hopStat : Nat := 0xa00000
/-- HOP_POOL (R192). -/
def hopPool : Nat := 0xa00008
/-- HOP_POOL_CFG (R192). -/
def hopPoolCfg : Nat := 0xa00010
/-- HOP_POOL_STAT (R192). -/
def hopPoolStat : Nat := 0xa00018
/-- HOP_SPILL (R192). -/
def hopSpill : Nat := 0xa00020
/-- HOP_HALO_CFG (R192). -/
def hopHaloCfg : Nat := 0xa00028
/-- HOP_CNT (R192). -/
def hopCnt : Nat := 0xa00030
/-- HOP_CNT_HALO (R192). -/
def hopCntHalo : Nat := 0xa00038
/-- HOP_JOB_LIST (R192). -/
def hopJobList (i : Nat) : Nat := 0xa00800 + 0x10 * i
/-- HOP_JOB_SYNC (R192). -/
def hopJobSync (i : Nat) : Nat := 0xa00808 + 0x10 * i
/-- HOP_ENT_CFG (R192). -/
def hopEntCfg (i : Nat) : Nat := 0xa10000 + 0x40 * i
/-- HOP_ENT_PT (R192). -/
def hopEntPt (i : Nat) : Nat := 0xa10008 + 0x40 * i
/-- HOP_ENT_NBR (R192). -/
def hopEntNbr (i : Nat) : Nat := 0xa10010 + 0x40 * i
/-- HOP_ENT_SYNC (R192). -/
def hopEntSync (i : Nat) : Nat := 0xa10018 + 0x40 * i
/-- HOP_ENT_SYNC2 (R192). -/
def hopEntSync2 (i : Nat) : Nat := 0xa10020 + 0x40 * i
/-- HOP_ENT_STAT (R192). -/
def hopEntStat (i : Nat) : Nat := 0xa10028 + 0x40 * i
/-- HOP_ENT_STEP (R192). -/
def hopEntStep (i : Nat) : Nat := 0xa10030 + 0x40 * i
/-- HOP_ENT_DETACH (R192). -/
def hopEntDetach (i : Nat) : Nat := 0xa10038 + 0x40 * i
/-- SCH_STAT (R225). -/
def schStat : Nat := 0xb00000
/-- SCH_GUAR (R225). -/
def schGuar : Nat := 0xb00008
/-- SCH_CFG (R225). -/
def schCfg : Nat := 0xb00010
/-- SCH_SHARE (R225). -/
def schShare : Nat := 0xb00018
/-- SCH_C0_POOL (R225). -/
def schC0Pool : Nat := 0xb00020
/-- SCH_RESTART_AT (R225). -/
def schRestartAt : Nat := 0xb00028
/-- SCH_RESTART_SCOPE (R225). -/
def schRestartScope : Nat := 0xb00030
/-- SCH_RESTART_CTL (R225). -/
def schRestartCtl : Nat := 0xb00038
/-- SCH_SLOT (R225). -/
def schSlot (i : Nat) : Nat := 0xb00100 + 0x8 * i
/-- SCH_LAG (R225). -/
def schLag (i : Nat) : Nat := 0xb00200 + 0x8 * i
/-- SCH_JOB_CTL (R225). -/
def schJobCtl (i : Nat) : Nat := 0xb01000 + 0x100 * i
/-- SCH_JOB_STAT (R225). -/
def schJobStat (i : Nat) : Nat := 0xb01008 + 0x100 * i
/-- SCH_JOB_RSV (R225). -/
def schJobRsv (i : Nat) : Nat := 0xb01010 + 0x100 * i
/-- SCH_JOB_DL (R225). -/
def schJobDl (i : Nat) : Nat := 0xb01018 + 0x100 * i
/-- SCH_JOB_SAVE (R225). -/
def schJobSave (i : Nat) : Nat := 0xb01020 + 0x100 * i
/-- SCH_JOB_TUN (R225). -/
def schJobTun (i : Nat) : Nat := 0xb01028 + 0x100 * i
/-- SCH_JOB_WM (R225). -/
def schJobWm (i : Nat) : Nat := 0xb01030 + 0x100 * i
/-- SCH_ACC_WAIT (R225). -/
def schAccWait (i : Nat) : Nat := 0xb01080 + 0x100 * i
/-- SCH_ACC_WMAX (R225). -/
def schAccWmax (i : Nat) : Nat := 0xb01088 + 0x100 * i
/-- SCH_ACC_CNT (R225). -/
def schAccCnt (i : Nat) : Nat := 0xb01090 + 0x100 * i
/-- SCH_ACC_VERD (R225). -/
def schAccVerd (i : Nat) : Nat := 0xb01098 + 0x100 * i
/-- SCH_ACC_VERD2 (R225). -/
def schAccVerd2 (i : Nat) : Nat := 0xb010a0 + 0x100 * i
/-- SCH_ACC_HIST (R225). -/
def schAccHist (i j : Nat) : Nat := 0xb010c0 + 0x100 * i + 0x8 * j
/-- SYN_STAT (R226). -/
def synStat : Nat := 0xc00000
/-- SYN_ADD (R226). -/
def synAdd : Nat := 0xc00008
/-- SYN_OBJ (R226). -/
def synObj (i : Nat) : Nat := 0xc10000 + 0x8 * i
/-- MBX_STAT (R226). -/
def mbxStat : Nat := 0xd00000
/-- MBX_CFG (R226). -/
def mbxCfg (i : Nat) : Nat := 0xd10000 + 0x20 * i
/-- MBX_SIDE (R226). -/
def mbxSide (i : Nat) : Nat := 0xd10008 + 0x20 * i
/-- MBX_SEND (R226). -/
def mbxSend (i : Nat) : Nat := 0xd10010 + 0x20 * i
/-- MBX_TAKE (R226). -/
def mbxTake (i : Nat) : Nat := 0xd10018 + 0x20 * i
/-- POS_CFG (R261). -/
def posCfg (i : Nat) : Nat := 0xe00000 + 0x1000 * i
/-- POS_TOOTH (R261). -/
def posTooth (i : Nat) : Nat := 0xe00008 + 0x1000 * i
/-- POS_REF (R261). -/
def posRef (i : Nat) : Nat := 0xe00010 + 0x1000 * i
/-- POS_REV (R261). -/
def posRev (i : Nat) : Nat := 0xe00018 + 0x1000 * i
/-- POS_CTL (R261). -/
def posCtl (i : Nat) : Nat := 0xe00020 + 0x1000 * i
/-- POS_POS (R261). -/
def posPos (i : Nat) : Nat := 0xe00028 + 0x1000 * i
/-- POS_EDGE_REEL (R261). -/
def posEdgeReel (i : Nat) : Nat := 0xe00030 + 0x1000 * i
/-- POS_SPEED (R261). -/
def posSpeed (i : Nat) : Nat := 0xe00038 + 0x1000 * i
/-- POS_STAT (R261). -/
def posStat (i : Nat) : Nat := 0xe00040 + 0x1000 * i
/-- POS_CNT (R261). -/
def posCnt (i : Nat) : Nat := 0xe00048 + 0x1000 * i
/-- POS_DISC (R261). -/
def posDisc (i : Nat) : Nat := 0xe00050 + 0x1000 * i
/-- CMP_CTL (R262). -/
def cmpCtl (i : Nat) : Nat := 0xf00000 + 0x1000 * i
/-- CMP_STAT (R262). -/
def cmpStat (i : Nat) : Nat := 0xf00008 + 0x1000 * i
/-- CMP_CNT (R262). -/
def cmpCnt (i : Nat) : Nat := 0xf00010 + 0x1000 * i
/-- CMP_CNT2 (R262). -/
def cmpCnt2 (i : Nat) : Nat := 0xf00018 + 0x1000 * i
/-- CMP_ENTRY_SEL (R262). -/
def cmpEntrySel (i : Nat) : Nat := 0xf00100 + 0x1000 * i
/-- CMP_ENTRY_W (R262). -/
def cmpEntryW (i j : Nat) : Nat := 0xf00108 + 0x1000 * i + 0x8 * j
/-- CMP_VALVE_CFG (R262). -/
def cmpValveCfg (i : Nat) : Nat := 0xff0000 + 0x40 * i
/-- CMP_VALVE_COLS (R262). -/
def cmpValveCols (i : Nat) : Nat := 0xff0008 + 0x40 * i
/-- CMP_VALVE_DIST (R262). -/
def cmpValveDist (i : Nat) : Nat := 0xff0010 + 0x40 * i
/-- CMP_VALVE_EXT (R262). -/
def cmpValveExt (i : Nat) : Nat := 0xff0018 + 0x40 * i
/-- CMP_VALVE_DLY (R262). -/
def cmpValveDly (i : Nat) : Nat := 0xff0020 + 0x40 * i
/-- CMP_VALVE_LIM (R262). -/
def cmpValveLim (i : Nat) : Nat := 0xff0028 + 0x40 * i
/-- CMP_CPL (R262). -/
def cmpCpl (i : Nat) : Nat := 0xff2000 + 0x8 * i
/-- CMP_PORT (R262). -/
def cmpPort (i : Nat) : Nat := 0xff2400 + 0x8 * i
/-- CMP_JOB (R262). -/
def cmpJob (i : Nat) : Nat := 0xff2800 + 0x8 * i
/-- CMP_LATE (R262). -/
def cmpLate : Nat := 0xff3000
/-- CMP_LATE_TAG (R262). -/
def cmpLateTag : Nat := 0xff3008
/-- CMP_LATE_POS (R262). -/
def cmpLatePos : Nat := 0xff3010
/-- CMP_LATE_REEL (R262). -/
def cmpLateReel : Nat := 0xff3018
/-- FIO_STAT (R291). -/
def fioStat : Nat := 0x1000000
/-- FIO_SAFE (R291). -/
def fioSafe : Nat := 0x1000008
/-- FIO_OUT_LO (R291). -/
def fioOutLo : Nat := 0x1000010
/-- FIO_OUT_HI (R291). -/
def fioOutHi : Nat := 0x1000018
/-- FIO_IN_W (R291). -/
def fioInW : Nat := 0x1000020
/-- FIO_IN_C (R291). -/
def fioInC : Nat := 0x1000028
/-- FIO_GRP_STAT (R291). -/
def fioGrpStat (i : Nat) : Nat := 0x1000800 + 0x10 * i
/-- FIO_GRP_CNT (R291). -/
def fioGrpCnt (i : Nat) : Nat := 0x1000808 + 0x10 * i
/-- FIO_CH_CFG (R291). -/
def fioChCfg (i : Nat) : Nat := 0x1001000 + 0x20 * i
/-- FIO_CH_CMD (R291). -/
def fioChCmd (i : Nat) : Nat := 0x1001008 + 0x20 * i
/-- FIO_CH_STAT (R291). -/
def fioChStat (i : Nat) : Nat := 0x1001010 + 0x20 * i
/-- FIO_CH_CNT (R291). -/
def fioChCnt (i : Nat) : Nat := 0x1001018 + 0x20 * i
/-- FIO_IW_CFG (R291). -/
def fioIwCfg (i : Nat) : Nat := 0x1004000 + 0x10 * i
/-- FIO_IW_STAT (R291). -/
def fioIwStat (i : Nat) : Nat := 0x1004008 + 0x10 * i
/-- FIO_IC_CFG (R291). -/
def fioIcCfg (i : Nat) : Nat := 0x1005000 + 0x20 * i
/-- FIO_IC_COUNT (R291). -/
def fioIcCount (i : Nat) : Nat := 0x1005008 + 0x20 * i
/-- FIO_IC_FREQ (R291). -/
def fioIcFreq (i : Nat) : Nat := 0x1005010 + 0x20 * i
/-- FIO_IC_EDGE (R291). -/
def fioIcEdge (i : Nat) : Nat := 0x1005018 + 0x20 * i
/-- PNX_CTL (R331). -/
def pnxCtl (i : Nat) : Nat := 0x1100000 + 0x1000 * i
/-- PNX_TX (R331). -/
def pnxTx (i : Nat) : Nat := 0x1100008 + 0x1000 * i
/-- PNX_STAT (R331). -/
def pnxStat (i : Nat) : Nat := 0x1100010 + 0x1000 * i
/-- PNX_CNT (R331). -/
def pnxCnt (i : Nat) : Nat := 0x1100018 + 0x1000 * i
/-- PNX_PRBS (R331). -/
def pnxPrbs (i : Nat) : Nat := 0x1100020 + 0x1000 * i
/-- PNX_DELAY (R331). -/
def pnxDelay (i : Nat) : Nat := 0x1100028 + 0x1000 * i
/-- PNX_CFG (R331). -/
def pnxCfg : Nat := 0x11f0000
/-- PNX_CHAIN (R331). -/
def pnxChain : Nat := 0x11f0008
/-- PNX_LINK (R331). -/
def pnxLink (i : Nat) : Nat := 0x11f0100 + 0x8 * i
/-- TNG_CFG (R332). -/
def tngCfg : Nat := 0x1200000
/-- TNG_CTL (R332). -/
def tngCtl : Nat := 0x1200008
/-- TNG_STAT (R332). -/
def tngStat : Nat := 0x1200010
/-- TNG_PEER (R332). -/
def tngPeer : Nat := 0x1200018
/-- TNG_HB (R332). -/
def tngHb : Nat := 0x1200020
/-- TNG_HORIZON (R332). -/
def tngHorizon : Nat := 0x1200028
/-- TNG_DIV (R332). -/
def tngDiv : Nat := 0x1200030
/-- TNG_CNT (R332). -/
def tngCnt : Nat := 0x1200038
/-- TRC_REC_CTL (R358). -/
def trcRecCtl : Nat := 0x1908000
/-- TRC_REC_RING (R358). -/
def trcRecRing : Nat := 0x1908008
/-- TRC_REC_WPTR (R358). -/
def trcRecWptr : Nat := 0x1908010
/-- TRC_REC_CKPT (R358). -/
def trcRecCkpt : Nat := 0x1908018
/-- TRC_REC_CNT (R358). -/
def trcRecCnt : Nat := 0x1908020
/-- TRC_REC_PERM (R358). -/
def trcRecPerm : Nat := 0x1908028
/-- TRC_EXPORT_ADDR (R358). -/
def trcExportAddr : Nat := 0x1908030
/-- TRC_EXPORT_CTL (R358). -/
def trcExportCtl : Nat := 0x1908038
/-- TRC_REC_PORT (R358). -/
def trcRecPort (i : Nat) : Nat := 0x1908100 + 0x8 * i
/-- TRC_RPL_FROM (R358). -/
def trcRplFrom : Nat := 0x1908200
/-- TRC_RPL_TO (R358). -/
def trcRplTo : Nat := 0x1908208
/-- TRC_RPL_STAT (R358). -/
def trcRplStat : Nat := 0x1908210
/-- TRC_RPL_DIV (R358). -/
def trcRplDiv : Nat := 0x1908218
/-- TRC_JOB_STEP (R358). -/
def trcJobStep (i : Nat) : Nat := 0x1909000 + 0x20 * i
/-- TRC_JOB_SEED0 (R358). -/
def trcJobSeed0 (i : Nat) : Nat := 0x1909008 + 0x20 * i
/-- TRC_JOB_SEED1 (R358). -/
def trcJobSeed1 (i : Nat) : Nat := 0x1909010 + 0x20 * i
/-- TRC_JOB_STEPCFG (R358). -/
def trcJobStepcfg (i : Nat) : Nat := 0x1909018 + 0x20 * i
/-- MEM_ECC_STAT (R386). -/
def memEccStat : Nat := 0x1300000
/-- MEM_ECC_CFG (R386). -/
def memEccCfg : Nat := 0x1300008
/-- MEM_ECC_CE (R386). -/
def memEccCe : Nat := 0x1300010
/-- MEM_ECC_UE (R386). -/
def memEccUe : Nat := 0x1300018
/-- MEM_FLIP_DATA (R386). -/
def memFlipData : Nat := 0x1300020
/-- MEM_FLIP_CTL (R386). -/
def memFlipCtl : Nat := 0x1300028
/-- MEM_SPG_CTL (R386). -/
def memSpgCtl : Nat := 0x1300040
/-- MEM_SPG_FROM (R386). -/
def memSpgFrom : Nat := 0x1300048
/-- MEM_SPG_TO (R386). -/
def memSpgTo : Nat := 0x1300050
/-- MEM_SPG_SUM0 (R386). -/
def memSpgSum0 : Nat := 0x1300058
/-- MEM_SPG_SUM1 (R386). -/
def memSpgSum1 : Nat := 0x1300060
/-- MEM_SPG_SUM2 (R386). -/
def memSpgSum2 : Nat := 0x1300068
/-- MEM_SPG_SUM3 (R386). -/
def memSpgSum3 : Nat := 0x1300070
/-- MEM_SPG_SUM4 (R386). -/
def memSpgSum4 : Nat := 0x1300078
/-- TUN_ECC (R387). -/
def tunEcc (i : Nat) : Nat := 0x900000 + 0x10000 * i
/-- TUN_ECC_CE (R387). -/
def tunEccCe (i : Nat) : Nat := 0x900008 + 0x10000 * i
/-- TUN_ECC_UE (R387). -/
def tunEccUe (i : Nat) : Nat := 0x900010 + 0x10000 * i
/-- FLR_ECC (R387). -/
def flrEcc (i : Nat) : Nat := 0x800018 + 0x1000 * i
/-- FLR_ECC_UE (R387). -/
def flrEccUe (i : Nat) : Nat := 0x800020 + 0x1000 * i
/-- SEC_STAT (R388). -/
def secStat : Nat := 0x1400000
/-- SEC_RNG (R388). -/
def secRng : Nat := 0x1400008
/-- SEC_ISO (R388). -/
def secIso : Nat := 0x1400010
/-- SEC_ISO_CNT (R388). -/
def secIsoCnt : Nat := 0x1400018
/-- SEC_CERT_SEL (R388). -/
def secCertSel : Nat := 0x1400020
/-- SEC_CERT (R388). -/
def secCert : Nat := 0x1400028
/-- SEC_LINK (R388). -/
def secLink (i : Nat) : Nat := 0x1400100 + 0x8 * i
/-- SEC_WIN (R388). -/
def secWin (i : Nat) : Nat := 0x1410000 + 0x10 * i
/-- SEC_WIN_JOBS (R388). -/
def secWinJobs (i : Nat) : Nat := 0x1410008 + 0x10 * i
/-- PWR_STAT (R423). -/
def pwrStat : Nat := 0x1500000
/-- PWR_MINMAX (R423). -/
def pwrMinmax : Nat := 0x1500008
/-- PWR_IN (R423). -/
def pwrIn : Nat := 0x1500010
/-- PWR_CNT (R423). -/
def pwrCnt : Nat := 0x1500018
/-- RST_CAUSE (R423). -/
def rstCause : Nat := 0x1600000
/-- RST_CMD (R423). -/
def rstCmd : Nat := 0x1600008
/-- RST_STAT (R423). -/
def rstStat : Nat := 0x1600010
/-- RST_BLK (R423). -/
def rstBlk : Nat := 0x1600018
/-- RST_FAULT (R423). -/
def rstFault : Nat := 0x1600020
/-- CEL_STAT (R423). -/
def celStat : Nat := 0x1c00000
/-- CEL_BKP0 (R423). -/
def celBkp0 : Nat := 0x1c00100
/-- CEL_BKP1 (R423). -/
def celBkp1 : Nat := 0x1c00108
/-- CEL_BKP2 (R423). -/
def celBkp2 : Nat := 0x1c00110
/-- CEL_BKP3 (R423). -/
def celBkp3 : Nat := 0x1c00118
/-- CEL_BKPN (R423). -/
def celBkpn (i : Nat) : Nat := 0x1c00120 + 0x8 * i
/-- CEL_CAL_SRC (R423). -/
def celCalSrc : Nat := 0x1c00200
/-- CEL_CAL_CTL (R423). -/
def celCalCtl : Nat := 0x1c00208
/-- CEL_CAL_STAT (R423). -/
def celCalStat : Nat := 0x1c00210
/-- MGT_STAT (R471). -/
def mgtStat : Nat := 0x1700000
/-- MGT_WDOG (R471). -/
def mgtWdog : Nat := 0x1700008
/-- MGT_WDOG_CFG (R471). -/
def mgtWdogCfg : Nat := 0x1700010
/-- MGT_SENS_TEMP (R471). -/
def mgtSensTemp (i : Nat) : Nat := 0x1700100 + 0x8 * i
/-- MGT_SENS_COLD (R471). -/
def mgtSensCold : Nat := 0x1700130
/-- MGT_SENS_RAIL (R471). -/
def mgtSensRail (i : Nat) : Nat := 0x1700140 + 0x8 * i
/-- MGT_NET (R471). -/
def mgtNet : Nat := 0x1700200
/-- MGT_NET_GW (R471). -/
def mgtNetGw : Nat := 0x1700208
/-- MGT_NET_CTL (R471). -/
def mgtNetCtl : Nat := 0x1700210
/-- MGT_MAC (R471). -/
def mgtMac : Nat := 0x1700218
/-- MGT_NCP_ALLOW (R471). -/
def mgtNcpAllow (i : Nat) : Nat := 0x1700220 + 0x8 * i
/-- MGT_NCP_STAT (R471). -/
def mgtNcpStat : Nat := 0x1700240
/-- MGT_SPI_STAT (R471). -/
def mgtSpiStat : Nat := 0x1700280
/-- MGT_PCIE_STAT (R471). -/
def mgtPcieStat : Nat := 0x17002c0
/-- MGT_IRQ (R471). -/
def mgtIrq : Nat := 0x17002c8
/-- MGT_IRQ_MASK (R471). -/
def mgtIrqMask : Nat := 0x17002d0
/-- MGT_DUMP (R471). -/
def mgtDump : Nat := 0x1700300
/-- MGT_UPD_CTL (R471). -/
def mgtUpdCtl : Nat := 0x1700400
/-- MGT_UPD_DATA (R471). -/
def mgtUpdData : Nat := 0x1700408
/-- MGT_UPD_STAT (R471). -/
def mgtUpdStat : Nat := 0x1700410
/-- MGT_HANG (R471). -/
def mgtHang (i : Nat) : Nat := 0x1701000 + 0x8 * i
/-- TIM_BASE (R472). -/
def timBase : Nat := 0x1800000
/-- TIM_REEL (R472). -/
def timReel : Nat := 0x1800008
/-- TIM_WALL (R472). -/
def timWall : Nat := 0x1800010
/-- TIM_LATCH (R472). -/
def timLatch : Nat := 0x1800018
/-- TIM_LATCH_B (R472). -/
def timLatchB : Nat := 0x1800020
/-- TIM_LATCH_R (R472). -/
def timLatchR : Nat := 0x1800028
/-- TIM_LATCH_W (R472). -/
def timLatchW : Nat := 0x1800030
/-- TIM_REEL_STAT (R472). -/
def timReelStat : Nat := 0x1800040
/-- TIM_REEL_ROOT (R472). -/
def timReelRoot : Nat := 0x1800048
/-- TIM_WALL_RATE (R472). -/
def timWallRate : Nat := 0x1800050
/-- TIM_WALL_ADJ (R472). -/
def timWallAdj : Nat := 0x1800058
/-- TIM_WALL_STAT (R472). -/
def timWallStat : Nat := 0x1800060
/-- TIM_PTP_CFG (R472). -/
def timPtpCfg : Nat := 0x1800080
/-- TIM_PTP_MASTER (R472). -/
def timPtpMaster (i : Nat) : Nat := 0x1800088 + 0x8 * i
/-- TIM_PTP_LAT (R472). -/
def timPtpLat : Nat := 0x1800098
/-- TIM_PTP_RX (R472). -/
def timPtpRx (i : Nat) : Nat := 0x18000a0 + 0x8 * i
/-- TIM_PTP_TX (R472). -/
def timPtpTx (i : Nat) : Nat := 0x18000c0 + 0x8 * i
/-- TRC_TRACE_CTL (R473). -/
def trcTraceCtl : Nat := 0x1900000
/-- TRC_TRACE_JOBS (R473). -/
def trcTraceJobs : Nat := 0x1900008
/-- TRC_TRACE_RING (R473). -/
def trcTraceRing : Nat := 0x1900010
/-- TRC_TRACE_WIDX (R473). -/
def trcTraceWidx : Nat := 0x1900018
/-- TRC_TRACE_RIDX (R473). -/
def trcTraceRidx : Nat := 0x1900020
/-- TRC_TRACE_CNT (R473). -/
def trcTraceCnt : Nat := 0x1900028
/-- TRC_PROF (R473). -/
def trcProf : Nat := 0x1900040
/-- TRC_SNAP_CTL (R473). -/
def trcSnapCtl : Nat := 0x1900100
/-- TRC_SNAP_TICK (R473). -/
def trcSnapTick : Nat := 0x1900108
/-- TRC_SNAP_SEL (R473). -/
def trcSnapSel : Nat := 0x1900110
/-- TRC_SNAP_DATA (R473). -/
def trcSnapData : Nat := 0x1900118
/-- TRC_JOB_BUSY (R473). -/
def trcJobBusy (i : Nat) : Nat := 0x190a000 + 0x40 * i
/-- TRC_JOB_STALL (R473). -/
def trcJobStall (i j : Nat) : Nat := 0x190a008 + 0x40 * i + 0x8 * j
/-- TRC_JOB_ISSUE (R473). -/
def trcJobIssue (i : Nat) : Nat := 0x190a038 + 0x40 * i
/-- ENG_CNT_BUSY (R474). -/
def engCntBusy (blk n : Nat) : Nat := 0x100 + 0x100000 * blk + 0x10000 * n
/-- ENG_CNT_IDLE (R474). -/
def engCntIdle (blk n : Nat) : Nat := 0x108 + 0x100000 * blk + 0x10000 * n
/-- ENG_CNT_STALL (R474). -/
def engCntStall (blk n i : Nat) : Nat := 0x110 + 0x100000 * blk + 0x10000 * n + 0x8 * i
/-- ENG_BUSY_T (R474). -/
def engBusyT (blk n i : Nat) : Nat := 0x180 + 0x100000 * blk + 0x10000 * n + 0x8 * i
/-- ENG_OPS (R474). -/
def engOps (blk n i : Nat) : Nat := 0x200 + 0x100000 * blk + 0x10000 * n + 0x8 * i
/-- FLR_CNT_ISSUE (R474). -/
def flrCntIssue (i : Nat) : Nat := 0x800040 + 0x1000 * i
/-- FLR_CNT_STALL (R474). -/
def flrCntStall (i : Nat) : Nat := 0x800048 + 0x1000 * i
/-- FLR_CNT_WAIT (R474). -/
def flrCntWait (i : Nat) : Nat := 0x800050 + 0x1000 * i
/-- FLR_CNT_IDLE (R474). -/
def flrCntIdle (i : Nat) : Nat := 0x800058 + 0x1000 * i
/-- LOG_STAT (R475). -/
def logStat : Nat := 0x1a00000
/-- LOG_CNT (R475). -/
def logCnt : Nat := 0x1a00008
/-- LOG_RD_SEQ (R475). -/
def logRdSeq : Nat := 0x1a00010
/-- LOG_RD_W (R475). -/
def logRdW (i : Nat) : Nat := 0x1a00018 + 0x8 * i
/-- KILN_STAT (R505). -/
def kilnStat : Nat := 0x1b00000
/-- KILN_CFG (R505). -/
def kilnCfg : Nat := 0x1b00008
/-- KILN_CTL (R505). -/
def kilnCtl : Nat := 0x1b00010
/-- KILN_CNT (R505). -/
def kilnCnt : Nat := 0x1b00018
/-- KILN_SENS_FAIL (R505). -/
def kilnSensFail : Nat := 0x1b00020
/-- KILN_POWER (R505). -/
def kilnPower : Nat := 0x1b00028
/-- KILN_ISL (R505). -/
def kilnIsl (i : Nat) : Nat := 0x1b00100 + 0x8 * i

end R

namespace F

def idPart_VENDOR : Fld := ⟨R.idPart, 48, 16⟩
def idPart_PART : Fld := ⟨R.idPart, 32, 16⟩
def idPart_ARITH_REV : Fld := ⟨R.idPart, 24, 8⟩
def idPart_STEPPING : Fld := ⟨R.idPart, 16, 8⟩
def idPart_BOARD_REV : Fld := ⟨R.idPart, 8, 8⟩
def idSerial_SERIAL : Fld := ⟨R.idSerial, 0, 64⟩
def idHarvest_CLUSTERS : Fld := ⟨R.idHarvest, 40, 8⟩
def idHarvest_ENGINES : Fld := ⟨R.idHarvest, 32, 8⟩
def idHarvest_CORES : Fld := ⟨R.idHarvest, 0, 32⟩
def grsCtl_CONCEAL_MAX (i : Nat) : Fld := ⟨(R.grsCtl i), 4, 4⟩
def grsCtl_COMPAT (i : Nat) : Fld := ⟨(R.grsCtl i), 1, 1⟩
def grsCtl_RUN (i : Nat) : Fld := ⟨(R.grsCtl i), 0, 1⟩
def grsFmt_MAX_BLOCK_LINES (i : Nat) : Fld := ⟨(R.grsFmt i), 48, 16⟩
def grsFmt_CELL_LINES (i : Nat) : Fld := ⟨(R.grsFmt i), 32, 16⟩
def grsFmt_BVSRC (i : Nat) : Fld := ⟨(R.grsFmt i), 29, 1⟩
def grsFmt_NEXP (i : Nat) : Fld := ⟨(R.grsFmt i), 27, 2⟩
def grsFmt_DEPTH (i : Nat) : Fld := ⟨(R.grsFmt i), 25, 2⟩
def grsFmt_WIDTH (i : Nat) : Fld := ⟨(R.grsFmt i), 0, 15⟩
def grsTrg_WIDTH_NS (i : Nat) : Fld := ⟨(R.grsTrg i), 20, 12⟩
def grsTrg_DEPTH (i : Nat) : Fld := ⟨(R.grsTrg i), 18, 2⟩
def grsTrg_AXIS_VALID (i : Nat) : Fld := ⟨(R.grsTrg i), 17, 1⟩
def grsTrg_AXIS (i : Nat) : Fld := ⟨(R.grsTrg i), 14, 3⟩
def grsTrg_SRC (i : Nat) : Fld := ⟨(R.grsTrg i), 0, 2⟩
def grsTrgPeriod_TIMER_NS (i : Nat) : Fld := ⟨(R.grsTrgPeriod i), 32, 32⟩
def grsTrgPeriod_PERIOD (i : Nat) : Fld := ⟨(R.grsTrgPeriod i), 0, 32⟩
def grsTrgPhase_PHASE (i : Nat) : Fld := ⟨(R.grsTrgPhase i), 0, 64⟩
def grsTrgMin_MIN_NS (i : Nat) : Fld := ⟨(R.grsTrgMin i), 0, 20⟩
def grsStatus_BLOCK (i : Nat) : Fld := ⟨(R.grsStatus i), 32, 32⟩
def grsStatus_LINE (i : Nat) : Fld := ⟨(R.grsStatus i), 16, 16⟩
def grsStatus_INBLOCK (i : Nat) : Fld := ⟨(R.grsStatus i), 3, 1⟩
def grsStatus_STATE (i : Nat) : Fld := ⟨(R.grsStatus i), 0, 2⟩
def grsConceal_BLOCK (i : Nat) : Fld := ⟨(R.grsConceal i), 32, 32⟩
def grsConceal_LINE (i : Nat) : Fld := ⟨(R.grsConceal i), 16, 16⟩
def grsConceal_EXP (i : Nat) : Fld := ⟨(R.grsConceal i), 14, 2⟩
def grsConceal_KIND (i : Nat) : Fld := ⟨(R.grsConceal i), 11, 3⟩
def grsConcealPos_SEGMASK (i : Nat) : Fld := ⟨(R.grsConcealPos i), 16, 16⟩
def grsConcealPos_PIXEL (i : Nat) : Fld := ⟨(R.grsConcealPos i), 0, 15⟩
def grsCntLines_LINES (i : Nat) : Fld := ⟨(R.grsCntLines i), 0, 64⟩
def grsCntErr_LINES_UNLOCKED (i : Nat) : Fld := ⟨(R.grsCntErr i), 48, 16⟩
def grsCntErr_CONCEALED (i : Nat) : Fld := ⟨(R.grsCntErr i), 32, 16⟩
def grsCntErr_WINDOWS_DROPPED (i : Nat) : Fld := ⟨(R.grsCntErr i), 16, 16⟩
def grsCntErr_TRUNCATED (i : Nat) : Fld := ⟨(R.grsCntErr i), 0, 16⟩
def grsCntTrg_TRG_OVERRUN (i : Nat) : Fld := ⟨(R.grsCntTrg i), 48, 16⟩
def grsCntTrg_LINE_MISSING (i : Nat) : Fld := ⟨(R.grsCntTrg i), 32, 16⟩
def grsCntTrg_UNTRIGGERED (i : Nat) : Fld := ⟨(R.grsCntTrg i), 16, 16⟩
def grsCntTrg_BV_LATE (i : Nat) : Fld := ⟨(R.grsCntTrg i), 0, 16⟩
def grsUartCfg_DIV (i : Nat) : Fld := ⟨(R.grsUartCfg i), 0, 11⟩
def grsUartTx_DATA (i : Nat) : Fld := ⟨(R.grsUartTx i), 0, 8⟩
def grsUartRx_FERR (i : Nat) : Fld := ⟨(R.grsUartRx i), 9, 1⟩
def grsUartRx_VALID (i : Nat) : Fld := ⟨(R.grsUartRx i), 8, 1⟩
def grsUartRx_DATA (i : Nat) : Fld := ⟨(R.grsUartRx i), 0, 8⟩
def grsUartStat_TX_OVF (i : Nat) : Fld := ⟨(R.grsUartStat i), 48, 16⟩
def grsUartStat_RX_OVF (i : Nat) : Fld := ⟨(R.grsUartStat i), 32, 16⟩
def grsUartStat_TX_LEVEL (i : Nat) : Fld := ⟨(R.grsUartStat i), 16, 9⟩
def grsUartStat_RX_LEVEL (i : Nat) : Fld := ⟨(R.grsUartStat i), 0, 9⟩
def grsCorCtl_HDR_CLIP (i : Nat) : Fld := ⟨(R.grsCorCtl i), 48, 16⟩
def grsCorCtl_MERGE (i : Nat) : Fld := ⟨(R.grsCorCtl i), 2, 2⟩
def grsCorCtl_FF_EN (i : Nat) : Fld := ⟨(R.grsCorCtl i), 0, 1⟩
def grsHdrK_K3 (i : Nat) : Fld := ⟨(R.grsHdrK i), 48, 16⟩
def grsHdrK_K2 (i : Nat) : Fld := ⟨(R.grsHdrK i), 32, 16⟩
def grsHdrK_K1 (i : Nat) : Fld := ⟨(R.grsHdrK i), 16, 16⟩
def grsHdrK_K0 (i : Nat) : Fld := ⟨(R.grsHdrK i), 0, 16⟩
def grsLinAcc_WR (i : Nat) : Fld := ⟨(R.grsLinAcc i), 63, 1⟩
def grsLinAcc_EXP (i : Nat) : Fld := ⟨(R.grsLinAcc i), 48, 2⟩
def grsLinAcc_INDEX (i : Nat) : Fld := ⟨(R.grsLinAcc i), 32, 12⟩
def grsLinAcc_DATA (i : Nat) : Fld := ⟨(R.grsLinAcc i), 0, 16⟩
def grsFfAcc_WR (i : Nat) : Fld := ⟨(R.grsFfAcc i), 63, 1⟩
def grsFfAcc_INDEX (i : Nat) : Fld := ⟨(R.grsFfAcc i), 32, 15⟩
def grsFfAcc_GAIN (i : Nat) : Fld := ⟨(R.grsFfAcc i), 16, 16⟩
def grsFfAcc_OFFSET (i : Nat) : Fld := ⟨(R.grsFfAcc i), 0, 16⟩
def mshCtl_IN_LEVEL (i : Nat) : Fld := ⟨(R.mshCtl i), 16, 3⟩
def mshCtl_STATE (i : Nat) : Fld := ⟨(R.mshCtl i), 8, 2⟩
def mshCtl_RUN (i : Nat) : Fld := ⟨(R.mshCtl i), 0, 1⟩
def mshSrc_SLOT3 (i : Nat) : Fld := ⟨(R.mshSrc i), 48, 16⟩
def mshSrc_SLOT2 (i : Nat) : Fld := ⟨(R.mshSrc i), 32, 16⟩
def mshSrc_SLOT1 (i : Nat) : Fld := ⟨(R.mshSrc i), 16, 16⟩
def mshSrc_SLOT0 (i : Nat) : Fld := ⟨(R.mshSrc i), 0, 16⟩
def mshCnt_IN_OVERFLOW (i : Nat) : Fld := ⟨(R.mshCnt i), 48, 16⟩
def mshCnt_DISCARDED (i : Nat) : Fld := ⟨(R.mshCnt i), 32, 16⟩
def mshCnt_LINES (i : Nat) : Fld := ⟨(R.mshCnt i), 0, 32⟩
def mshCxCfg_OWNER (i j : Nat) : Fld := ⟨(R.mshCxCfg i j), 48, 6⟩
def mshCxCfg_CFA_PHASE (i j : Nat) : Fld := ⟨(R.mshCxCfg i j), 4, 2⟩
def mshCxCfg_PATTERN (i j : Nat) : Fld := ⟨(R.mshCxCfg i j), 0, 2⟩
def mshCxCommit_COMMIT (i j : Nat) : Fld := ⟨(R.mshCxCommit i j), 0, 1⟩
def mshCxTook_SEQ (i j : Nat) : Fld := ⟨(R.mshCxTook i j), 48, 16⟩
def mshCxTook_ERR (i j : Nat) : Fld := ⟨(R.mshCxTook i j), 35, 1⟩
def mshCxTook_PENDING (i j : Nat) : Fld := ⟨(R.mshCxTook i j), 34, 1⟩
def mshCxTook_BLOCK (i j : Nat) : Fld := ⟨(R.mshCxTook i j), 0, 32⟩
def mshCxDoneReel_REEL (i j : Nat) : Fld := ⟨(R.mshCxDoneReel i j), 0, 64⟩
def mshCxWb_G3 (i j : Nat) : Fld := ⟨(R.mshCxWb i j), 48, 16⟩
def mshCxWb_G2 (i j : Nat) : Fld := ⟨(R.mshCxWb i j), 32, 16⟩
def mshCxWb_G1 (i j : Nat) : Fld := ⟨(R.mshCxWb i j), 16, 16⟩
def mshCxWb_G0 (i j : Nat) : Fld := ⟨(R.mshCxWb i j), 0, 16⟩
def mshCxCcm0_M10 (i j : Nat) : Fld := ⟨(R.mshCxCcm0 i j), 48, 16⟩
def mshCxCcm0_M02 (i j : Nat) : Fld := ⟨(R.mshCxCcm0 i j), 32, 16⟩
def mshCxCcm0_M01 (i j : Nat) : Fld := ⟨(R.mshCxCcm0 i j), 16, 16⟩
def mshCxCcm0_M00 (i j : Nat) : Fld := ⟨(R.mshCxCcm0 i j), 0, 16⟩
def mshCxCcm1_M21 (i j : Nat) : Fld := ⟨(R.mshCxCcm1 i j), 48, 16⟩
def mshCxCcm1_M20 (i j : Nat) : Fld := ⟨(R.mshCxCcm1 i j), 32, 16⟩
def mshCxCcm1_M12 (i j : Nat) : Fld := ⟨(R.mshCxCcm1 i j), 16, 16⟩
def mshCxCcm1_M11 (i j : Nat) : Fld := ⟨(R.mshCxCcm1 i j), 0, 16⟩
def mshCxCcm2_CCM_EN (i j : Nat) : Fld := ⟨(R.mshCxCcm2 i j), 16, 1⟩
def mshCxCcm2_M22 (i j : Nat) : Fld := ⟨(R.mshCxCcm2 i j), 0, 16⟩
def mshCxToneAcc_WR (i j : Nat) : Fld := ⟨(R.mshCxToneAcc i j), 63, 1⟩
def mshCxToneAcc_CH (i j : Nat) : Fld := ⟨(R.mshCxToneAcc i j), 48, 2⟩
def mshCxToneAcc_INDEX (i j : Nat) : Fld := ⟨(R.mshCxToneAcc i j), 32, 9⟩
def mshCxToneAcc_KNOT (i j : Nat) : Fld := ⟨(R.mshCxToneAcc i j), 0, 16⟩
def mshCxStatsCfg_NREC (i j : Nat) : Fld := ⟨(R.mshCxStatsCfg i j), 16, 16⟩
def mshCxStatsCfg_COLDEC (i j : Nat) : Fld := ⟨(R.mshCxStatsCfg i j), 8, 3⟩
def mshCxStatsCfg_CHSEL (i j : Nat) : Fld := ⟨(R.mshCxStatsCfg i j), 4, 3⟩
def mshCxStatsCfg_EN (i j : Nat) : Fld := ⟨(R.mshCxStatsCfg i j), 0, 1⟩
def mshCxStatsBase_BASE (i j : Nat) : Fld := ⟨(R.mshCxStatsBase i j), 0, 40⟩
def mshCxCnt_STATS_WIDX (i j : Nat) : Fld := ⟨(R.mshCxCnt i j), 32, 32⟩
def mshCxCnt_ASSIST_DROPPED (i j : Nat) : Fld := ⟨(R.mshCxCnt i j), 16, 16⟩
def mshCxCnt_BUSY_WRITES (i j : Nat) : Fld := ⟨(R.mshCxCnt i j), 0, 16⟩
def strmCfg_SYNC_OBJ (i j k : Nat) : Fld := ⟨(R.strmCfg i j k), 48, 14⟩
def strmCfg_SYNC_LINES (i j k : Nat) : Fld := ⟨(R.strmCfg i j k), 32, 16⟩
def strmCfg_FY (i j k : Nat) : Fld := ⟨(R.strmCfg i j k), 20, 3⟩
def strmCfg_FX (i j k : Nat) : Fld := ⟨(R.strmCfg i j k), 16, 3⟩
def strmCfg_FMT (i j k : Nat) : Fld := ⟨(R.strmCfg i j k), 12, 4⟩
def strmCfg_CHSEL (i j k : Nat) : Fld := ⟨(R.strmCfg i j k), 8, 2⟩
def strmCfg_LINESEL (i j k : Nat) : Fld := ⟨(R.strmCfg i j k), 4, 2⟩
def strmCfg_ASSIST (i j k : Nat) : Fld := ⟨(R.strmCfg i j k), 2, 1⟩
def strmCfg_SIGNED (i j k : Nat) : Fld := ⟨(R.strmCfg i j k), 1, 1⟩
def strmCfg_EN (i j k : Nat) : Fld := ⟨(R.strmCfg i j k), 0, 1⟩
def strmCrop_Y0 (i j k : Nat) : Fld := ⟨(R.strmCrop i j k), 48, 16⟩
def strmCrop_YH (i j k : Nat) : Fld := ⟨(R.strmCrop i j k), 32, 16⟩
def strmCrop_X0 (i j k : Nat) : Fld := ⟨(R.strmCrop i j k), 16, 14⟩
def strmCrop_XW (i j k : Nat) : Fld := ⟨(R.strmCrop i j k), 0, 15⟩
def strmBase_BASE (i j k : Nat) : Fld := ⟨(R.strmBase i j k), 0, 40⟩
def strmRing_PITCH (i j k : Nat) : Fld := ⟨(R.strmRing i j k), 32, 20⟩
def strmRing_NLINES (i j k : Nat) : Fld := ⟨(R.strmRing i j k), 0, 16⟩
def strmTagbase_TAGBASE (i j k : Nat) : Fld := ⟨(R.strmTagbase i j k), 0, 40⟩
def strmStat_K (i j k : Nat) : Fld := ⟨(R.strmStat i j k), 32, 32⟩
def strmStat_SLOT (i j k : Nat) : Fld := ⟨(R.strmStat i j k), 16, 16⟩
def strmStat_FAULT (i j k : Nat) : Fld := ⟨(R.strmStat i j k), 0, 1⟩
def mshCxAssist_HI (i j : Nat) : Fld := ⟨(R.mshCxAssist i j), 48, 16⟩
def mshCxAssist_LO (i j : Nat) : Fld := ⟨(R.mshCxAssist i j), 32, 16⟩
def mshCxAssist_QLINES (i j : Nat) : Fld := ⟨(R.mshCxAssist i j), 16, 16⟩
def mshCxAssist_VEC (i j : Nat) : Fld := ⟨(R.mshCxAssist i j), 0, 6⟩
def mshCxAssistQ_QBASE (i j : Nat) : Fld := ⟨(R.mshCxAssistQ i j), 0, 36⟩
def mshCxHostBase_HOST_BASE (i j : Nat) : Fld := ⟨(R.mshCxHostBase i j), 0, 64⟩
def mshCxAssistStat_HI_NOTICE (i j : Nat) : Fld := ⟨(R.mshCxAssistStat i j), 63, 1⟩
def mshCxAssistStat_ABOVE (i j : Nat) : Fld := ⟨(R.mshCxAssistStat i j), 62, 1⟩
def mshCxAssistStat_PATH (i j : Nat) : Fld := ⟨(R.mshCxAssistStat i j), 61, 1⟩
def mshCxAssistStat_LEVEL (i j : Nat) : Fld := ⟨(R.mshCxAssistStat i j), 32, 16⟩
def mshCxAssistStat_HOST_WIDX (i j : Nat) : Fld := ⟨(R.mshCxAssistStat i j), 0, 32⟩
def mshCxAssistDone_LINES (i j : Nat) : Fld := ⟨(R.mshCxAssistDone i j), 0, 16⟩
def engStat_LAYER (blk n : Nat) : Fld := ⟨(R.engStat blk n), 52, 12⟩
def engStat_OPERATOR (blk n : Nat) : Fld := ⟨(R.engStat blk n), 36, 16⟩
def engStat_JOB (blk n : Nat) : Fld := ⟨(R.engStat blk n), 30, 6⟩
def engStat_STATE (blk n : Nat) : Fld := ⟨(R.engStat blk n), 24, 2⟩
def engStat_Q2 (blk n : Nat) : Fld := ⟨(R.engStat blk n), 16, 7⟩
def engStat_Q1 (blk n : Nat) : Fld := ⟨(R.engStat blk n), 8, 7⟩
def engStat_Q0 (blk n : Nat) : Fld := ⟨(R.engStat blk n), 0, 7⟩
def engFault_VALID (blk n : Nat) : Fld := ⟨(R.engFault blk n), 63, 1⟩
def engFault_CAUSE (blk n : Nat) : Fld := ⟨(R.engFault blk n), 56, 4⟩
def engFault_JOB (blk n : Nat) : Fld := ⟨(R.engFault blk n), 50, 6⟩
def engFault_LAYER (blk n : Nat) : Fld := ⟨(R.engFault blk n), 36, 12⟩
def engFault_OPERATOR (blk n : Nat) : Fld := ⟨(R.engFault blk n), 20, 16⟩
def engFault_AGENT (blk n : Nat) : Fld := ⟨(R.engFault blk n), 8, 12⟩
def engFaultAddr_ADDR (blk n : Nat) : Fld := ⟨(R.engFaultAddr blk n), 0, 40⟩
def engInfo_PHYS (blk n : Nat) : Fld := ⟨(R.engInfo blk n), 0, 4⟩
def flrStat_JOB (i : Nat) : Fld := ⟨(R.flrStat i), 58, 6⟩
def flrStat_BUSY (i : Nat) : Fld := ⟨(R.flrStat i), 48, 8⟩
def flrStat_STATE (i : Nat) : Fld := ⟨(R.flrStat i), 0, 2⟩
def flrTrap_VALID (i : Nat) : Fld := ⟨(R.flrTrap i), 63, 1⟩
def flrTrap_CAUSE (i : Nat) : Fld := ⟨(R.flrTrap i), 56, 4⟩
def flrTrap_JOB (i : Nat) : Fld := ⟨(R.flrTrap i), 50, 6⟩
def flrTrap_CORE (i : Nat) : Fld := ⟨(R.flrTrap i), 44, 6⟩
def flrTrap_AGENT (i : Nat) : Fld := ⟨(R.flrTrap i), 32, 12⟩
def flrTrap_PC (i : Nat) : Fld := ⟨(R.flrTrap i), 0, 15⟩
def flrTrapAddr_ADDR (i : Nat) : Fld := ⟨(R.flrTrapAddr i), 0, 40⟩
def hopStat_ENDED : Fld := ⟨R.hopStat, 32, 16⟩
def hopStat_RUNNING : Fld := ⟨R.hopStat, 16, 16⟩
def hopStat_LOADED : Fld := ⟨R.hopStat, 0, 16⟩
def hopPool_BASE : Fld := ⟨R.hopPool, 14, 26⟩
def hopPool_NPAGES : Fld := ⟨R.hopPool, 0, 14⟩
def hopPoolCfg_LEAD_US : Fld := ⟨R.hopPoolCfg, 48, 8⟩
def hopPoolCfg_FREE_HI : Fld := ⟨R.hopPoolCfg, 32, 14⟩
def hopPoolCfg_FREE_LO : Fld := ⟨R.hopPoolCfg, 0, 14⟩
def hopPoolStat_LOW_NOTICE : Fld := ⟨R.hopPoolStat, 63, 1⟩
def hopPoolStat_BELOW : Fld := ⟨R.hopPoolStat, 62, 1⟩
def hopPoolStat_SPILLING : Fld := ⟨R.hopPoolStat, 61, 1⟩
def hopPoolStat_SPILL_FULL : Fld := ⟨R.hopPoolStat, 60, 1⟩
def hopPoolStat_SPILLED : Fld := ⟨R.hopPoolStat, 32, 14⟩
def hopPoolStat_FREE : Fld := ⟨R.hopPoolStat, 0, 14⟩
def hopSpill_SLOTS : Fld := ⟨R.hopSpill, 48, 16⟩
def hopSpill_BASE : Fld := ⟨R.hopSpill, 14, 22⟩
def hopHaloCfg_TMO_US : Fld := ⟨R.hopHaloCfg, 32, 16⟩
def hopHaloCfg_LATE_NS : Fld := ⟨R.hopHaloCfg, 0, 20⟩
def hopCnt_SPILLS : Fld := ⟨R.hopCnt, 48, 16⟩
def hopCnt_FETCHES : Fld := ⟨R.hopCnt, 32, 16⟩
def hopCnt_DEMAND : Fld := ⟨R.hopCnt, 16, 16⟩
def hopCnt_ISSUE_STALL : Fld := ⟨R.hopCnt, 0, 16⟩
def hopCntHalo_LATE : Fld := ⟨R.hopCntHalo, 48, 16⟩
def hopCntHalo_DETACHED : Fld := ⟨R.hopCntHalo, 32, 16⟩
def hopCntHalo_DISCARDED : Fld := ⟨R.hopCntHalo, 16, 16⟩
def hopCntHalo_ENDS : Fld := ⟨R.hopCntHalo, 0, 16⟩
def hopJobList_SLOTS (i : Nat) : Fld := ⟨(R.hopJobList i), 48, 16⟩
def hopJobList_BASE (i : Nat) : Fld := ⟨(R.hopJobList i), 0, 40⟩
def hopJobSync_LIST_OBJ (i : Nat) : Fld := ⟨(R.hopJobSync i), 48, 14⟩
def hopJobSync_WIDX2 (i : Nat) : Fld := ⟨(R.hopJobSync i), 32, 16⟩
def hopJobSync_WIDX1 (i : Nat) : Fld := ⟨(R.hopJobSync i), 16, 16⟩
def hopJobSync_WIDX0 (i : Nat) : Fld := ⟨(R.hopJobSync i), 0, 16⟩
def hopEntCfg_JOB (i : Nat) : Fld := ⟨(R.hopEntCfg i), 58, 6⟩
def hopEntCfg_PORT (i : Nat) : Fld := ⟨(R.hopEntCfg i), 52, 4⟩
def hopEntCfg_ACROSS (i : Nat) : Fld := ⟨(R.hopEntCfg i), 40, 8⟩
def hopEntCfg_WIN_ROWS (i : Nat) : Fld := ⟨(R.hopEntCfg i), 32, 6⟩
def hopEntCfg_LAYERS (i : Nat) : Fld := ⟨(R.hopEntCfg i), 16, 4⟩
def hopEntCfg_VALID (i : Nat) : Fld := ⟨(R.hopEntCfg i), 0, 1⟩
def hopEntPt_ROOT (i : Nat) : Fld := ⟨(R.hopEntPt i), 9, 31⟩
def hopEntNbr_R_TYPE (i : Nat) : Fld := ⟨(R.hopEntNbr i), 62, 2⟩
def hopEntNbr_R_POS (i : Nat) : Fld := ⟨(R.hopEntNbr i), 52, 5⟩
def hopEntNbr_R_ENTRY (i : Nat) : Fld := ⟨(R.hopEntNbr i), 32, 10⟩
def hopEntNbr_L_TYPE (i : Nat) : Fld := ⟨(R.hopEntNbr i), 30, 2⟩
def hopEntNbr_L_POS (i : Nat) : Fld := ⟨(R.hopEntNbr i), 20, 5⟩
def hopEntNbr_L_ENTRY (i : Nat) : Fld := ⟨(R.hopEntNbr i), 0, 10⟩
def hopEntSync_HALO_L_OBJ (i : Nat) : Fld := ⟨(R.hopEntSync i), 48, 14⟩
def hopEntSync_EDGE_OBJ (i : Nat) : Fld := ⟨(R.hopEntSync i), 32, 14⟩
def hopEntSync_STEP_OBJ (i : Nat) : Fld := ⟨(R.hopEntSync i), 16, 14⟩
def hopEntSync_FEED_OBJ (i : Nat) : Fld := ⟨(R.hopEntSync i), 0, 14⟩
def hopEntSync2_HALO_R_OBJ (i : Nat) : Fld := ⟨(R.hopEntSync2 i), 48, 14⟩
def hopEntSync2_MASK (i : Nat) : Fld := ⟨(R.hopEntSync2 i), 0, 40⟩
def hopEntStat_END_ROW (i : Nat) : Fld := ⟨(R.hopEntStat i), 32, 32⟩
def hopEntStat_R_DETACHED (i : Nat) : Fld := ⟨(R.hopEntStat i), 19, 1⟩
def hopEntStat_L_DETACHED (i : Nat) : Fld := ⟨(R.hopEntStat i), 18, 1⟩
def hopEntStat_R_LATE (i : Nat) : Fld := ⟨(R.hopEntStat i), 17, 1⟩
def hopEntStat_L_LATE (i : Nat) : Fld := ⟨(R.hopEntStat i), 16, 1⟩
def hopEntStat_STATE (i : Nat) : Fld := ⟨(R.hopEntStat i), 8, 3⟩
def hopEntStat_BACKLOG (i : Nat) : Fld := ⟨(R.hopEntStat i), 0, 8⟩
def hopEntStep_STEP (i : Nat) : Fld := ⟨(R.hopEntStep i), 0, 64⟩
def hopEntDetach_R_STEP (i : Nat) : Fld := ⟨(R.hopEntDetach i), 36, 28⟩
def hopEntDetach_R_LAYER (i : Nat) : Fld := ⟨(R.hopEntDetach i), 32, 4⟩
def hopEntDetach_L_STEP (i : Nat) : Fld := ⟨(R.hopEntDetach i), 4, 28⟩
def hopEntDetach_L_LAYER (i : Nat) : Fld := ⟨(R.hopEntDetach i), 0, 4⟩
def schStat_FAULTED : Fld := ⟨R.schStat, 16, 8⟩
def schStat_RUNNING : Fld := ⟨R.schStat, 8, 8⟩
def schStat_MODE : Fld := ⟨R.schStat, 0, 2⟩
def schGuar_NOTICE : Fld := ⟨R.schGuar, 63, 1⟩
def schGuar_BUCKET : Fld := ⟨R.schGuar, 16, 8⟩
def schGuar_HELD : Fld := ⟨R.schGuar, 4, 1⟩
def schGuar_TRACE : Fld := ⟨R.schGuar, 3, 1⟩
def schGuar_SUPPLY : Fld := ⟨R.schGuar, 2, 1⟩
def schGuar_CLOCK : Fld := ⟨R.schGuar, 1, 1⟩
def schGuar_LOAD : Fld := ⟨R.schGuar, 0, 1⟩
def schCfg_STOP_MS : Fld := ⟨R.schCfg, 48, 16⟩
def schCfg_QUANTUM_MS : Fld := ⟨R.schCfg, 32, 16⟩
def schCfg_PREEMPT_WAIT_US : Fld := ⟨R.schCfg, 16, 16⟩
def schCfg_PARK_US : Fld := ⟨R.schCfg, 0, 16⟩
def schShare_C1_DRAM : Fld := ⟨R.schShare, 8, 6⟩
def schShare_C0_DRAM : Fld := ⟨R.schShare, 0, 6⟩
def schC0Pool_PAGES : Fld := ⟨R.schC0Pool, 48, 16⟩
def schC0Pool_OFF : Fld := ⟨R.schC0Pool, 14, 14⟩
def schRestartAt_TICK : Fld := ⟨R.schRestartAt, 0, 64⟩
def schRestartScope_JOBS : Fld := ⟨R.schRestartScope, 0, 64⟩
def schRestartCtl_ID : Fld := ⟨R.schRestartCtl, 48, 16⟩
def schRestartCtl_OVF : Fld := ⟨R.schRestartCtl, 12, 1⟩
def schRestartCtl_LAGS : Fld := ⟨R.schRestartCtl, 7, 5⟩
def schRestartCtl_STATUS : Fld := ⟨R.schRestartCtl, 4, 3⟩
def schRestartCtl_ORIGIN : Fld := ⟨R.schRestartCtl, 3, 1⟩
def schRestartCtl_MODE : Fld := ⟨R.schRestartCtl, 1, 2⟩
def schRestartCtl_ARM : Fld := ⟨R.schRestartCtl, 0, 1⟩
def schSlot_C2_MIN (i : Nat) : Fld := ⟨(R.schSlot i), 8, 6⟩
def schSlot_C0 (i : Nat) : Fld := ⟨(R.schSlot i), 0, 6⟩
def schLag_POS (i : Nat) : Fld := ⟨(R.schLag i), 59, 5⟩
def schLag_FOLLOWER (i : Nat) : Fld := ⟨(R.schLag i), 58, 1⟩
def schLag_BLOCK (i : Nat) : Fld := ⟨(R.schLag i), 50, 8⟩
def schLag_INSTANCE (i : Nat) : Fld := ⟨(R.schLag i), 40, 10⟩
def schLag_REASON (i : Nat) : Fld := ⟨(R.schLag i), 36, 4⟩
def schLag_OFFSET (i : Nat) : Fld := ⟨(R.schLag i), 16, 20⟩
def schLag_VALID (i : Nat) : Fld := ⟨(R.schLag i), 0, 1⟩
def schJobCtl_RECIPE (i : Nat) : Fld := ⟨(R.schJobCtl i), 48, 8⟩
def schJobCtl_CLEAR (i : Nat) : Fld := ⟨(R.schJobCtl i), 1, 1⟩
def schJobCtl_STOP (i : Nat) : Fld := ⟨(R.schJobCtl i), 0, 1⟩
def schJobStat_FAULT_SRC (i : Nat) : Fld := ⟨(R.schJobStat i), 48, 16⟩
def schJobStat_CLUSTERS (i : Nat) : Fld := ⟨(R.schJobStat i), 32, 7⟩
def schJobStat_CLASS (i : Nat) : Fld := ⟨(R.schJobStat i), 24, 2⟩
def schJobStat_PAUSED (i : Nat) : Fld := ⟨(R.schJobStat i), 5, 1⟩
def schJobStat_PREEMPTED (i : Nat) : Fld := ⟨(R.schJobStat i), 4, 1⟩
def schJobStat_STATE (i : Nat) : Fld := ⟨(R.schJobStat i), 0, 3⟩
def schJobRsv_CL_MAX (i : Nat) : Fld := ⟨(R.schJobRsv i), 49, 7⟩
def schJobRsv_CL_MIN (i : Nat) : Fld := ⟨(R.schJobRsv i), 42, 7⟩
def schJobRsv_C0_FIRST (i : Nat) : Fld := ⟨(R.schJobRsv i), 16, 7⟩
def schJobRsv_C0_CLUSTERS (i : Nat) : Fld := ⟨(R.schJobRsv i), 0, 7⟩
def schJobDl_RATE (i : Nat) : Fld := ⟨(R.schJobDl i), 48, 16⟩
def schJobDl_RSV_US (i : Nat) : Fld := ⟨(R.schJobDl i), 32, 7⟩
def schJobDl_MAIN_US (i : Nat) : Fld := ⟨(R.schJobDl i), 16, 7⟩
def schJobDl_SWITCH_US (i : Nat) : Fld := ⟨(R.schJobDl i), 0, 7⟩
def schJobSave_LS_SAVE (i : Nat) : Fld := ⟨(R.schJobSave i), 49, 15⟩
def schJobSave_BASE (i : Nat) : Fld := ⟨(R.schJobSave i), 14, 22⟩
def schJobTun_TUN_PAGES (i : Nat) : Fld := ⟨(R.schJobTun i), 48, 16⟩
def schJobTun_TUN_OFF (i : Nat) : Fld := ⟨(R.schJobTun i), 14, 14⟩
def schJobWm_NOTICE (i : Nat) : Fld := ⟨(R.schJobWm i), 63, 1⟩
def schJobWm_ABOVE (i : Nat) : Fld := ⟨(R.schJobWm i), 62, 1⟩
def schJobWm_MARK (i : Nat) : Fld := ⟨(R.schJobWm i), 32, 16⟩
def schJobWm_LEVEL (i : Nat) : Fld := ⟨(R.schJobWm i), 0, 16⟩
def schAccWait_TOTAL (i : Nat) : Fld := ⟨(R.schAccWait i), 0, 64⟩
def schAccWmax_MAX (i : Nat) : Fld := ⟨(R.schAccWmax i), 0, 32⟩
def schAccCnt_PREEMPTS (i : Nat) : Fld := ⟨(R.schAccCnt i), 32, 32⟩
def schAccCnt_STEALS (i : Nat) : Fld := ⟨(R.schAccCnt i), 0, 32⟩
def schAccVerd_RESERVE_USED (i : Nat) : Fld := ⟨(R.schAccVerd i), 32, 32⟩
def schAccVerd_LATE (i : Nat) : Fld := ⟨(R.schAccVerd i), 0, 32⟩
def schAccVerd2_MAIN_AFTER (i : Nat) : Fld := ⟨(R.schAccVerd2 i), 32, 32⟩
def schAccVerd2_NO_VERDICT (i : Nat) : Fld := ⟨(R.schAccVerd2 i), 0, 32⟩
def schAccHist_ODD (i j : Nat) : Fld := ⟨(R.schAccHist i j), 32, 32⟩
def schAccHist_EVEN (i j : Nat) : Fld := ⟨(R.schAccHist i j), 0, 32⟩
def synStat_REFUSED : Fld := ⟨R.synStat, 32, 32⟩
def synStat_WAITING : Fld := ⟨R.synStat, 0, 32⟩
def synAdd_OBJ : Fld := ⟨R.synAdd, 50, 14⟩
def synAdd_INC : Fld := ⟨R.synAdd, 0, 8⟩
def synObj_OWNER (i : Nat) : Fld := ⟨(R.synObj i), 58, 6⟩
def synObj_SHARED (i : Nat) : Fld := ⟨(R.synObj i), 57, 1⟩
def synObj_VALUE (i : Nat) : Fld := ⟨(R.synObj i), 0, 32⟩
def mbxStat_REFUSED : Fld := ⟨R.mbxStat, 32, 32⟩
def mbxStat_FULL : Fld := ⟨R.mbxStat, 0, 10⟩
def mbxCfg_OWNER (i : Nat) : Fld := ⟨(R.mbxCfg i), 58, 6⟩
def mbxCfg_SHARED (i : Nat) : Fld := ⟨(R.mbxCfg i), 57, 1⟩
def mbxCfg_CTL_RECV (i : Nat) : Fld := ⟨(R.mbxCfg i), 47, 1⟩
def mbxCfg_WAKE (i : Nat) : Fld := ⟨(R.mbxCfg i), 46, 1⟩
def mbxCfg_CLUSTER (i : Nat) : Fld := ⟨(R.mbxCfg i), 32, 7⟩
def mbxSide_FULL (i : Nat) : Fld := ⟨(R.mbxSide i), 63, 1⟩
def mbxSide_SENDER (i : Nat) : Fld := ⟨(R.mbxSide i), 0, 12⟩
def mbxSend_DATA (i : Nat) : Fld := ⟨(R.mbxSend i), 0, 64⟩
def mbxTake_DATA (i : Nat) : Fld := ⟨(R.mbxTake i), 0, 64⟩
def posCfg_FILT_N (i : Nat) : Fld := ⟨(R.posCfg i), 32, 10⟩
def posCfg_STILL_US (i : Nat) : Fld := ⟨(R.posCfg i), 16, 16⟩
def posCfg_SPEED_W (i : Nat) : Fld := ⟨(R.posCfg i), 10, 3⟩
def posCfg_Z_MODE (i : Nat) : Fld := ⟨(R.posCfg i), 8, 2⟩
def posCfg_RESYNC (i : Nat) : Fld := ⟨(R.posCfg i), 7, 1⟩
def posCfg_DIR_INV (i : Nat) : Fld := ⟨(R.posCfg i), 6, 1⟩
def posCfg_DIR_SRC (i : Nat) : Fld := ⟨(R.posCfg i), 5, 1⟩
def posCfg_IN (i : Nat) : Fld := ⟨(R.posCfg i), 4, 1⟩
def posCfg_MODE (i : Nat) : Fld := ⟨(R.posCfg i), 0, 2⟩
def posTooth_REF_KIND (i : Nat) : Fld := ⟨(R.posTooth i), 16, 1⟩
def posTooth_MISSING (i : Nat) : Fld := ⟨(R.posTooth i), 14, 2⟩
def posTooth_TEETH (i : Nat) : Fld := ⟨(R.posTooth i), 0, 12⟩
def posRef_REF_POS (i : Nat) : Fld := ⟨(R.posRef i), 0, 48⟩
def posRev_COUNTS_PER_REV (i : Nat) : Fld := ⟨(R.posRev i), 0, 32⟩
def posCtl_RUN (i : Nat) : Fld := ⟨(R.posCtl i), 0, 1⟩
def posPos_COUNT (i : Nat) : Fld := ⟨(R.posPos i), 0, 48⟩
def posEdgeReel_REEL (i : Nat) : Fld := ⟨(R.posEdgeReel i), 0, 64⟩
def posSpeed_STILL (i : Nat) : Fld := ⟨(R.posSpeed i), 63, 1⟩
def posSpeed_DIR (i : Nat) : Fld := ⟨(R.posSpeed i), 62, 1⟩
def posSpeed_PERIOD (i : Nat) : Fld := ⟨(R.posSpeed i), 0, 48⟩
def posStat_ERR (i : Nat) : Fld := ⟨(R.posStat i), 63, 1⟩
def posStat_LFAULT (i : Nat) : Fld := ⟨(R.posStat i), 62, 1⟩
def posStat_REVOK (i : Nat) : Fld := ⟨(R.posStat i), 61, 1⟩
def posStat_LINES (i : Nat) : Fld := ⟨(R.posStat i), 56, 3⟩
def posStat_INDEX (i : Nat) : Fld := ⟨(R.posStat i), 16, 12⟩
def posStat_STATE (i : Nat) : Fld := ⟨(R.posStat i), 0, 2⟩
def posCnt_QERR (i : Nat) : Fld := ⟨(R.posCnt i), 48, 16⟩
def posCnt_RESYNCS (i : Nat) : Fld := ⟨(R.posCnt i), 32, 16⟩
def posCnt_MISPLACED (i : Nat) : Fld := ⟨(R.posCnt i), 16, 16⟩
def posCnt_LFAULTS (i : Nat) : Fld := ⟨(R.posCnt i), 0, 16⟩
def posDisc_AT (i : Nat) : Fld := ⟨(R.posDisc i), 16, 48⟩
def posDisc_DISC (i : Nat) : Fld := ⟨(R.posDisc i), 0, 16⟩
def cmpCtl_STATE (i : Nat) : Fld := ⟨(R.cmpCtl i), 8, 2⟩
def cmpCtl_RUN (i : Nat) : Fld := ⟨(R.cmpCtl i), 0, 1⟩
def cmpStat_LAST_TAG (i : Nat) : Fld := ⟨(R.cmpStat i), 32, 32⟩
def cmpStat_ENTRIES (i : Nat) : Fld := ⟨(R.cmpStat i), 16, 13⟩
def cmpStat_SLOTS (i : Nat) : Fld := ⟨(R.cmpStat i), 0, 13⟩
def cmpCnt_STALE (i : Nat) : Fld := ⟨(R.cmpCnt i), 48, 16⟩
def cmpCnt_LATE (i : Nat) : Fld := ⟨(R.cmpCnt i), 32, 16⟩
def cmpCnt_EVICTED (i : Nat) : Fld := ⟨(R.cmpCnt i), 16, 16⟩
def cmpCnt_LIST_FULL (i : Nat) : Fld := ⟨(R.cmpCnt i), 0, 16⟩
def cmpCnt2_FIRED (i : Nat) : Fld := ⟨(R.cmpCnt2 i), 32, 32⟩
def cmpCnt2_MERGED (i : Nat) : Fld := ⟨(R.cmpCnt2 i), 16, 16⟩
def cmpCnt2_CLAMPED (i : Nat) : Fld := ⟨(R.cmpCnt2 i), 0, 16⟩
def cmpEntrySel_INDEX (i : Nat) : Fld := ⟨(R.cmpEntrySel i), 0, 12⟩
def cmpEntryW_WORD (i j : Nat) : Fld := ⟨(R.cmpEntryW i j), 0, 64⟩
def cmpValveCfg_EN (i : Nat) : Fld := ⟨(R.cmpValveCfg i), 63, 1⟩
def cmpValveCfg_AXIS (i : Nat) : Fld := ⟨(R.cmpValveCfg i), 56, 3⟩
def cmpValveCfg_PORT (i : Nat) : Fld := ⟨(R.cmpValveCfg i), 52, 4⟩
def cmpValveCfg_OUTPUT (i : Nat) : Fld := ⟨(R.cmpValveCfg i), 44, 7⟩
def cmpValveCfg_AIM (i : Nat) : Fld := ⟨(R.cmpValveCfg i), 42, 2⟩
def cmpValveCfg_FIRE_MASK (i : Nat) : Fld := ⟨(R.cmpValveCfg i), 0, 16⟩
def cmpValveCols_COL_LAST (i : Nat) : Fld := ⟨(R.cmpValveCols i), 32, 14⟩
def cmpValveCols_COL_FIRST (i : Nat) : Fld := ⟨(R.cmpValveCols i), 0, 14⟩
def cmpValveDist_DIST (i : Nat) : Fld := ⟨(R.cmpValveDist i), 0, 40⟩
def cmpValveExt_POST (i : Nat) : Fld := ⟨(R.cmpValveExt i), 32, 32⟩
def cmpValveExt_PRE (i : Nat) : Fld := ⟨(R.cmpValveExt i), 0, 32⟩
def cmpValveDly_DLY_OFF (i : Nat) : Fld := ⟨(R.cmpValveDly i), 32, 32⟩
def cmpValveDly_DLY_ON (i : Nat) : Fld := ⟨(R.cmpValveDly i), 0, 32⟩
def cmpValveLim_TOL (i : Nat) : Fld := ⟨(R.cmpValveLim i), 48, 16⟩
def cmpValveLim_MIN_ON_US (i : Nat) : Fld := ⟨(R.cmpValveLim i), 36, 12⟩
def cmpValveLim_MIN_OFF_US (i : Nat) : Fld := ⟨(R.cmpValveLim i), 24, 12⟩
def cmpValveLim_MAX_ON_US (i : Nat) : Fld := ⟨(R.cmpValveLim i), 0, 16⟩
def cmpCpl_CPL_FALL (i : Nat) : Fld := ⟨(R.cmpCpl i), 16, 12⟩
def cmpCpl_CPL_RISE (i : Nat) : Fld := ⟨(R.cmpCpl i), 0, 12⟩
def cmpPort_EN (i : Nat) : Fld := ⟨(R.cmpPort i), 63, 1⟩
def cmpPort_AXIS (i : Nat) : Fld := ⟨(R.cmpPort i), 56, 3⟩
def cmpPort_JOB (i : Nat) : Fld := ⟨(R.cmpPort i), 0, 6⟩
def cmpJob_SUBST (i : Nat) : Fld := ⟨(R.cmpJob i), 16, 4⟩
def cmpJob_LATE_POL (i : Nat) : Fld := ⟨(R.cmpJob i), 0, 1⟩
def cmpLate_PIN : Fld := ⟨R.cmpLate, 63, 1⟩
def cmpLate_LATCH : Fld := ⟨R.cmpLate, 62, 1⟩
def cmpLate_MODE : Fld := ⟨R.cmpLate, 16, 1⟩
def cmpLate_HOLD_MS : Fld := ⟨R.cmpLate, 0, 16⟩
def cmpLateTag_TAG : Fld := ⟨R.cmpLateTag, 32, 32⟩
def cmpLateTag_JOB : Fld := ⟨R.cmpLateTag, 26, 6⟩
def cmpLateTag_PORT : Fld := ⟨R.cmpLateTag, 22, 4⟩
def cmpLateTag_AXIS : Fld := ⟨R.cmpLateTag, 19, 3⟩
def cmpLateTag_CAUSE : Fld := ⟨R.cmpLateTag, 16, 3⟩
def cmpLatePos_POS : Fld := ⟨R.cmpLatePos, 8, 56⟩
def cmpLateReel_REEL : Fld := ⟨R.cmpLateReel, 0, 64⟩
def fioStat_GRP_WARN : Fld := ⟨R.fioStat, 32, 12⟩
def fioStat_GRP_LOW : Fld := ⟨R.fioStat, 16, 12⟩
def fioStat_TWIN : Fld := ⟨R.fioStat, 2, 1⟩
def fioStat_FOLLOW : Fld := ⟨R.fioStat, 1, 1⟩
def fioStat_SAFE : Fld := ⟨R.fioStat, 0, 1⟩
def fioSafe_ENTER : Fld := ⟨R.fioSafe, 63, 1⟩
def fioSafe_RELEASE : Fld := ⟨R.fioSafe, 62, 1⟩
def fioSafe_CAUSE : Fld := ⟨R.fioSafe, 0, 6⟩
def fioOutLo_LEVEL : Fld := ⟨R.fioOutLo, 0, 64⟩
def fioOutHi_LEVEL : Fld := ⟨R.fioOutHi, 0, 32⟩
def fioInW_OPEN : Fld := ⟨R.fioInW, 32, 32⟩
def fioInW_LEVEL : Fld := ⟨R.fioInW, 0, 32⟩
def fioInC_LEVEL : Fld := ⟨R.fioInC, 0, 32⟩
def fioGrpStat_LOW (i : Nat) : Fld := ⟨(R.fioGrpStat i), 63, 1⟩
def fioGrpStat_WARN (i : Nat) : Fld := ⟨(R.fioGrpStat i), 62, 1⟩
def fioGrpStat_OV (i : Nat) : Fld := ⟨(R.fioGrpStat i), 61, 1⟩
def fioGrpStat_VOLT (i : Nat) : Fld := ⟨(R.fioGrpStat i), 0, 16⟩
def fioGrpCnt_LOWS (i : Nat) : Fld := ⟨(R.fioGrpCnt i), 48, 16⟩
def fioGrpCnt_WARNS (i : Nat) : Fld := ⟨(R.fioGrpCnt i), 32, 16⟩
def fioGrpCnt_OVS (i : Nat) : Fld := ⟨(R.fioGrpCnt i), 16, 16⟩
def fioChCfg_SAFE_LS (i : Nat) : Fld := ⟨(R.fioChCfg i), 63, 1⟩
def fioChCfg_OW_EN (i : Nat) : Fld := ⟨(R.fioChCfg i), 62, 1⟩
def fioChCfg_GANG (i : Nat) : Fld := ⟨(R.fioChCfg i), 60, 2⟩
def fioChCfg_SRC (i : Nat) : Fld := ⟨(R.fioChCfg i), 56, 2⟩
def fioChCfg_MODE (i : Nat) : Fld := ⟨(R.fioChCfg i), 48, 2⟩
def fioChCmd_RAW_LS (i : Nat) : Fld := ⟨(R.fioChCmd i), 1, 1⟩
def fioChCmd_RAW_HS (i : Nat) : Fld := ⟨(R.fioChCmd i), 0, 1⟩
def fioChStat_BOTHON (i : Nat) : Fld := ⟨(R.fioChStat i), 63, 1⟩
def fioChStat_OVL_LATCH (i : Nat) : Fld := ⟨(R.fioChStat i), 62, 1⟩
def fioChStat_OPEN (i : Nat) : Fld := ⟨(R.fioChStat i), 61, 1⟩
def fioChStat_OT (i : Nat) : Fld := ⟨(R.fioChStat i), 60, 1⟩
def fioChStat_TRIPPED (i : Nat) : Fld := ⟨(R.fioChStat i), 59, 1⟩
def fioChStat_FORCED (i : Nat) : Fld := ⟨(R.fioChStat i), 58, 1⟩
def fioChStat_LEVEL (i : Nat) : Fld := ⟨(R.fioChStat i), 57, 1⟩
def fioChStat_HS_ON (i : Nat) : Fld := ⟨(R.fioChStat i), 56, 1⟩
def fioChStat_LS_ON (i : Nat) : Fld := ⟨(R.fioChStat i), 55, 1⟩
def fioChStat_CURRENT (i : Nat) : Fld := ⟨(R.fioChStat i), 32, 16⟩
def fioChCnt_TRIPS (i : Nat) : Fld := ⟨(R.fioChCnt i), 48, 16⟩
def fioChCnt_OPENS (i : Nat) : Fld := ⟨(R.fioChCnt i), 32, 16⟩
def fioChCnt_OTS (i : Nat) : Fld := ⟨(R.fioChCnt i), 16, 16⟩
def fioChCnt_CROWDED (i : Nat) : Fld := ⟨(R.fioChCnt i), 0, 16⟩
def fioIwCfg_DEB_US (i : Nat) : Fld := ⟨(R.fioIwCfg i), 48, 16⟩
def fioIwCfg_WB_MS (i : Nat) : Fld := ⟨(R.fioIwCfg i), 40, 8⟩
def fioIwCfg_REC (i : Nat) : Fld := ⟨(R.fioIwCfg i), 3, 1⟩
def fioIwCfg_INV (i : Nat) : Fld := ⟨(R.fioIwCfg i), 2, 1⟩
def fioIwCfg_WB_EN (i : Nat) : Fld := ⟨(R.fioIwCfg i), 1, 1⟩
def fioIwStat_CHANGES (i : Nat) : Fld := ⟨(R.fioIwStat i), 32, 32⟩
def fioIwStat_BREAKS (i : Nat) : Fld := ⟨(R.fioIwStat i), 24, 8⟩
def fioIwStat_OPEN (i : Nat) : Fld := ⟨(R.fioIwStat i), 16, 1⟩
def fioIwStat_DRAW (i : Nat) : Fld := ⟨(R.fioIwStat i), 0, 8⟩
def fioIcCfg_GATE_US (i : Nat) : Fld := ⟨(R.fioIcCfg i), 40, 24⟩
def fioIcCfg_FILT_N (i : Nat) : Fld := ⟨(R.fioIcCfg i), 32, 8⟩
def fioIcCfg_REC (i : Nat) : Fld := ⟨(R.fioIcCfg i), 4, 1⟩
def fioIcCfg_DOWN (i : Nat) : Fld := ⟨(R.fioIcCfg i), 3, 1⟩
def fioIcCfg_INV (i : Nat) : Fld := ⟨(R.fioIcCfg i), 2, 1⟩
def fioIcCfg_EDGE (i : Nat) : Fld := ⟨(R.fioIcCfg i), 0, 2⟩
def fioIcCount_COUNT (i : Nat) : Fld := ⟨(R.fioIcCount i), 0, 32⟩
def fioIcFreq_EDGES (i : Nat) : Fld := ⟨(R.fioIcFreq i), 32, 32⟩
def fioIcFreq_FREQ (i : Nat) : Fld := ⟨(R.fioIcFreq i), 0, 32⟩
def fioIcEdge_REEL (i : Nat) : Fld := ⟨(R.fioIcEdge i), 0, 64⟩
def pnxCtl_FE_ALLOW (i : Nat) : Fld := ⟨(R.pnxCtl i), 15, 1⟩
def pnxCtl_PATTERN (i : Nat) : Fld := ⟨(R.pnxCtl i), 10, 2⟩
def pnxCtl_LOOP (i : Nat) : Fld := ⟨(R.pnxCtl i), 8, 2⟩
def pnxCtl_FORCE_L2 (i : Nat) : Fld := ⟨(R.pnxCtl i), 2, 1⟩
def pnxCtl_L1_EN (i : Nat) : Fld := ⟨(R.pnxCtl i), 1, 1⟩
def pnxCtl_EN (i : Nat) : Fld := ⟨(R.pnxCtl i), 0, 1⟩
def pnxTx_PRE (i : Nat) : Fld := ⟨(R.pnxTx i), 24, 4⟩
def pnxTx_MAIN (i : Nat) : Fld := ⟨(R.pnxTx i), 16, 6⟩
def pnxTx_POST (i : Nat) : Fld := ⟨(R.pnxTx i), 8, 5⟩
def pnxStat_PPM (i : Nat) : Fld := ⟨(R.pnxStat i), 48, 16⟩
def pnxStat_PHASE (i : Nat) : Fld := ⟨(R.pnxStat i), 40, 8⟩
def pnxStat_SIGDET (i : Nat) : Fld := ⟨(R.pnxStat i), 9, 1⟩
def pnxStat_FRAMED (i : Nat) : Fld := ⟨(R.pnxStat i), 8, 1⟩
def pnxStat_LOCKED (i : Nat) : Fld := ⟨(R.pnxStat i), 7, 1⟩
def pnxStat_PWR (i : Nat) : Fld := ⟨(R.pnxStat i), 3, 2⟩
def pnxStat_STATE (i : Nat) : Fld := ⟨(R.pnxStat i), 0, 3⟩
def pnxCnt_CRC_ERR (i : Nat) : Fld := ⟨(R.pnxCnt i), 48, 16⟩
def pnxCnt_STUFF_ERR (i : Nat) : Fld := ⟨(R.pnxCnt i), 32, 16⟩
def pnxCnt_SCR_ERR (i : Nat) : Fld := ⟨(R.pnxCnt i), 16, 16⟩
def pnxCnt_RETRAINS (i : Nat) : Fld := ⟨(R.pnxCnt i), 0, 16⟩
def pnxPrbs_ERRORS (i : Nat) : Fld := ⟨(R.pnxPrbs i), 32, 32⟩
def pnxPrbs_SYNC (i : Nat) : Fld := ⟨(R.pnxPrbs i), 0, 1⟩
def pnxDelay_DELAY_PS (i : Nat) : Fld := ⟨(R.pnxDelay i), 0, 32⟩
def pnxCfg_CHAIN_WAIT_MS : Fld := ⟨R.pnxCfg, 48, 16⟩
def pnxCfg_IDLE_US : Fld := ⟨R.pnxCfg, 32, 16⟩
def pnxChain_TOO_LONG : Fld := ⟨R.pnxChain, 15, 1⟩
def pnxChain_VALID : Fld := ⟨R.pnxChain, 14, 1⟩
def pnxChain_MODB : Fld := ⟨R.pnxChain, 13, 1⟩
def pnxChain_PAIR : Fld := ⟨R.pnxChain, 12, 1⟩
def pnxChain_PEERS : Fld := ⟨R.pnxChain, 8, 4⟩
def pnxChain_POS : Fld := ⟨R.pnxChain, 0, 5⟩
def pnxLink_TAG_FAIL (i : Nat) : Fld := ⟨(R.pnxLink i), 48, 16⟩
def pnxLink_RESENT (i : Nat) : Fld := ⟨(R.pnxLink i), 32, 16⟩
def pnxLink_LANES (i : Nat) : Fld := ⟨(R.pnxLink i), 8, 4⟩
def pnxLink_STATE (i : Nat) : Fld := ⟨(R.pnxLink i), 0, 2⟩
def tngCfg_PAIR_WAIT_MS : Fld := ⟨R.tngCfg, 48, 16⟩
def tngCfg_SOLO_US : Fld := ⟨R.tngCfg, 32, 16⟩
def tngCfg_TL_MIN : Fld := ⟨R.tngCfg, 8, 4⟩
def tngCfg_ACCEPT : Fld := ⟨R.tngCfg, 1, 1⟩
def tngCfg_AUTO_SOLO : Fld := ⟨R.tngCfg, 0, 1⟩
def tngCtl_JOIN : Fld := ⟨R.tngCtl, 1, 1⟩
def tngCtl_SOLO : Fld := ⟨R.tngCtl, 0, 1⟩
def tngStat_MISSED : Fld := ⟨R.tngStat, 48, 16⟩
def tngStat_TL_ACTIVE : Fld := ⟨R.tngStat, 32, 4⟩
def tngStat_REASON : Fld := ⟨R.tngStat, 8, 4⟩
def tngStat_PEER : Fld := ⟨R.tngStat, 7, 1⟩
def tngStat_STATE : Fld := ⟨R.tngStat, 0, 3⟩
def tngPeer_SERIAL : Fld := ⟨R.tngPeer, 0, 64⟩
def tngHb_H : Fld := ⟨R.tngHb, 0, 64⟩
def tngHorizon_Z : Fld := ⟨R.tngHorizon, 0, 64⟩
def tngDiv_VALID : Fld := ⟨R.tngDiv, 63, 1⟩
def tngDiv_KIND : Fld := ⟨R.tngDiv, 62, 1⟩
def tngDiv_ENTRY : Fld := ⟨R.tngDiv, 48, 10⟩
def tngDiv_STEP : Fld := ⟨R.tngDiv, 0, 48⟩
def tngCnt_MISMATCH : Fld := ⟨R.tngCnt, 48, 16⟩
def tngCnt_TAKEOVERS : Fld := ⟨R.tngCnt, 32, 16⟩
def tngCnt_UNCERTAIN : Fld := ⟨R.tngCnt, 16, 16⟩
def tngCnt_BREAKS : Fld := ⟨R.tngCnt, 0, 16⟩
def trcRecCtl_FREEZE : Fld := ⟨R.trcRecCtl, 63, 1⟩
def trcRecCtl_FROZEN : Fld := ⟨R.trcRecCtl, 62, 1⟩
def trcRecCtl_FRZ_FAULT : Fld := ⟨R.trcRecCtl, 58, 1⟩
def trcRecCtl_FRZ_LATE : Fld := ⟨R.trcRecCtl, 57, 1⟩
def trcRecCtl_FRZ_MISMATCH : Fld := ⟨R.trcRecCtl, 56, 1⟩
def trcRecCtl_POST_MS : Fld := ⟨R.trcRecCtl, 40, 16⟩
def trcRecCtl_CKPT_MS : Fld := ⟨R.trcRecCtl, 24, 16⟩
def trcRecCtl_KINDS : Fld := ⟨R.trcRecCtl, 8, 5⟩
def trcRecCtl_EN : Fld := ⟨R.trcRecCtl, 0, 1⟩
def trcRecRing_SIZE : Fld := ⟨R.trcRecRing, 48, 16⟩
def trcRecRing_BASE : Fld := ⟨R.trcRecRing, 20, 16⟩
def trcRecWptr_BYTES : Fld := ⟨R.trcRecWptr, 0, 64⟩
def trcRecCkpt_OLDEST : Fld := ⟨R.trcRecCkpt, 0, 36⟩
def trcRecCnt_DROPPED : Fld := ⟨R.trcRecCnt, 32, 32⟩
def trcRecCnt_GAPS : Fld := ⟨R.trcRecCnt, 16, 16⟩
def trcRecCnt_CKPTS : Fld := ⟨R.trcRecCnt, 0, 16⟩
def trcRecPerm_EXPORT : Fld := ⟨R.trcRecPerm, 0, 64⟩
def trcExportAddr_ADDR : Fld := ⟨R.trcExportAddr, 0, 64⟩
def trcExportCtl_GO : Fld := ⟨R.trcExportCtl, 63, 1⟩
def trcExportCtl_BUSY : Fld := ⟨R.trcExportCtl, 62, 1⟩
def trcExportCtl_LEN : Fld := ⟨R.trcExportCtl, 36, 26⟩
def trcExportCtl_FROM : Fld := ⟨R.trcExportCtl, 0, 36⟩
def trcRecPort_DEC (i : Nat) : Fld := ⟨(R.trcRecPort i), 48, 16⟩
def trcRecPort_X0 (i : Nat) : Fld := ⟨(R.trcRecPort i), 32, 14⟩
def trcRecPort_XW (i : Nat) : Fld := ⟨(R.trcRecPort i), 16, 14⟩
def trcRecPort_MODE (i : Nat) : Fld := ⟨(R.trcRecPort i), 0, 2⟩
def trcRplFrom_OFF : Fld := ⟨R.trcRplFrom, 0, 36⟩
def trcRplTo_OFF : Fld := ⟨R.trcRplTo, 0, 36⟩
def trcRplStat_MISMATCHES : Fld := ⟨R.trcRplStat, 32, 32⟩
def trcRplStat_STATE : Fld := ⟨R.trcRplStat, 0, 3⟩
def trcRplDiv_VALID : Fld := ⟨R.trcRplDiv, 63, 1⟩
def trcRplDiv_CAUSE : Fld := ⟨R.trcRplDiv, 60, 3⟩
def trcRplDiv_ENTRY : Fld := ⟨R.trcRplDiv, 50, 10⟩
def trcRplDiv_STEP : Fld := ⟨R.trcRplDiv, 0, 48⟩
def trcJobStep_STEP (i : Nat) : Fld := ⟨(R.trcJobStep i), 0, 64⟩
def trcJobSeed0_SEED (i : Nat) : Fld := ⟨(R.trcJobSeed0 i), 0, 64⟩
def trcJobSeed1_SEED (i : Nat) : Fld := ⟨(R.trcJobSeed1 i), 0, 64⟩
def trcJobStepcfg_OBJ (i : Nat) : Fld := ⟨(R.trcJobStepcfg i), 48, 14⟩
def trcJobStepcfg_WARM_ROWS (i : Nat) : Fld := ⟨(R.trcJobStepcfg i), 32, 10⟩
def trcJobStepcfg_BASE (i : Nat) : Fld := ⟨(R.trcJobStepcfg i), 0, 32⟩
def memEccStat_CE : Fld := ⟨R.memEccStat, 32, 32⟩
def memEccStat_UE : Fld := ⟨R.memEccStat, 0, 32⟩
def memEccCfg_CE_MARK : Fld := ⟨R.memEccCfg, 0, 32⟩
def memEccCe_VALID : Fld := ⟨R.memEccCe, 63, 1⟩
def memEccCe_AGENT : Fld := ⟨R.memEccCe, 40, 12⟩
def memEccCe_ADDR : Fld := ⟨R.memEccCe, 0, 40⟩
def memEccUe_VALID : Fld := ⟨R.memEccUe, 63, 1⟩
def memEccUe_AGENT : Fld := ⟨R.memEccUe, 40, 12⟩
def memEccUe_ADDR : Fld := ⟨R.memEccUe, 0, 40⟩
def memFlipData_MASK : Fld := ⟨R.memFlipData, 0, 64⟩
def memFlipCtl_ARM : Fld := ⟨R.memFlipCtl, 63, 1⟩
def memFlipCtl_MATCH : Fld := ⟨R.memFlipCtl, 62, 1⟩
def memFlipCtl_CHECK : Fld := ⟨R.memFlipCtl, 48, 8⟩
def memFlipCtl_REGION : Fld := ⟨R.memFlipCtl, 40, 8⟩
def memFlipCtl_ADDR : Fld := ⟨R.memFlipCtl, 0, 40⟩
def memSpgCtl_GO : Fld := ⟨R.memSpgCtl, 63, 1⟩
def memSpgCtl_STOP : Fld := ⟨R.memSpgCtl, 62, 1⟩
def memSpgCtl_STATE : Fld := ⟨R.memSpgCtl, 0, 3⟩
def memSpgFrom_ADDR : Fld := ⟨R.memSpgFrom, 0, 40⟩
def memSpgTo_ADDR : Fld := ⟨R.memSpgTo, 0, 40⟩
def memSpgSum0_CE : Fld := ⟨R.memSpgSum0, 32, 32⟩
def memSpgSum0_UE : Fld := ⟨R.memSpgSum0, 0, 32⟩
def memSpgSum1_ADDR : Fld := ⟨R.memSpgSum1, 0, 40⟩
def memSpgSum2_ADDR : Fld := ⟨R.memSpgSum2, 0, 40⟩
def memSpgSum3_WORST_CNT : Fld := ⟨R.memSpgSum3, 48, 16⟩
def memSpgSum3_WORST : Fld := ⟨R.memSpgSum3, 32, 13⟩
def memSpgSum3_SKIPPED : Fld := ⟨R.memSpgSum3, 0, 32⟩
def memSpgSum4_WORDS : Fld := ⟨R.memSpgSum4, 0, 64⟩
def tunEcc_CE (i : Nat) : Fld := ⟨(R.tunEcc i), 32, 32⟩
def tunEcc_UE (i : Nat) : Fld := ⟨(R.tunEcc i), 0, 32⟩
def tunEccCe_VALID (i : Nat) : Fld := ⟨(R.tunEccCe i), 63, 1⟩
def tunEccCe_AGENT (i : Nat) : Fld := ⟨(R.tunEccCe i), 40, 12⟩
def tunEccCe_ADDR (i : Nat) : Fld := ⟨(R.tunEccCe i), 0, 40⟩
def tunEccUe_VALID (i : Nat) : Fld := ⟨(R.tunEccUe i), 63, 1⟩
def tunEccUe_AGENT (i : Nat) : Fld := ⟨(R.tunEccUe i), 40, 12⟩
def tunEccUe_ADDR (i : Nat) : Fld := ⟨(R.tunEccUe i), 0, 40⟩
def flrEcc_CE (i : Nat) : Fld := ⟨(R.flrEcc i), 32, 32⟩
def flrEcc_UE (i : Nat) : Fld := ⟨(R.flrEcc i), 0, 32⟩
def flrEccUe_VALID (i : Nat) : Fld := ⟨(R.flrEccUe i), 63, 1⟩
def flrEccUe_AGENT (i : Nat) : Fld := ⟨(R.flrEccUe i), 40, 12⟩
def flrEccUe_ADDR (i : Nat) : Fld := ⟨(R.flrEccUe i), 0, 40⟩
def secStat_HEALTH_FAILS : Fld := ⟨R.secStat, 48, 16⟩
def secStat_SERVICE : Fld := ⟨R.secStat, 7, 1⟩
def secStat_STATE : Fld := ⟨R.secStat, 0, 2⟩
def secRng_VALID : Fld := ⟨R.secRng, 63, 1⟩
def secRng_DATA : Fld := ⟨R.secRng, 0, 32⟩
def secIso_VALID : Fld := ⟨R.secIso, 63, 1⟩
def secIso_WRITE : Fld := ⟨R.secIso, 62, 1⟩
def secIso_JOB : Fld := ⟨R.secIso, 52, 6⟩
def secIso_AGENT : Fld := ⟨R.secIso, 40, 12⟩
def secIso_ADDR : Fld := ⟨R.secIso, 0, 40⟩
def secIsoCnt_REFUSED : Fld := ⟨R.secIsoCnt, 0, 32⟩
def secCertSel_LEN : Fld := ⟨R.secCertSel, 6, 10⟩
def secCertSel_INDEX : Fld := ⟨R.secCertSel, 0, 6⟩
def secCert_WORD : Fld := ⟨R.secCert, 0, 64⟩
def secLink_GEN (i : Nat) : Fld := ⟨(R.secLink i), 48, 16⟩
def secLink_LAST_FAIL (i : Nat) : Fld := ⟨(R.secLink i), 32, 4⟩
def secLink_FAILS (i : Nat) : Fld := ⟨(R.secLink i), 16, 16⟩
def secLink_STATE (i : Nat) : Fld := ⟨(R.secLink i), 0, 2⟩
def secWin_PAGES (i : Nat) : Fld := ⟨(R.secWin i), 40, 24⟩
def secWin_BASE (i : Nat) : Fld := ⟨(R.secWin i), 14, 26⟩
def secWin_HOST (i : Nat) : Fld := ⟨(R.secWin i), 3, 1⟩
def secWin_W (i : Nat) : Fld := ⟨(R.secWin i), 2, 1⟩
def secWin_R (i : Nat) : Fld := ⟨(R.secWin i), 1, 1⟩
def secWin_VALID (i : Nat) : Fld := ⟨(R.secWin i), 0, 1⟩
def secWinJobs_JOBS (i : Nat) : Fld := ⟨(R.secWinJobs i), 0, 64⟩
def pwrStat_NOTICE : Fld := ⟨R.pwrStat, 63, 1⟩
def pwrStat_PWRFAIL : Fld := ⟨R.pwrStat, 62, 1⟩
def pwrStat_STAGE : Fld := ⟨R.pwrStat, 32, 3⟩
def pwrStat_VIN : Fld := ⟨R.pwrStat, 0, 16⟩
def pwrMinmax_VMAX : Fld := ⟨R.pwrMinmax, 16, 16⟩
def pwrMinmax_VMIN : Fld := ⟨R.pwrMinmax, 0, 16⟩
def pwrIn_POWER : Fld := ⟨R.pwrIn, 16, 16⟩
def pwrIn_CURRENT : Fld := ⟨R.pwrIn, 0, 16⟩
def pwrCnt_ST1 : Fld := ⟨R.pwrCnt, 48, 16⟩
def pwrCnt_ST2 : Fld := ⟨R.pwrCnt, 32, 16⟩
def pwrCnt_ST3 : Fld := ⟨R.pwrCnt, 16, 16⟩
def rstCause_DEFERRED : Fld := ⟨R.rstCause, 10, 1⟩
def rstCause_REACH : Fld := ⟨R.rstCause, 8, 2⟩
def rstCause_SRC : Fld := ⟨R.rstCause, 0, 8⟩
def rstCmd_KEY : Fld := ⟨R.rstCmd, 48, 16⟩
def rstCmd_BLOCK : Fld := ⟨R.rstCmd, 40, 8⟩
def rstCmd_INSTANCE : Fld := ⟨R.rstCmd, 30, 10⟩
def rstCmd_KIND : Fld := ⟨R.rstCmd, 0, 3⟩
def rstStat_REASON : Fld := ⟨R.rstStat, 56, 8⟩
def rstStat_PHASE : Fld := ⟨R.rstStat, 52, 4⟩
def rstStat_FAILS : Fld := ⟨R.rstStat, 48, 4⟩
def rstStat_MINIMAL : Fld := ⟨R.rstStat, 47, 1⟩
def rstStat_READY : Fld := ⟨R.rstStat, 46, 1⟩
def rstStat_NVM_SINGLE : Fld := ⟨R.rstStat, 45, 1⟩
def rstStat_PKG_SLOT : Fld := ⟨R.rstStat, 44, 1⟩
def rstStat_FW_SLOT : Fld := ⟨R.rstStat, 43, 1⟩
def rstStat_CAL_SLOT : Fld := ⟨R.rstStat, 42, 1⟩
def rstStat_CAL_VALID : Fld := ⟨R.rstStat, 41, 1⟩
def rstBlk_BUSY : Fld := ⟨R.rstBlk, 63, 1⟩
def rstBlk_LOST : Fld := ⟨R.rstBlk, 0, 32⟩
def rstFault_CODE : Fld := ⟨R.rstFault, 8, 8⟩
def rstFault_SRC : Fld := ⟨R.rstFault, 0, 7⟩
def celStat_VALID : Fld := ⟨R.celStat, 63, 1⟩
def celStat_VBAT_LOW : Fld := ⟨R.celStat, 62, 1⟩
def celStat_LOST : Fld := ⟨R.celStat, 61, 1⟩
def celStat_CE : Fld := ⟨R.celStat, 16, 16⟩
def celStat_UE : Fld := ⟨R.celStat, 0, 16⟩
def celBkp0_PWRFAILS : Fld := ⟨R.celBkp0, 32, 32⟩
def celBkp0_REACH : Fld := ⟨R.celBkp0, 16, 2⟩
def celBkp0_CAUSE : Fld := ⟨R.celBkp0, 8, 8⟩
def celBkp0_FAILS : Fld := ⟨R.celBkp0, 0, 8⟩
def celBkp1_REASONS : Fld := ⟨R.celBkp1, 0, 64⟩
def celBkp2_DUMP_SEQ : Fld := ⟨R.celBkp2, 32, 32⟩
def celBkp2_DUMP_PTR : Fld := ⟨R.celBkp2, 0, 28⟩
def celBkp3_PF_REEL : Fld := ⟨R.celBkp3, 0, 64⟩
def celBkpn_DATA (i : Nat) : Fld := ⟨(R.celBkpn i), 0, 64⟩
def celCalSrc_ADDR : Fld := ⟨R.celCalSrc, 0, 36⟩
def celCalCtl_STORE : Fld := ⟨R.celCalCtl, 63, 1⟩
def celCalCtl_BUSY : Fld := ⟨R.celCalCtl, 62, 1⟩
def celCalCtl_RESULT : Fld := ⟨R.celCalCtl, 60, 2⟩
def celCalCtl_LEN : Fld := ⟨R.celCalCtl, 0, 22⟩
def celCalStat_SEQ1 : Fld := ⟨R.celCalStat, 32, 32⟩
def celCalStat_SEQ0 : Fld := ⟨R.celCalStat, 0, 32⟩
def mgtStat_POS : Fld := ⟨R.mgtStat, 59, 5⟩
def mgtStat_FAULT_SRC : Fld := ⟨R.mgtStat, 52, 7⟩
def mgtStat_SPI_ERR : Fld := ⟨R.mgtStat, 31, 1⟩
def mgtStat_REASON : Fld := ⟨R.mgtStat, 23, 8⟩
def mgtStat_PHASE : Fld := ⟨R.mgtStat, 19, 4⟩
def mgtStat_STAGE : Fld := ⟨R.mgtStat, 16, 3⟩
def mgtStat_ENTROPY_PENDING : Fld := ⟨R.mgtStat, 15, 1⟩
def mgtStat_WALL_HOLDOVER : Fld := ⟨R.mgtStat, 14, 1⟩
def mgtStat_REEL_OK : Fld := ⟨R.mgtStat, 13, 1⟩
def mgtStat_SAFE : Fld := ⟨R.mgtStat, 12, 1⟩
def mgtStat_MINIMAL : Fld := ⟨R.mgtStat, 11, 1⟩
def mgtStat_FAULT : Fld := ⟨R.mgtStat, 10, 1⟩
def mgtStat_READY : Fld := ⟨R.mgtStat, 9, 1⟩
def mgtStat_MODE : Fld := ⟨R.mgtStat, 7, 2⟩
def mgtStat_TNG_STATE : Fld := ⟨R.mgtStat, 4, 3⟩
def mgtWdog_KEY : Fld := ⟨R.mgtWdog, 48, 16⟩
def mgtWdog_LEFT : Fld := ⟨R.mgtWdog, 0, 32⟩
def mgtWdogCfg_DUMP_EN : Fld := ⟨R.mgtWdogCfg, 16, 1⟩
def mgtWdogCfg_WD_MS : Fld := ⟨R.mgtWdogCfg, 0, 16⟩
def mgtSensTemp_T3 (i : Nat) : Fld := ⟨(R.mgtSensTemp i), 48, 16⟩
def mgtSensTemp_T2 (i : Nat) : Fld := ⟨(R.mgtSensTemp i), 32, 16⟩
def mgtSensTemp_T1 (i : Nat) : Fld := ⟨(R.mgtSensTemp i), 16, 16⟩
def mgtSensTemp_T0 (i : Nat) : Fld := ⟨(R.mgtSensTemp i), 0, 16⟩
def mgtSensCold_T : Fld := ⟨R.mgtSensCold, 0, 16⟩
def mgtSensRail_VOLT (i : Nat) : Fld := ⟨(R.mgtSensRail i), 48, 16⟩
def mgtSensRail_CURRENT (i : Nat) : Fld := ⟨(R.mgtSensRail i), 0, 32⟩
def mgtNet_PREFIX : Fld := ⟨R.mgtNet, 32, 6⟩
def mgtNet_ADDR : Fld := ⟨R.mgtNet, 0, 32⟩
def mgtNetGw_GW : Fld := ⟨R.mgtNetGw, 0, 32⟩
def mgtNetCtl_STORE : Fld := ⟨R.mgtNetCtl, 63, 1⟩
def mgtNetCtl_BUSY : Fld := ⟨R.mgtNetCtl, 62, 1⟩
def mgtMac_MAC : Fld := ⟨R.mgtMac, 0, 48⟩
def mgtNcpAllow_EN (i : Nat) : Fld := ⟨(R.mgtNcpAllow i), 32, 1⟩
def mgtNcpAllow_ADDR (i : Nat) : Fld := ⟨(R.mgtNcpAllow i), 0, 32⟩
def mgtNcpStat_REQUESTS : Fld := ⟨R.mgtNcpStat, 32, 32⟩
def mgtNcpStat_BAD_FRAME : Fld := ⟨R.mgtNcpStat, 16, 16⟩
def mgtNcpStat_FILTERED : Fld := ⟨R.mgtNcpStat, 8, 8⟩
def mgtNcpStat_RESENT : Fld := ⟨R.mgtNcpStat, 0, 8⟩
def mgtSpiStat_ERR : Fld := ⟨R.mgtSpiStat, 63, 1⟩
def mgtSpiStat_PARTIAL : Fld := ⟨R.mgtSpiStat, 48, 12⟩
def mgtSpiStat_LONG : Fld := ⟨R.mgtSpiStat, 36, 12⟩
def mgtSpiStat_BADCMD : Fld := ⟨R.mgtSpiStat, 24, 12⟩
def mgtSpiStat_ABANDONED : Fld := ⟨R.mgtSpiStat, 12, 12⟩
def mgtSpiStat_EARLY : Fld := ⟨R.mgtSpiStat, 0, 12⟩
def mgtPcieStat_UP : Fld := ⟨R.mgtPcieStat, 63, 1⟩
def mgtPcieStat_WIDTH : Fld := ⟨R.mgtPcieStat, 59, 4⟩
def mgtPcieStat_SPEED : Fld := ⟨R.mgtPcieStat, 56, 3⟩
def mgtPcieStat_BADSIZE : Fld := ⟨R.mgtPcieStat, 0, 16⟩
def mgtIrq_EXPORT_VEC : Fld := ⟨R.mgtIrq, 8, 6⟩
def mgtIrq_EVT_VEC : Fld := ⟨R.mgtIrq, 0, 6⟩
def mgtIrqMask_BLOCKS : Fld := ⟨R.mgtIrqMask, 0, 64⟩
def mgtDump_CLEAR : Fld := ⟨R.mgtDump, 63, 1⟩
def mgtDump_FORCE : Fld := ⟨R.mgtDump, 62, 1⟩
def mgtDump_STATE : Fld := ⟨R.mgtDump, 32, 2⟩
def mgtDump_SEQ : Fld := ⟨R.mgtDump, 0, 32⟩
def mgtUpdCtl_BEGIN : Fld := ⟨R.mgtUpdCtl, 63, 1⟩
def mgtUpdCtl_COMMIT : Fld := ⟨R.mgtUpdCtl, 62, 1⟩
def mgtUpdCtl_ABORT : Fld := ⟨R.mgtUpdCtl, 61, 1⟩
def mgtUpdCtl_KIND : Fld := ⟨R.mgtUpdCtl, 32, 1⟩
def mgtUpdCtl_LEN : Fld := ⟨R.mgtUpdCtl, 0, 32⟩
def mgtUpdData_DATA : Fld := ⟨R.mgtUpdData, 0, 64⟩
def mgtUpdStat_STATE : Fld := ⟨R.mgtUpdStat, 61, 3⟩
def mgtUpdStat_RESULT : Fld := ⟨R.mgtUpdStat, 48, 8⟩
def mgtUpdStat_WPTR : Fld := ⟨R.mgtUpdStat, 0, 32⟩
def mgtHang_ACT (i : Nat) : Fld := ⟨(R.mgtHang i), 16, 1⟩
def mgtHang_HANG_MS (i : Nat) : Fld := ⟨(R.mgtHang i), 0, 16⟩
def timBase_T : Fld := ⟨R.timBase, 0, 64⟩
def timReel_T : Fld := ⟨R.timReel, 0, 64⟩
def timWall_T : Fld := ⟨R.timWall, 0, 64⟩
def timLatch_LATCH : Fld := ⟨R.timLatch, 0, 1⟩
def timLatchB_T : Fld := ⟨R.timLatchB, 0, 64⟩
def timLatchR_T : Fld := ⟨R.timLatchR, 0, 64⟩
def timLatchW_T : Fld := ⟨R.timLatchW, 0, 64⟩
def timReelStat_ERR : Fld := ⟨R.timReelStat, 32, 32⟩
def timReelStat_RATE_PPB : Fld := ⟨R.timReelStat, 16, 16⟩
def timReelStat_ROOT_POS : Fld := ⟨R.timReelStat, 11, 5⟩
def timReelStat_SRC : Fld := ⟨R.timReelStat, 8, 3⟩
def timReelStat_HOPS : Fld := ⟨R.timReelStat, 2, 6⟩
def timReelStat_STATE : Fld := ⟨R.timReelStat, 0, 2⟩
def timReelRoot_SERIAL : Fld := ⟨R.timReelRoot, 0, 64⟩
def timWallRate_RATE : Fld := ⟨R.timWallRate, 0, 48⟩
def timWallAdj_STEP : Fld := ⟨R.timWallAdj, 0, 64⟩
def timWallStat_HOLDOVER : Fld := ⟨R.timWallStat, 63, 1⟩
def timWallStat_SEEN : Fld := ⟨R.timWallStat, 62, 1⟩
def timWallStat_RX_DROP : Fld := ⟨R.timWallStat, 16, 16⟩
def timWallStat_TX_DROP : Fld := ⟨R.timWallStat, 0, 16⟩
def timPtpCfg_SYNC_TMO_MS : Fld := ⟨R.timPtpCfg, 48, 16⟩
def timPtpCfg_DOMAIN : Fld := ⟨R.timPtpCfg, 8, 8⟩
def timPtpCfg_FW_SERVO : Fld := ⟨R.timPtpCfg, 1, 1⟩
def timPtpCfg_EN : Fld := ⟨R.timPtpCfg, 0, 1⟩
def timPtpMaster_ID (i : Nat) : Fld := ⟨(R.timPtpMaster i), 0, 64⟩
def timPtpLat_TX_LAT : Fld := ⟨R.timPtpLat, 32, 32⟩
def timPtpLat_RX_LAT : Fld := ⟨R.timPtpLat, 0, 32⟩
def timPtpRx_VALID (i : Nat) : Fld := ⟨(R.timPtpRx i), 63, 1⟩
def timPtpRx_LEVEL (i : Nat) : Fld := ⟨(R.timPtpRx i), 56, 7⟩
def timPtpRx_MSGTYPE (i : Nat) : Fld := ⟨(R.timPtpRx i), 52, 4⟩
def timPtpRx_DOMAIN (i : Nat) : Fld := ⟨(R.timPtpRx i), 44, 8⟩
def timPtpRx_PORT (i : Nat) : Fld := ⟨(R.timPtpRx i), 28, 16⟩
def timPtpRx_SEQID (i : Nat) : Fld := ⟨(R.timPtpRx i), 0, 16⟩
def timPtpTx_VALID (i : Nat) : Fld := ⟨(R.timPtpTx i), 63, 1⟩
def timPtpTx_LEVEL (i : Nat) : Fld := ⟨(R.timPtpTx i), 56, 7⟩
def timPtpTx_MSGTYPE (i : Nat) : Fld := ⟨(R.timPtpTx i), 52, 4⟩
def timPtpTx_DOMAIN (i : Nat) : Fld := ⟨(R.timPtpTx i), 44, 8⟩
def timPtpTx_PORT (i : Nat) : Fld := ⟨(R.timPtpTx i), 28, 16⟩
def timPtpTx_SEQID (i : Nat) : Fld := ⟨(R.timPtpTx i), 0, 16⟩
def trcTraceCtl_SRC : Fld := ⟨R.trcTraceCtl, 8, 7⟩
def trcTraceCtl_MODE : Fld := ⟨R.trcTraceCtl, 0, 2⟩
def trcTraceJobs_JOBS : Fld := ⟨R.trcTraceJobs, 0, 64⟩
def trcTraceRing_SIZE : Fld := ⟨R.trcTraceRing, 48, 16⟩
def trcTraceRing_BASE : Fld := ⟨R.trcTraceRing, 12, 24⟩
def trcTraceWidx_IDX : Fld := ⟨R.trcTraceWidx, 0, 64⟩
def trcTraceRidx_IDX : Fld := ⟨R.trcTraceRidx, 0, 64⟩
def trcTraceCnt_DROPPED : Fld := ⟨R.trcTraceCnt, 32, 32⟩
def trcTraceCnt_STALL_US : Fld := ⟨R.trcTraceCnt, 0, 32⟩
def trcProf_LAYER_SEL : Fld := ⟨R.trcProf, 16, 12⟩
def trcProf_LAYER_ALL : Fld := ⟨R.trcProf, 1, 1⟩
def trcProf_EN : Fld := ⟨R.trcProf, 0, 1⟩
def trcSnapCtl_ARM : Fld := ⟨R.trcSnapCtl, 63, 1⟩
def trcSnapCtl_CHAIN : Fld := ⟨R.trcSnapCtl, 62, 1⟩
def trcSnapCtl_STATE : Fld := ⟨R.trcSnapCtl, 56, 3⟩
def trcSnapCtl_MISSED : Fld := ⟨R.trcSnapCtl, 32, 16⟩
def trcSnapCtl_ID : Fld := ⟨R.trcSnapCtl, 0, 16⟩
def trcSnapTick_TICK : Fld := ⟨R.trcSnapTick, 0, 64⟩
def trcSnapSel_SHADOW_ID : Fld := ⟨R.trcSnapSel, 48, 16⟩
def trcSnapSel_ADDR : Fld := ⟨R.trcSnapSel, 3, 22⟩
def trcSnapData_VALUE : Fld := ⟨R.trcSnapData, 0, 64⟩
def trcJobBusy_COUNT (i : Nat) : Fld := ⟨(R.trcJobBusy i), 0, 64⟩
def trcJobStall_COUNT (i j : Nat) : Fld := ⟨(R.trcJobStall i j), 0, 64⟩
def trcJobIssue_COUNT (i : Nat) : Fld := ⟨(R.trcJobIssue i), 0, 64⟩
def engCntBusy_COUNT (blk n : Nat) : Fld := ⟨(R.engCntBusy blk n), 0, 64⟩
def engCntIdle_COUNT (blk n : Nat) : Fld := ⟨(R.engCntIdle blk n), 0, 64⟩
def engCntStall_COUNT (blk n i : Nat) : Fld := ⟨(R.engCntStall blk n i), 0, 64⟩
def engBusyT_COUNT (blk n i : Nat) : Fld := ⟨(R.engBusyT blk n i), 0, 64⟩
def engOps_COUNT (blk n i : Nat) : Fld := ⟨(R.engOps blk n i), 0, 64⟩
def flrCntIssue_COUNT (i : Nat) : Fld := ⟨(R.flrCntIssue i), 0, 64⟩
def flrCntStall_COUNT (i : Nat) : Fld := ⟨(R.flrCntStall i), 0, 64⟩
def flrCntWait_COUNT (i : Nat) : Fld := ⟨(R.flrCntWait i), 0, 64⟩
def flrCntIdle_COUNT (i : Nat) : Fld := ⟨(R.flrCntIdle i), 0, 64⟩
def logStat_OLDEST : Fld := ⟨R.logStat, 32, 32⟩
def logStat_NEWEST : Fld := ⟨R.logStat, 0, 32⟩
def logCnt_LOST : Fld := ⟨R.logCnt, 32, 32⟩
def logCnt_TORN : Fld := ⟨R.logCnt, 16, 16⟩
def logCnt_PENDING : Fld := ⟨R.logCnt, 0, 12⟩
def logRdSeq_SEQ : Fld := ⟨R.logRdSeq, 0, 32⟩
def logRdW_WORD (i : Nat) : Fld := ⟨(R.logRdW i), 0, 64⟩
def kilnStat_TJ : Fld := ⟨R.kilnStat, 48, 16⟩
def kilnStat_TCP : Fld := ⟨R.kilnStat, 32, 16⟩
def kilnStat_BOOST_LEFT_MS : Fld := ⟨R.kilnStat, 15, 17⟩
def kilnStat_COOLDOWN : Fld := ⟨R.kilnStat, 7, 1⟩
def kilnStat_BOOST : Fld := ⟨R.kilnStat, 6, 1⟩
def kilnStat_LEVEL : Fld := ⟨R.kilnStat, 0, 2⟩
def kilnCfg_BOOST_EN : Fld := ⟨R.kilnCfg, 16, 1⟩
def kilnCfg_COLD_MARK : Fld := ⟨R.kilnCfg, 0, 16⟩
def kilnCtl_END : Fld := ⟨R.kilnCtl, 63, 1⟩
def kilnCtl_BOOST_S : Fld := ⟨R.kilnCtl, 0, 7⟩
def kilnCnt_BOOSTS : Fld := ⟨R.kilnCnt, 48, 16⟩
def kilnCnt_REFUSED : Fld := ⟨R.kilnCnt, 32, 16⟩
def kilnCnt_LEVEL2 : Fld := ⟨R.kilnCnt, 16, 16⟩
def kilnCnt_LEVEL3 : Fld := ⟨R.kilnCnt, 0, 16⟩
def kilnSensFail_FAILED : Fld := ⟨R.kilnSensFail, 0, 24⟩
def kilnPower_COMPUTE : Fld := ⟨R.kilnPower, 16, 16⟩
def kilnPower_IOD : Fld := ⟨R.kilnPower, 0, 16⟩
def kilnIsl_STATE (i : Nat) : Fld := ⟨(R.kilnIsl i), 16, 2⟩
def kilnIsl_MHZ (i : Nat) : Fld := ⟨(R.kilnIsl i), 0, 16⟩

end F

/-- The registers that every engine instance has (R157, R474), for block window `w` with `n` instances. -/
def engRows (w n : Nat) : List RegRow := [
  ⟨0x100000 * w + 0x0, [(n, 0x10000)], 0x0, 0x0, 0x0, 0x0, 0x0, 0x0, 0x0, 0x0, .never⟩,
  ⟨0x100000 * w + 0x8, [(n, 0x10000)], 0x0, 0x0, 0x0, 0x0, 0x8000000000000000, 0x0, 0x0, 0x0, .never⟩,
  ⟨0x100000 * w + 0x10, [(n, 0x10000)], 0x0, 0x0, 0x0, 0x0, 0x0, 0x0, 0x0, 0x0, .never⟩,
  ⟨0x100000 * w + 0x18, [(n, 0x10000)], 0x0, 0x0, 0x0, 0x0, 0x0, 0x0, 0x0, 0x0, .never⟩,
  ⟨0x100000 * w + 0x100, [(n, 0x10000)], 0x0, 0x0, 0x0, 0x0, 0x0, 0x0, 0x0, 0x0, .never⟩,
  ⟨0x100000 * w + 0x108, [(n, 0x10000)], 0x0, 0x0, 0x0, 0x0, 0x0, 0x0, 0x0, 0x0, .never⟩,
  ⟨0x100000 * w + 0x110, [(n, 0x10000), (6, 0x8)], 0x0, 0x0, 0x0, 0x0, 0x0, 0x0, 0x0, 0x0, .never⟩,
  ⟨0x100000 * w + 0x180, [(n, 0x10000), (3, 0x8)], 0x0, 0x0, 0x0, 0x0, 0x0, 0x0, 0x0, 0x0, .never⟩,
  ⟨0x100000 * w + 0x200, [(n, 0x10000), (48, 0x8)], 0x0, 0x0, 0x0, 0x0, 0x0, 0x0, 0x0, 0x0, .never⟩]

/-- GRS_CTL, GRS_FMT, GRS_TRG, GRS_TRG_PERIOD, GRS_TRG_PHASE, GRS_TRG_MIN, GRS_STATUS, GRS_CONCEAL, GRS_CONCEAL_POS, GRS_CNT_LINES, GRS_CNT_ERR, GRS_CNT_TRG. -/
def rowsGrs0 : List RegRow := [
  ⟨0x0, [(16, 0x10000)], 0x30, 0xf2, 0x1, 0x0, 0x0, 0x0, 0x0, 0x0, .port⟩,
  ⟨0x8, [(16, 0x10000)], 0x1000004000002000, 0xffffffff3e007fff, 0x0, 0x0, 0x0, 0x0, 0x0, 0x0, .port⟩,
  ⟨0x10, [(16, 0x10000)], 0x6460000, 0xffffc003, 0x0, 0x0, 0x0, 0x0, 0x0, 0x0, .port⟩,
  ⟨0x18, [(16, 0x10000)], 0x138800008000, 0xffffffffffffffff, 0x0, 0x0, 0x0, 0x0, 0x0, 0x0, .port⟩,
  ⟨0x20, [(16, 0x10000)], 0x0, 0xffffffffffffffff, 0x0, 0x0, 0x0, 0x0, 0x0, 0x0, .port⟩,
  ⟨0x28, [(16, 0x10000)], 0x0, 0xfffff, 0x0, 0x0, 0x0, 0x0, 0x0, 0x0, .port⟩,
  ⟨0x30, [(16, 0x10000)], 0x0, 0x0, 0x0, 0x0, 0x0, 0x0, 0x0, 0x0, .port⟩,
  ⟨0x38, [(16, 0x10000)], 0x0, 0x0, 0x0, 0x0, 0x0, 0x0, 0x0, 0x0, .port⟩,
  ⟨0x40, [(16, 0x10000)], 0x0, 0x0, 0x0, 0x0, 0x0, 0x0, 0x0, 0x0, .port⟩,
  ⟨0x48, [(16, 0x10000)], 0x0, 0x0, 0x0, 0x0, 0x0, 0x0, 0x0, 0x0, .port⟩,
  ⟨0x50, [(16, 0x10000)], 0x0, 0x0, 0x0, 0x0, 0x0, 0x0, 0xffffffffffffffff, 0x0, .port⟩,
  ⟨0x58, [(16, 0x10000)], 0x0, 0x0, 0x0, 0x0, 0x0, 0x0, 0xffffffffffffffff, 0x0, .port⟩]

/-- GRS_UART_CFG, GRS_UART_TX, GRS_UART_RX, GRS_UART_STAT, GRS_COR_CTL, GRS_HDR_K, GRS_LIN_ACC, GRS_FF_ACC. -/
def rowsGrs1 : List RegRow := [
  ⟨0x60, [(16, 0x10000)], 0x6c8, 0x0, 0x7ff, 0x0, 0x0, 0x0, 0x0, 0x0, .port⟩,
  ⟨0x68, [(16, 0x10000)], 0x0, 0x0, 0x0, 0x0, 0x0, 0x0, 0x0, 0xff, .port⟩,
  ⟨0x70, [(16, 0x10000)], 0x0, 0x0, 0x0, 0x0, 0x0, 0x0, 0x3ff, 0x0, .port⟩,
  ⟨0x78, [(16, 0x10000)], 0x0, 0x0, 0x0, 0x0, 0x0, 0x0, 0xffffffff00000000, 0x0, .port⟩,
  ⟨0x800, [(16, 0x10000)], 0xff00000000000001, 0xffff00000000000d, 0x0, 0x0, 0x0, 0x0, 0x0, 0x0, .port⟩,
  ⟨0x808, [(16, 0x10000)], 0x800080008000800, 0xffffffffffffffff, 0x0, 0x0, 0x0, 0x0, 0x0, 0x0, .port⟩,
  ⟨0x810, [(16, 0x10000)], 0x0, 0xffff, 0x30fff00000000, 0x0, 0x0, 0x0, 0x0, 0x8000000000000000, .port⟩,
  ⟨0x818, [(16, 0x10000)], 0x40000000, 0xffffffff, 0x7fff00000000, 0x0, 0x0, 0x0, 0x0, 0x8000000000000000, .port⟩]

/-- MSH_CTL, MSH_SRC, MSH_CNT, MSH_CX_CFG, MSH_CX_COMMIT, MSH_CX_TOOK, MSH_CX_DONE_REEL, MSH_CX_WB, MSH_CX_CCM0, MSH_CX_CCM1, MSH_CX_CCM2, MSH_CX_TONE_ACC. -/
def rowsMsh0 : List RegRow := [
  ⟨0x100000, [(16, 0x10000)], 0x0, 0x0, 0x1, 0x0, 0x0, 0x0, 0x0, 0x0, .pipe⟩,
  ⟨0x100008, [(16, 0x10000)], 0x0, 0xffffffffffffffff, 0x0, 0x0, 0x0, 0x0, 0x0, 0x0, .pipe⟩,
  ⟨0x100010, [(16, 0x10000)], 0x0, 0x0, 0x0, 0x0, 0x0, 0x0, 0xffffffff00000000, 0x0, .pipe⟩,
  ⟨0x102000, [(16, 0x10000), (2, 0x2000)], 0x0, 0x3f000000000033, 0x0, 0x0, 0x0, 0x0, 0x0, 0x0, .ctx⟩,
  ⟨0x102008, [(16, 0x10000), (2, 0x2000)], 0x0, 0x0, 0x0, 0x0, 0x0, 0x0, 0x0, 0x1, .ctx⟩,
  ⟨0x102010, [(16, 0x10000), (2, 0x2000)], 0x0, 0x0, 0x0, 0x0, 0x0, 0x0, 0x0, 0x0, .ctx⟩,
  ⟨0x102018, [(16, 0x10000), (2, 0x2000)], 0x0, 0x0, 0x0, 0x0, 0x0, 0x0, 0x0, 0x0, .ctx⟩,
  ⟨0x102040, [(16, 0x10000), (2, 0x2000)], 0x1000100010001000, 0x0, 0x0, 0xffffffffffffffff, 0x0, 0x0, 0x0, 0x0, .ctx⟩,
  ⟨0x102048, [(16, 0x10000), (2, 0x2000)], 0x1000, 0x0, 0x0, 0xffffffffffffffff, 0x0, 0x0, 0x0, 0x0, .ctx⟩,
  ⟨0x102050, [(16, 0x10000), (2, 0x2000)], 0x1000, 0x0, 0x0, 0xffffffffffffffff, 0x0, 0x0, 0x0, 0x0, .ctx⟩,
  ⟨0x102058, [(16, 0x10000), (2, 0x2000)], 0x11000, 0x0, 0x0, 0x1ffff, 0x0, 0x0, 0x0, 0x0, .ctx⟩,
  ⟨0x102080, [(16, 0x10000), (2, 0x2000)], 0x0, 0x0, 0x301ff00000000, 0xffff, 0x0, 0x0, 0x0, 0x8000000000000000, .ctx⟩]

/-- MSH_CX_STATS_CFG, MSH_CX_STATS_BASE, MSH_CX_CNT, STRM_CFG, STRM_CROP, STRM_BASE, STRM_RING, STRM_TAGBASE, STRM_STAT, MSH_CX_ASSIST, MSH_CX_ASSIST_Q, MSH_CX_HOST_BASE. -/
def rowsMsh1 : List RegRow := [
  ⟨0x1020c0, [(16, 0x10000), (2, 0x2000)], 0x100040, 0x0, 0x0, 0xffff0771, 0x0, 0x0, 0x0, 0x0, .ctx⟩,
  ⟨0x1020c8, [(16, 0x10000), (2, 0x2000)], 0x0, 0x0, 0x0, 0xffffffffff, 0x0, 0x0, 0x0, 0x0, .ctx⟩,
  ⟨0x1020d0, [(16, 0x10000), (2, 0x2000)], 0x0, 0x0, 0x0, 0x0, 0x0, 0x0, 0xffffffff, 0x0, .ctx⟩,
  ⟨0x102100, [(16, 0x10000), (2, 0x2000), (4, 0x40)], 0x4000000010, 0x4, 0x0, 0x3fffffff0077f333, 0x0, 0x0, 0x0, 0x0, .ctx⟩,
  ⟨0x102108, [(16, 0x10000), (2, 0x2000), (4, 0x40)], 0x100002000, 0x0, 0x0, 0xffffffff3fff7fff, 0x0, 0x0, 0x0, 0x0, .ctx⟩,
  ⟨0x102110, [(16, 0x10000), (2, 0x2000), (4, 0x40)], 0x0, 0x0, 0x0, 0xffffffffff, 0x0, 0x0, 0x0, 0x0, .ctx⟩,
  ⟨0x102118, [(16, 0x10000), (2, 0x2000), (4, 0x40)], 0x200000000080, 0x0, 0x0, 0xfffff0000ffff, 0x0, 0x0, 0x0, 0x0, .ctx⟩,
  ⟨0x102120, [(16, 0x10000), (2, 0x2000), (4, 0x40)], 0x0, 0x0, 0x0, 0xffffffffff, 0x0, 0x0, 0x0, 0x0, .ctx⟩,
  ⟨0x102128, [(16, 0x10000), (2, 0x2000), (4, 0x40)], 0x0, 0x0, 0x0, 0x0, 0x0, 0x0, 0x0, 0x0, .ctx⟩,
  ⟨0x102200, [(16, 0x10000), (2, 0x2000)], 0x100004002000000, 0xffffffffffff003f, 0x0, 0x0, 0x0, 0x0, 0x0, 0x0, .ctx⟩,
  ⟨0x102208, [(16, 0x10000), (2, 0x2000)], 0x0, 0xfffffffff, 0x0, 0x0, 0x0, 0x0, 0x0, 0x0, .ctx⟩,
  ⟨0x102210, [(16, 0x10000), (2, 0x2000)], 0x0, 0xffffffffffffffff, 0x0, 0x0, 0x0, 0x0, 0x0, 0x0, .ctx⟩]

/-- MSH_CX_ASSIST_STAT, MSH_CX_ASSIST_DONE. -/
def rowsMsh2 : List RegRow := [
  ⟨0x102218, [(16, 0x10000), (2, 0x2000)], 0x0, 0x0, 0x0, 0x0, 0x8000000000000000, 0x0, 0x0, 0x0, .ctx⟩,
  ⟨0x102220, [(16, 0x10000), (2, 0x2000)], 0x0, 0x0, 0x0, 0x0, 0x0, 0x0, 0x0, 0xffff, .ctx⟩]

/-- FLR_STAT, FLR_TRAP, FLR_TRAP_ADDR, FLR_ECC, FLR_ECC_UE, FLR_CNT_ISSUE, FLR_CNT_STALL, FLR_CNT_WAIT, FLR_CNT_IDLE. -/
def rowsFlr0 : List RegRow := [
  ⟨0x800000, [(96, 0x1000)], 0x0, 0x0, 0x0, 0x0, 0x0, 0x0, 0x0, 0x0, .never⟩,
  ⟨0x800008, [(96, 0x1000)], 0x0, 0x0, 0x0, 0x0, 0x8000000000000000, 0x0, 0x0, 0x0, .never⟩,
  ⟨0x800010, [(96, 0x1000)], 0x0, 0x0, 0x0, 0x0, 0x0, 0x0, 0x0, 0x0, .never⟩,
  ⟨0x800018, [(96, 0x1000)], 0x0, 0x0, 0x0, 0x0, 0x0, 0x0, 0xffffffffffffffff, 0x0, .never⟩,
  ⟨0x800020, [(96, 0x1000)], 0x0, 0x0, 0x0, 0x0, 0x8000000000000000, 0x0, 0x0, 0x0, .never⟩,
  ⟨0x800040, [(96, 0x1000)], 0x0, 0x0, 0x0, 0x0, 0x0, 0x0, 0x0, 0x0, .never⟩,
  ⟨0x800048, [(96, 0x1000)], 0x0, 0x0, 0x0, 0x0, 0x0, 0x0, 0x0, 0x0, .never⟩,
  ⟨0x800050, [(96, 0x1000)], 0x0, 0x0, 0x0, 0x0, 0x0, 0x0, 0x0, 0x0, .never⟩,
  ⟨0x800058, [(96, 0x1000)], 0x0, 0x0, 0x0, 0x0, 0x0, 0x0, 0x0, 0x0, .never⟩]

/-- TUN_ECC, TUN_ECC_CE, TUN_ECC_UE. -/
def rowsTun0 : List RegRow := [
  ⟨0x900000, [(4, 0x10000)], 0x0, 0x0, 0x0, 0x0, 0x0, 0x0, 0xffffffffffffffff, 0x0, .never⟩,
  ⟨0x900008, [(4, 0x10000)], 0x0, 0x0, 0x0, 0x0, 0x8000000000000000, 0x0, 0x0, 0x0, .never⟩,
  ⟨0x900010, [(4, 0x10000)], 0x0, 0x0, 0x0, 0x0, 0x8000000000000000, 0x0, 0x0, 0x0, .never⟩]

/-- HOP_STAT, HOP_POOL, HOP_POOL_CFG, HOP_POOL_STAT, HOP_SPILL, HOP_HALO_CFG, HOP_CNT, HOP_CNT_HALO, HOP_JOB_LIST, HOP_JOB_SYNC, HOP_ENT_CFG, HOP_ENT_PT. -/
def rowsHop0 : List RegRow := [
  ⟨0xa00000, [], 0x0, 0x0, 0x0, 0x0, 0x0, 0x0, 0x0, 0x0, .anyJob⟩,
  ⟨0xa00008, [], 0x0, 0xffffffffff, 0x0, 0x0, 0x0, 0x0, 0x0, 0x0, .anyJob⟩,
  ⟨0xa00010, [], 0x14020000000100, 0x0, 0xff3fff00003fff, 0x0, 0x0, 0x0, 0x0, 0x0, .anyJob⟩,
  ⟨0xa00018, [], 0x0, 0x0, 0x0, 0x0, 0x8000000000000000, 0x0, 0x0, 0x0, .anyJob⟩,
  ⟨0xa00020, [], 0x0, 0xffff000fffffc000, 0x0, 0x0, 0x0, 0x0, 0x0, 0x0, .anyJob⟩,
  ⟨0xa00028, [], 0x7d000001388, 0x0, 0xffff000fffff, 0x0, 0x0, 0x0, 0x0, 0x0, .anyJob⟩,
  ⟨0xa00030, [], 0x0, 0x0, 0x0, 0x0, 0x0, 0x0, 0xffffffffffffffff, 0x0, .anyJob⟩,
  ⟨0xa00038, [], 0x0, 0x0, 0x0, 0x0, 0x0, 0x0, 0xffffffffffffffff, 0x0, .anyJob⟩,
  ⟨0xa00800, [(64, 0x10)], 0x40000000000000, 0xffff00ffffffffff, 0x0, 0x0, 0x0, 0x0, 0x0, 0x0, .job⟩,
  ⟨0xa00808, [(64, 0x10)], 0x0, 0x3fff000000000000, 0x0, 0x0, 0x0, 0x0, 0x0, 0x0, .job⟩,
  ⟨0xa10000, [(1024, 0x40)], 0x400800050000, 0xfcf0ff3f000f0001, 0x0, 0x0, 0x0, 0x0, 0x0, 0x0, .entry⟩,
  ⟨0xa10008, [(1024, 0x40)], 0x0, 0xfffffffe00, 0x0, 0x0, 0x0, 0x0, 0x0, 0x0, .entry⟩]

/-- HOP_ENT_NBR, HOP_ENT_SYNC, HOP_ENT_SYNC2, HOP_ENT_STAT, HOP_ENT_STEP, HOP_ENT_DETACH. -/
def rowsHop1 : List RegRow := [
  ⟨0xa10010, [(1024, 0x40)], 0x0, 0xc1f003ffc1f003ff, 0x0, 0x0, 0x0, 0x0, 0x0, 0x0, .entry⟩,
  ⟨0xa10018, [(1024, 0x40)], 0x0, 0x3fff3fff3fff3fff, 0x0, 0x0, 0x0, 0x0, 0x0, 0x0, .entry⟩,
  ⟨0xa10020, [(1024, 0x40)], 0x0, 0x3fff00ffffffffff, 0x0, 0x0, 0x0, 0x0, 0x0, 0x0, .entry⟩,
  ⟨0xa10028, [(1024, 0x40)], 0x0, 0x0, 0x0, 0x0, 0x0, 0x0, 0x0, 0x0, .entry⟩,
  ⟨0xa10030, [(1024, 0x40)], 0x0, 0x0, 0x0, 0x0, 0x0, 0x0, 0x0, 0x0, .entry⟩,
  ⟨0xa10038, [(1024, 0x40)], 0x0, 0x0, 0x0, 0x0, 0x0, 0x0, 0x0, 0x0, .entry⟩]

/-- SCH_STAT, SCH_GUAR, SCH_CFG, SCH_SHARE, SCH_C0_POOL, SCH_RESTART_AT, SCH_RESTART_SCOPE, SCH_RESTART_CTL, SCH_SLOT, SCH_LAG, SCH_JOB_CTL, SCH_JOB_STAT. -/
def rowsSch0 : List RegRow := [
  ⟨0xb00000, [], 0x0, 0x0, 0x0, 0x0, 0x0, 0x0, 0x0, 0x0, .anyJob⟩,
  ⟨0xb00008, [], 0xc40000, 0x0, 0x0, 0x0, 0x8000000000000000, 0x0, 0x0, 0x0, .anyJob⟩,
  ⟨0xb00010, [], 0xa000a01f403e8, 0xffffffffffffffff, 0x0, 0x0, 0x0, 0x0, 0x0, 0x0, .anyJob⟩,
  ⟨0xb00018, [], 0xa00, 0x3f3f, 0x0, 0x0, 0x0, 0x0, 0x0, 0x0, .anyJob⟩,
  ⟨0xb00020, [], 0x0, 0xffff00000fffc000, 0x0, 0x0, 0x0, 0x0, 0x0, 0x0, .anyJob⟩,
  ⟨0xb00028, [], 0x0, 0x0, 0xffffffffffffffff, 0x0, 0x0, 0x0, 0x0, 0x0, .anyJob⟩,
  ⟨0xb00030, [], 0x0, 0x0, 0xffffffffffffffff, 0x0, 0x0, 0x0, 0x0, 0x0, .anyJob⟩,
  ⟨0xb00038, [], 0x0, 0x0, 0x6, 0x0, 0x0, 0x0, 0x0, 0x1, .anyJob⟩,
  ⟨0xb00100, [(23, 0x8)], 0x0, 0x3f3f, 0x0, 0x0, 0x0, 0x0, 0x0, 0x0, .anyJob⟩,
  ⟨0xb00200, [(16, 0x8)], 0x0, 0x0, 0x0, 0x0, 0x0, 0x0, 0x0, 0x0, .anyJob⟩,
  ⟨0xb01000, [(64, 0x100)], 0x0, 0xff000000000000, 0x0, 0x0, 0x0, 0x0, 0x0, 0x3, .job⟩,
  ⟨0xb01008, [(64, 0x100)], 0x0, 0x0, 0x0, 0x0, 0x0, 0x0, 0x0, 0x0, .job⟩]

/-- SCH_JOB_RSV, SCH_JOB_DL, SCH_JOB_SAVE, SCH_JOB_TUN, SCH_JOB_WM, SCH_ACC_WAIT, SCH_ACC_WMAX, SCH_ACC_CNT, SCH_ACC_VERD, SCH_ACC_VERD2, SCH_ACC_HIST. -/
def rowsSch1 : List RegRow := [
  ⟨0xb01010, [(64, 0x100)], 0x0, 0xfffc00007f007f, 0x0, 0x0, 0x0, 0x0, 0x0, 0x0, .job⟩,
  ⟨0xb01018, [(64, 0x100)], 0x2800640064, 0xffff007f007f007f, 0x0, 0x0, 0x0, 0x0, 0x0, 0x0, .job⟩,
  ⟨0xb01020, [(64, 0x100)], 0x0, 0xfffe000fffffc000, 0x0, 0x0, 0x0, 0x0, 0x0, 0x0, .job⟩,
  ⟨0xb01028, [(64, 0x100)], 0x0, 0xffff00000fffc000, 0x0, 0x0, 0x0, 0x0, 0x0, 0x0, .job⟩,
  ⟨0xb01030, [(64, 0x100)], 0x10000000000, 0x0, 0xffff00000000, 0x0, 0x8000000000000000, 0x0, 0x0, 0x0, .job⟩,
  ⟨0xb01080, [(64, 0x100)], 0x0, 0x0, 0x0, 0x0, 0x0, 0x0, 0x0, 0x0, .job⟩,
  ⟨0xb01088, [(64, 0x100)], 0x0, 0x0, 0x0, 0x0, 0x0, 0x0, 0xffffffff, 0x0, .job⟩,
  ⟨0xb01090, [(64, 0x100)], 0x0, 0x0, 0x0, 0x0, 0x0, 0x0, 0x0, 0x0, .job⟩,
  ⟨0xb01098, [(64, 0x100)], 0x0, 0x0, 0x0, 0x0, 0x0, 0x0, 0x0, 0x0, .job⟩,
  ⟨0xb010a0, [(64, 0x100)], 0x0, 0x0, 0x0, 0x0, 0x0, 0x0, 0x0, 0x0, .job⟩,
  ⟨0xb010c0, [(64, 0x100), (8, 0x8)], 0x0, 0x0, 0x0, 0x0, 0x0, 0x0, 0x0, 0x0, .job⟩]

/-- SYN_STAT, SYN_ADD, SYN_OBJ. -/
def rowsSyn0 : List RegRow := [
  ⟨0xc00000, [], 0x0, 0x0, 0x0, 0x0, 0x0, 0x0, 0xffffffff00000000, 0x0, .owner⟩,
  ⟨0xc00008, [], 0x0, 0x0, 0x0, 0x0, 0x0, 0x0, 0x0, 0xfffc0000000000ff, .owner⟩,
  ⟨0xc10000, [(16384, 0x8)], 0x0, 0xfe000000ffffffff, 0x0, 0x0, 0x0, 0x0, 0x0, 0x0, .owner⟩]

/-- MBX_STAT, MBX_CFG, MBX_SIDE, MBX_SEND, MBX_TAKE. -/
def rowsMbx0 : List RegRow := [
  ⟨0xd00000, [], 0x0, 0x0, 0x0, 0x0, 0x0, 0x0, 0xffffffff00000000, 0x0, .owner⟩,
  ⟨0xd10000, [(512, 0x20)], 0x0, 0xfe00c07f00000000, 0x0, 0x0, 0x0, 0x0, 0x0, 0x0, .owner⟩,
  ⟨0xd10008, [(512, 0x20)], 0x0, 0x0, 0x0, 0x0, 0x0, 0x0, 0x0, 0x0, .owner⟩,
  ⟨0xd10010, [(512, 0x20)], 0x0, 0x0, 0x0, 0x0, 0x0, 0x0, 0x0, 0xffffffffffffffff, .owner⟩,
  ⟨0xd10018, [(512, 0x20)], 0x0, 0x0, 0x0, 0x0, 0x0, 0x0, 0xffffffffffffffff, 0x0, .owner⟩]

/-- POS_CFG, POS_TOOTH, POS_REF, POS_REV, POS_CTL, POS_POS, POS_EDGE_REEL, POS_SPEED, POS_STAT, POS_CNT, POS_DISC. -/
def rowsPos0 : List RegRow := [
  ⟨0xe00000, [(8, 0x1000)], 0x427100880, 0x3ffffff1ff3, 0x0, 0x0, 0x0, 0x0, 0x0, 0x0, .posAxis⟩,
  ⟨0xe00008, [(8, 0x1000)], 0x803c, 0x1cfff, 0x0, 0x0, 0x0, 0x0, 0x0, 0x0, .posAxis⟩,
  ⟨0xe00010, [(8, 0x1000)], 0x0, 0xffffffffffff, 0x0, 0x0, 0x0, 0x0, 0x0, 0x0, .posAxis⟩,
  ⟨0xe00018, [(8, 0x1000)], 0x1000, 0xffffffff, 0x0, 0x0, 0x0, 0x0, 0x0, 0x0, .posAxis⟩,
  ⟨0xe00020, [(8, 0x1000)], 0x0, 0x0, 0x1, 0x0, 0x0, 0x0, 0x0, 0x0, .posAxis⟩,
  ⟨0xe00028, [(8, 0x1000)], 0x0, 0x0, 0x0, 0x0, 0x0, 0x0, 0x0, 0x0, .posAxis⟩,
  ⟨0xe00030, [(8, 0x1000)], 0x0, 0x0, 0x0, 0x0, 0x0, 0x0, 0x0, 0x0, .posAxis⟩,
  ⟨0xe00038, [(8, 0x1000)], 0x8000000000000000, 0x0, 0x0, 0x0, 0x0, 0x0, 0x0, 0x0, .posAxis⟩,
  ⟨0xe00040, [(8, 0x1000)], 0x0, 0x0, 0x0, 0x0, 0xc000000000000000, 0x0, 0x0, 0x0, .posAxis⟩,
  ⟨0xe00048, [(8, 0x1000)], 0x0, 0x0, 0x0, 0x0, 0x0, 0x0, 0xffffffffffffffff, 0x0, .posAxis⟩,
  ⟨0xe00050, [(8, 0x1000)], 0x0, 0x0, 0x0, 0x0, 0x0, 0x0, 0x0, 0x0, .posAxis⟩]

/-- CMP_CTL, CMP_STAT, CMP_CNT, CMP_CNT2, CMP_ENTRY_SEL, CMP_ENTRY_W, CMP_VALVE_CFG, CMP_VALVE_COLS, CMP_VALVE_DIST, CMP_VALVE_EXT, CMP_VALVE_DLY, CMP_VALVE_LIM. -/
def rowsCmp0 : List RegRow := [
  ⟨0xf00000, [(8, 0x1000)], 0x0, 0x0, 0x1, 0x0, 0x0, 0x0, 0x0, 0x0, .cmpStopped⟩,
  ⟨0xf00008, [(8, 0x1000)], 0x0, 0x0, 0x0, 0x0, 0x0, 0x0, 0x0, 0x0, .cmpStopped⟩,
  ⟨0xf00010, [(8, 0x1000)], 0x0, 0x0, 0x0, 0x0, 0x0, 0x0, 0xffffffffffffffff, 0x0, .cmpStopped⟩,
  ⟨0xf00018, [(8, 0x1000)], 0x0, 0x0, 0x0, 0x0, 0x0, 0x0, 0xffffffff, 0x0, .cmpStopped⟩,
  ⟨0xf00100, [(8, 0x1000)], 0x0, 0x0, 0xfff, 0x0, 0x0, 0x0, 0x0, 0x0, .cmpStopped⟩,
  ⟨0xf00108, [(8, 0x1000), (5, 0x8)], 0x0, 0x0, 0x0, 0x0, 0x0, 0x0, 0x0, 0x0, .cmpStopped⟩,
  ⟨0xff0000, [(96, 0x40)], 0x40000000000, 0x87f7fc000000ffff, 0x0, 0x0, 0x0, 0x0, 0x0, 0x0, .cmpStopped⟩,
  ⟨0xff0008, [(96, 0x40)], 0x3fff00000000, 0x3fff00003fff, 0x0, 0x0, 0x0, 0x0, 0x0, 0x0, .cmpStopped⟩,
  ⟨0xff0010, [(96, 0x40)], 0x0, 0xffffffffff, 0x0, 0x0, 0x0, 0x0, 0x0, 0x0, .cmpStopped⟩,
  ⟨0xff0018, [(96, 0x40)], 0x0, 0xffffffffffffffff, 0x0, 0x0, 0x0, 0x0, 0x0, 0x0, .cmpStopped⟩,
  ⟨0xff0020, [(96, 0x40)], 0x1b7740001b7740, 0xffffffffffffffff, 0x0, 0x0, 0x0, 0x0, 0x0, 0x0, .cmpStopped⟩,
  ⟨0xff0028, [(96, 0x40)], 0x400064064004e20, 0xffffffffff00ffff, 0x0, 0x0, 0x0, 0x0, 0x0, 0x0, .cmpStopped⟩]

/-- CMP_CPL, CMP_PORT, CMP_JOB, CMP_LATE, CMP_LATE_TAG, CMP_LATE_POS, CMP_LATE_REEL. -/
def rowsCmp1 : List RegRow := [
  ⟨0xff2000, [(96, 0x8)], 0x1900190, 0xfff0fff, 0x0, 0x0, 0x0, 0x0, 0x0, 0x0, .cmpStopped⟩,
  ⟨0xff2400, [(16, 0x8)], 0x0, 0x870000000000003f, 0x0, 0x0, 0x0, 0x0, 0x0, 0x0, .cmpStopped⟩,
  ⟨0xff2800, [(64, 0x8)], 0x0, 0xf0001, 0x0, 0x0, 0x0, 0x0, 0x0, 0x0, .cmpStopped⟩,
  ⟨0xff3000, [], 0x10064, 0x1ffff, 0x0, 0x0, 0x4000000000000000, 0x0, 0x0, 0x0, .cmpStopped⟩,
  ⟨0xff3008, [], 0x0, 0x0, 0x0, 0x0, 0x0, 0x0, 0x0, 0x0, .cmpStopped⟩,
  ⟨0xff3010, [], 0x0, 0x0, 0x0, 0x0, 0x0, 0x0, 0x0, 0x0, .cmpStopped⟩,
  ⟨0xff3018, [], 0x0, 0x0, 0x0, 0x0, 0x0, 0x0, 0x0, 0x0, .cmpStopped⟩]

/-- FIO_STAT, FIO_SAFE, FIO_OUT_LO, FIO_OUT_HI, FIO_IN_W, FIO_IN_C, FIO_GRP_STAT, FIO_GRP_CNT, FIO_CH_CFG, FIO_CH_CMD, FIO_CH_STAT, FIO_CH_CNT. -/
def rowsFio0 : List RegRow := [
  ⟨0x1000000, [], 0xfff0001, 0x0, 0x0, 0x0, 0x0, 0x0, 0x0, 0x0, .fioSafe⟩,
  ⟨0x1000008, [], 0x1, 0x0, 0x0, 0x0, 0x0, 0x0, 0x0, 0xc000000000000000, .fioSafe⟩,
  ⟨0x1000010, [], 0x0, 0x0, 0xffffffffffffffff, 0x0, 0x0, 0x0, 0x0, 0x0, .fioSafe⟩,
  ⟨0x1000018, [], 0x0, 0x0, 0xffffffff, 0x0, 0x0, 0x0, 0x0, 0x0, .fioSafe⟩,
  ⟨0x1000020, [], 0x0, 0x0, 0x0, 0x0, 0x0, 0x0, 0x0, 0x0, .fioSafe⟩,
  ⟨0x1000028, [], 0x0, 0x0, 0x0, 0x0, 0x0, 0x0, 0x0, 0x0, .fioSafe⟩,
  ⟨0x1000800, [(12, 0x10)], 0x8000000000000000, 0x0, 0x0, 0x0, 0x0, 0x0, 0x0, 0x0, .fioSafe⟩,
  ⟨0x1000808, [(12, 0x10)], 0x0, 0x0, 0x0, 0x0, 0x0, 0x0, 0xffffffffffff0000, 0x0, .fioSafe⟩,
  ⟨0x1001000, [(96, 0x20)], 0x1000000000000, 0xf303000000000000, 0x0, 0x0, 0x0, 0x0, 0x0, 0x0, .fioSafe⟩,
  ⟨0x1001008, [(96, 0x20)], 0x0, 0x0, 0x3, 0x0, 0x0, 0x0, 0x0, 0x0, .fioSafe⟩,
  ⟨0x1001010, [(96, 0x20)], 0x0, 0x0, 0x0, 0x0, 0xc000000000000000, 0x0, 0x0, 0x0, .fioSafe⟩,
  ⟨0x1001018, [(96, 0x20)], 0x0, 0x0, 0x0, 0x0, 0x0, 0x0, 0xffffffffffffffff, 0x0, .fioSafe⟩]

/-- FIO_IW_CFG, FIO_IW_STAT, FIO_IC_CFG, FIO_IC_COUNT, FIO_IC_FREQ, FIO_IC_EDGE. -/
def rowsFio1 : List RegRow := [
  ⟨0x1004000, [(32, 0x10)], 0xa0000000000, 0xffffff000000000e, 0x0, 0x0, 0x0, 0x0, 0x0, 0x0, .fioSafe⟩,
  ⟨0x1004008, [(32, 0x10)], 0x0, 0x0, 0x0, 0x0, 0x0, 0x0, 0xff000000, 0x0, .fioSafe⟩,
  ⟨0x1005000, [(32, 0x20)], 0x3e80400000000, 0xffffffff0000001f, 0x0, 0x0, 0x0, 0x0, 0x0, 0x0, .fioSafe⟩,
  ⟨0x1005008, [(32, 0x20)], 0x0, 0x0, 0xffffffff, 0x0, 0x0, 0x0, 0x0, 0x0, .fioSafe⟩,
  ⟨0x1005010, [(32, 0x20)], 0x0, 0x0, 0x0, 0x0, 0x0, 0x0, 0x0, 0x0, .fioSafe⟩,
  ⟨0x1005018, [(32, 0x20)], 0x0, 0x0, 0x0, 0x0, 0x0, 0x0, 0x0, 0x0, .fioSafe⟩]

/-- PNX_CTL, PNX_TX, PNX_STAT, PNX_CNT, PNX_PRBS, PNX_DELAY, PNX_CFG, PNX_CHAIN, PNX_LINK. -/
def rowsPnx0 : List RegRow := [
  ⟨0x1100000, [(28, 0x1000)], 0x0, 0x8f02, 0x5, 0x0, 0x0, 0x0, 0x0, 0x0, .laneOff⟩,
  ⟨0x1100008, [(28, 0x1000)], 0x4300b00, 0xf3f1f00, 0x0, 0x0, 0x0, 0x0, 0x0, 0x0, .laneOff⟩,
  ⟨0x1100010, [(28, 0x1000)], 0x0, 0x0, 0x0, 0x0, 0x0, 0x0, 0x0, 0x0, .stoppedMode⟩,
  ⟨0x1100018, [(28, 0x1000)], 0x0, 0x0, 0x0, 0x0, 0x0, 0x0, 0xffffffffffffffff, 0x0, .stoppedMode⟩,
  ⟨0x1100020, [(28, 0x1000)], 0x0, 0x0, 0x0, 0x0, 0x0, 0x0, 0xffffffff00000000, 0x0, .stoppedMode⟩,
  ⟨0x1100028, [(28, 0x1000)], 0x0, 0x0, 0x0, 0x0, 0x0, 0x0, 0x0, 0x0, .stoppedMode⟩,
  ⟨0x11f0000, [], 0x1f4000a00000000, 0xffffffff00000000, 0x0, 0x0, 0x0, 0x0, 0x0, 0x0, .stoppedMode⟩,
  ⟨0x11f0008, [], 0x0, 0x0, 0x0, 0x0, 0x0, 0x0, 0x0, 0x0, .stoppedMode⟩,
  ⟨0x11f0100, [(5, 0x8)], 0x0, 0x0, 0x0, 0x0, 0x0, 0x0, 0xffffffff00000000, 0x0, .stoppedMode⟩]

/-- TNG_CFG, TNG_CTL, TNG_STAT, TNG_PEER, TNG_HB, TNG_HORIZON, TNG_DIV, TNG_CNT. -/
def rowsTng0 : List RegRow := [
  ⟨0x1200000, [], 0x3e803e800000a00, 0xffffffff00000f03, 0x0, 0x0, 0x0, 0x0, 0x0, 0x0, .stoppedMode⟩,
  ⟨0x1200008, [], 0x0, 0x0, 0x0, 0x0, 0x0, 0x0, 0x0, 0x3, .stoppedMode⟩,
  ⟨0x1200010, [], 0x0, 0x0, 0x0, 0x0, 0x0, 0x0, 0x0, 0x0, .stoppedMode⟩,
  ⟨0x1200018, [], 0x0, 0x0, 0x0, 0x0, 0x0, 0x0, 0x0, 0x0, .stoppedMode⟩,
  ⟨0x1200020, [], 0x0, 0x0, 0x0, 0x0, 0x0, 0x0, 0x0, 0x0, .stoppedMode⟩,
  ⟨0x1200028, [], 0x0, 0x0, 0x0, 0x0, 0x0, 0x0, 0x0, 0x0, .stoppedMode⟩,
  ⟨0x1200030, [], 0x0, 0x0, 0x0, 0x0, 0x8000000000000000, 0x0, 0x0, 0x0, .stoppedMode⟩,
  ⟨0x1200038, [], 0x0, 0x0, 0x0, 0x0, 0x0, 0x0, 0xffffffffffffffff, 0x0, .stoppedMode⟩]

/-- MEM_ECC_STAT, MEM_ECC_CFG, MEM_ECC_CE, MEM_ECC_UE, MEM_FLIP_DATA, MEM_FLIP_CTL, MEM_SPG_CTL, MEM_SPG_FROM, MEM_SPG_TO, MEM_SPG_SUM0, MEM_SPG_SUM1, MEM_SPG_SUM2. -/
def rowsMem0 : List RegRow := [
  ⟨0x1300000, [], 0x0, 0x0, 0x0, 0x0, 0x0, 0x0, 0xffffffffffffffff, 0x0, .never⟩,
  ⟨0x1300008, [], 0x100, 0x0, 0xffffffff, 0x0, 0x0, 0x0, 0x0, 0x0, .never⟩,
  ⟨0x1300010, [], 0x0, 0x0, 0x0, 0x0, 0x8000000000000000, 0x0, 0x0, 0x0, .never⟩,
  ⟨0x1300018, [], 0x0, 0x0, 0x0, 0x0, 0x8000000000000000, 0x0, 0x0, 0x0, .never⟩,
  ⟨0x1300020, [], 0x0, 0x0, 0xffffffffffffffff, 0x0, 0x0, 0x0, 0x0, 0x0, .never⟩,
  ⟨0x1300028, [], 0x0, 0x0, 0xc0ffffffffffffff, 0x0, 0x0, 0x0, 0x0, 0x0, .never⟩,
  ⟨0x1300040, [], 0x0, 0x0, 0x0, 0x0, 0x0, 0x0, 0x0, 0xc000000000000000, .never⟩,
  ⟨0x1300048, [], 0x0, 0x0, 0xffffffffff, 0x0, 0x0, 0x0, 0x0, 0x0, .never⟩,
  ⟨0x1300050, [], 0x0, 0x0, 0xffffffffff, 0x0, 0x0, 0x0, 0x0, 0x0, .never⟩,
  ⟨0x1300058, [], 0x0, 0x0, 0x0, 0x0, 0x0, 0x0, 0x0, 0x0, .never⟩,
  ⟨0x1300060, [], 0x0, 0x0, 0x0, 0x0, 0x0, 0x0, 0x0, 0x0, .never⟩,
  ⟨0x1300068, [], 0x0, 0x0, 0x0, 0x0, 0x0, 0x0, 0x0, 0x0, .never⟩]

/-- MEM_SPG_SUM3, MEM_SPG_SUM4. -/
def rowsMem1 : List RegRow := [
  ⟨0x1300070, [], 0x0, 0x0, 0x0, 0x0, 0x0, 0x0, 0x0, 0x0, .never⟩,
  ⟨0x1300078, [], 0x0, 0x0, 0x0, 0x0, 0x0, 0x0, 0x0, 0x0, .never⟩]

/-- SEC_STAT, SEC_RNG, SEC_ISO, SEC_ISO_CNT, SEC_CERT_SEL, SEC_CERT, SEC_LINK, SEC_WIN, SEC_WIN_JOBS. -/
def rowsSec0 : List RegRow := [
  ⟨0x1400000, [], 0x0, 0x0, 0x0, 0x0, 0x0, 0x0, 0xffff000000000000, 0x0, .window⟩,
  ⟨0x1400008, [], 0x0, 0x0, 0x0, 0x0, 0x0, 0x0, 0xffffffff, 0x0, .window⟩,
  ⟨0x1400010, [], 0x0, 0x0, 0x0, 0x0, 0x8000000000000000, 0x0, 0x0, 0x0, .window⟩,
  ⟨0x1400018, [], 0x0, 0x0, 0x0, 0x0, 0x0, 0x0, 0xffffffff, 0x0, .window⟩,
  ⟨0x1400020, [], 0x0, 0x0, 0x3f, 0x0, 0x0, 0x0, 0x0, 0x0, .window⟩,
  ⟨0x1400028, [], 0x0, 0x0, 0x0, 0x0, 0x0, 0x0, 0x0, 0x0, .window⟩,
  ⟨0x1400100, [(5, 0x8)], 0x0, 0x0, 0x0, 0x0, 0x0, 0x0, 0xffff0000, 0x0, .window⟩,
  ⟨0x1410000, [(512, 0x10)], 0x0, 0xffffffffffffc00f, 0x0, 0x0, 0x0, 0x0, 0x0, 0x0, .window⟩,
  ⟨0x1410008, [(512, 0x10)], 0x0, 0xffffffffffffffff, 0x0, 0x0, 0x0, 0x0, 0x0, 0x0, .window⟩]

/-- PWR_STAT, PWR_MINMAX, PWR_IN, PWR_CNT. -/
def rowsPwr0 : List RegRow := [
  ⟨0x1500000, [], 0x0, 0x0, 0x0, 0x0, 0x8000000000000000, 0x0, 0x0, 0x0, .never⟩,
  ⟨0x1500008, [], 0xffff, 0x0, 0x0, 0x0, 0x0, 0x0, 0xffffffff, 0x0, .never⟩,
  ⟨0x1500010, [], 0x0, 0x0, 0x0, 0x0, 0x0, 0x0, 0x0, 0x0, .never⟩,
  ⟨0x1500018, [], 0x0, 0x0, 0x0, 0x0, 0x0, 0x0, 0xffffffffffff0000, 0x0, .never⟩]

/-- RST_CAUSE, RST_CMD, RST_STAT, RST_BLK, RST_FAULT. -/
def rowsRst0 : List RegRow := [
  ⟨0x1600000, [], 0x1, 0x0, 0x0, 0x0, 0x0, 0x0, 0x0, 0x0, .never⟩,
  ⟨0x1600008, [], 0x0, 0x0, 0x0, 0x0, 0x0, 0x0, 0x0, 0xffffffffc0000007, .never⟩,
  ⟨0x1600010, [], 0x0, 0x0, 0x0, 0x0, 0x0, 0x0, 0x0, 0x0, .never⟩,
  ⟨0x1600018, [], 0x0, 0x0, 0x0, 0x0, 0x0, 0x0, 0xffffffff, 0x0, .never⟩,
  ⟨0x1600020, [], 0x0, 0x0, 0x0, 0x0, 0x0, 0x0, 0x0, 0x0, .never⟩]

/-- MGT_STAT, MGT_WDOG, MGT_WDOG_CFG, MGT_SENS_TEMP, MGT_SENS_COLD, MGT_SENS_RAIL, MGT_NET, MGT_NET_GW, MGT_NET_CTL, MGT_MAC, MGT_NCP_ALLOW, MGT_NCP_STAT. -/
def rowsMgt0 : List RegRow := [
  ⟨0x1700000, [], 0xb000, 0x0, 0x0, 0x0, 0x0, 0x0, 0x0, 0x0, .stoppedOrMinimal⟩,
  ⟨0x1700008, [], 0x7d0, 0x0, 0x0, 0x0, 0x0, 0x0, 0x0, 0xffff000000000000, .stoppedOrMinimal⟩,
  ⟨0x1700010, [], 0x107d0, 0x0, 0x1ffff, 0x0, 0x0, 0x0, 0x0, 0x0, .stoppedOrMinimal⟩,
  ⟨0x1700100, [(6, 0x8)], 0x0, 0x0, 0x0, 0x0, 0x0, 0x0, 0x0, 0x0, .stoppedOrMinimal⟩,
  ⟨0x1700130, [], 0x0, 0x0, 0x0, 0x0, 0x0, 0x0, 0x0, 0x0, .stoppedOrMinimal⟩,
  ⟨0x1700140, [(12, 0x8)], 0x0, 0x0, 0x0, 0x0, 0x0, 0x0, 0x0, 0x0, .stoppedOrMinimal⟩,
  ⟨0x1700200, [], 0x0, 0x0, 0x3fffffffff, 0x0, 0x0, 0x0, 0x0, 0x0, .stoppedOrMinimal⟩,
  ⟨0x1700208, [], 0x0, 0x0, 0xffffffff, 0x0, 0x0, 0x0, 0x0, 0x0, .stoppedOrMinimal⟩,
  ⟨0x1700210, [], 0x0, 0x0, 0x0, 0x0, 0x0, 0x0, 0x0, 0x8000000000000000, .stoppedOrMinimal⟩,
  ⟨0x1700218, [], 0x0, 0x0, 0x0, 0x0, 0x0, 0x0, 0x0, 0x0, .stoppedOrMinimal⟩,
  ⟨0x1700220, [(4, 0x8)], 0x0, 0x1ffffffff, 0x0, 0x0, 0x0, 0x0, 0x0, 0x0, .stoppedOrMinimal⟩,
  ⟨0x1700240, [], 0x0, 0x0, 0x0, 0x0, 0x0, 0x0, 0xffffffff, 0x0, .stoppedOrMinimal⟩]

/-- MGT_SPI_STAT, MGT_PCIE_STAT, MGT_IRQ, MGT_IRQ_MASK, MGT_DUMP, MGT_UPD_CTL, MGT_UPD_DATA, MGT_UPD_STAT, MGT_HANG. -/
def rowsMgt1 : List RegRow := [
  ⟨0x1700280, [], 0x0, 0x0, 0x0, 0x0, 0x8000000000000000, 0x0, 0xfffffffffffffff, 0x0, .stoppedOrMinimal⟩,
  ⟨0x17002c0, [], 0x0, 0x0, 0x0, 0x0, 0x0, 0x0, 0xffff, 0x0, .stoppedOrMinimal⟩,
  ⟨0x17002c8, [], 0x100, 0x0, 0x3f3f, 0x0, 0x0, 0x0, 0x0, 0x0, .stoppedOrMinimal⟩,
  ⟨0x17002d0, [], 0x0, 0x0, 0xffffffffffffffff, 0x0, 0x0, 0x0, 0x0, 0x0, .stoppedOrMinimal⟩,
  ⟨0x1700300, [], 0x0, 0x0, 0x0, 0x0, 0x0, 0x0, 0x0, 0xc000000000000000, .stoppedOrMinimal⟩,
  ⟨0x1700400, [], 0x0, 0x0, 0x1ffffffff, 0x0, 0x0, 0x0, 0x0, 0xe000000000000000, .stoppedOrMinimal⟩,
  ⟨0x1700408, [], 0x0, 0x0, 0x0, 0x0, 0x0, 0x0, 0x0, 0xffffffffffffffff, .stoppedOrMinimal⟩,
  ⟨0x1700410, [], 0x0, 0x0, 0x0, 0x0, 0x0, 0x0, 0x0, 0x0, .stoppedOrMinimal⟩,
  ⟨0x1701000, [(64, 0x8)], 0x0, 0x0, 0x1ffff, 0x0, 0x0, 0x0, 0x0, 0x0, .stoppedOrMinimal⟩]

/-- TIM_BASE, TIM_REEL, TIM_WALL, TIM_LATCH, TIM_LATCH_B, TIM_LATCH_R, TIM_LATCH_W, TIM_REEL_STAT, TIM_REEL_ROOT, TIM_WALL_RATE, TIM_WALL_ADJ, TIM_WALL_STAT. -/
def rowsTim0 : List RegRow := [
  ⟨0x1800000, [], 0x0, 0x0, 0x0, 0x0, 0x0, 0x0, 0x0, 0x0, .ptpOff⟩,
  ⟨0x1800008, [], 0x0, 0x0, 0x0, 0x0, 0x0, 0x0, 0x0, 0x0, .ptpOff⟩,
  ⟨0x1800010, [], 0x0, 0x0, 0x0, 0x0, 0x0, 0x0, 0x0, 0x0, .ptpOff⟩,
  ⟨0x1800018, [], 0x0, 0x0, 0x0, 0x0, 0x0, 0x0, 0x0, 0x1, .ptpOff⟩,
  ⟨0x1800020, [], 0x0, 0x0, 0x0, 0x0, 0x0, 0x0, 0x0, 0x0, .ptpOff⟩,
  ⟨0x1800028, [], 0x0, 0x0, 0x0, 0x0, 0x0, 0x0, 0x0, 0x0, .ptpOff⟩,
  ⟨0x1800030, [], 0x0, 0x0, 0x0, 0x0, 0x0, 0x0, 0x0, 0x0, .ptpOff⟩,
  ⟨0x1800040, [], 0x0, 0x0, 0x0, 0x0, 0x0, 0x0, 0x0, 0x0, .ptpOff⟩,
  ⟨0x1800048, [], 0x0, 0x0, 0x0, 0x0, 0x0, 0x0, 0x0, 0x0, .ptpOff⟩,
  ⟨0x1800050, [], 0x10000000000, 0x0, 0xffffffffffff, 0x0, 0x0, 0x0, 0x0, 0x0, .ptpOff⟩,
  ⟨0x1800058, [], 0x0, 0x0, 0x0, 0x0, 0x0, 0x0, 0x0, 0xffffffffffffffff, .ptpOff⟩,
  ⟨0x1800060, [], 0x0, 0x0, 0x0, 0x0, 0x0, 0x0, 0xffffffff, 0x0, .ptpOff⟩]

/-- TIM_PTP_CFG, TIM_PTP_MASTER, TIM_PTP_LAT, TIM_PTP_RX, TIM_PTP_TX. -/
def rowsTim1 : List RegRow := [
  ⟨0x1800080, [], 0xbb8000000000000, 0xffff00000000ff02, 0x1, 0x0, 0x0, 0x0, 0x0, 0x0, .ptpOff⟩,
  ⟨0x1800088, [(2, 0x8)], 0x0, 0x0, 0xffffffffffffffff, 0x0, 0x0, 0x0, 0x0, 0x0, .ptpOff⟩,
  ⟨0x1800098, [], 0x0, 0xffffffffffffffff, 0x0, 0x0, 0x0, 0x0, 0x0, 0x0, .ptpOff⟩,
  ⟨0x18000a0, [(4, 0x8)], 0x0, 0x0, 0x0, 0x0, 0x0, 0x0, 0xffff, 0x0, .ptpOff⟩,
  ⟨0x18000c0, [(4, 0x8)], 0x0, 0x0, 0x0, 0x0, 0x0, 0x0, 0xffff, 0x0, .ptpOff⟩]

/-- TRC_REC_CTL, TRC_REC_RING, TRC_REC_WPTR, TRC_REC_CKPT, TRC_REC_CNT, TRC_REC_PERM, TRC_EXPORT_ADDR, TRC_EXPORT_CTL, TRC_REC_PORT, TRC_RPL_FROM, TRC_RPL_TO, TRC_RPL_STAT. -/
def rowsTrc0 : List RegRow := [
  ⟨0x1908000, [], 0x320064001f00, 0x7ffffffff001f00, 0x1, 0x0, 0x0, 0x8000000000000000, 0x0, 0x0, .recOff⟩,
  ⟨0x1908008, [], 0x0, 0xffff000ffff00000, 0x0, 0x0, 0x0, 0x0, 0x0, 0x0, .recOff⟩,
  ⟨0x1908010, [], 0x0, 0x0, 0x0, 0x0, 0x0, 0x0, 0x0, 0x0, .recOff⟩,
  ⟨0x1908018, [], 0x0, 0x0, 0x0, 0x0, 0x0, 0x0, 0x0, 0x0, .recOff⟩,
  ⟨0x1908020, [], 0x0, 0x0, 0x0, 0x0, 0x0, 0x0, 0xffffffffffffffff, 0x0, .recOff⟩,
  ⟨0x1908028, [], 0x0, 0x0, 0x0, 0x0, 0x0, 0x0, 0x0, 0x0, .recOff⟩,
  ⟨0x1908030, [], 0x0, 0x0, 0xffffffffffffffff, 0x0, 0x0, 0x0, 0x0, 0x0, .never⟩,
  ⟨0x1908038, [], 0x0, 0x0, 0x3fffffffffffffff, 0x0, 0x0, 0x0, 0x0, 0x8000000000000000, .never⟩,
  ⟨0x1908100, [(16, 0x8)], 0x1000000000000, 0xffff3fff3fff0003, 0x0, 0x0, 0x0, 0x0, 0x0, 0x0, .recOff⟩,
  ⟨0x1908200, [], 0x0, 0xfffffffff, 0x0, 0x0, 0x0, 0x0, 0x0, 0x0, .stoppedMode⟩,
  ⟨0x1908208, [], 0x0, 0xfffffffff, 0x0, 0x0, 0x0, 0x0, 0x0, 0x0, .stoppedMode⟩,
  ⟨0x1908210, [], 0x0, 0x0, 0x0, 0x0, 0x0, 0x0, 0xffffffff00000000, 0x0, .stoppedMode⟩]

/-- TRC_RPL_DIV, TRC_JOB_STEP, TRC_JOB_SEED0, TRC_JOB_SEED1, TRC_JOB_STEPCFG, TRC_TRACE_CTL, TRC_TRACE_JOBS, TRC_TRACE_RING, TRC_TRACE_WIDX, TRC_TRACE_RIDX, TRC_TRACE_CNT, TRC_PROF. -/
def rowsTrc1 : List RegRow := [
  ⟨0x1908218, [], 0x0, 0x0, 0x0, 0x0, 0x8000000000000000, 0x0, 0x0, 0x0, .stoppedMode⟩,
  ⟨0x1909000, [(64, 0x20)], 0x0, 0x0, 0x0, 0x0, 0x0, 0x0, 0x0, 0x0, .job⟩,
  ⟨0x1909008, [(64, 0x20)], 0x0, 0xffffffffffffffff, 0x0, 0x0, 0x0, 0x0, 0x0, 0x0, .job⟩,
  ⟨0x1909010, [(64, 0x20)], 0x0, 0xffffffffffffffff, 0x0, 0x0, 0x0, 0x0, 0x0, 0x0, .job⟩,
  ⟨0x1909018, [(64, 0x20)], 0x0, 0x3fff03ff00000000, 0x0, 0x0, 0x0, 0x0, 0x0, 0x0, .job⟩,
  ⟨0x1900000, [], 0x7f00, 0x0, 0x7f03, 0x0, 0x0, 0x0, 0x0, 0x0, .traceOff⟩,
  ⟨0x1900008, [], 0xffffffffffffffff, 0x0, 0xffffffffffffffff, 0x0, 0x0, 0x0, 0x0, 0x0, .traceOff⟩,
  ⟨0x1900010, [], 0x0, 0xffff000ffffff000, 0x0, 0x0, 0x0, 0x0, 0x0, 0x0, .traceOff⟩,
  ⟨0x1900018, [], 0x0, 0x0, 0x0, 0x0, 0x0, 0x0, 0x0, 0x0, .traceOff⟩,
  ⟨0x1900020, [], 0x0, 0x0, 0xffffffffffffffff, 0x0, 0x0, 0x0, 0x0, 0x0, .traceOff⟩,
  ⟨0x1900028, [], 0x0, 0x0, 0x0, 0x0, 0x0, 0x0, 0xffffffffffffffff, 0x0, .traceOff⟩,
  ⟨0x1900040, [], 0x2, 0x0, 0xfff0003, 0x0, 0x0, 0x0, 0x0, 0x0, .never⟩]

/-- TRC_SNAP_CTL, TRC_SNAP_TICK, TRC_SNAP_SEL, TRC_SNAP_DATA, TRC_JOB_BUSY, TRC_JOB_STALL, TRC_JOB_ISSUE. -/
def rowsTrc2 : List RegRow := [
  ⟨0x1900100, [], 0x0, 0x0, 0x400000000000ffff, 0x0, 0x0, 0x0, 0x0, 0x8000000000000000, .never⟩,
  ⟨0x1900108, [], 0x0, 0x0, 0xffffffffffffffff, 0x0, 0x0, 0x0, 0x0, 0x0, .never⟩,
  ⟨0x1900110, [], 0x0, 0x0, 0x1fffff8, 0x0, 0x0, 0x0, 0x0, 0x0, .never⟩,
  ⟨0x1900118, [], 0x0, 0x0, 0x0, 0x0, 0x0, 0x0, 0x0, 0x0, .never⟩,
  ⟨0x190a000, [(64, 0x40)], 0x0, 0x0, 0x0, 0x0, 0x0, 0x0, 0x0, 0x0, .job⟩,
  ⟨0x190a008, [(64, 0x40), (6, 0x8)], 0x0, 0x0, 0x0, 0x0, 0x0, 0x0, 0x0, 0x0, .job⟩,
  ⟨0x190a038, [(64, 0x40)], 0x0, 0x0, 0x0, 0x0, 0x0, 0x0, 0x0, 0x0, .job⟩]

/-- LOG_STAT, LOG_CNT, LOG_RD_SEQ, LOG_RD_W. -/
def rowsLog0 : List RegRow := [
  ⟨0x1a00000, [], 0x0, 0x0, 0x0, 0x0, 0x0, 0x0, 0x0, 0x0, .never⟩,
  ⟨0x1a00008, [], 0x0, 0x0, 0x0, 0x0, 0x0, 0x0, 0xffffffffffff0000, 0x0, .never⟩,
  ⟨0x1a00010, [], 0x0, 0x0, 0xffffffff, 0x0, 0x0, 0x0, 0x0, 0x0, .never⟩,
  ⟨0x1a00018, [(8, 0x8)], 0x0, 0x0, 0x0, 0x0, 0x0, 0x0, 0x0, 0x0, .never⟩]

/-- KILN_STAT, KILN_CFG, KILN_CTL, KILN_CNT, KILN_SENS_FAIL, KILN_POWER, KILN_ISL. -/
def rowsKiln0 : List RegRow := [
  ⟨0x1b00000, [], 0x0, 0x0, 0x0, 0x0, 0x0, 0x0, 0x0, 0x0, .stoppedOrMinimal⟩,
  ⟨0x1b00008, [], 0x370, 0x1ffff, 0x0, 0x0, 0x0, 0x0, 0x0, 0x0, .stoppedOrMinimal⟩,
  ⟨0x1b00010, [], 0x0, 0x0, 0x0, 0x0, 0x0, 0x0, 0x0, 0x800000000000007f, .stoppedOrMinimal⟩,
  ⟨0x1b00018, [], 0x0, 0x0, 0x0, 0x0, 0x0, 0x0, 0xffffffffffffffff, 0x0, .stoppedOrMinimal⟩,
  ⟨0x1b00020, [], 0x0, 0x0, 0x0, 0x0, 0x0, 0x0, 0x0, 0x0, .stoppedOrMinimal⟩,
  ⟨0x1b00028, [], 0x0, 0x0, 0x0, 0x0, 0x0, 0x0, 0x0, 0x0, .stoppedOrMinimal⟩,
  ⟨0x1b00100, [(40, 0x8)], 0x0, 0x0, 0x0, 0x0, 0x0, 0x0, 0x0, 0x0, .stoppedOrMinimal⟩]

/-- CEL_STAT, CEL_BKP0, CEL_BKP1, CEL_BKP2, CEL_BKP3, CEL_BKPN, CEL_CAL_SRC, CEL_CAL_CTL, CEL_CAL_STAT. -/
def rowsCel0 : List RegRow := [
  ⟨0x1c00000, [], 0x0, 0x0, 0x0, 0x0, 0x2000000000000000, 0x0, 0xffffffff, 0x0, .never⟩,
  ⟨0x1c00100, [], 0x0, 0x0, 0x0, 0x0, 0x0, 0x0, 0x0, 0x0, .never⟩,
  ⟨0x1c00108, [], 0x0, 0x0, 0x0, 0x0, 0x0, 0x0, 0x0, 0x0, .never⟩,
  ⟨0x1c00110, [], 0x0, 0x0, 0x0, 0x0, 0x0, 0x0, 0x0, 0x0, .never⟩,
  ⟨0x1c00118, [], 0x0, 0x0, 0x0, 0x0, 0x0, 0x0, 0x0, 0x0, .never⟩,
  ⟨0x1c00120, [(28, 0x8)], 0x0, 0x0, 0xffffffffffffffff, 0x0, 0x0, 0x0, 0x0, 0x0, .never⟩,
  ⟨0x1c00200, [], 0x0, 0x0, 0xfffffffff, 0x0, 0x0, 0x0, 0x0, 0x0, .never⟩,
  ⟨0x1c00208, [], 0x0, 0x0, 0x3fffff, 0x0, 0x0, 0x0, 0x0, 0x8000000000000000, .never⟩,
  ⟨0x1c00210, [], 0x0, 0x0, 0x0, 0x0, 0x0, 0x0, 0x0, 0x0, .never⟩]

/-- ID_PART, ID_SERIAL, ID_HARVEST. -/
def rowsId0 : List RegRow := [
  ⟨0x1f00000, [], 0x4e599a1601020100, 0x0, 0x0, 0x0, 0x0, 0x0, 0x0, 0x0, .never⟩,
  ⟨0x1f00008, [], 0x0, 0x0, 0x0, 0x0, 0x0, 0x0, 0x0, 0x0, .never⟩,
  ⟨0x1f00010, [], 0x0, 0x0, 0x0, 0x0, 0x0, 0x0, 0x0, 0x0, .never⟩]

/-- The registers whose offsets lie in 1 MB window `w` of the control space (R29). -/
def regRows (w : Nat) : List RegRow :=
  match w with
  | 0 => rowsGrs0 ++ rowsGrs1
  | 1 => rowsMsh0 ++ rowsMsh1 ++ rowsMsh2
  | 2 => engRows 2 4
  | 3 => engRows 3 8
  | 4 => engRows 4 4
  | 5 => engRows 5 4
  | 6 => engRows 6 2
  | 7 => engRows 7 1
  | 8 => rowsFlr0
  | 9 => rowsTun0
  | 10 => rowsHop0 ++ rowsHop1
  | 11 => rowsSch0 ++ rowsSch1
  | 12 => rowsSyn0
  | 13 => rowsMbx0
  | 14 => rowsPos0
  | 15 => rowsCmp0 ++ rowsCmp1
  | 16 => rowsFio0 ++ rowsFio1
  | 17 => rowsPnx0
  | 18 => rowsTng0
  | 19 => rowsMem0 ++ rowsMem1
  | 20 => rowsSec0
  | 21 => rowsPwr0
  | 22 => rowsRst0
  | 23 => rowsMgt0 ++ rowsMgt1
  | 24 => rowsTim0 ++ rowsTim1
  | 25 => rowsTrc0 ++ rowsTrc1 ++ rowsTrc2
  | 26 => rowsLog0
  | 27 => rowsKiln0
  | 28 => rowsCel0
  | 31 => rowsId0
  | _ => []

/-- The indices of an offset `o` from an array's base, or none where it meets no register of the array. -/
def dimIdx : List (Nat × Nat) → Nat → Option (List Nat)
  | [], o => if o = 0 then some [] else none
  | (n, st) :: ds, o => if o / st < n then (dimIdx ds (o % st)).map (o / st :: ·) else none

/-- The row of `rows` that holds control offset `o`, with the indices of the register there. -/
def findRow : List RegRow → Nat → Option (RegRow × List Nat)
  | [], _ => none
  | r :: rs, o =>
    if r.base ≤ o then
      match dimIdx r.dims (o - r.base) with
      | some ix => some (r, ix)
      | none => findRow rs o
    else findRow rs o

/-- The register at control offset `o`, none where the offset is unmapped (R13). -/
def regAt (o : Nat) : Option (RegRow × List Nat) := findRow (regRows (o / 0x100000)) o

/-- The boot table's address, prefix and gateway where the NVM holds none (R467): 192.168.94.16, prefix 24, no gateway. -/
def bootNet : Nat := 24 * 2 ^ 32 + 0xC0A85E10

/-- The reset value of the register at control offset `o` (R16): the register tables' values; the per-unit registers from
Config (log entry 5); MSH_SRC by pipeline (R108); retained and per-NVM registers as on a part with an empty NVM (log entries
7 and 8). An offset that no register occupies reads 0 (R13). -/
def regReset (o : Nat) : Word :=
  match regAt o with
  | none => 0
  | some (r, ix) =>
    if o = R.idSerial then Config.idSerial
    else if o = R.idHarvest then
      BitVec.ofNat 64 ((80 + Config.spareClusters.val) * 2 ^ 40 + Config.sparesFused.toNat * 2 ^ 32
        + 64 * (80 + Config.spareClusters.val))
    else if o = R.mgtMac then Config.mac.setWidth 64
    else if o = R.timPtpLat then Config.ptpLat
    else if o = R.secCertSel then BitVec.ofNat 64 (Config.certLen.toNat * 64)
    else if o = R.secCert then Config.certWord 0
    else if o = R.mgtNet then BitVec.ofNat 64 bootNet
    else if o = R.logStat then BitVec.ofNat 64 (2 ^ 32)
    else if r.base = R.mshSrc 0 then BitVec.ofNat 64 (0x8000 + 0x101 * ix.headD 0)
    else if 2 ≤ o / 0x100000 ∧ o / 0x100000 ≤ 7 ∧ o % 0x10000 = 0x18 then
      (Config.physEngine (o / 0x100000) (o % 0x100000 / 0x10000)).setWidth 64
    else BitVec.ofNat 64 r.reset

end Sys2Proof.Machine
end

