-- ==== Sys2Proof/Machine/Sparse.lean ====
section
/-!
DEFINITION. Sparse tables: a list of (key, value) pairs in one canonical form (keys strictly rising, no entry equal to what
an unlisted key reads as), so that equal tables are equal lists. Data memory, the register file and the per-instance state
of every block are held in this form.
-/

namespace Sys2Proof.Machine

variable {α : Type}

/-- The entry of key `k`, or what an unlisted key reads as. -/
def spGet (dflt : Nat → α) : List (Nat × α) → Nat → α
  | [], k => dflt k
  | (a, x) :: t, k => if a = k then x else spGet dflt t k

/-- `l` with the entry `(k, v)` at its place, an entry of `k` replaced. -/
def spIns : List (Nat × α) → Nat → α → List (Nat × α)
  | [], k, v => [(k, v)]
  | (a, x) :: t, k, v =>
    if a < k then (a, x) :: spIns t k v
    else if a = k then (k, v) :: t
    else (k, v) :: (a, x) :: t

/-- `l` with every entry of `k` removed. -/
def spDel : List (Nat × α) → Nat → List (Nat × α)
  | [], _ => []
  | (a, x) :: t, k => if a = k then spDel t k else (a, x) :: spDel t k

/-- `l` with key `k` reading as `v`: a value that an unlisted key reads as removes the entry. -/
def spPut [DecidableEq α] (dflt : Nat → α) (l : List (Nat × α)) (k : Nat) (v : α) : List (Nat × α) :=
  if v = dflt k then spDel l k else spIns l k v

/-- Every key of `l` is above `lo` and the keys rise strictly. -/
def spAbove : Nat → List (Nat × α) → Bool
  | _, [] => true
  | lo, (a, _) :: t => decide (lo < a) && spAbove a t

/-- The keys of `l` rise strictly. -/
def spSorted : List (Nat × α) → Bool
  | [] => true
  | (a, _) :: t => spAbove a t

/-- No entry of `l` equals what an unlisted key reads as. -/
def spLean [DecidableEq α] (dflt : Nat → α) : List (Nat × α) → Bool
  | [] => true
  | (a, x) :: t => decide (x ≠ dflt a) && spLean dflt t

/-- The canonical form. -/
def spWf [DecidableEq α] (dflt : Nat → α) (l : List (Nat × α)) : Bool := spSorted l && spLean dflt l

end Sys2Proof.Machine
end

