-- ==== Sys2Proof/Syntax.lean ====
section
/-!
DEFINITION. The commands of the SX9: one constructor per row of spec/opcode_table.json, with the row's operands.

Every constructor's first operand is `dt`: how many ns of the base counter (R441) passed since the command before it.
An operand with a default is one whose command can come without it: the default then says that nothing of it came.
An operand `agent` is the agent ID (R33) of the control interface that made the access.
What the outside world brings (a camera line, a cell on a lane, a sensor sample) is an operand of its row.
-/

namespace Sys2Proof

/-- One LV-high period as the port receives it (R43): what the pairs carried between the LV rise and the LV fall.
`dt` of the command leads to the LV rise; `tPix` and `tEnd` are ns from the LV rise to the last pixel and to the LV fall. -/
structure LineIn where
  /-- BV as sampled at the LV rise (R46). -/
  bvRise : Bool
  /-- BV as sampled at the LV fall (R46). -/
  bvFall : Bool
  /-- DV was high while LV was low before the line (R42). -/
  strayDv : Bool
  /-- LV fell before the trailer ended (R60 kind 0x4). -/
  short : Bool
  /-- The DV-high periods, each as the 12 bits of its rising and of its falling beat (R40, R41). -/
  dv : List (Nat × Nat)
  /-- The trailer periods received, each as its rising beat and its falling beat (R44). -/
  trailer : List (Nat × Nat)
  /-- CLK periods from edge C of a pending commit to this LV rise (R88); 0 when no commit has completed. -/
  clkSinceC : Nat
  tPix : Nat
  tEnd : Nat
  deriving DecidableEq, Repr

/-- A line as the lead's Grist releases it and forwards it (R319): pixels after concealment, tag words, exposures. -/
structure FwdLine where
  /-- The four tag words (R59). -/
  tag0 : Word
  tag1 : Word
  tag2 : Word
  tag3 : Word
  /-- Pixels of the line, one list per exposure (R45). -/
  exps : List (List Nat)
  /-- True for the end-of-block marker of R66, which carries no pixels. -/
  marker : Bool
  deriving DecidableEq, Repr

/-- A cell as its 76 bytes are found on a lane (R294): the header word, the 64 payload bytes, enciphered where they are (R310), and
the CRC-32C. -/
structure Cell where
  hdr : Word
  payload : List Byte
  crc : BitVec 32
  deriving DecidableEq, Repr

/-- A POS edge record (R238), as written by POS or forwarded by the lead. -/
structure EdgeRec where
  reel : Int
  count : Int
  axis : Nat
  kind : Nat
  back : Bool
  corr : Bool
  step : Int
  deriving DecidableEq, Repr

/-- The header of an NCP datagram as received (R429) and the place of one operation in it. -/
structure NcpHdr where
  /-- Source IPv4 address and UDP port. -/
  srcIp : Nat
  srcPort : Nat
  magic : Nat
  version : Nat
  kind : Nat
  seq : Nat
  nops : Nat
  /-- The datagram's length agrees with NOPS and the operations' data. -/
  lengthOk : Bool
  /-- Bytes the whole response would take (R431). -/
  respLen : Nat
  /-- Index of this operation in the datagram, from 0. -/
  index : Nat
  deriving DecidableEq, Repr

/-- What a unit reports to a restart request (R213): the lagging units, empty when all are APPLIED. -/
structure Lag where
  pos : Nat
  follower : Bool
  block : Nat
  inst : Nat
  reason : Nat
  offset : Nat
  deriving DecidableEq, Repr

/-- What a twin module says of itself in its PAIR cells (R318, R380). -/
structure PeerId where
  serial : Word
  twinB : Bool
  arithRev : Nat
  /-- First 8 bytes of the SHA-384 package digest, standing for the whole digest's comparison (R411). -/
  digest : Word
  digestEq : Bool
  /-- The peer's TNG_STAT.STATE. -/
  state : Nat
  deriving DecidableEq, Repr

/-- What a PAIR cell's step of the agreement came to at this end (R380). -/
inductive PairStep where
  /-- Certificate, ephemeral key and signature received and valid; the agreement goes on. -/
  | hello
  /-- The confirmation matched: the keys stand. -/
  | confirm
  /-- The agreement failed with a reason of R385 (0x1 certificate, 0x2 signature, 0x3 confirmation). -/
  | fail (reason : Nat)
  deriving DecidableEq, Repr

/-- What changes a host link (R437). -/
inductive PcieEvent where
  | up (width speed : Nat)
  | down
  | perst
  | flr
  | d3hot
  deriving DecidableEq, Repr

/-- What a start phase found in the outside world (R404): each check that the phase makes. -/
structure PhaseFacts where
  /-- The failed-start reason of R415 that the phase met in the outside world, or 0; in phase NVM 0x05 when the package's signature
  or its signer's certificate does not verify (R411). -/
  reason : Nat
  /-- Octal training of the NVM failed (R403), phase NVM. -/
  nvmSingle : Bool
  /-- Records with unknown keys, as (type, keys skipped) (R412). -/
  unknown : List (Nat × Nat)
  /-- SECDED errors met in the cellar, as (offset, 1 corrected or 2 uncorrectable) (R401), phase BOOT. -/
  cellarEcc : List (Nat × Nat)
  deriving DecidableEq, Repr

/-- A command of the block: one constructor per row of the table. -/
inductive Instr where
  /-- REGISTER_WRITE (R25). -/
  | registerWrite (dt agent off : Nat) (val : Word)
  /-- EVENTS_LOST (R35), of the unit with event block code `blk` and instance `inst`. -/
  | eventsLost (dt blk inst : Nat)
  /-- RUN_TIMEOUT (R509), of the run of event (`blk`, `loc`) of instance `inst`; `unit` tells runs of one instance apart
  (a channel of FIO, a job of SCH), else 0. -/
  | runTimeout (dt blk loc inst unit : Nat)
  /-- LOG_WRITE (R465); `fails` is how many of the NVM program attempts failed (0, 1 or 2). -/
  | logWrite (dt fails : Nat)
  -- camera ports
  | portLocked (dt p : Nat) (idle : List (Nat × Bool) := []) (eye : List Nat := [])
  | portRetrain (dt p : Nat) (idle : List (Nat × Bool)) (eye : List Nat := [])
  | line (dt p : Nat) (l : LineIn)
  | concealTimeout (dt p : Nat)
  | triggerFire (dt p : Nat)
  | timerTrigger (dt p : Nat)
  | trgPulseEnd (dt p : Nat)
  /-- CLK_LOSS (R66); `part` is the line in progress, if any, as far as it was received. -/
  | clkLoss (dt p : Nat) (part : Option LineIn)
  | portStop (dt agent p : Nat) (part : Option (LineIn × Nat) := none)
  | stopExposureTimeout (dt p : Nat)
  | uartTx (dt agent p : Nat) (val : Word)
  | uartTxByte (dt p : Nat)
  | uartRxByte (dt p : Nat) (b : Byte) (ferr : Bool)
  | uartRxRead (dt agent p : Nat)
  | linStore (dt agent p e index data : Nat)
  | linSelect (dt agent p e index : Nat)
  | ffStore (dt agent p index gain offset : Nat)
  | ffSelect (dt agent p index : Nat)
  -- image pipelines and contexts
  | toneStore (dt agent c ch index knot : Nat)
  | toneSelect (dt agent c ch index : Nat)
  | commit (dt agent c : Nat) (val : Word)
  | commitComplete (dt c : Nat)
  | pipelineLine (dt pl : Nat)
  | streamLineWritten (dt pl : Nat)
  | statsRecordWritten (dt c : Nat)
  | assistSlotCopy (dt c : Nat)
  | assistDone (dt agent c : Nat) (val : Word)
  | pipelineStop (dt agent pl : Nat)
  -- engines: `e` is the engine instance by the numbering of SCH_SLOT (R225)
  /-- COMMAND_WRITE (R120); `job` is the job of a writing core (R121). -/
  | commandWrite (dt agent job addr : Nat) (bytes : List Byte)
  | sync (dt e : Nat)
  | conv (dt e : Nat)
  | gemm (dt e : Nat)
  | attn (dt e : Nat)
  | norm (dt e : Nat)
  | reduce (dt e : Nat)
  | pool (dt e : Nat)
  | eltwise (dt e : Nat)
  | copy (dt e : Nat)
  | zcomp (dt e : Nat)
  | zdecomp (dt e : Nat)
  | audit (dt e : Nat)
  | assemble (dt e : Nat)
  | head (dt e : Nat)
  | commandComplete (dt e : Nat)
  | cmdFault (dt e : Nat)
  | preempted (dt e : Nat)
  /-- TRANSLATION_MISS (R174): engine `e` looks up Hopper entry `ent` at virtual offset `off`, to write when `wr`. -/
  | translationMiss (dt e ent off : Nat) (wr : Bool)
  -- floor cores: `k` is 64c + core of logical cluster c; the other operands are the instruction's fields (R149)
  | add (dt k d a b : Nat)
  | sub (dt k d a b : Nat)
  | and (dt k d a b : Nat)
  | or (dt k d a b : Nat)
  | xor (dt k d a b : Nat)
  | sll (dt k d a b : Nat)
  | srl (dt k d a b : Nat)
  | sra (dt k d a b : Nat)
  | mul (dt k d a b : Nat)
  | mulh (dt k d a b : Nat)
  | div (dt k d a b : Nat)
  | rem (dt k d a b : Nat)
  | slt (dt k d a b : Nat)
  | sltu (dt k d a b : Nat)
  | addi (dt k d a imm : Nat)
  | lui (dt k d a imm : Nat)
  | ld64 (dt k d a imm : Nat)
  | ld32 (dt k d a imm : Nat)
  | ld16 (dt k d a imm : Nat)
  | ld8 (dt k d a imm : Nat)
  | st64 (dt k d a imm : Nat)
  | st32 (dt k d a imm : Nat)
  | st16 (dt k d a imm : Nat)
  | st8 (dt k d a imm : Nat)
  | beq (dt k d a imm : Nat)
  | bne (dt k d a imm : Nat)
  | blt (dt k d a imm : Nat)
  | bge (dt k d a imm : Nat)
  | jal (dt k d imm : Nat)
  | jr (dt k d a imm : Nat)
  | vld (dt k d a imm : Nat)
  | vst (dt k d a imm : Nat)
  | vld64 (dt k d a imm : Nat)
  | vst64 (dt k d a imm : Nat)
  /-- VOP: integer lane operation, `func` 0x00 to 0x0F as the ALU's FUNC. -/
  | vop (dt k d a b func : Nat)
  | fadd (dt k d a b : Nat)
  | fmul (dt k d a b : Nat)
  | fma (dt k d a b : Nat)
  | fmax (dt k d a b : Nat)
  | fmin (dt k d a b : Nat)
  | vdot8 (dt k d a b : Nat)
  | vdotf8 (dt k d a b : Nat)
  | vfmabf (dt k d a b : Nat)
  | vcvt (dt k d a b func : Nat)
  | vperm (dt k d a b : Nat)
  | vbcast (dt k d a b : Nat)
  | dma (dt k d a imm : Nat)
  | dmaComplete (dt k ch : Nat)
  | dmawait (dt k d a imm : Nat)
  | signal (dt k d a imm : Nat)
  | arm (dt k d a b : Nat)
  | wait (dt k d a imm : Nat)
  | fence (dt k : Nat)
  | rdspec (dt k d a imm : Nat)
  | halt (dt k : Nat)
  | mbxsend (dt k d a b func : Nat)
  | mbxrecv (dt k d a b func : Nat)
  | coreTrap (dt k : Nat)
  -- Hopper: `e` is a Hopper entry, `side` 0 left and 1 right
  | stepIssue (dt e : Nat)
  | haloSend (dt e side : Nat)
  | haloCopyDone (dt e side : Nat)
  | haloMessage (dt : Nat) (w0 w1 w2 : Word) (payload : List Byte)
  | haloLate (dt e side : Nat)
  | haloDetached (dt e side : Nat)
  | endNotice (dt : Nat) (w0 w1 w2 : Word)
  | pageSpill (dt e vpage : Nat)
  | pageFetch (dt e vpage : Nat)
  | fetchLead (dt e : Nat)
  -- jobs and scheduling: `j` a job, `cl` a logical cluster
  | jobStop (dt agent j : Nat)
  | jobClear (dt agent j : Nat)
  | jobStopped (dt j : Nat)
  | stopTimeout (dt j : Nat)
  | taskWrite (dt agent job addr : Nat) (bytes : List Byte)
  | tileStart (dt cl : Nat)
  | steal (dt cl : Nat)
  | clusterParked (dt cl : Nat)
  | clusterWoken (dt cl : Nat)
  | preempt (dt j incoming : Nat)
  | jobResumed (dt j : Nat)
  | bucketRefill (dt : Nat)
  | guaranteeHeld (dt : Nat)
  | frameStart (dt e : Nat)
  | verdictStore (dt k addr : Nat) (bytes : List Byte)
  | switchPoint (dt port block : Nat)
  | restartArm (dt agent : Nat) (val : Word)
  /-- RESTART_REQUEST (R213); `peerRecipes` are the lead's SCH_JOB_CTL.RECIPE values of the jobs in scope, for its follower (R319). -/
  | restartRequest (dt id : Nat) (tick : Int) (scope : Word) (mode origin : Nat) (peerRecipes : List (Nat × Nat))
  | restartReport (dt pos : Nat) (follower : Bool) (lags : List Lag)
  | restartDecision (dt : Nat)
  | restartDecisionMsg (dt id : Nat) (go : Bool)
  | restartAck (dt pos : Nat) (fol : Bool := false)
  | restartTick (dt : Nat)
  | restartIncomplete (dt : Nat)
  | synAdd (dt agent : Nat) (val : Word)
  | synObj (dt agent n : Nat) (val : Word)
  | mbxSend (dt agent m : Nat) (val : Word)
  | mbxTake (dt agent m : Nat)
  -- position, tracking, ejection: `ax` an axis; `back` ns from the stamp to the moment POS acts (R228)
  | encoderEdge (dt ax : Nat) (chgA chgB : Bool) (back : Nat)
  | zEdge (dt ax back : Nat)
  | lineFault (dt ax lines : Nat)
  | still (dt ax : Nat)
  | posStop (dt agent ax : Nat)
  | verdictRecord (dt ax : Nat)
  | slotClosePoint (dt ax slot : Nat)
  | edgeHandoff (dt ax index : Nat) (off : Bool)
  | lastFeasibleFirePoint (dt ax index : Nat)
  | edgeFire (dt ax index : Nat) (off : Bool)
  | maxOnClamp (dt v : Nat)
  | lateHoldEnd (dt : Nat)
  | axisStop (dt agent ax : Nat)
  -- field I/O: `q` an output channel, `g` a group, `i` an input
  | outLevelWrite (dt agent : Nat) (hi : Bool) (val : Word)
  | rawWrite (dt agent q : Nat) (val : Word)
  | bothonClear (dt agent q : Nat)
  | overload (dt q : Nat)
  | overloadRetry (dt q : Nat)
  | ovlLatchClear (dt agent q : Nat)
  | openOut (dt q : Nat)
  | openOutClear (dt q : Nat)
  | overtemp (dt q : Nat)
  | overtempClear (dt q : Nat)
  | grpWarn (dt g volt : Nat)
  | grpLow (dt g volt : Nat)
  | grpOk (dt g volt : Nat)
  | grpOv (dt g volt : Nat)
  | enter (dt agent : Nat)
  | release (dt agent : Nat)
  | couplerTimeout (dt q : Nat)
  /-- INPUT_CHANGE (R284): class-W input `i` accepts the threshold level `lvl` (before INV). -/
  | inputChange (dt i : Nat) (lvl : Bool) (samples : Nat := 0)
  | inOpen (dt i draw : Nat) (ms : Nat := 0)
  | inWireOk (dt i draw : Nat) (ms : Nat := 0)
  /-- COUNTED_EDGE (R286): class-C input `i` filters a rising or falling edge of the threshold level. -/
  | countedEdge (dt i : Nat) (rise : Bool) (back : Nat)
  | gateEnd (dt i : Nat)
  | countWrite (dt agent i : Nat) (val : Word)
  -- Ponyx lanes and links: `n` a lane, `k` a link (R292)
  | laneEnable (dt agent n : Nat) (val : Word)
  | forceL2 (dt agent n : Nat) (on : Bool)
  | idleCell (dt n : Nat) (c : Cell)
  | dataCell (dt n : Nat) (c : Cell)
  /-- TAG_CELL (R310): `ok` tells whether the segment's GCM tag verifies. -/
  | tagCell (dt n : Nat) (c : Cell) (ok : Bool)
  | syncCell (dt n : Nat) (c : Cell)
  | trainCell (dt n : Nat) (c : Cell)
  | pairCell (dt n : Nat) (c : Cell) (peer : PeerId) (what : PairStep)
  | nakCell (dt n : Nat) (c : Cell)
  | nakTimeout (dt k : Nat)
  | cdrLock (dt n : Nat) (ppm phase : Word)
  | lossOfLock (dt n : Nat) (noSignal : Bool := false)
  | laneRetrain (dt n : Nat)
  | linkDown (dt k : Nat)
  | syncSend (dt n : Nat)
  | l1Entry (dt n : Nat)
  | laneWake (dt n : Nat)
  | chainWait (dt : Nat)
  | chainAnnounce (dt k pos : Nat)
  | keyFail (dt k : Nat)
  | keyRetry (dt k : Nat)
  -- twin pairs
  | pairWait (dt : Nat)
  | heartbeatSend (dt : Nat) (probeOk : Bool)
  | heartbeat (dt seq : Nat) (h z : Int)
  | heartbeatAck (dt seq : Nat)
  | heartbeatMissed (dt : Nat)
  | followerLost (dt : Nat)
  | autoSolo (dt : Nat)
  | leadWatchdog (dt : Nat)
  | solo (dt agent : Nat)
  | join (dt agent : Nat)
  | forwardedLine (dt p : Nat) (l : FwdLine) (lost : Bool)
  | forwardedEdge (dt : Nat) (r : EdgeRec)
  | forwardedInput (dt : Nat) (classC : Bool) (i : Nat) (w0 w1 : Word)
  | forwardedChoice (dt port block choice : Nat)
  | forwardedDetach (dt e side : Nat) (step : Nat) (layer : Nat)
  | forwardedEndRow (dt e row : Nat)
  | digest (dt : Nat) (verdict : Bool) (e step : Nat) (w0 w1 : Word)
  | followerStandby (dt reason : Nat)
  -- record and replay
  | recordEnable (dt agent : Nat) (val : Word)
  | recGap (dt : Nat)
  | checkpoint (dt : Nat)
  | freeze (dt agent : Nat)
  | recFrozen (dt : Nat)
  | exportGo (dt agent : Nat) (val : Word)
  | exportDone (dt : Nat)
  | replayRecord (dt : Nat)
  | replayDone (dt : Nat)
  -- memory integrity and security
  | spgGo (dt agent : Nat)
  | spgStop (dt agent : Nat)
  | spargeDone (dt : Nat)
  | flipArm (dt agent : Nat) (val : Word)
  | entropyReady (dt : Nat)
  | healthFail (dt test : Nat)
  | reseed (dt : Nat)
  | rngRead (dt agent : Nat)
  -- power, reset, start
  /-- SUPPLY_SAMPLE (R389): one sample, in 10 mV. -/
  | supplySample (dt mv10 : Nat)
  /-- POWER_FAIL (R394); `reserve` when the hold-up store fell to its reserve (R489). -/
  | powerFail (dt : Nat) (reserve : Bool)
  | pwrfailRecover (dt : Nat)
  | powerOn (dt : Nat)
  | nresetIn (dt : Nat)
  | resetRelease (dt : Nat)
  | deferredReset (dt : Nat)
  | globalWarmReset (dt agent : Nat) (val : Word)
  | globalColdReset (dt agent : Nat) (val : Word)
  | computeReset (dt agent : Nat) (val : Word)
  | blockReset (dt agent : Nat) (val : Word)
  | startPhase (dt : Nat) (f : PhaseFacts)
  | startTimeout (dt : Nat)
  | startFailed (dt reason : Nat)
  /-- START_RETRY (R416); `otherOk` when the other package slot's HEADER, MANIFEST and signature verify. -/
  | startRetry (dt : Nat) (otherOk : Bool)
  | faultFlash (dt : Nat)
  | autorun (dt : Nat)
  | calStore (dt agent : Nat) (val : Word)
  /-- CAL_STORED (R421); `result` 0x1 stored, 0x2 record invalid, 0x3 abandoned. -/
  | calStored (dt result : Nat)
  | wdogKick (dt agent : Nat) (val : Word)
  | wdogExpired (dt cause : Nat)
  | force (dt agent : Nat)
  | dumpClear (dt agent : Nat)
  | dumpErased (dt : Nat)
  | jobHang (dt j : Nat)
  -- management interfaces
  | ncpRead (dt : Nat) (h : NcpHdr) (addr : Nat)
  | ncpWrite (dt : Nat) (h : NcpHdr) (addr : Nat) (val : Word)
  | ncpReadN (dt : Nat) (h : NcpHdr) (addr n : Nat)
  | ncpStatus (dt : Nat) (h : NcpHdr)
  | ncpLogRead (dt : Nat) (h : NcpHdr) (first n : Nat)
  | updBegin (dt : Nat) (h : NcpHdr) (val : Word)
  | updEraseDone (dt : Nat)
  | updData (dt : Nat) (h : NcpHdr) (addr : Nat) (words : List Word)
  | updCommit (dt : Nat) (h : NcpHdr)
  /-- UPDATE_DONE (R468): `ok` when the written slot verifies. -/
  | updateDone (dt : Nat) (ok : Bool)
  | updAbort (dt : Nat) (h : NcpHdr)
  | netStore (dt agent : Nat)
  | spiNop (dt : Nat) (frame : BitVec 32) (long : Bool)
  /-- SPI_READ: the command frame, how many response frames followed in time, and whether they came too early (R439). -/
  | spiRead (dt : Nat) (frame : BitVec 32) (frames : Nat) (early : Bool)
  /-- SPI_WRITE: the command frame and the data frames that followed in time. -/
  | spiWrite (dt : Nat) (frame : BitVec 32) (data : List (BitVec 32))
  | spiInvalid (dt : Nat) (frame : BitVec 32)
  | spiPartial (dt edges : Nat)
  | spiAbandoned (dt : Nat)
  | pcieLink (dt : Nat) (ev : PcieEvent)
  | netLink (dt : Nat) (up : Bool)
  | latch (dt agent : Nat)
  | wallRate (dt agent : Nat) (val : Word)
  | wallAdj (dt agent : Nat) (val : Word)
  | reelHoldover (dt : Nat)
  /-- PTP_EVENT_MESSAGE (R449): received when `rx`, with its header fields. -/
  | ptpEventMessage (dt : Nat) (rx : Bool) (msgType domain : Nat) (clockId : Word) (portNum seq : Nat)
  | wallHoldover (dt : Nat)
  | ptpStampRead (dt agent : Nat) (rx : Bool)
  | snapArm (dt agent : Nat) (val : Word)
  | snapCommand (dt id : Nat) (tick : Int)
  | snapshot (dt : Nat)
  | ridxWrite (dt agent : Nat) (val : Word)
  | lost (dt : Nat)
  /-- SENSOR_SAMPLE (R424): the 24 die sensors (none: no reading), the cold plate, in 1/16 °C; the rails as (mV, mA);
  input power in 0.01 W and current in mA; compute and I/O die power in 0.01 W. -/
  | sensorSample (dt : Nat) (dies : List (Option Int)) (tcp : Int) (rails : List (Nat × Nat)) (inPower inCurrent pCompute pIod : Nat)
  | sensorFail (dt sensor : Nat)
  | boostS (dt agent : Nat) (val : Word)
  | endBoost (dt agent : Nat)
  | boostTimeout (dt : Nat)
  | cooldownEnd (dt : Nat)
  | clkReturn (dt p : Nat)
  | grpWarnClear (dt g volt : Nat)
  | grpOvClear (dt g volt : Nat)
  | l2Return (dt n : Nat)
  /-- CRC_FAILURE (R298); `stuff` when a stuffing violation spoiled the cell (R297). -/
  | crcFailure (dt n : Nat) (bits : List Bool)
  | prbsChecker (dt n : Nat) (sync : Bool) (bits : List Bool)
  | hostDmaWrite (dt off : Nat) (bytes : List Byte)
  | hostDmaRead (dt off len : Nat)
  | arp (dt targetIp : Nat) (senderMac : Nat) (senderIp : Nat)
  | icmpEcho (dt srcIp : Nat) (ident seq : Nat) (data : List Byte)
  | netStoreDone (dt : Nat)
  | retentionLoss (dt : Nat)
  deriving DecidableEq, Repr

end Sys2Proof
end

