-- ==== Sys2Proof/Machine/State.lean ====
section
/-!
DEFINITION. The state of the SX9: the queue of waiting commands, the data memory, and the machine behind them: time, the
register file, events, and the state of every block that the spec names without giving it a register.
Instances of a block are held in sparse tables (Machine/Sparse.lean) keyed by instance number.
-/

namespace Sys2Proof.Machine

/-! ## Events (R34, R35, R464, R507 to R509) -/

/-- An event as a unit raises it: block and local code (R17), instance (R508), packed arguments (R507), Reel and wall stamp. -/
structure Ev where
  blk : Nat
  loc : Nat
  inst : Nat
  args : Nat
  reel : Int
  wall : Int
  deriving DecidableEq, Repr

/-- A run of like occurrences (R509): its event, whether it carries the count, when it began and the count so far; `unit` tells
runs of one instance apart (a channel of FIO, a job of SCH). -/
structure Run where
  blk : Nat
  loc : Nat
  inst : Nat
  unit : Nat
  counted : Bool
  start : Nat
  count : Nat
  args : List (Nat × Int)
  deriving DecidableEq, Repr

/-! ## Field I/O -/

/-- An output channel behind its registers: the Reel instants at which its switches last acted (R267), the instant of its
last edge (R269), its recent trips (R273), and whether its coupler has timed out (R281). -/
structure FioCh where
  hs : Bool := false
  ls : Bool := false
  hsAt : Int := 0
  lsAt : Int := 0
  lastEdge : Option Int := none
  trips : List Nat := []
  retryAt : Option Nat := none
  coupOff : Bool := false
  hot : Bool := false
  wireOpen : Bool := false
  deriving DecidableEq, Repr

/-- A switch of channel `ch` that is to act when the base counter reaches `due` (R267, R269): the low side or the high side, on
or off. -/
structure SwAct where
  due : Nat
  ch : Nat
  low : Bool
  on : Bool
  deriving DecidableEq, Repr

/-- A frequency gate that begins at `start` (R288): the number of its counted edges, and the first and the last stamp. -/
structure Gate where
  start : Int
  n : Nat := 0
  first : Int := 0
  last : Int := 0
  deriving DecidableEq, Repr

/-- A class-W or class-C input: the accepted level after the threshold and before INV (R283); for class W the level that the lead or
the record last told, or its own while none is told (R289); for class C the gates not yet reported, newest first, and the boundary
last reported (R288). -/
structure FioIn where
  level : Bool := false
  told : Bool := false
  gates : List Gate := []
  gateStart : Int := 0
  deriving DecidableEq, Repr

/-! ## Encoder position -/

/-- Position and speed as decoded from edge records (R239, R240): the speed window holds, newest first, the stamps and the
uncorrected counts of the last counted edges. -/
structure Track where
  p : Int := 0
  te : Int := 0
  period : Nat := 0
  back : Bool := false
  still : Bool := true
  win : List (Int × Int) := []
  cnt : Int := 0
  sinceStill : Nat := 0
  counted : Bool := false
  deriving DecidableEq, Repr

/-- An encoder axis: the filtered line levels, its own decode, the track made of forwarded or replayed records (R259, R353),
the tooth wheel's regular periods and newest tooth (R232), homing (R236), the follower's own and the lead's edges that await
their match, and the held difference of counts (R319). -/
structure PosAx where
  a : Bool := false
  b : Bool := false
  z : Bool := false
  own : Track := {}
  fwd : Track := {}
  periods : List Int := []
  tooth : Option Int := none
  afterExtra : Bool := false
  index : Nat := 0
  homed : Bool := false
  ownEdges : List EdgeRec := []
  fwdEdges : List EdgeRec := []
  diff : Option Int := none
  deriving DecidableEq, Repr

/-! ## Compare units -/

/-- An open tracking slot (R242). -/
structure Slot where
  idx : Nat
  tag : Nat
  port : Nat
  block : Nat
  first : Int
  last : Int
  job : Nat
  deriving DecidableEq, Repr

/-- A compare entry (R249) with what CMP keeps about it: the placed instants, the last predicted instants (R250, R325), the
entry whose ON cancelled its OFF (R253), whether the horizon holds it (R322). -/
structure Entry where
  tag : Nat
  valve : Nat
  value : Nat
  kind : Nat
  job : Nat
  port : Nat
  xOn : Int
  xOff : Int
  lateFire : Bool := false
  onDone : Bool := false
  offDone : Bool := false
  onHanded : Bool := false
  offHanded : Bool := false
  tOn : Option Int := none
  tOff : Option Int := none
  lff : Option Int := none
  pOn : Option Int := none
  pOff : Option Int := none
  mergedBy : Option Nat := none
  held : Bool := false
  deriving DecidableEq, Repr

/-- A compare axis: the sequence counter, the slots' generations, open slots (oldest first), the entry list by index, the entries
that have left the list with an OFF that a merge cancelled and that may still be reinstated (R249, R253), and the tags already
reported late, each with its cause (R255). -/
structure CmpAx where
  seq : Nat := 0
  gens : List (Nat × Nat) := []
  slots : List Slot := []
  entries : List (Nat × Entry) := []
  cancelled : List (Nat × Entry) := []
  lateTags : List (Nat × Nat) := []
  deriving DecidableEq, Repr

/-- A valve's running pulse (R253): the instant its ON edge turned the output on and the entries that belong to it. -/
structure Pulse where
  since : Int
  axis : Nat
  members : List Nat
  deriving DecidableEq, Repr

/-! ## The deadline monitor -/

/-- A verdict record (R244) as the monitor holds or delivers it. -/
structure Verdict where
  tag : Nat
  job : Nat
  port : Nat
  kind : Nat
  value : Nat
  block : Nat
  colLast : Nat
  colFirst : Nat
  dreel : Int
  deriving DecidableEq, Repr

/-- A block open at the deadline monitor (R209). -/
structure MonBlk where
  job : Nat
  port : Nat
  block : Nat
  tag : Nat
  axis : Nat
  /-- The latency reference of R46. -/
  ref : Int
  /-- The Reel instant of the switch point; none when the monitor has passed it. -/
  switchAt : Option Int
  main : Option Verdict
  reserve : Option Verdict
  delivered : Bool
  /-- What the lead or the record dictates (R210): 0 main, 1 reserve. `main` is a main verdict held until then. -/
  told : Option Nat
  deriving DecidableEq, Repr

/-! ## Camera ports -/

/-- A line's tag (R59); `pos` in 1/256 count. -/
structure Tag where
  pos : Int := 0
  reel : Int := 0
  drop : Bool := false
  trunc : Bool := false
  untriggered : Bool := false
  concealed : Bool := false
  last : Bool := false
  first : Bool := false
  inblock : Bool := false
  axisValid : Bool := false
  block : Nat := 0
  line : Nat := 0
  camcnt : Nat := 0
  port : Nat := 0
  nexp : Nat := 0
  axis : Nat := 0
  deriving DecidableEq, Repr

/-- A context's active set (R87): its shadow registers by offset in the context's window, the tone knots that differ from reset
(channel * 512 + knot), and MSH_CX_TOOK.SEQ when it was taken; a line carries with its set the path of its block (R105). -/
structure CxSet where
  regs : List (Nat × Word) := []
  tone : List (Nat × Nat) := []
  seq : Nat := 0
  host : Bool := false
  deriving DecidableEq, Repr

/-- An exposure line as received (R60): its pixels, the segments that fail parity, and whether the whole line is to be replaced. -/
structure Expo where
  pix : List Nat
  segs : Nat
  whole : Bool
  deriving DecidableEq, Repr

/-- A tagged line that waits in Grist (R62): `prevOnly` when its corrupt exposures copy the last good line (R63). -/
structure WLine where
  tag : Tag
  exps : List Expo
  prevOnly : Bool
  since : Nat
  set : CxSet
  deriving DecidableEq, Repr

/-- A good exposure line that left Grist last (R61). -/
structure GoodLine where
  inblock : Bool
  block : Nat
  pix : List Nat
  deriving DecidableEq, Repr

/-- A camera port behind its registers: the delays of its pairs D0 to D11, LV, BV and DV in 20 ps steps (R39); correct idle periods in
TRAINING, or wrong ones in LOCKED, that follow one another (R39, R40); wrong idle periods since the lock; idle periods since the
delays were last adjusted; the clock has been seen (R66); the divider's target in 1/65,536 count (R53); the trigger
queue, oldest first, each as its tag position, fire instant and whether the axis ran (R57, R58); the last fired trigger (R55); when
the timer falls due (R52); TRG high until then (R56); no block may open before BV is seen low (R50); lines since the start (R49);
the camera's last counter (R60); the set of exposures in progress (R45), whether it holds a corrupt one, and whether a CAMCNT of it has come; consecutive corrupt
lines (R63); the window drops (R63, R64); lines that wait to be released (R62); the last good line of each exposure; the first and
last tags of the open block; the block's latency reference (R46); what a follower sees of its own lines: BV high,
and blocks begun (R319); an own block that does not exist here is passing (R326); when a stop was asked (R67); UART FIFOs (R68); the port's tables (R73, R78) where they
differ from reset. -/
structure GrsPort where
  delays : List Nat := List.replicate 15 0
  idleRun : Nat := 0
  idleErrs : Nat := 0
  idleAdj : Nat := 0
  seenClk : Bool := false
  target : Int := 0
  trigQ : List (Int × Int × Bool) := []
  lastTrig : Option Int := none
  timerDue : Int := 0
  trgUntil : Option Nat := none
  needLow : Bool := false
  lines : Nat := 0
  camLast : Option Nat := none
  cur : Option (Tag × List Expo) := none
  curCorrupt : Bool := false
  curCam : Bool := false
  run : Nat := 0
  drop : Bool := false
  waiting : List WLine := []
  good : List (Nat × GoodLine) := []
  firstTag : Tag := {}
  lastTag : Tag := {}
  ref : Int := 0
  ownOpen : Bool := false
  ownBlock : Nat := 0
  ghost : Bool := false
  stopping : Option Nat := none
  txq : List Byte := []
  rxq : List (Byte × Bool) := []
  lin : List (Nat × Nat) := []
  ff : List (Nat × Nat) := []
  deriving DecidableEq, Repr

/-! ## Image pipelines -/

/-- A line on its way through a pipeline (R86): a marker carries no pixels (R66), a replacement emits the previous output (R86). -/
inductive MshKind where
  | line
  | marker
  | replacement
  deriving DecidableEq, Repr

structure MshLine where
  ctx : Nat
  kind : MshKind
  tag : Tag
  set : CxSet
  /-- Samples after flat field, one list a channel (R78). -/
  chans : List (List Nat)
  clipRaw : Nat
  sat : Nat
  deriving DecidableEq, Repr

/-- A stream's group in progress (R95): the cropped stage-7 rows, each one list a channel; the first line's tag with the ORed
flags (R97); the next slot; output lines since the last signal (R98); the ring registers and SEQ of the set of the last line, by
which a take is seen (R95, R97). -/
structure Strm where
  rows : List (List (List Nat)) := []
  tag : Option Tag := none
  slot : Nat := 0
  sinceSync : Nat := 0
  ring : List Word := []
  seq : Nat := 0
  deriving DecidableEq, Repr

/-- An output line that is not yet visible (R98): its slot, and the ring registers by which the slot was counted. -/
structure StrmOut where
  ctx : Nat
  strm : Nat
  addr : Nat
  data : List Byte
  tagAddr : Nat
  tag : Tag
  signals : Nat
  obj : Nat
  nslots : Nat
  slot : Nat := 0
  ring : List Word := []
  deriving DecidableEq, Repr

/-- Statistics of a block in progress (R101). -/
structure Stats where
  hist : List (Nat × Nat) := []
  cols : List Nat := []
  lines : Nat := 0
  clipRaw : Nat := 0
  sat : Nat := 0
  concealed : Bool := false
  firstTag : Option Tag := none
  lastTag : Tag := {}
  deriving DecidableEq, Repr

/-- A slot of a context's ingest queue (R104): its path; whether it is the first one of its block; and, when its block ended without a
selected line that carries LAST, that it is the block's last one, with the tag of an end-of-block marker if one ended it. -/
structure AssistSlot where
  tag : Tag
  chans : List (List Nat)
  set : CxSet
  host : Bool
  first : Bool := false
  fin : Option (Option Tag) := none
  deriving DecidableEq, Repr

/-- A context behind its registers: the shadow tone knots, the active set, edge C of the pending commit (R88), its streams, the
blocks that its lines dropped (R86) and the stream faults' lasting drop (R99), the previous stage-7 output (R86), the statistics in
progress and the records not yet written, with the set's STATS registers (R100), the ingest queue, its next slot, the block whose lines enter it, output lines of
each handed block, and signals that wait, each with the handed blocks before it (R106). -/
structure Cx where
  tone : List (Nat × Nat) := []
  active : CxSet := {}
  edgeC : Option Int := none
  strm : List (Nat × Strm) := []
  drops : List Nat := []
  faulted : Bool := false
  prev : List (List Nat) := []
  stats : Stats := {}
  statQ : List (List Byte × Nat × Nat) := []
  queue : List AssistSlot := []
  qIdx : Nat := 0
  qBlock : Option Nat := none
  handed : List Nat := []
  heldSig : List (Nat × Nat) := []
  deriving DecidableEq, Repr

/-- A pipeline: its input buffer with the lines behind it, and output lines not yet visible. -/
structure Pipe where
  buf : List MshLine := []
  out : List StrmOut := []
  stopping : Bool := false
  deriving DecidableEq, Repr

/-! ## Engines, floor, synchronisation -/

/-- What a command that stopped at a tile boundary has behind it (R155, R201): the operations it counts at its end (R453), its busy and its
stalled cycles. The outputs that this model writes whole when a command starts are in memory. -/
structure Progress where
  ops : List (Nat × Nat)
  busy : Nat
  stall : Nat
  deriving DecidableEq, Repr

/-- A command in an engine queue (R123): its words, its job (stamped, R121), the agent that wrote it, its wait latched as
satisfied (R217), and its progress where it stopped at a tile boundary and is to continue (R155, R201). -/
structure Cmd where
  words : List Word
  job : Nat
  agent : Nat
  sat : Bool := false
  part : Option Progress := none
  deriving DecidableEq, Repr

/-- An engine: its three queues, the running command with its class and start, commands saved at a pre-emption, its busy time by
class in the frame, and the frame's start (R201). -/
structure Eng where
  q0 : List Cmd := []
  q1 : List Cmd := []
  q2 : List Cmd := []
  run : Option (Nat × Cmd) := none
  runAt : Nat := 0
  busy : List (Nat × Nat) := []
  frame : Int := 0
  cmdBusy : Nat := 0
  cmdStall : Nat := 0
  ops : List (Nat × Nat) := []
  /-- The last HEAD result is marked as the reserve head's (R137). -/
  reserve : Bool := false
  deriving DecidableEq, Repr

/-- A floor core (R146): scalar and vector registers that differ from 0, PC, running, the task it runs, DMA channels busy, and a
mailbox send under way. -/
structure FCore where
  s : List (Nat × Word) := []
  v : List (Nat × BitVec 256) := []
  pc : Nat := 0
  running : Bool := false
  plan : Nat := 0
  tile : Nat := 0
  dma : List (Nat × List Word) := []
  deriving DecidableEq, Repr

/-- A wait port (R149, R217). -/
structure WPort where
  armed : Bool := false
  obj : Nat := 0
  thr : Nat := 0
  sat : Bool := false
  deriving DecidableEq, Repr

/-- A core stalled in MBXSEND (R220): mailbox, core, agent, value, destination register. -/
structure MbxWait where
  mbx : Nat
  core : Nat
  agent : Nat
  val : Word
  d : Nat
  deriving DecidableEq, Repr

/-! ## Tiles, jobs and restarts -/

/-- A task of a tile (R202): its plan index, start address and initial s1 to s7. -/
structure Task where
  plan : Nat
  pc : Nat
  args : List Word
  deriving DecidableEq, Repr

/-- A tile (R202): its job, its first descriptor's fields, its tasks in order, and when its assembly completed. -/
structure Tile where
  id : Nat
  job : Nat
  need : Nat
  pin : Bool
  doneEn : Bool
  doneObj : Nat
  cl : Nat
  tasks : List Task
  since : Nat
  /-- It was halted by a switch and starts again (R208): its wait is counted already (R211). -/
  again : Bool := false
  deriving DecidableEq, Repr

/-- A tile in assembly on a submission page by one agent (R203). -/
structure Asm where
  page : Nat
  agent : Nat
  tile : Tile
  deriving DecidableEq, Repr

/-- A started tile: its cluster, and the cores whose tasks have not halted with those tasks (R204, R208). -/
structure RunTile where
  tile : Tile
  cluster : Nat
  cores : List Nat
  left : List (Nat × Task) := []
  deriving DecidableEq, Repr

/-- What a pre-empted job left in its save area (R208): how many clusters it held, the engines whose commands it holds there, its
footprint, and its halted and waiting tiles with their job cluster index. -/
structure Saved where
  clusters : Nat
  engines : List Nat
  bytes : Nat
  tiles : List (Nat × Tile)
  deriving DecidableEq, Repr

/-- A job behind its registers: its clusters in the order given (R204), when it was placed (R207), since when it has been
without its CL_MIN clusters (R207), when its stop began (R194), its save area, its recipe as of its last start (R212), its replay base B_j (R351), and its
activity for hang detection (R462): when it last made progress. `table` is the memory of its tensor table as its last start found it (R118). -/
structure JobRt where
  clusters : List Nat := []
  placedAt : Nat := 0
  waitSince : Option Nat := none
  stopAt : Option Nat := none
  saved : Option Saved := none
  waiting : List Tile := []
  recipe : Nat := 0
  base : Nat := 0
  progressAt : Nat := 0
  hung : Option Nat := none
  table : Option (List Host.Cell) := none
  /-- The waits of its tiles since its last start in ns, of which WAIT_TOTAL shows whole µs (R211, R382). -/
  waitNs : Nat := 0
  deriving DecidableEq, Repr

/-- A switch under way (R208): the incoming job and when its tiles can resume. -/
structure Switch where
  incoming : Nat
  due : Nat
  deriving DecidableEq, Repr

/-- A restart between its request and its resolution (R213, R214). -/
structure Restart where
  id : Nat
  tick : Int
  scope : Nat
  mode : Nat
  origin : Bool
  /-- This module's units that answered, as (block code, instance): their configuration is frozen. -/
  units : List (Nat × Nat)
  /-- Every one of them answered APPLIED. -/
  applied : Bool
  /-- At the originator: (position, follower) of the reports that came, and the lagging units; elsewhere this module's own lagging units. -/
  reports : List (Nat × Bool)
  lags : List Lag
  /-- The decision this module holds. -/
  go : Option Bool
  /-- At the originator: the modules whose acknowledgement came, as (position, follower). -/
  acks : List (Nat × Bool)
  /-- The tick has passed with GO, or the decision is ABANDON: the restart is no longer ARMED. -/
  started : Bool
  deriving DecidableEq, Repr

/-! ## Hopper -/

/-- One side of a Hopper entry: halos accepted and halos sent so far, each as the count V (R166); the detach point (R188); the last step
for which LATE was raised (R187); a local copy in flight (R183); whether the END notice went out (R164). -/
structure HopSide where
  got : Nat := 0
  sent : Nat := 0
  copied : Nat := 0
  detach : Option (Nat × Nat) := none
  lateFor : Option Nat := none
  endSent : Bool := false
  deriving DecidableEq, Repr

/-- A Hopper entry behind its registers: whether it follows its objects (RUNNING or ENDED); its sides; when EDGE reached each count and TMO_US then (R187, R188); the last two row formation instants
and LEAD_US at the last, for its prediction (R178, R192); END_ROW in full; whether the fetch for the next step has started (R177); the step that was delayed for pages and whether its event was raised (R178); steps
whose completion Hopper has dealt with (R176, R320); accepted halos whose page is not resident yet (side, count, payload). -/
structure HopEnt where
  live : Bool := false
  left : HopSide := {}
  right : HopSide := {}
  edgeAt : List (Nat × Int × Nat) := []
  formed : List Int := []
  lead : Nat := 0
  endRow : Option Nat := none
  fetching : Bool := false
  stalled : Option (Nat × Bool) := none
  done : Nat := 0
  held : List (Bool × Nat × List Byte) := []
  deriving DecidableEq, Repr

inductive PageState where
  | resident
  | spilling
  | spilled
  | fetching
  deriving DecidableEq, Repr

/-- A page of the shared pool that belongs to an entry (R176, R177): its virtual page, its pool frame when it has one, its spill
slot when it has one, its state, and the newest step that wrote it. -/
structure HopPage where
  ent : Nat
  vpage : Nat
  frame : Option Nat
  slot : Option Nat
  st : PageState
  newest : Nat
  deriving DecidableEq, Repr

/-! ## Lanes, links and twins -/

/-- One direction of a lane's line (R296, R297): its scrambler, and the last bit with the length of its run. -/
structure LineSide where
  scr : BitVec 58 := 0
  bit : Bool := false
  run : Nat := 0
  deriving DecidableEq, Repr

/-- A lane behind its registers (R296 to R308, R315): training states of both ends and TRAIN cells passed since both reached 2;
consecutive cells that passed and that failed; when cells failed in the last ms; the receiving and the sending side of the line, and
the bits on it of the newest cell sent; what the TRAIN cells it sends say; the last SYNC cell's T_TX and arrival; the delay samples,
in ps; when it last had a cell to send; when it was woken; a far-end loopback request it honours; the payload of the last SYNC cell
it sent (R314); in loopback, the newest bits of the pattern sent and of the checker's, newest first (R307). -/
structure Lane where
  own : Nat := 0
  peer : Nat := 0
  trains : Nat := 0
  passRun : Nat := 0
  failRun : Nat := 0
  fails : List Nat := []
  rx : LineSide := {}
  tx : LineSide := {}
  sent : List Bool := []
  train : Option TrainInfo := none
  sync : Option (Int × Int) := none
  delays : List Int := []
  idleAt : Nat := 0
  wakeAt : Option Nat := none
  loopFar : Bool := false
  syncOut : List Byte := []
  gen : List Bool := []
  chk : List Bool := []
  deriving DecidableEq, Repr

/-- A message to a peer (R295, R319): its channel, its kind and values, and its bytes where the spec lays them out. -/
structure OutMsg where
  ch : Nat
  kind : Nat
  vals : List Nat
  body : List Byte
  deriving DecidableEq, Repr

/-- A DATA or TAG cell in a replay buffer (R303): its LSEQ, the lane it went to, and the cell. -/
structure TxCell where
  lseq : Nat
  lane : Nat
  cell : Cell
  deriving DecidableEq, Repr

/-- A message that waits to be sent or is being sent (R295): whether its first cell has left, and the bytes still to go. -/
structure TxMsg where
  msg : OutMsg
  begun : Bool
  left : List Byte
  deriving DecidableEq, Repr

/-- What the newest SYNC cell of a link said of its sender's Reel (R314), and when it came. -/
structure SyncInfo where
  serial : Word
  rootPos : Nat
  disciplined : Bool
  hops : Nat
  at_ : Nat
  deriving DecidableEq, Repr

/-- A DATA or TAG cell received, with what its segment's GCM tag verifies as (R310). -/
structure RxCell where
  lseq : Nat
  cell : Cell
  ok : Bool
  deriving DecidableEq, Repr

/-- A link (R292, R303, R304, R310, R311): next LSEQ, the replay buffer, messages that wait to be sent, the DATA cells of the segment
that is open, in plain text, and the next LSEQ to be
delivered, the newest LSEQ received in order and verified, cells received beyond it, the cells of the segment that awaits its tag; segment counters; consecutive tag failures on
one segment; messages in assembly by channel; when the last lane left; since when an LSEQ is missing, and the LSEQ that the newest
NAK named (R303); SEC holds its keys; when the agreement times out or is tried again (R381); the newest SYNC cell. -/
structure Link where
  next : Nat := 0
  replay : List TxCell := []
  txq : List TxMsg := []
  opened : List Cell := []
  expect : Nat := 0
  good : Nat := 65535
  early : List RxCell := []
  seg : List Cell := []
  segRx : Nat := 0
  segTx : Nat := 0
  tagFails : Nat := 0
  asm : List (Nat × List Byte) := []
  emptyAt : Option Nat := none
  gapAt : Option Nat := none
  nak : Option Nat := none
  keys : Bool := false
  keyDue : Option Nat := none
  sync : Option SyncInfo := none
  deriving DecidableEq, Repr

/-- Tango behind its registers (R318 to R329): its partner; heartbeats sent and not acknowledged, with their Z; the sequence number;
when the watchdog was restarted and when an acknowledgement last came; the step of the pairing; what was forwarded, newest last. -/
structure Tango where
  peer : Option PeerId := none
  checked : Bool := false
  confirmed : Bool := false
  sent : List (Nat × Int × Int) := []
  seq : Nat := 0
  wdAt : Nat := 0
  wdFired : Bool := false
  ackAt : Nat := 0
  lost : Bool := false
  joined : Bool := false
  lastH : Int := 0
  startAt : Nat := 0
  deriving DecidableEq, Repr

/-- A Sparge pass that runs (R366): when it began, its first address and the address after its last. -/
structure Pass where
  since : Nat
  lo : Nat
  hi : Nat
  deriving DecidableEq, Repr

/-! ## Recording -/

/-- A record of the record ring (R344, R345). -/
structure Rec where
  typ : Nat
  job : Nat
  unit : Nat
  obs : Bool
  reel : Int
  body : List Byte
  deriving DecidableEq, Repr

/-- A trace record (R461). -/
structure TRec where
  typ : Nat
  job : Nat
  agent : Nat
  layer : Nat
  operator : Nat
  sub : Nat
  reel : Int
  arg0 : Nat
  arg1 : Nat
  deriving DecidableEq, Repr

/-- The trace writer (R458 to R460): TRC_TRACE_WIDX, DROPPED and STALL_US; records on their way to the ring, as address and bytes;
in lossless mode the records whose producers stall, oldest first, each with when it stalled; in capped mode the bucket in
thousandths of a record, when it last gained, and the records dropped since the last LOST record. -/
structure Tracer where
  widx : Nat := 0
  dropped : Nat := 0
  stallUs : Nat := 0
  out : List (Nat × List Byte) := []
  held : List (Nat × TRec) := []
  tok : Nat := 4096000
  tokAt : Nat := 0
  lost : Nat := 0
  deriving DecidableEq, Repr

/-! ## Power, reset, start, management, time -/

/-- PWR (R389 to R396): the samples of the last 100 µs and the last 100 values of V, newest first, in 10 mV; since when every sample has been below
16.8 V, and after the stop's end at or above 17.2 V; SUPPLY_HIGH was raised; the stages entered and left with their Reel times, newest first; t_D of the
power-fail stop, whether a thermal trip began it (R501), and the sources that it holds (R395); the power and current window (R383):
its number, its samples and their sums. -/
structure Supply where
  samples : List Nat := []
  hist : List Nat := []
  low : Option Nat := none
  good : Option Nat := none
  high : Bool := false
  stages : List (Nat × Bool × Int) := []
  failAt : Option Nat := none
  trip : Bool := false
  held : Nat := 0
  win : Int := 0
  winN : Nat := 0
  winSum : List Nat := []
  deriving DecidableEq, Repr

/-- RST (R397 to R418): the reset asserted and not yet released (sources, reach, nRESET_IN low, waiting for an NVM pulse); the clocks are
stopped by the watchdog (R425); when the start began; phase LOAD reloads the compute die alone (R404); when the start failed; the slots that a retry uses; the retention detector has latched
(R401); the flash pattern's step and when it began (R418); the autorun's attempts and next arming (R408); SLOT_FALLBACK is owed. -/
structure Resets where
  asserted : Option (Nat × Nat) := none
  low : Bool := false
  waits : Bool := false
  frozen : Bool := false
  startAt : Nat := 0
  part : Bool := false
  failedAt : Option Nat := none
  pkgSlot : Option Nat := none
  fwSlot : Option Nat := none
  latched : Bool := false
  flash : Nat := 0
  flashAt : Nat := 0
  tries : Nat := 0
  autoAt : Option Nat := none
  fallback : Bool := false
  deriving DecidableEq, Repr

/-- The log in NVM (R464, R465): the entries held, oldest first, as slot of the ring and sequence number; the next slot; dropped
entries as LOG_CNT.LOST shows them. -/
structure LogSt where
  held : List (Nat × Nat) := []
  pos : Nat := 0
  lost : Nat := 0
  deriving DecidableEq, Repr

/-- A kept NCP response (R431, R432): the source, SEQ, when it was sent, how many operations the datagram has, the header status, and
each operation's status and data words. -/
structure NcpResp where
  ip : Nat
  port : Nat
  seq : Nat
  sent : Nat
  nops : Nat
  status : Nat
  ops : List (Nat × List Word)
  deriving DecidableEq, Repr

/-- The open update (R468): its kind, slot, length and the words written. -/
structure Update where
  kind : Nat
  slot : Nat
  len : Nat
  wptr : Nat
  deriving DecidableEq, Repr

/-- MGT (R424 to R432, R438 to R440, R467 to R469): when the watchdog was last kicked and its period in ms; the kept responses, newest
first; what MISO returned in the newest SPI sequence; the open update; the calibration record in store with its slot (R421); the
management Ethernet link is up; what the MAC last answered (R428): an ARP or an echo reply. -/
structure MgtSt where
  kickAt : Nat := 0
  wdMs : Nat := 2000
  ncp : List NcpResp := []
  miso : List (BitVec 32) := []
  spiOpen : Option Nat := none
  upd : Option Update := none
  cal : Option (Nat × List Byte) := none
  netUp : Bool := false
  ip : Nat := 0xC0A85E10
  arp : Option (Nat × Nat) := none
  echo : Option (Nat × Nat × Nat × List Byte) := none
  d3 : Bool := false
  deriving DecidableEq, Repr

/-- A PTP stamp (R449): wall and base stamp, clockIdentity, messageType, domain, port, sequenceId. -/
structure Stamp where
  wall : Int
  base : Int
  clock : Word
  typ : Nat
  domain : Nat
  port : Nat
  seq : Nat
  deriving DecidableEq, Repr

/-- TIM's stamp FIFOs, oldest first, and when a Sync of the master last came (R449, R450). -/
structure TimSt where
  rx : List Stamp := []
  tx : List Stamp := []
  syncAt : Nat := 0
  deriving DecidableEq, Repr

/-- Kiln (R497 to R502): when boost began and when it runs out; when the cool-down ends; since when a die sensor gives no reading;
COLDPLATE_HIGH was raised. -/
structure KilnSt where
  boost : Option (Nat × Nat) := none
  cool : Option Nat := none
  missing : List (Nat × Nat) := []
  cold : Bool := false
  deriving DecidableEq, Repr

/-- Snapshots (R456): the armed one (ID, tick, whether it came too late), and the shadows with their ID. -/
structure SnapSt where
  armed : Option (Nat × Int × Bool) := none
  shadows : List (Nat × Word) := []
  id : Nat := 0
  deriving DecidableEq, Repr

/-! ## The whole -/

/-- The machine but for its data memory and its queue. -/
structure Mach where
  /-- TIM's base counter (R441). -/
  now : Nat
  /-- Reel's anchor: base count, time in 2^-40 ns, rate in 2^-40 ns per tick (R442). -/
  reelB : Nat
  reelT : Int
  reelRate : Nat
  /-- Wall time's anchor (R448). -/
  wallB : Nat
  wallT : Int
  wallRate : Nat
  /-- The register file: control offset and word, canonical, unlisted registers at their reset value (R16). -/
  regs : List (Nat × Word)
  /-- How many free values were used (the model's own field, log entry 9). -/
  fresh : Nat
  /-- Straps: TWIN_PRES set, TWIN_B set (R278, R316). -/
  twinPres : Bool
  twinB : Bool
  /-- Events queued in their units, in order of occurrence (R35), and the dropped counts by unit. -/
  evq : List Ev
  evDropped : List (Nat × Nat)
  /-- Runs of like occurrences in progress (R509). -/
  runs : List Run
  /-- Events forwarded to the management controller and not yet programmed into the log (R465), and how many were lost. -/
  logBuf : List Ev
  logLost : Nat
  -- field I/O
  fioCh : List (Nat × FioCh)
  swActs : List SwAct
  fioW : List (Nat × FioIn)
  fioC : List (Nat × FioIn)
  -- position and compare
  pos : List (Nat × PosAx)
  cmp : List (Nat × CmpAx)
  pulses : List (Nat × Option Pulse)
  /-- End of the LATE stretch in MODE 0, in base ns (R256). -/
  lateUntil : Nat
  -- the deadline monitor
  mon : List MonBlk
  /-- Verdict records delivered and on their way to their CMP axis. -/
  verdQ : List (Nat × Verdict)
  /-- When LOAD was last broken, when the verdict bucket last gained a token, and whether a restart has ever gone ahead (R199). -/
  loadAt : Nat
  bucketAt : Nat
  started : Bool
  /-- Verdicts of this module and of the twin whose counterpart has not come yet, as words 0 and 1 (R320), and step digests by
  entry and step. -/
  ownVerdicts : List (Nat × Nat × Nat)
  peerVerdicts : List (Nat × Nat × Nat)
  ownDigests : List (Nat × Nat × Nat)
  peerDigests : List (Nat × Nat × Nat)
  -- recording: the writer's buffer (R343), records dropped and the REEL of the first
  recBuf : List Rec
  recDropped : Nat
  recFirst : Int
  /-- When a trigger of R348 stops recording, in base ns, and its cause. -/
  recFreeze : Option (Nat × Nat)
  -- camera ports, pipelines, contexts
  grs : List (Nat × GrsPort)
  pipes : List (Nat × Pipe)
  cxs : List (Nat × Cx)
  -- engines by number (R225), cores by 64c + core, instruction stores (cluster * 8192 + word), wait ports (core * 4 + port)
  eng : List (Nat × Eng)
  cores : List (Nat × FCore)
  istore : List (Nat × BitVec 32)
  ports : List (Nat × WPort)
  mbxWait : List MbxWait
  /-- What the running package says of each job (R410). -/
  jobs : List (Nat × PkgJob)
  /-- The MSI-X table's words, two a vector, and the Pending Bit Array (R435). -/
  msix : List (Nat × Word)
  pba : Word
  /-- Jobs whose Mash stream or Hopper entry used an object of another job in this command, and which it faults at its end (R195, R218). -/
  violated : List Nat
  /-- The job placed on each cluster, plus 1; 0 for none (R206). -/
  clJob : List (Nat × Nat)
  /-- Tiles in assembly, queued by cluster and started; the next tile number; since when a cluster has had no tile (R206). -/
  asms : List Asm
  clq : List (Nat × List Tile)
  running : List RunTile
  tileSeq : Nat
  clIdle : List (Nat × Nat)
  jobRt : List (Nat × JobRt)
  switching : Option Switch
  restart : Option Restart
  /-- Chain positions of the running package and whether each is a twin pair (R313). -/
  chain : List (Nat × Bool)
  /-- Classes shed by the supply (bit c) and by Kiln (bit 4 + c) (R207, R393, R504). -/
  shed : Nat
  -- Hopper: entries, shared-pool pages, items written by ring (job * 4 + bucket), translation buffers (engine; entry, page)
  hop : List (Nat × HopEnt)
  pages : List HopPage
  widx : List (Nat × Nat)
  tbuf : List (Nat × List (Nat × Nat))
  -- Ponyx and Tango
  lanes : List (Nat × Lane)
  links : List (Nat × Link)
  tng : Tango
  /-- First 8 bytes of the running package's digest (R184, R411). -/
  pkgDigest : Word
  /-- SCH_STAT.MODE of the last global restart (R196). -/
  lastMode : Nat
  /-- Digests and verdicts of a replay and of its record whose counterpart has not come (R355): key, and one or two words. -/
  rplSeen : List (Nat × Nat × Nat)
  /-- Those of the record. -/
  rplRec : List (Nat × Nat × Nat)
  /-- The Sparge pass that runs (R366). -/
  spg : Option Pass
  /-- When the DRBG was last seeded, and its generate requests since (R376). -/
  drbgAt : Nat
  /-- Generate requests since (R376). -/
  drbgN : Nat
  /-- Consecutive health-test failures (R374, R377). -/
  healthRun : Nat
  /-- Consecutive SYNC cells of the source within 1 ns, consecutive ones beyond 4 ns, and when the newest came (R444, R445). -/
  reelGood : Nat
  /-- Consecutive SYNC cells beyond 4 ns (R444). -/
  reelOff : Nat
  /-- When the source's newest SYNC cell came (R445). -/
  reelSeen : Nat
  /-- When SEC became READY, from which CHAIN_WAIT_MS counts (R312). -/
  keysAt : Nat
  /-- Where the checkpoints still in the ring begin, as bytes written before them (R347). -/
  recCkpts : List Nat
  /-- When the newest checkpoint was written (R347). -/
  ckptAt : Nat
  /-- Its number (R347). -/
  ckptN : Nat
  /-- The ring offset of the next record to deliver, and OFFSET (R351). -/
  rplPos : Nat
  /-- OFFSET (R351). -/
  rplOff : Int
  /-- Exposures of a replayed line whose records have not all come, by port (R342, R353). -/
  rplExp : List (Nat × List (List Nat))
  /-- Blocks whose verdict is covered, as port and block (R354). -/
  rplCov : List (Nat × Nat)
  /-- The CHOICE records that are to come (R353): port, block, choice. -/
  rplChoices : List (Nat × Nat × Nat)
  /-- Blocks open at the first line that a replay feeds, as port and block (R351). -/
  rplPre : List (Nat × Nat)
  /-- The bytes that the newest export wrote to the host (R349). -/
  hostOut : List Byte
  /-- The last PCIe write of host assist: address and bytes (R106, R436). -/
  pcieOut : Option (Nat × List Byte)
  /-- The trace writer (R458 to R460). -/
  tracer : Tracer
  /-- The counters of R452 to R455 by control offset. -/
  prof : List (Nat × Word)
  /-- When the log last raised EVT_VEC (R436). -/
  evtAt : Option Nat
  /-- The NVM's bytes; an erased byte reads 0xFF (R403). -/
  nvm : List (Nat × Byte)
  /-- The package as the start reads it (R409 to R413). -/
  pkg : Package
  supply : Supply
  rst : Resets
  log : LogSt
  mgt : MgtSt
  tim : TimSt
  kiln : KilnSt
  snap : SnapSt
  /-- What the host's newest read through the DMA window returned (R435); none: an error completion. -/
  hostIn : Option (List Byte)
  /-- SEC and MEM hold the DRAM keys (R379). -/
  dramKeys : Bool
  deriving DecidableEq, Repr

/-- Reasons to stop with a fault: the model has none, since every failure the spec describes is a state of the device that
goes on (R195, R257, R276, R415 and the like). The one constructor is raised by nothing; safe. -/
inductive Fault where
  /-- Raised by no command; safe. -/
  | none
  deriving DecidableEq, Repr

/-- Reasons to refuse a command. -/
inductive Refusal where
  /-- The model gives the command no meaning yet; raised by Dispatch alone; safe. -/
  | notModelled (mnemonic : String)
  deriving DecidableEq, Repr

/-- The state: the waiting commands, first in first out; the data memory (R30), a canonical list of the bytes that differ from
what unwritten memory reads as; the flipped bits of its ECC words (R359), by word address; and the machine. -/
structure State where
  pending : List Instr
  mem : List Host.Cell
  flips : List (Nat × BitVec 72)
  m : Mach
  deriving DecidableEq, Repr

/-- No package has been read. -/
def emptyPackage : Package where
  digest := 0
  arithRev := 0
  regs := []
  jobs := []
  images := []
  parts := []
  pairs := []
  lin := []
  ff := []
  tone := []
  service := []
  autorun := false
  autorunMs := 1300
  startTmoS := 60

/-- The registers, tables and queues right after a power-on reset (R16, R398). -/
def Mach.reset : Mach where
  now := 0
  reelB := 0
  reelT := 0
  reelRate := 2 ^ 40
  wallB := 0
  wallT := 0
  wallRate := 2 ^ 40
  regs := []
  fresh := 0
  twinPres := false
  twinB := false
  evq := []
  evDropped := []
  runs := []
  logBuf := []
  logLost := 0
  fioCh := []
  swActs := []
  fioW := []
  fioC := []
  pos := []
  cmp := []
  pulses := []
  lateUntil := 0
  mon := []
  verdQ := []
  loadAt := 0
  bucketAt := 0
  started := false
  ownVerdicts := []
  peerVerdicts := []
  ownDigests := []
  peerDigests := []
  recBuf := []
  recDropped := 0
  recFirst := 0
  recFreeze := none
  grs := []
  pipes := []
  cxs := []
  eng := []
  cores := []
  istore := []
  ports := []
  mbxWait := []
  jobs := []
  msix := []
  pba := 0
  clJob := []
  asms := []
  clq := []
  running := []
  tileSeq := 0
  clIdle := []
  jobRt := []
  switching := none
  restart := none
  chain := []
  shed := 0
  hop := []
  pages := []
  widx := []
  tbuf := []
  lanes := []
  links := []
  tng := {}
  pkgDigest := 0
  lastMode := 1
  rplSeen := []
  rplRec := []
  spg := none
  drbgAt := 0
  drbgN := 0
  healthRun := 0
  reelGood := 0
  reelOff := 0
  reelSeen := 0
  keysAt := 0
  recCkpts := []
  ckptAt := 0
  ckptN := 0
  rplPos := 0
  rplOff := 0
  rplExp := []
  rplCov := []
  rplChoices := []
  violated := []
  rplPre := []
  hostOut := []
  pcieOut := none
  tracer := {}
  prof := []
  evtAt := none
  nvm := []
  pkg := emptyPackage
  supply := {}
  rst := {}
  log := {}
  mgt := {}
  tim := {}
  kiln := {}
  snap := {}
  hostIn := none
  dramKeys := false

/-- The machine right after a power-on reset (R16, R398): every register at its reset value, nothing queued. -/
def State.reset : State where
  pending := []
  mem := []
  flips := []
  m := Mach.reset

end Sys2Proof.Machine
end

