-- ==== Sys2Proof/Machine/Line.lean ====
section
/-!
DEFINITION. Byte order, CRC-32C, and what a Ponyx lane puts on its line (R294, R296, R297, R307): the cell's bytes and bits, the
scrambler, the stuffing, and the loopback patterns.
-/

namespace Sys2Proof

/-! ## Cells (R294) -/

def Cell.bits (c : Cell) (lo n : Nat) : Nat := (c.hdr.extractLsb' lo n).toNat
def Cell.typ (c : Cell) : Nat := c.bits 60 4
def Cell.ch (c : Cell) : Nat := c.bits 57 3
def Cell.last (c : Cell) : Bool := c.hdr.getLsbD 55
def Cell.first (c : Cell) : Bool := c.hdr.getLsbD 56
def Cell.len (c : Cell) : Nat := c.bits 48 7
def Cell.lseq (c : Cell) : Nat := c.bits 32 16
def Cell.ack (c : Cell) : Nat := c.bits 16 16
def Cell.lane (c : Cell) : Nat := c.bits 12 4

/-- The cell is of type `t` and its reserved field is zero (R294). -/
def Cell.wellTyped (c : Cell) (t : Nat) : Bool := c.typ = t && c.bits 0 12 = 0

end Sys2Proof

namespace Sys2Proof.Machine

/-! ## Bytes -/

/-- The low `n` bytes of a number, little-endian (R11). -/
def leBytes : Nat → Nat → List Byte
  | 0, _ => []
  | n + 1, v => BitVec.ofNat 8 v :: leBytes n (v / 256)

/-- The number that little-endian bytes spell (R11). -/
def ofLe : List Byte → Nat
  | [] => 0
  | b :: t => b.toNat + 256 * ofLe t

def crcBit : Nat → BitVec 32 → BitVec 32
  | 0, c => c
  | n + 1, c => crcBit n (if c.getLsbD 0 then (c >>> 1) ^^^ 0x82F63B78 else c >>> 1)

/-- CRC-32C (RFC 3720): polynomial 0x1EDC6F41 reflected, initial value and final XOR all ones. -/
def crc32c (b : List Byte) : Nat :=
  (~~~(b.foldl (fun c x => crcBit 8 (c ^^^ x.setWidth 32)) (0xFFFFFFFF : BitVec 32))).toNat

end Sys2Proof.Machine

namespace Sys2Proof

/-! ## A cell on the line -/

/-- A little-endian number in a cell's payload. -/
def Cell.num (c : Cell) (at_ n : Nat) : Nat := Machine.ofLe ((c.payload.drop at_).take n)

/-- Bytes 0 to 71 of a cell (R294): its header and its payload. -/
def Cell.body (c : Cell) : List Byte := Machine.leBytes 8 c.hdr.toNat ++ c.payload

/-- The cell's CRC-32C is that of its bytes 0 to 71 (R294). -/
def Cell.crcOk (c : Cell) : Bool := c.crc.toNat = Machine.crc32c c.body

/-- The 608 bits of a cell in the order of the line (R294): bytes in order, each least significant bit first. -/
def Cell.lineBits (c : Cell) : List Bool :=
  (c.body ++ Machine.leBytes 4 c.crc.toNat).flatMap fun b => (List.range 8).map b.getLsbD

/-- A cell is scrambled unless it is a SYNC or a TRAIN cell (R296). -/
def Cell.scrambled (c : Cell) : Bool := c.typ != 3 && c.typ != 4

end Sys2Proof

namespace Sys2Proof.Machine

/-- A cell with its CRC (R294): the header's fields, the payload padded to 64 bytes. -/
def mkCell (typ ch : Nat) (first last : Bool) (len lseq ack lane : Nat) (payload : List Byte) : Cell :=
  let hdr := typ % 16 * 2 ^ 60 + ch % 8 * 2 ^ 57 + first.toNat * 2 ^ 56 + last.toNat * 2 ^ 55 + len % 128 * 2 ^ 48
    + lseq % 65536 * 2 ^ 32 + ack % 65536 * 2 ^ 16 + lane % 16 * 2 ^ 12
  let payload := payload.take 64 ++ List.replicate (64 - payload.length) 0
  { hdr := BitVec.ofNat 64 hdr, payload, crc := BitVec.ofNat 32 (crc32c (leBytes 8 hdr ++ payload)) }

/-! ## The scrambler (R296) -/

/-- One step of s(n) = s(n − 39) XOR s(n − 58): the bit, and the state after it, whose bit i is s(n − i) (log entry 145). -/
def scrStep (s : BitVec 58) : Bool × BitVec 58 :=
  let b := s.getLsbD 38 != s.getLsbD 57
  (b, (s <<< 1) ||| (if b then 1 else 0))

/-- Bits XORed with the scrambler's output, and the scrambler after them. -/
def scramble : List Bool → BitVec 58 → List Bool × BitVec 58
  | [], s => ([], s)
  | b :: t, s =>
    let r := scrStep s
    let rest := scramble t r.2
    ((b != r.1) :: rest.1, rest.2)

/-- The scrambler after `n` bits. -/
def scrSkip : Nat → BitVec 58 → BitVec 58
  | 0, s => s
  | n + 1, s => scrSkip n (scrStep s).2

/-! ## Stuffing (R297) -/

/-- The run after bit `b`, when the run before was of `n` bits `last`. -/
def runAfter (b last : Bool) (n : Nat) : Nat := if b = last && n != 0 then n + 1 else 1

/-- Bits as the line carries them: the 31st identical bit in a row is followed by one of the opposite value, which begins a new
run. With them the last bit and its run. -/
def stuff : List Bool → Bool → Nat → List Bool × Bool × Nat
  | [], last, n => ([], last, n)
  | b :: t, last, n =>
    if runAfter b last n = 31 then let r := stuff t (!b) 1; (b :: (!b) :: r.1, r.2)
    else let r := stuff t b (runAfter b last n); (b :: r.1, r.2)

/-- Bits of the line without the stuffed ones: whether a bit after 31 identical ones equalled the run, the bits, the last bit and its
run. Such a bit is removed and begins a new run. -/
def unstuff : List Bool → Bool → Nat → Bool × List Bool × Bool × Nat
  | [], last, n => (false, [], last, n)
  | b :: t, last, n =>
    if n = 31 then let r := unstuff t b 1; (b = last || r.1, r.2)
    else let r := unstuff t b (runAfter b last n); (r.1, b :: r.2.1, r.2.2)

/-- A cell in one direction of a lane: its bits on the line, and the scrambler and the run after it. -/
def LineSide.put (l : LineSide) (c : Cell) : List Bool × LineSide :=
  let (bs, scr) := if c.scrambled then scramble c.lineBits l.scr else (c.lineBits, l.scr)
  let r := stuff bs l.bit l.run
  (r.1, ⟨scr, r.2.1, r.2.2⟩)

/-- Eight bits, least significant first, as a byte. -/
def byteOfBits (l : List Bool) : Byte := l.foldr (fun b acc => (acc <<< 1) ||| (if b then 1 else 0)) 0

/-- Bits as bytes; an incomplete last byte is left out. -/
def bytesOfBits : Nat → List Bool → List Byte
  | 0, _ => []
  | n + 1, l => if l.length < 8 then [] else byteOfBits (l.take 8) :: bytesOfBits n (l.drop 8)

/-- 608 bits are a cell whose CRC-32C fits (R294). -/
def bitsPass (l : List Bool) : Bool :=
  let b := bytesOfBits 76 l
  l.length = 608 && ofLe (b.drop 72) = crc32c (b.take 72)

/-- Bits of the line that are taken for one cell (R296, R297): whether stuffing was violated, whether they fail as a cell, scrambled
or not, and the direction after them. -/
def LineSide.take (l : LineSide) (bits : List Bool) : Bool × Bool × LineSide :=
  let r := unstuff bits l.bit l.run
  let d := scramble r.2.1 l.scr
  (r.1, r.1 || !(bitsPass d.1 || bitsPass r.2.1), ⟨d.2, r.2.2.1, r.2.2.2⟩)

/-! ## Loopback patterns (R307) -/

/-- The taps of a pattern: PRBS31, x^31 + x^28 + 1, or PRBS7, x^7 + x^6 + 1. -/
def prbsTaps (pattern : Nat) : Nat × Nat := if pattern = 1 then (7, 6) else (31, 28)

/-- The next bit of a pattern from its newest bits, newest first. -/
def prbsNext (pattern : Nat) (l : List Bool) : Bool := l.getD ((prbsTaps pattern).1 - 1) false != l.getD ((prbsTaps pattern).2 - 1) false

/-- Received bits against a synchronised checker: the bits that differ from the pattern, and the pattern's newest bits after them. -/
def prbsCheck (pattern : Nat) : List Bool → List Bool → Nat × List Bool
  | [], l => (0, l)
  | b :: t, l =>
    let e := prbsNext pattern l
    let r := prbsCheck pattern t ((e :: l).take 31)
    ((if b = e then 0 else 1) + r.1, r.2)

end Sys2Proof.Machine
end

