-- ==== Sys2Proof/Machine/Ops.lean ====
section
/-!
DEFINITION. The named operations that every meaning is made of: registers and their fields (R11 to R16), time (R441, R442),
events (R34, R35, R507 to R509), records (R343) and the per-instance tables.
-/

namespace Sys2Proof.Machine

/-! ## Registers and fields -/

/-- `w` with its bits `lo + width - 1` to `lo` replaced by the low bits of `v`. -/
def setField (w : Word) (lo width v : Nat) : Word :=
  (w &&& ~~~((BitVec.allOnes width).setWidth 64 <<< lo)) ||| ((BitVec.ofNat width v).setWidth 64 <<< lo)

/-- The stored word of the register at control offset `o`. -/
def Mach.rd (m : Mach) (o : Nat) : Word := spGet regReset m.regs o

/-- The machine with the register at `o` holding `w`. -/
def Mach.wr (m : Mach) (o : Nat) (w : Word) : Mach := { m with regs := spPut regReset m.regs o w }

/-- The value of a field, unsigned. -/
def Mach.get (m : Mach) (f : Fld) : Nat := ((m.rd f.off).extractLsb' f.lo f.w).toNat

/-- The value of a field read as signed. -/
def Mach.geti (m : Mach) (f : Fld) : Int := ((m.rd f.off).extractLsb' f.lo f.w).toInt

/-- The machine with field `f` holding the low bits of `v`. -/
def Mach.set (m : Mach) (f : Fld) (v : Nat) : Mach := m.wr f.off (setField (m.rd f.off) f.lo f.w v)

/-- The machine with field `f` holding `v` in two's complement. -/
def Mach.seti (m : Mach) (f : Fld) (v : Int) : Mach := m.set f (v % 2 ^ f.w).toNat

/-- A one-bit field as a truth value. -/
def Mach.on (m : Mach) (f : Fld) : Bool := m.get f = 1

/-- The machine with a one-bit field set to `b`. -/
def Mach.setb (m : Mach) (f : Fld) (b : Bool) : Mach := m.set f b.toNat

/-- The field plus `n`, stopping at its largest value: every counter that saturates (R70, R108, R262, R291 and the like). -/
def Mach.bump (m : Mach) (f : Fld) (n : Nat := 1) : Mach := m.set f (min (m.get f + n) (2 ^ f.w - 1))

/-- The field plus `n` modulo its width: every free-running counter. -/
def Mach.count (m : Mach) (f : Fld) (n : Nat := 1) : Mach := m.set f (m.get f + n)

/-- `f m` where `c` holds, else `m`. -/
def Mach.cond (m : Mach) (c : Bool) (f : Mach → Mach) : Mach := if c then f m else m

/-- A value outside a field's stated range acts as the nearest limit (R506). -/
def clampN (lo hi v : Nat) : Nat := max lo (min hi v)

/-- Fields of stated range as they act (R225, R192, R506). -/
def Mach.c0Clusters (m : Mach) (j : Nat) : Nat := min 60 (m.get (F.schJobRsv_C0_CLUSTERS j))
def Mach.clMin (m : Mach) (j : Nat) : Nat := max 1 (m.get (F.schJobRsv_CL_MIN j))
def Mach.clMax (m : Mach) (j : Nat) : Nat := max (m.clMin j) (min 60 (m.get (F.schJobRsv_CL_MAX j)))
def Mach.lsSave (m : Mach) (j : Nat) : Nat := min 16384 (m.get (F.schJobSave_LS_SAVE j))
def Mach.tunPages (m : Mach) (j : Nat) : Nat := min 768 (m.get (F.schJobTun_TUN_PAGES j))
def Mach.switchUs (m : Mach) (j : Nat) : Nat := clampN 40 119 (m.get (F.schJobDl_SWITCH_US j))
def Mach.slotC0 (m : Mach) (e : Nat) : Nat := min 56 (m.get (F.schSlot_C0 e))
def Mach.c0Pages (m : Mach) : Nat := min 10240 (m.get F.schC0Pool_PAGES)
def Mach.hopPages (m : Mach) : Nat := min 12288 (m.get F.hopPool_NPAGES)

/-- `a / b` rounded to nearest, halves upward (R239). -/
def divRound (a b : Int) : Int := (2 * a + b).fdiv (2 * b)

/-- `v` held to the range of a signed field of `w` bits. -/
def satI (w : Nat) (v : Int) : Int := max (-(2 ^ (w - 1))) (min (2 ^ (w - 1) - 1) v)

/-- `v` read as a signed number of `w` bits. -/
def wrapI (w : Nat) (v : Int) : Int := Int.bmod v (2 ^ w)

/-- A free value (log entry 9): the next one of the supply, and the machine with it used up. -/
def Mach.free (m : Mach) : Word × Mach := (Config.freeWord m.fresh, { m with fresh := m.fresh + 1 })

/-! ## Time -/

/-- A derived time in units of 2^-40 ns at base count `b` (R442). -/
def derived (anchorB : Nat) (anchorT : Int) (rate b : Nat) : Int := anchorT + ((b : Int) - anchorB) * rate

/-- Reel time in whole ns (R442). -/
def Mach.reel (m : Mach) : Int := (derived m.reelB m.reelT m.reelRate m.now).fdiv (2 ^ 40)

/-- Wall time in whole ns (R448). -/
def Mach.wall (m : Mach) : Int := (derived m.wallB m.wallT m.wallRate m.now).fdiv (2 ^ 40)

/-- RATE is held to 2^40 (1 ± 0.001) (R442): 0.001 of 2^40 is 1,099,511,627.776, so the whole values from
1,098,412,116,149 to 1,100,611,139,403. -/
def clampRate (r : Nat) : Nat := clampN 1098412116149 1100611139403 r

/-- Reel goes on from here at another rate (R442). -/
def Mach.setReelRate (m : Mach) (r : Nat) : Mach :=
  { m with reelB := m.now, reelT := derived m.reelB m.reelT m.reelRate m.now, reelRate := clampRate r }

/-- Reel steps by `e` ns (R444). -/
def Mach.stepReel (m : Mach) (e : Int) : Mach := { m with reelT := m.reelT + e * 2 ^ 40 }

/-- Wall time goes on from here at another rate (R442, R448). -/
def Mach.setWallRate (m : Mach) (r : Nat) : Mach :=
  { m with wallB := m.now, wallT := derived m.wallB m.wallT m.wallRate m.now, wallRate := clampRate r }

/-- Wall time steps by `e` ns (R448). -/
def Mach.stepWall (m : Mach) (e : Int) : Mach := { m with wallT := m.wallT + e * 2 ^ 40 }

/-- A time as the data side and trace records show it (R382, R461): whole microseconds outside service mode. -/
def Mach.coarse (m : Mach) (t : Int) : Int := if m.on F.secStat_SERVICE then t else t.fdiv 1000 * 1000

/-! ## Runs of like occurrences (R509) -/

/-- `r` is the run of event (`blk`, `loc`) of instance `inst` and unit `unit`. -/
def Run.is (r : Run) (blk loc inst unit : Nat) : Bool :=
  r.blk = blk && r.loc = loc && r.inst = inst && r.unit = unit

/-- One more affected occurrence: a run begins, or the one in progress grows. -/
def growRuns (runs : List Run) (now : Nat) (counted : Bool) (blk loc inst unit : Nat) (args : List (Nat × Int)) (n : Nat) : List Run :=
  if runs.any (·.is blk loc inst unit) then
    runs.map fun r => if r.is blk loc inst unit then { r with count := r.count + n } else r
  else runs ++ [⟨blk, loc, inst, unit, counted, now, n, args⟩]

def Mach.runGrow (m : Mach) (counted : Bool) (blk loc inst unit : Nat) (args : List (Nat × Int)) (n : Nat) : Mach :=
  { m with runs := growRuns m.runs m.now counted blk loc inst unit args n }

/-! ## Trace records (R458 to R461) -/

/-- The 32 bytes of a trace record (R461). -/
def TRec.bytes (r : TRec) : List Byte :=
  leBytes 8 (r.typ % 256 * 2 ^ 56 + r.job % 64 * 2 ^ 50 + r.agent % 4096 * 2 ^ 38 + r.layer % 4096 * 2 ^ 26
    + r.operator % 65536 * 2 ^ 10 + r.sub % 1024)
    ++ leBytes 8 (r.reel % 2 ^ 64).toNat ++ leBytes 8 r.arg0 ++ leBytes 8 r.arg1

/-- Records the trace ring holds (R473). -/
def Mach.traceCap (m : Mach) : Nat := m.get F.trcTraceRing_SIZE * 2048

/-- WIDX − RIDX equals the ring's capacity (R458). -/
def Mach.traceFull (m : Mach) : Bool := decide (m.traceCap ≤ m.tracer.widx - m.get F.trcTraceRidx_IDX)

/-- A record takes the next slot of the ring (R458). -/
def Mach.tracePutTo (m : Mach) (r : TRec) (t : Tracer) : Tracer :=
  { t with widx := t.widx + 1, out := t.out ++ [(m.get F.trcTraceRing_BASE * 0x1000 + t.widx % m.traceCap * 32, r.bytes)] }

def Mach.tracePut (m : Mach) (r : TRec) : Mach := { m with tracer := m.tracePutTo r m.tracer }

/-- The bucket of capped mode gains 256 records a microsecond, up to 4,096 (R459). -/
def Tracer.gain (t : Tracer) (now : Nat) : Tracer := { t with tok := min 4096000 (t.tok + (now - t.tokAt) * 256), tokAt := now }

def Mach.traceGain (m : Mach) : Mach := { m with tracer := m.tracer.gain m.now }

/-- A record is dropped and counted (R459, R460). -/
def Tracer.drop (t : Tracer) : Tracer := { t with dropped := min (t.dropped + 1) (2 ^ 32 - 1) }

def Mach.traceDrop (m : Mach) : Mach := { m with tracer := m.tracer.drop }

/-- Tracing takes records of source `src` for job `job`; none for a record of no job (R458; log entry 71). -/
def Mach.traces (m : Mach) (src : Nat) (job : Option Nat) : Bool :=
  let mode := m.get F.trcTraceCtl_MODE
  (mode = 1 || mode = 2) && (m.get F.trcTraceCtl_SRC).testBit (src - 8) && m.traceCap != 0
    && (match job with | some j => (m.get F.trcTraceJobs_JOBS).testBit j | none => true)

/-- What a record of source `src` that tracing takes does to the writer (R458 to R460), and whether capped mode drops it: one that may
`stall` waits for room in lossless mode. -/
def Mach.traceTo (m : Mach) (stall : Bool) (r : TRec) : Tracer × Bool :=
  let t := m.tracer
  if m.get F.pwrStat_STAGE != 0 then (t.drop, false)
  else if m.get F.trcTraceCtl_MODE = 1 then
    let t := t.gain m.now
    if 1000 ≤ t.tok then (m.tracePutTo r { t with tok := t.tok - 1000 }, false) else ({ t with lost := t.lost + 1 }.drop, true)
  else if m.traceFull || !t.held.isEmpty then
    if stall then ({ t with held := t.held ++ [(m.now, r)] }, false) else (t.drop, false)
  else (m.tracePutTo r t, false)

/-- A producer writes a trace record of source `src` (R458 to R460); drops of capped mode are a run of like occurrences (R509). -/
def Mach.trace (m : Mach) (src : Nat) (stall : Bool) (job : Option Nat) (r : TRec) : Mach :=
  if m.traces src job then
    let (t, dropped) := m.traceTo stall { r with job := job.getD r.job, reel := m.coarse r.reel }
    { m with tracer := t, runs := if dropped then growRuns m.runs m.now true 0x1A 0x10 0 0 [] 1 else m.runs }
  else m

/-- A producer of trace records of these agents stalls (R460). -/
def Mach.traceStalls (m : Mach) (agent : Nat) : Bool := m.tracer.held.any fun h => h.2.agent = agent

/-- The assigned agent ID number `k` (R33), counted through the table of IDs: a value that the spec leaves open names one of them. -/
def someAgent (k : Nat) : Nat :=
  let i := k % 3903
  if i < 4 then 0x001 + i
  else if i < 8 then 0x010 + (i - 4)
  else if i < 16 then 0x018 + (i - 8)
  else if i < 20 then 0x020 + (i - 16)
  else if i < 24 then 0x028 + (i - 20)
  else if i < 26 then 0x030 + (i - 24)
  else if i < 27 then 0x038
  else if i < 43 then 0x040 + (i - 27)
  else if i < 59 then 0x050 + (i - 43)
  else if i < 63 then 0x060 + (i - 59)
  else 0x100 + (i - 63)

/-- The agent of a unit (R33); a unit that has none shows an assigned ID that the spec does not state (log entry 71). -/
def unitAgent (blk inst : Nat) : Nat :=
  match blk with
  | 0x01 => 0x040 + inst
  | 0x02 => 0x050 + inst
  | 0x03 => 0x010 + inst
  | 0x04 => 0x018 + inst
  | 0x05 => 0x020 + inst
  | 0x06 => 0x028 + inst
  | 0x07 => 0x030 + inst
  | 0x08 => 0x038 + inst
  | 0x0B => 0x060
  | 0x0C => 0x061
  | 0x10 => 0x062
  | 0x13 => 0x063
  | 0x18 => 0x001
  | _ => someAgent (Config.unstated 0x7100 [blk, inst])

/-! ## Events -/

/-- An argument's size in bits: its width rounded up to 8, 16, 32 or 64 (R507). -/
def argSize (w : Nat) : Nat := if w ≤ 8 then 8 else if w ≤ 16 then 16 else if w ≤ 32 then 32 else 64

/-- Arguments (width in bits, value) packed from bit `pos` on, each at the next offset aligned to its size (R507). -/
def packFrom : Nat → List (Nat × Int) → Nat
  | _, [] => 0
  | pos, (w, v) :: t =>
    let z := argSize w
    let p := (pos + z - 1) / z * z
    (v % 2 ^ z).toNat * 2 ^ p + packFrom (p + z) t

/-- The 32 argument bytes as one little-endian number (R507). -/
def packArgs (l : List (Nat × Int)) : Nat := packFrom 0 l

/-- The key of a unit's event queue: its block and its instance (R35, R508; log entry 13). -/
def unitKey (blk inst : Nat) : Nat := blk * 0x10000 + inst

/-- Events waiting in the queue of unit (`blk`, `inst`). -/
def Mach.evLevel (m : Mach) (blk inst : Nat) : Nat := (m.evq.filter fun e => e.blk = blk ∧ e.inst = inst).length

/-- The trace record of an event (R461): its code and instance, and the low 64 bits of its arguments. -/
def Mach.traceEvent (m : Mach) (blk loc inst : Nat) (args : List (Nat × Int)) : Mach :=
  m.trace 14 false none
    { typ := 0x0A, job := Config.unstated 0x7101 [blk, loc], agent := unitAgent blk inst, layer := 0, operator := 0, sub := 0, reel := m.reel,
      arg0 := blk * 256 + loc + inst % 65536 * 65536, arg1 := packArgs args }

/-- A unit raises an event (R35): it is traced, stamped and queued, or dropped and counted when the unit's 64-entry queue is full. -/
def Mach.emit (m : Mach) (blk loc inst : Nat) (args : List (Nat × Int)) : Mach :=
  let room := m.evLevel blk inst < 64
  let k := unitKey blk inst
  { m.traceEvent blk loc inst args with
      evq := if room then m.evq ++ [⟨blk, loc, inst, packArgs args, m.reel, m.wall⟩] else m.evq
      evDropped := if room then m.evDropped else spPut (fun _ => 0) m.evDropped k (spGet (fun _ => 0) m.evDropped k + 1) }

/-- One more affected occurrence (R509): a run begins or grows; an event without a count is raised at the first. -/
def Mach.runHit (m : Mach) (counted : Bool) (blk loc inst unit : Nat) (args : List (Nat × Int)) (n : Nat := 1) : Mach :=
  let first := !m.runs.any (·.is blk loc inst unit)
  let m := m.runGrow counted blk loc inst unit args n
  if first && !counted then m.emit blk loc inst args else m

/-- A run ends (R509): the run is over and, when its event carries the count, the event is raised with the full count. -/
def Mach.runEnd (m : Mach) (blk loc inst unit : Nat) : Mach :=
  match m.runs.find? (·.is blk loc inst unit) with
  | none => m
  | some r =>
    let m := { m with runs := m.runs.filter fun r => !r.is blk loc inst unit }
    if r.counted then m.emit blk loc inst (r.args ++ [(32, (r.count : Int))]) else m

/-- Every run of occurrences that `sel` names ends (R509): their function stops. -/
def Mach.runsEnd (m : Mach) (sel : Run → Bool) : Mach :=
  (m.runs.filter sel).foldl (fun m r => m.runEnd r.blk r.loc r.inst r.unit) m

/-- An MSI-X vector is raised (R436): masked in the table or without a host port, it stays pending in the PBA. -/
def Mach.msixRaise (m : Mach) (vec : Nat) : Mach :=
  let ctl := spGet (fun k => if k % 2 = 1 then (2 ^ 32 : Word) else 0) m.msix (2 * vec + 1)
  if !m.on F.mgtPcieStat_UP || m.mgt.d3 || ctl.getLsbD 32 then { m with pba := m.pba ||| ((1 : Word) <<< (vec % 64)) } else m

/-- The log takes events of a selected block: EVT_VEC, at most once per 10 µs (R436). -/
def Mach.evtVector (m : Mach) (l : List Ev) : Mach :=
  if (l.any fun e => (m.get F.mgtIrqMask_BLOCKS).testBit e.blk) && (match m.evtAt with | some t => decide (t + 10000 ≤ m.now) | none => true) then
    { m.msixRaise (m.get F.mgtIrq_EVT_VEC) with evtAt := some m.now }
  else m

/-- The queued events reach the management controller in queue order and enter the log's buffer of 2,048 entries; the excess is
lost and counted (R35, R465). -/
def Mach.forward (m : Mach) : Mach :=
  let room := 2048 - m.logBuf.length
  { (m.evtVector (m.evq.take room)) with
      evq := [], logBuf := m.logBuf ++ m.evq.take room, logLost := m.logLost + (m.evq.length - room)
      log := { m.log with lost := min (m.log.lost + (m.evq.length - room)) (2 ^ 32 - 1) } }

/-- `dt` ns of the base counter pass (log entries 1 and 13). -/
def Mach.advance (m : Mach) (dt : Nat) : Mach :=
  if dt = 0 then m else { m.forward with now := m.now + dt }

/-! ## Instances -/

def Mach.fioChan (m : Mach) (q : Nat) : FioCh := spGet (fun _ => {}) m.fioCh q
def Mach.modFioCh (m : Mach) (q : Nat) (f : FioCh → FioCh) : Mach :=
  { m with fioCh := spPut (fun _ => {}) m.fioCh q (f (m.fioChan q)) }

def Mach.inW (m : Mach) (i : Nat) : FioIn := spGet (fun _ => {}) m.fioW i
def Mach.modInW (m : Mach) (i : Nat) (f : FioIn → FioIn) : Mach :=
  { m with fioW := spPut (fun _ => {}) m.fioW i (f (m.inW i)) }

def Mach.inC (m : Mach) (i : Nat) : FioIn := spGet (fun _ => {}) m.fioC i
def Mach.modInC (m : Mach) (i : Nat) (f : FioIn → FioIn) : Mach :=
  { m with fioC := spPut (fun _ => {}) m.fioC i (f (m.inC i)) }

def Mach.posAx (m : Mach) (a : Nat) : PosAx := spGet (fun _ => {}) m.pos a
def Mach.modPos (m : Mach) (a : Nat) (f : PosAx → PosAx) : Mach :=
  { m with pos := spPut (fun _ => {}) m.pos a (f (m.posAx a)) }

def Mach.cmpAx (m : Mach) (a : Nat) : CmpAx := spGet (fun _ => {}) m.cmp a
def Mach.modCmp (m : Mach) (a : Nat) (f : CmpAx → CmpAx) : Mach :=
  { m with cmp := spPut (fun _ => {}) m.cmp a (f (m.cmpAx a)) }

def Mach.pulse (m : Mach) (v : Nat) : Option Pulse := spGet (fun _ => none) m.pulses v
def Mach.setPulse (m : Mach) (v : Nat) (p : Option Pulse) : Mach :=
  { m with pulses := spPut (fun _ => none) m.pulses v p }

/-! ## Roles and modes -/

/-- The twin state (R316) is `s`. -/
def Mach.tngIs (m : Mach) (s : Nat) : Bool := m.get F.tngStat_STATE = s

/-- The module is FOLLOWER (R316). -/
def Mach.follower (m : Mach) : Bool := m.tngIs 3

/-- The device replays (R353): SCH_STAT.MODE reads REPLAY. -/
def Mach.replaying (m : Mach) : Bool := m.get F.schStat_MODE = 2

/-- A unit of block `blk` whose instance `p` selects has answered a restart that is not resolved: its configuration is frozen (R213). -/
def Mach.unitFrozen (m : Mach) (blk : Nat) (p : Nat → Bool) : Bool :=
  match m.restart with
  | some r => !r.started && r.units.any fun u => u.1 = blk && p u.2
  | none => false

/-! ## Links -/

def Mach.lane (m : Mach) (n : Nat) : Lane := spGet (fun _ => {}) m.lanes n
def Mach.modLane (m : Mach) (n : Nat) (f : Lane → Lane) : Mach :=
  { m with lanes := spPut (fun _ => {}) m.lanes n (f (m.lane n)) }
def Mach.link (m : Mach) (k : Nat) : Link := spGet (fun _ => {}) m.links k
def Mach.modLink (m : Mach) (k : Nat) (f : Link → Link) : Mach :=
  { m with links := spPut (fun _ => {}) m.links k (f (m.link k)) }

/-- The lanes of link `k` (R292). -/
def linkLanes (k : Nat) : List Nat := if k = 0 then List.range 12 else (List.range 4).map (8 + 4 * k + ·)

/-- The link of lane `n` (R292). -/
def laneLink (n : Nat) : Nat := if n < 12 then 0 else (n - 8) / 4

/-- The link's ACTIVE lanes (R300). -/
def Mach.activeLanes (m : Mach) (k : Nat) : List Nat := (linkLanes k).filter fun n => m.get (F.pnxStat_STATE n) = 2

/-- Link `k` is UP (R304). -/
def Mach.linkUp (m : Mach) (k : Nat) : Bool := m.get (F.pnxLink_STATE k) = 2

/-- A cell goes onto lane `n` (R294, R296, R297). -/
def Mach.putCell (m : Mach) (n : Nat) (c : Cell) : Mach :=
  m.modLane n fun l => let r := l.tx.put c; { l with tx := r.2, sent := r.1, idleAt := m.now }

/-- The lane of link `k` that is free next (R303; log entry 9): one in L0, or, when none is, one that the cell waits for. -/
def Mach.pickLane (m : Mach) (k : Nat) : Nat × Mach :=
  let all := m.activeLanes k
  let l0 := all.filter fun n => m.get (F.pnxStat_PWR n) = 0
  match (if l0.isEmpty then all else l0) with
  | [n] => (n, m)
  | l => let (f, m) := m.free; (l.getD (f.toNat % l.length) 0, m)

/-- A DATA or TAG cell of link `k` takes the next LSEQ, goes onto the lane that is free next and into the replay buffer (R303). -/
def Mach.cellOut (m : Mach) (k : Nat) (mk : Nat → Nat → Nat → Cell) : Mach :=
  let (n, m) := m.pickLane k
  let l := m.link k
  let c := mk l.next l.good (n - (linkLanes k).headD 0)
  (m.putCell n c).modLink k fun l => { l with next := (l.next + 1) % 65536, replay := l.replay ++ [⟨l.next, n, c⟩] }

/-- The bytes of a message (R295): where their layout is not in the spec they are open, and take one cell (log entry 14). -/
def OutMsg.bytes (x : OutMsg) : List Byte :=
  if x.body.isEmpty then (0 :: Config.msgBody x.ch x.kind x.vals).take 64 else x.body

/-- The message whose cell goes next (R295): the lowest channel, the oldest of its messages. -/
def nextMsg : List TxMsg → Option TxMsg
  | [] => none
  | x :: t => match nextMsg t with
    | some y => if y.msg.ch < x.msg.ch then some y else some x
    | none => some x

/-- What is left of the queue once a cell of its message `x` has gone: the bytes `left`, or nothing of it. -/
def sentOf (x : TxMsg) (left : List Byte) : List TxMsg → List TxMsg
  | [] => []
  | y :: t => if y = x then (if left.isEmpty then t else { x with begun := true, left } :: t) else y :: sentOf x left t

/-- The open segment closes (R310): after 32 DATA cells, when no further DATA cell is ready, or right after the LAST cell of a TANGO
message. -/
def Link.closes (l : Link) : Bool :=
  match l.opened.getLast? with
  | none => false
  | some c => l.opened.length = 32 || l.txq.isEmpty || (c.ch = 0 && c.last)

/-- The TAG cell that closes the open segment of link `k` (R310). -/
def Mach.sendTag (m : Mach) (k : Nat) : Mach :=
  let l := m.link k
  let n := l.opened.length
  let bare (c : Cell) : Word := c.hdr &&& ~~~(0xFFFFF000 : Word)
  let tag := Config.gcmTag k (m.get (F.secLink_GEN k)) l.segTx (l.opened.map bare) (l.opened.map (·.payload))
  let body := leBytes 8 l.segTx ++ leBytes 2 ((l.next + 65536 - n) % 65536) ++ leBytes 1 n ++ List.replicate 5 0 ++ leBytes 16 tag.toNat
  (m.cellOut k fun lseq ack lane => mkCell 2 0 false false 0 lseq ack lane body).modLink k fun l =>
    { l with opened := [], segTx := l.segTx + 1 }

/-- The next DATA cell of message `x` on link `k` (R295, R310). -/
def Mach.sendData (m : Mach) (k : Nat) (x : TxMsg) : Mach :=
  let l := m.link k
  let bytes := x.left.take 64
  let rest := x.left.drop 64
  let plain := bytes ++ List.replicate (64 - bytes.length) 0
  let mk (p : List Byte) (lseq ack lane : Nat) : Cell := mkCell 1 x.msg.ch (!x.begun) rest.isEmpty bytes.length lseq ack lane p
  (m.cellOut k (mk (Config.gcmSeal k (m.get (F.secLink_GEN k)) l.segTx l.opened.length plain))).modLink k fun l =>
    { l with txq := sentOf x rest l.txq, opened := l.opened ++ [mk plain l.next 0 0] }

/-- Cells of link `k` go out while the replay buffer of 1,024 cells has room (R295, R303, R310); the number bounds them. -/
def Mach.pump (k : Nat) : Nat → Mach → Mach
  | 0, m => m
  | n + 1, m =>
    let l := m.link k
    if 1024 ≤ l.replay.length then m
    else if l.closes then (m.sendTag k).pump k n
    else match nextMsg l.txq with
      | some x => (m.sendData k x).pump k n
      | none => m

/-- Cells are queued for link `k` (R306): lanes held in L2 leave it, and lanes in L1 wake when there is more than one, as there is
with the TAG cell of any DATA cell. -/
def Mach.linkWake (m : Mach) (k : Nat) : Mach :=
  (m.activeLanes k).foldl (fun m n =>
    if m.get (F.pnxStat_PWR n) = 0 then m else m.modLane n fun l => { l with wakeAt := some m.now }) m

/-- What waits on link `k` goes out as the replay buffer allows. -/
def Mach.linkPump (m : Mach) (k : Nat) : Mach :=
  if (m.link k).txq.isEmpty && (m.link k).opened.isEmpty then m else (m.linkWake k).pump k 1024

/-- A message is sent on link `k` (R295, R303, R304): a link that is not UP carries nothing. -/
def Mach.linkSend (m : Mach) (k : Nat) (x : OutMsg) : Mach :=
  if m.linkUp k then (m.modLink k fun l => { l with txq := l.txq ++ [⟨x, false, x.bytes⟩] }).linkPump k else m

/-- The lead tells its follower (R319). A line for which the forwarding buffer of 4 MB has no room is lost (R327); the follower
learns it as FORWARDED_LINE says (log entry 149). -/
def Mach.tellFollower (m : Mach) (ch kind : Nat) (vals : List Nat) (body : List Byte) : Mach :=
  let x : OutMsg := ⟨ch, kind, vals, body⟩
  let waits := ((m.link 0).txq.filter (·.msg.ch = 5)).foldl (fun n y => n + y.left.length) 0
  if !m.tngIs 2 || (ch = 5 && 0x400000 < waits + x.bytes.length) then m else m.linkSend 0 x

/-! ## Recording -/

/-- Bytes a record takes in the ring: a 16-byte header and its body padded to 16 bytes (R344). -/
def Rec.bytes (r : Rec) : Nat := 16 + (r.body.length + 15) / 16 * 16

/-- Kinds that TRC_REC_CTL.KINDS selects (R345): EDGE, INPUT, HALO, DIGEST, VERDICT; every other type is always written. -/
def recKind (typ : Nat) : Option Nat :=
  match typ with
  | 0x03 => some 0
  | 0x04 => some 1
  | 0x07 => some 2
  | 0x0B => some 3
  | 0x0C => some 4
  | _ => none

/-- The record ring's size in MB: 1 to 32,768, or 0 for none (R343, R506). -/
def Mach.recRingMb (m : Mach) : Nat := min (m.get F.trcRecRing_SIZE) 32768

/-- TRC records now: EN set, a ring, not frozen, no replay (R343, R348). -/
def Mach.recording (m : Mach) : Bool :=
  m.on F.trcRecCtl_EN && !m.on F.trcRecCtl_FROZEN && m.get F.trcRecRing_SIZE != 0 && !m.replaying

/-- The twin link's channel for a kind of record that the lead forwards (R319): EDGE, INPUT, and on TANGO detaches, choices,
digests and verdicts. -/
def fwdChannel (typ : Nat) : Option Nat :=
  match typ with
  | 0x03 => some 3
  | 0x04 => some 4
  | 0x08 => some 0
  | 0x09 => some 0
  | 0x0B => some 0
  | 0x0C => some 0
  | _ => none

/-- What is recorded the lead forwards too (R319). -/
def Mach.forwardRec (m : Mach) (r : Rec) : Mach :=
  match fwdChannel r.typ with
  | some ch => m.tellFollower ch r.typ [r.job, r.unit] r.body
  | none => m

/-- A record enters the writer's 8 MB buffer, or is dropped and counted when the buffer has no room (R343). -/
def Mach.record (m : Mach) (r : Rec) : Mach :=
  let m := m.forwardRec r
  if m.recording && (match recKind r.typ with | some k => (m.get F.trcRecCtl_KINDS).testBit k | none => true) then
    if m.recDropped = 0 && (m.recBuf.foldl (fun a x => a + x.bytes) 0) + r.bytes ≤ 0x800000 then
      { m with recBuf := m.recBuf ++ [r] }
    else
      { m.bump F.trcRecCnt_DROPPED with
          recDropped := m.recDropped + 1
          recFirst := if m.recDropped = 0 then r.reel else m.recFirst }
  else m

/-- The stamp of a filtered edge (R228, R286): the first 4 ns sample of the Reel view at or after the raw transition, `back` ns
ago. A transition at a sample's instant is taken as seen by that sample (DESIGN CHOICE, log entry 143). -/
def Mach.edgeStamp (m : Mach) (back : Nat) : Int := -((back - m.reel).fdiv 4) * 4

/-- The filter has accepted a raw level that changed `back` ns ago and held since (R228, R286): `n` consecutive samples, 0 acting
as 1, have seen it; the unit acts within n × 4 ns + 20 ns of the transition. -/
def Mach.filtered (m : Mach) (n back : Nat) : Bool :=
  decide (m.edgeStamp back + 4 * ((max 1 n : Nat) - 1) ≤ m.reel) && decide (back ≤ 4 * max 1 n + 20)

end Sys2Proof.Machine
end

