-- ==== Sys2Proof/Machine/Flags.lean ====
section
/-!
DEFINITION. The device's status outputs and flags: FAULT (R3), LATE (R256), READY (R407) and the record freeze triggers (R348).
-/

namespace Sys2Proof.Machine

/-- FAULT is active while any bit of RST_FAULT.SRC is set (R3, R423). -/
def Mach.faultActive (m : Mach) : Bool := m.get F.rstFault_SRC != 0

/-- CMP_LATE.PIN shows the LATE output (R256): latched, stretched, or driven with FAULT. In REPLAY the late events do not
drive it (R353). -/
def Mach.latePin (m : Mach) : Mach :=
  m.setb F.cmpLate_PIN
    (m.faultActive || (if m.on F.cmpLate_MODE then m.on F.cmpLate_LATCH else decide (m.now < m.lateUntil)))

/-- Bit `i` of RST_FAULT.SRC sets or clears, and LATE follows (R3, R256). -/
def Mach.setFaultSrc (m : Mach) (i : Nat) (b : Bool) : Mach :=
  let w := m.get F.rstFault_SRC
  (m.set F.rstFault_SRC (w - (if w.testBit i then 2 ^ i else 0) + (if b then 2 ^ i else 0))).latePin

/-- A trigger that freezes recording POST_MS later (R348): cause 1 mismatch, 2 late, 3 fault. -/
def Mach.freezeTrigger (m : Mach) (cause : Nat) : Mach :=
  let armed := match cause with
    | 1 => m.on F.trcRecCtl_FRZ_MISMATCH
    | 2 => m.on F.trcRecCtl_FRZ_LATE
    | _ => m.on F.trcRecCtl_FRZ_FAULT
  if armed && m.on F.trcRecCtl_EN && !m.on F.trcRecCtl_FROZEN && m.recFreeze.isNone then
    { m with recFreeze := some (m.now + m.get F.trcRecCtl_POST_MS * 1000000, cause) }
  else m

/-- A replay departs from its record (R353, R355): counted when it is a mismatch (causes 1, 2, 4), the first one held, raised. -/
def Mach.diverged (m : Mach) (cause entry step : Nat) : Mach :=
  let m := m.cond (cause ≠ 3) (·.bump F.trcRplStat_MISMATCHES)
  let m := if m.on F.trcRplDiv_VALID then m
    else ((((m.setb F.trcRplDiv_VALID true).set F.trcRplDiv_CAUSE cause).set F.trcRplDiv_ENTRY entry).set F.trcRplDiv_STEP step)
  m.emit 0x1A 0x43 0 [(32, (cause : Int)), (10, (entry : Int)), (32, (step : Int))]

end Sys2Proof.Machine
end

