-- ==== Sys2Proof/Machine/Memory.lean ====
section
/-!
DEFINITION. Data memory (R30, R31, R145, R153): regions, SECDED (R359 to R364), isolation (R370 to R373), the flip mask (R368).
Reads see a `View` of the memory; writes are listed as `Wr` and applied to the state by one operation, so that the memory keeps
its canonical form whatever a command does.
-/

namespace Sys2Proof.Machine

/-- The data memory as a command sees it: the bytes, and the flipped bits of ECC words. -/
structure View where
  mem : List Host.Cell
  flips : List (Nat × BitVec 72)

/-- What an unwritten byte of data memory reads as (log entry 12). -/
def memDflt : Nat → BitVec 8 := fun _ => 0

/-- No flipped bit in a word that the flip mask never reached. -/
def flipDflt : Nat → BitVec 72 := fun _ => 0

/-- The byte at `a`. -/
def View.byte (v : View) (a : Nat) : Byte := spGet memDflt v.mem a

/-- A write to data memory: bytes from an address on, which give words `lo` to `hi` fresh check bits (R362), or the flip mask
applied to the stored codeword of a word (R368), or bytes `lo` to `hi - 1` discarded, which then read as unwritten (R206). -/
inductive Wr where
  | data (addr : Nat) (bytes : List Byte) (lo hi : Nat)
  | flip (word : Nat) (mask : BitVec 72)
  | clear (lo hi : Nat)
  deriving DecidableEq, Repr

/-- Bytes stored one after the other from `a` on. -/
def storeBytes : List Host.Cell → Nat → List Byte → List Host.Cell
  | mem, _, [] => mem
  | mem, a, b :: t => storeBytes (spPut memDflt mem a b) (a + 1) t

/-- One write applied. -/
def Wr.apply (w : Wr) (v : View) : View :=
  match w with
  | .data a bs lo hi => { mem := storeBytes v.mem a bs, flips := v.flips.filter fun f => !(lo ≤ f.1 && f.1 ≤ hi) }
  | .clear lo hi =>
    { mem := v.mem.filter fun c => !(lo ≤ c.1 && c.1 < hi), flips := v.flips.filter fun f => !(lo ≤ f.1 * 8 && f.1 * 8 < hi) }
  | .flip k mask => { v with flips := spPut flipDflt v.flips k (spGet flipDflt v.flips k ^^^ mask) }

/-! ## Regions (R30) -/

inductive Region where
  | dram
  | tun (q : Nat)
  | ls (c : Nat)
  | port
  | cellar
  | unmapped
  deriving DecidableEq, Repr

def region (a : Nat) : Region :=
  if a < 0x1000000000 then .dram
  else if a < 0x100C000000 then .tun ((a - 0x1000000000) / 0x3000000)
  else if 0x1100000000 ≤ a ∧ a < 0x1106000000 then .ls ((a - 0x1100000000) / 0x100000)
  else if 0x1800000000 ≤ a ∧ a < 0x1802000000 then .port
  else if 0x1A00000000 ≤ a ∧ a < 0x1A00010000 then .cellar
  else .unmapped

/-- Logical cluster `c` exists on the part (R5, R31): every part has 80, and its spares beyond them. -/
def clusterExists (c : Nat) : Bool := c < 80 || decide (c < 80 + Config.spareClusters.val)

/-- The region of a byte, where a local store that the part does not have is unmapped (R31). -/
def partRegion (a : Nat) : Region :=
  match region a with
  | .ls c => if clusterExists c then .ls c else .unmapped
  | r => r

/-- The bytes from `a` on lie in one region of memory that exists. -/
def rangeRegion (a len : Nat) : Region :=
  if len = 0 ∨ region a = region (a + len - 1) then partRegion a else .unmapped

/-- The single accesses of a transfer: its bytes cut where 128-byte lines end (R143), as address and length. -/
def lineCuts (a len : Nat) : List (Nat × Nat) :=
  (List.range ((a % 128 + len + 127) / 128)).map fun i =>
    let lo := max a ((a / 128 + i) * 128)
    (lo, min (a + len) ((a / 128 + i + 1) * 128) - lo)

/-! ## Requesters -/

/-- Who makes an access (R33, R371): the agent ID; the job it is made for; whether it comes through the DMA window. -/
structure Acc where
  agent : Nat
  job : Option Nat := none
  host : Bool := false

/-- The job placed on cluster `c`, if any (R206). -/
def Mach.clusterJob (m : Mach) (c : Nat) : Option Nat :=
  match spGet (fun _ => 0) m.clJob c with
  | 0 => none
  | j + 1 => some j

/-- The isolation windows in use, as offsets of their SEC_WIN (R370). -/
def Mach.windows (m : Mach) : List Nat :=
  (m.regs.filter fun x => R.secWin 0 ≤ x.1 && x.1 < R.secWin 512 && x.1 % 16 = 0 && x.2.getLsbD 0).map (·.1)

/-- Window `o` covers an access and grants it (R371). -/
def Mach.winAllows (m : Mach) (o : Nat) (acc : Acc) (write : Bool) (a len : Nat) : Bool :=
  let w := m.rd o
  let base := (w.extractLsb' 14 26).toNat * 0x4000
  let size := max 1 (w.extractLsb' 40 24).toNat * 0x4000
  (if write then w.getLsbD 2 else w.getLsbD 1) && base ≤ a && a + len ≤ base + size
    && (if acc.host then w.getLsbD 3 else match acc.job with | some j => (m.rd (o + 8)).getLsbD j | none => true)

/-- Isolation allows an access (R371). -/
def Mach.isoAllows (m : Mach) (acc : Acc) (write : Bool) (a len : Nat) : Bool :=
  if acc.host then m.windows.any fun o => m.winAllows o acc write a len
  else
    match acc.job with
    | none => true
    | some j =>
      match rangeRegion a len with
      | .ls c => m.clusterJob c = some j
      | _ => m.windows.any fun o => m.winAllows o acc write a len

/-- An access is refused (R373): counted, the first one held, raised. -/
def Mach.isoRefuse (m : Mach) (acc : Acc) (write : Bool) (a : Nat) : Mach :=
  let j := acc.job.getD 0
  let m := m.bump F.secIsoCnt_REFUSED
  let m := if m.on F.secIso_VALID then m
    else ((((m.setb F.secIso_VALID true).setb F.secIso_WRITE write).set F.secIso_JOB j).set F.secIso_AGENT acc.agent).set
      F.secIso_ADDR a
  m.emit 0x15 0x15 0 [(12, (acc.agent : Int)), (6, (j : Int)), (40, (a : Int)), (1, (write.toNat : Int))]

/-! ## Error correction -/

/-- Set bits of a word. -/
def popcount {w : Nat} (x : BitVec w) : Nat := (List.range w).countP fun i => x.getLsbD i

/-- A corrected word met by a requester (R364): counted by the unit of its region, the first one held, ECC_MARK once. -/
def Mach.eccCe (m : Mach) (r : Region) (agent a : Nat) : Mach :=
  let mark := max 1 (m.get F.memEccCfg_CE_MARK)
  let tell (m : Mach) (f : Fld) (blk loc inst : Nat) (args : List (Nat × Int)) : Mach :=
    let was := m.get f
    let m := m.bump f
    m.cond (decide (was < mark) && decide (mark ≤ m.get f)) (·.emit blk loc inst (args ++ [(32, (m.get f : Int))]))
  match r with
  | .tun q =>
    let m := if m.on (F.tunEccCe_VALID q) then m
      else ((m.setb (F.tunEccCe_VALID q) true).set (F.tunEccCe_AGENT q) agent).set (F.tunEccCe_ADDR q) a
    tell m (F.tunEcc_CE q) 0x0A 0x11 q [(2, (q : Int))]
  | .ls c => tell m (F.flrEcc_CE c) 0x09 0x14 c [(7, (c : Int))]
  | .cellar => (m.bump F.celStat_CE).emit 0x17 0x1F 0 [(32, (a - 0x1A00000000 : Int)), (32, 1)]
  | _ =>
    let m := if m.on F.memEccCe_VALID then m
      else ((m.setb F.memEccCe_VALID true).set F.memEccCe_AGENT agent).set F.memEccCe_ADDR a
    tell m F.memEccStat_CE 0x14 0x11 0 []

/-- An uncorrectable word met by a requester (R364): counted, held and raised. -/
def Mach.eccUe (m : Mach) (r : Region) (agent a : Nat) : Mach :=
  let args : List (Nat × Int) := [(40, (a : Int)), (12, (agent : Int))]
  match r with
  | .tun q =>
    let m := ((m.setb (F.tunEccUe_VALID q) true).set (F.tunEccUe_AGENT q) agent).set (F.tunEccUe_ADDR q) a
    (m.bump (F.tunEcc_UE q)).emit 0x0A 0x10 q ((2, (q : Int)) :: args)
  | .ls c =>
    let m := ((m.setb (F.flrEccUe_VALID c) true).set (F.flrEccUe_AGENT c) agent).set (F.flrEccUe_ADDR c) a
    (m.bump (F.flrEcc_UE c)).emit 0x09 0x13 c ((7, (c : Int)) :: args)
  | .cellar => (m.bump F.celStat_UE).emit 0x17 0x1F 0 [(32, (a - 0x1A00000000 : Int)), (32, 2)]
  | _ =>
    let m := ((m.setb F.memEccUe_VALID true).set F.memEccUe_AGENT agent).set F.memEccUe_ADDR a
    (m.bump F.memEccStat_UE).emit 0x14 0x10 0 args

/-- The words an access needs, as first and last word number (R363): in DRAM the words of every 64-byte unit it touches. -/
def wordsOf (r : Region) (a len : Nat) : Nat × Nat :=
  if r = .dram then (a / 64 * 8, (a + len - 1) / 64 * 8 + 7) else (a / 8, (a + len - 1) / 8)

/-- What a flipped word reads as (R369): fine, uncorrectable, or a wrong value; three or more flipped bits leave it open. -/
inductive EccRead where
  | corrected
  | uncorrectable
  | wrong (w : Word)

def Mach.eccOutcome (m : Mach) (mask : BitVec 72) : EccRead × Mach :=
  match popcount mask with
  | 0 => (.corrected, m)
  | 1 => (.corrected, m)
  | 2 => (.uncorrectable, m)
  | _ =>
    let (x, m) := m.free
    match x.toNat % 3 with
    | 0 => (.corrected, m)
    | 1 => (.uncorrectable, m)
    | _ => let (y, m) := m.free; (.wrong y, m)

/-- The flipped words of a range met in turn: whether one is uncorrectable, and the words that read wrong. -/
def Mach.eccScan (r : Region) (agent : Nat) : List (Nat × BitVec 72) → Mach → Bool × List (Nat × Word) × Mach
  | [], m => (false, [], m)
  | (k, mask) :: t, m =>
    let (o, m) := m.eccOutcome mask
    match o with
    | .corrected => Mach.eccScan r agent t (m.eccCe r agent (k * 8))
    | .uncorrectable =>
      let (_, l, m) := Mach.eccScan r agent t (m.eccUe r agent (k * 8))
      (true, l, m)
    | .wrong y =>
      let (u, l, m) := Mach.eccScan r agent t (m.eccCe r agent (k * 8))
      (u, (k, y) :: l, m)

/-- A byte, where the words of `bad` read wrong. -/
def View.byteVia (v : View) (bad : List (Nat × Word)) (a : Nat) : Byte :=
  match bad.find? fun x => x.1 = a / 8 with
  | some x => x.2.extractLsb' (a % 8 * 8) 8
  | none => v.byte a

/-! ## Reading and writing -/

/-- One access reaches memory: a region that requesters may read and write, and isolation allows it. The machine counts a refusal. -/
def Mach.lineReaches (m : Mach) (acc : Acc) (write : Bool) (a len : Nat) : Bool × Mach :=
  match rangeRegion a len with
  | .unmapped => (false, m)
  | .port => (false, m)
  | r =>
    if r = .cellar && (acc.host || acc.job.isSome) then (false, m)
    else if m.isoAllows acc write a len then (true, m)
    else (false, m.isoRefuse acc write a)

/-- A transfer reaches memory: each of its accesses does, up to the first that fails. -/
def Mach.reaches (m : Mach) (acc : Acc) (write : Bool) (a len : Nat) : Bool × Mach :=
  (lineCuts a len).foldl (fun y c => if y.1 then y.2.lineReaches acc write c.1 c.2 else y) (true, m)

/-- One read access (R153, R363, R371): none is a bus error. -/
def Mach.readLine (m : Mach) (v : View) (acc : Acc) (a len : Nat) : Option (List Byte) × Mach :=
  let (ok, m) := m.lineReaches acc false a len
  if !ok then (none, m)
  else
    let r := rangeRegion a len
    let (lo, hi) := wordsOf r a len
    let (ue, bad, m) := Mach.eccScan r acc.agent (v.flips.filter fun f => lo ≤ f.1 && f.1 ≤ hi) m
    if ue then (none, m) else (some ((List.range len).map fun i => v.byteVia bad (a + i)), m)

/-- Bytes read, or the data address of the access that met a bus error. -/
inductive Got where
  | bytes (l : List Byte)
  | fault (a : Nat)

/-- The accesses of a read in turn, up to the first bus error. -/
def Mach.readCuts (v : View) (acc : Acc) : List (Nat × Nat) → Mach → Got × Mach
  | [], m => (.bytes [], m)
  | (a, n) :: t, m =>
    let (b, m) := m.readLine v acc a n
    match b with
    | none => (.fault a, m)
    | some b =>
      let (g, m) := Mach.readCuts v acc t m
      (match g with | .bytes l => .bytes (b ++ l) | .fault a => .fault a, m)

/-- A read of `len` bytes from `a`, line by line (R143). -/
def Mach.readAt (m : Mach) (v : View) (acc : Acc) (a len : Nat) : Got × Mach := Mach.readCuts v acc (lineCuts a len) m

def Got.toOption : Got → Option (List Byte)
  | .bytes l => some l
  | .fault _ => none

/-- A read of `len` bytes from `a`: none is a bus error. -/
def Mach.readMem (m : Mach) (v : View) (acc : Acc) (a len : Nat) : Option (List Byte) × Mach :=
  let (g, m) := m.readAt v acc a len
  (g.toOption, m)

/-- Words that a write covers in part only, for which it must read (R362, R363): in DRAM whole units. -/
def partialWord (r : Region) (a len k : Nat) : Bool :=
  if r = .dram then k / 8 * 64 < a || a + len < k / 8 * 64 + 64 else k * 8 < a || a + len < k * 8 + 8

/-- The word of a write that takes the flip mask (R368), if it matches. -/
def Mach.flipWord (m : Mach) (r : Region) (a len : Nat) : Option Nat :=
  if !m.on F.memFlipCtl_ARM then none
  else if m.on F.memFlipCtl_MATCH then
    let k := m.get F.memFlipCtl_ADDR / 8
    if a / 8 ≤ k ∧ k ≤ (a + len - 1) / 8 then some k else none
  else
    let code := m.get F.memFlipCtl_REGION
    let hit : Bool := match r with
      | .dram => code = 0
      | .tun q => code = 0x10 + q
      | .ls c => code = 0x20 + c
      | _ => false
    if hit then some (a / 8) else none

/-- One write access (R153, R362, R368, R371): none is a bus error that leaves memory unchanged. -/
def Mach.writeLine (m : Mach) (v : View) (acc : Acc) (a : Nat) (bytes : List Byte) : Option (List Wr) × Mach :=
  let len := bytes.length
  let (ok, m) := m.lineReaches acc true a len
  if !ok then (none, m)
  else
    let r := rangeRegion a len
    let (lo, hi) := wordsOf r a len
    let part := v.flips.filter fun f => lo ≤ f.1 && f.1 ≤ hi && partialWord r a len f.1
    let (ue, bad, m) := Mach.eccScan r acc.agent part m
    if ue then (none, m)
    else
      let merged := bad.map fun x => Wr.data (x.1 * 8) (leBytes 8 x.2.toNat) x.1 x.1
      let ws := merged ++ [.data a bytes lo hi]
      match m.flipWord r a len with
      | some k =>
        let mask : BitVec 72 := BitVec.ofNat 72 (m.get F.memFlipCtl_CHECK * 2 ^ 64 + m.get F.memFlipData_MASK)
        let m := (m.setb F.memFlipCtl_ARM false).emit 0x14 0x13 0 [(40, (k * 8 : Int))]
        (some (ws ++ [.flip k mask]), m)
      | none => (some ws, m)

/-- The accesses of a write in turn, up to the first bus error, whose data address is given; the lines before it are written
(log entry 119). -/
def Mach.writeCuts (v : View) (acc : Acc) : List (Nat × Nat) → List Byte → Mach → Option Nat × List Wr × Mach
  | [], _, m => (none, [], m)
  | (a, n) :: t, bytes, m =>
    let (ws, m) := m.writeLine v acc a (bytes.take n)
    match ws with
    | none => (some a, [], m)
    | some ws =>
      let (e, l, m) := Mach.writeCuts v acc t (bytes.drop n) m
      (e, ws ++ l, m)

/-- A write of bytes at `a`, line by line (R143): the data address of a bus error, and what is written. -/
def Mach.writeMem (m : Mach) (v : View) (acc : Acc) (a : Nat) (bytes : List Byte) : Option Nat × List Wr × Mach :=
  Mach.writeCuts v acc (lineCuts a bytes.length) bytes m

/-- MEM admits no DRAM access while it holds no keys (R375): a requester that would reach DRAM stalls. -/
def Mach.stalls (m : Mach) (a : Nat) : Bool := region a = .dram && !m.dramKeys

/-! ## Commands that read and write in turn -/

/-- A command at work on memory: the memory as it stands, the machine, and the writes made so far, oldest first. -/
structure Fx where
  v : View
  m : Mach
  ws : List Wr

def Fx.mach (x : Fx) (f : Mach → Mach) : Fx := { x with m := f x.m }

/-- A change of the machine that looks at memory without an access. -/
def Fx.withView (x : Fx) (f : View → Mach → Mach) : Fx := { x with m := f x.v x.m }

/-- A read (R153): none is a bus error. -/
def Fx.read (x : Fx) (acc : Acc) (a len : Nat) : Option (List Byte) × Fx :=
  let (b, m) := x.m.readMem x.v acc a len
  (b, { x with m })

/-- A read that tells where it failed. -/
def Fx.readAt (x : Fx) (acc : Acc) (a len : Nat) : Got × Fx :=
  let (g, m) := x.m.readAt x.v acc a len
  (g, { x with m })

/-- Writes made. -/
def Fx.put (x : Fx) (ws : List Wr) : Fx := { x with v := ws.foldl (fun v w => w.apply v) x.v, ws := x.ws ++ ws }

/-- A write that tells where it failed (R153). -/
def Fx.writeAt (x : Fx) (acc : Acc) (a : Nat) (bytes : List Byte) : Option Nat × Fx :=
  let (e, ws, m) := x.m.writeMem x.v acc a bytes
  (e, { x with m }.put ws)

/-- A write (R153): false is a bus error. -/
def Fx.write (x : Fx) (acc : Acc) (a : Nat) (bytes : List Byte) : Bool × Fx :=
  let (e, x) := x.writeAt acc a bytes
  (e.isNone, x)

/-- A little-endian number read; none is a bus error. -/
def Fx.readNat (x : Fx) (acc : Acc) (a len : Nat) : Option Nat × Fx :=
  let (b, x) := x.read acc a len
  (b.map ofLe, x)

/-- A little-endian number read from memory; none is a bus error. -/
def Mach.readNat (m : Mach) (v : View) (acc : Acc) (a len : Nat) : Option Nat × Mach :=
  let (b, m) := m.readMem v acc a len
  (b.map ofLe, m)

/-- 64-bit words of a byte string. -/
def wordsOfBytes : Nat → List Byte → List Word
  | 0, _ => []
  | n + 1, l => BitVec.ofNat 64 (ofLe (l.take 8)) :: wordsOfBytes n (l.drop 8)

/-- The words of a write to a page that takes `size` bytes at a time; none of another size. -/
def pageWords (size : Nat) (b : List Byte) : List Word := if b.length = size then wordsOfBytes (size / 8) b else []

end Sys2Proof.Machine
end

