-- ==== Sys2Proof/Machine/Sec.lean ====
section
/-!
DEFINITION. Memory integrity and security (R366 to R385): Sparge, the flip mask, entropy and random numbers, the window check.
-/

namespace Sys2Proof.Machine

/-! ## Sparge (R366, R367) -/

/-- The region of R30 that a pass reads: 0 DRAM, 1 Tun, 2 the local stores. -/
def spgKind (a : Nat) : Option Nat :=
  match region a with
  | .dram => some 0
  | .tun _ => some 1
  | .ls _ => some 2
  | _ => none

/-- The largest rate of a pass, in words a ns (R366). -/
def spgRate (kind : Nat) : Nat := match kind with | 0 => 2 | 1 => 4 | _ => 1

/-- GO is accepted (R366). -/
def Mach.spgGood (m : Mach) (lo hi : Nat) : Bool :=
  let align := if spgKind lo = some 0 then 64 else 8
  decide (lo < hi) && lo % align = 0 && hi % align = 0 && m.spg.isNone && (spgKind lo).isSome && spgKind lo = spgKind (hi - 1)
    && (spgKind lo ≠ some 2 || clusterExists ((hi - 1 - 0x1100000000) / 0x100000))

/-- SPG_GO (R366): a pass starts and clears the summary, or is refused. -/
def spgGo (m : Mach) : Mach :=
  let lo := m.get F.memSpgFrom_ADDR
  let hi := m.get F.memSpgTo_ADDR
  if m.spgGood lo hi then
    let m := [R.memSpgSum0, R.memSpgSum1, R.memSpgSum2, R.memSpgSum3, R.memSpgSum4].foldl (fun m o => m.wr o 0) m
    { m.set F.memSpgCtl_STATE 1 with spg := some { since := m.now, lo, hi } }
  else m.set F.memSpgCtl_STATE 4

/-- The word is skipped (R366): a parked cluster's local store. -/
def Mach.spgSkips (m : Mach) (a : Nat) : Bool :=
  match region a with
  | .ls c => m.get (F.flrStat_STATE c) = 2
  | _ => false

/-- Words of a range that a pass skips (R366). -/
def Mach.spgSkipped (m : Mach) (lo hi : Nat) : Nat :=
  ((List.range 96).filter fun c => m.get (F.flrStat_STATE c) = 2).foldl (fun n c =>
    let b := 0x1100000000 + c * 0x100000
    n + (min hi (b + 0x100000) - max lo b) / 8) 0

/-- The bank of a word (R360, R142, R367). -/
def spgBank (a : Nat) : Nat :=
  match region a with
  | .tun q => 24 * q + (a - 0x1000000000 - q * 0x3000000) / 128 % 24
  | .ls _ => (a - 0x1100000000) / 0x4000
  | _ => 16 * (a / 256 % 16) + a / 4096 % 16

/-- The affected words of a pass, each corrected or uncorrectable (R367, R369). -/
def Mach.spgScan : List (Nat × BitVec 72) → Mach → List (Nat × Bool) × Mach
  | [], m => ([], m)
  | (k, mask) :: t, m =>
    let (o, m) := m.eccOutcome mask
    let (l, m) := Mach.spgScan t m
    ((k * 8, match o with | .uncorrectable => true | _ => false) :: l, m)

/-- A pass ends after `n` words (R367): its summary, its state, its event. -/
def Mach.spgEnd (m : Mach) (v : View) (p : Pass) (n st : Nat) : Mach :=
  let hi := min p.hi (p.lo + 8 * n)
  let inRange := v.flips.filter fun f => p.lo ≤ f.1 * 8 && f.1 * 8 < hi && !m.spgSkips (f.1 * 8)
  let (l, m) := Mach.spgScan inRange m
  let ce := l.countP fun x => !x.2
  let ue := l.countP fun x => x.2
  let cap (w x : Nat) : Nat := min x (2 ^ w - 1)
  let skipped := if hi ≤ p.lo then 0 else m.spgSkipped p.lo hi
  let banks := (l.map fun x => spgBank x.1).eraseDups
  let cnt (b : Nat) : Nat := l.countP fun x => spgBank x.1 = b
  let worst := banks.foldl (fun (w : Nat × Nat) b => if w.2 < cnt b || (w.2 = cnt b && b < w.1) then (b, cnt b) else w) (0, 0)
  let m := (m.set F.memSpgSum0_CE (cap 32 ce)).set F.memSpgSum0_UE (cap 32 ue)
  let m := (m.set F.memSpgSum1_ADDR (l.foldl (fun a x => min a x.1) (match l with | x :: _ => x.1 | [] => 0))).set F.memSpgSum2_ADDR
    (l.foldl (fun a x => max a x.1) 0)
  let m := ((m.set F.memSpgSum3_WORST_CNT (cap 16 worst.2)).set F.memSpgSum3_WORST worst.1).set F.memSpgSum3_SKIPPED (cap 32 skipped)
  let m := m.set F.memSpgSum4_WORDS ((hi - p.lo) / 8 - skipped)
  { (m.set F.memSpgCtl_STATE st).emit 0x14 0x12 0 [(3, (st : Int)), (32, (cap 32 ce : Int)), (32, (cap 32 ue : Int))] with spg := none }

/-- SPG_STOP (R367): the pass ends at its next word; how many it has read by then, within its rate, is open (log entry 9). -/
def spgStop (v : View) (m : Mach) : Mach :=
  match m.spg with
  | none => m
  | some p =>
    let most := min ((p.hi - p.lo) / 8) ((m.now - p.since) * spgRate ((spgKind p.lo).getD 0))
    let (x, m) := m.free
    m.spgEnd v p (x.toNat % (most + 1)) 3

/-- SPARGE_DONE (R367): the whole range has been read, no faster than the region's largest rate. -/
def spargeDone (v : View) (m : Mach) : Mach :=
  match m.spg with
  | none => m
  | some p =>
    let n := (p.hi - p.lo) / 8
    if n ≤ (m.now - p.since) * spgRate ((spgKind p.lo).getD 0) then m.spgEnd v p n 2 else m

/-- FLIP_ARM (R368, R386): a write of MEM_FLIP_CTL; ARM is ignored where the region code names none. -/
def flipArm (val : Word) (m : Mach) : Mach :=
  let region := (val.extractLsb' 40 8).toNat
  let named := region = 0 || (0x10 ≤ region && region ≤ 0x13) || (0x20 ≤ region && region ≤ 0x7F)
  let v := val &&& 0xC0FFFFFFFFFFFFFF
  m.wr R.memFlipCtl (if val.getLsbD 62 || named then v else v &&& 0x40FFFFFFFFFFFFFF)

/-! ## Entropy and random numbers (R374 to R377) -/

/-- SEC_STAT.STATE reads READY. -/
def Mach.secReady (m : Mach) : Bool := m.get F.secStat_STATE = 1

/-- ENTROPY_READY (R374, R379): SEC becomes READY, the DRBG is seeded and the DRAM keys are made. -/
def entropyReady (m : Mach) : Mach :=
  if m.get F.secStat_STATE = 0 then
    { (m.set F.secStat_STATE 1).emit 0x15 0x10 0 [] with dramKeys := true, keysAt := m.now, drbgAt := m.now, drbgN := 0, healthRun := 0 }
  else m

/-- SEC becomes FAILED (R377): FAULT is asserted. -/
def Mach.secFailed (m : Mach) : Mach :=
  (((m.set F.secStat_STATE 2).setb F.secRng_VALID false).emit 0x15 0x12 0 []).setFaultSrc 1 true

/-- HEALTH_FAIL (R374, R377): test 1 repetition, 2 proportion. The fourth failure in a row at start-up, the third at run time, makes
SEC FAILED. -/
def healthFail (test : Nat) (m : Mach) : Mach :=
  let st := m.get F.secStat_STATE
  if 2 ≤ st then m
  else
    let n := m.healthRun + 1
    let m := { (m.bump F.secStat_HEALTH_FAILS).emit 0x15 0x11 0 [(32, (test : Int))] with healthRun := n }
    if (st = 0 && 4 ≤ n) || (st = 1 && 3 ≤ n) then m.secFailed else m

/-- RESEED (R376): a second, or 2^20 generate requests, after the last. -/
def reseed (m : Mach) : Mach :=
  if m.secReady && (decide (m.drbgAt + 1000000000 ≤ m.now) || decide (2 ^ 20 ≤ m.drbgN)) then
    { m with drbgAt := m.now, drbgN := 0, healthRun := 0 }
  else m

/-- Random bits are taken (R376): never the same twice. -/
def Mach.rngTake (m : Mach) : Word × Mach :=
  let (x, m) := m.free
  (x, { m with drbgN := m.drbgN + 1 })

/-- RNG_READ (R376): a read of SEC_RNG takes 32 new bits, which the register then shows; VALID and DATA are 0 unless SEC is READY. -/
def rngRead (m : Mach) : Mach :=
  if m.secReady then
    let (x, m) := m.rngTake
    (m.setb F.secRng_VALID true).set F.secRng_DATA (x.extractLsb' 0 32).toNat
  else m.wr R.secRng 0

/-! ## The window check (R372) -/

/-- A window as (first address, address after the last, its job mask, its flag bits). -/
def Mach.winRange (m : Mach) (o : Nat) : Nat × Nat :=
  let w := m.rd o
  let base := (w.extractLsb' 14 26).toNat * 0x4000
  (base, base + max 1 (w.extractLsb' 40 24).toNat * 0x4000)

def overlaps (a b : Nat × Nat) : Bool := decide (a.1 < b.2) && decide (b.1 < a.2)

/-- Pairs of a list that satisfy `f`, in order. -/
def anyPair (f : Nat → Nat → Bool) : List Nat → Bool
  | [] => false
  | x :: t => t.any (f x) || anyPair f t

/-- The record ring, the trace buffer and the spill area (R372). -/
def Mach.privateRanges (m : Mach) : List (Nat × Nat) :=
  let r := m.get F.trcRecRing_BASE * 0x100000
  let t := m.get F.trcTraceRing_BASE * 0x1000
  let s := m.get F.hopSpill_BASE * 0x4000
  [(r, r + m.recRingMb * 0x100000), (t, t + m.get F.trcTraceRing_SIZE * 0x10000), (s, s + m.get F.hopSpill_SLOTS * 0x4000)]

/-- The save areas of the jobs that have one, as long as their footprint can be (R208; log entry 63). -/
def Mach.saveRanges (m : Mach) : List (Nat × Nat) :=
  ((List.range 64).filter fun j => m.get (F.schJobStat_STATE j) != 0 && m.get (F.schJobStat_CLASS j) != 0).map fun j =>
    let b := m.get (F.schJobSave_BASE j) * 0x4000
    (b, b + 64 * m.clMax j * m.lsSave j + m.tunPages j * 16384
      + 23 * 65536)

/-- The windows pass SEC's check at start (R370, R372); `images` are the ranges of the floor images. -/
def Mach.windowsGood (m : Mach) (images : List (Nat × Nat)) : Bool :=
  let ws := m.windows
  let jobs (o : Nat) : Word := m.rd (o + 8)
  let writes (o : Nat) : Bool := (m.rd o).getLsbD 2
  let host (o : Nat) : Bool := (m.rd o).getLsbD 3
  let pool := 0x1000000000 + m.get F.schC0Pool_OFF * 0x4000
  let c0 := (pool, pool + m.c0Pages * 0x4000)
  let inOne (o : Nat) : Bool := let r := m.winRange o; match region r.1 with
    | .dram => decide (r.2 ≤ 0x1000000000)
    | .tun q => region (r.2 - 1) = .tun q
    | _ => false
  ws.all inOne
    && !anyPair (fun a b => jobs a ≠ jobs b && overlaps (m.winRange a) (m.winRange b) && (writes a || writes b)) ws
    && ws.all (fun o => !overlaps (m.winRange o) c0 || (List.range 64).all fun j => !(jobs o).getLsbD j || m.get (F.schJobStat_CLASS j) = 0)
    && ws.all (fun o => !host o || (m.privateRanges ++ m.saveRanges ++ images).all fun r => !overlaps (m.winRange o) r)
    && ws.all (fun o => jobs o = 0 || m.privateRanges.all fun r => !overlaps (m.winRange o) r)

end Sys2Proof.Machine
end

