-- ==== Sys2Proof/Machine/Fio.lean ====
section
/-!
DEFINITION. Field I/O (08_field_io.md): channels, gangs, modes and sources, edge timing, faults, inputs. The safe state's entry
and release also act on the compare units and stand in Machine/Safe.lean.
-/

namespace Sys2Proof.Machine

/-! ## Gangs and configuration -/

/-- The first channel of the gang that channel `q` belongs to, `q` itself outside a gang (R271). -/
def Mach.gangHead (m : Mach) (q : Nat) : Nat :=
  if m.get (F.fioChCfg_GANG (q / 4 * 4)) = 2 then q / 4 * 4
  else if m.get (F.fioChCfg_GANG (q / 2 * 2)) = 1 then q / 2 * 2
  else q

/-- The channels of the gang whose first channel is `h` (R271). -/
def Mach.gangMembers (m : Mach) (h : Nat) : List Nat := (List.range 4).map (h + ·) |>.filter fun q => m.gangHead q = h

/-- Channel `q` breaks a configuration rule of R266, R271, R291 or R317. -/
def Mach.chBad (m : Mach) (q : Nat) : Bool :=
  let g := m.get (F.fioChCfg_GANG q)
  let mode := m.get (F.fioChCfg_MODE q)
  let src := m.get (F.fioChCfg_SRC q)
  if m.gangHead q ≠ q then g ≠ 0
  else g = 3 || (g = 1 && q % 2 ≠ 0) || (g = 2 && q % 4 ≠ 0) || src ≥ 2 || (mode = 3 && src = 1)
    || (m.twinPres && (mode = 0 || mode = 3))

/-- An enabled valve names channel `q`, a gang member other than the first (R266). -/
def Mach.chValveBad (m : Mach) (q : Nat) : Bool :=
  m.gangHead q ≠ q && (List.range 96).any fun v => m.on (F.cmpValveCfg_EN v) && m.get (F.cmpValveCfg_OUTPUT v) = q

/-- The offset of the first FIO register whose value makes the configuration invalid (R266, R287). -/
def Mach.fioInvalid (m : Mach) : Option Nat :=
  match (List.range 96).find? fun q => m.chBad q || m.chValveBad q with
  | some q => some (R.fioChCfg q)
  | none => ((List.range 32).find? fun i => m.get (F.fioIcCfg_EDGE i) = 3).map R.fioIcCfg

/-! ## What the switches should do -/

/-- A channel is forced off (R276). -/
def Mach.chForced (m : Mach) (q : Nat) : Bool :=
  m.on (F.fioChStat_BOTHON q) || m.on (F.fioChStat_TRIPPED q) || m.on (F.fioChStat_OVL_LATCH q)
    || m.on (F.fioChStat_OT q) || m.on (F.fioGrpStat_LOW (q / 8))

/-- The half-bridge of a mode at a commanded level (R265): high-side on, low-side on. -/
def modeSwitches (mode : Nat) (lvl rawHs rawLs : Bool) : Bool × Bool :=
  match mode with
  | 0 => (lvl, !lvl)
  | 1 => (lvl, false)
  | 2 => (false, lvl)
  | _ => (rawHs, rawLs)

/-- The switches that first channel `h` should have on: forced off (R276), FOLLOW (R282), the safe state (R278), else by mode. -/
def Mach.chTarget (m : Mach) (h : Nat) : Bool × Bool :=
  if m.chForced h || m.on F.fioStat_FOLLOW then (false, false)
  else if m.on F.fioStat_SAFE then (false, m.on (F.fioChCfg_SAFE_LS h) && !m.twinPres)
  else modeSwitches (m.get (F.fioChCfg_MODE h)) (m.on (F.fioChStat_LEVEL h))
    (m.on (F.fioChCmd_RAW_HS h)) (m.on (F.fioChCmd_RAW_LS h))

/-- The channel's output follows its commanded level now: not forced off, not in the safe state, not in FOLLOW (R276). -/
def Mach.chDrives (m : Mach) (h : Nat) : Bool :=
  !m.chForced h && !m.on F.fioStat_FOLLOW && !m.on F.fioStat_SAFE

/-- The instants at which the switches of a half-bridge act for an edge at `t` (R267), from their present states and last
instants: a switch going off acts at `t`, but the low side 50 ns before when a placed edge turns the high side on; a switch going on acts at `t`, and not before 50 ns after the other went off. -/
def switchTimes (placed : Bool) (hs ls hs' ls' : Bool) (hsAt lsAt t : Int) : Int × Int :=
  let hsOff := if hs && !hs' then t else hsAt
  let lsOff := if ls && !ls' then (if placed && hs' && !hs then t - 50 else t) else lsAt
  (if hs' && !hs then max t (lsOff + 50) else hsOff, if ls' && !ls then max t (hsOff + 50) else lsOff)

/-- A switch of channel `q` acts now: FIO_CH_STAT shows it (R291). -/
def Mach.swShow (m : Mach) (a : SwAct) : Mach :=
  if a.low then m.setb (F.fioChStat_LS_ON a.ch) a.on else m.setb (F.fioChStat_HS_ON a.ch) a.on

/-- The switches whose instants have come act, in the order of their instants (R267). -/
def Mach.swFlush (m : Mach) : Mach :=
  (m.swActs.filter fun a => decide (a.due ≤ m.now)).foldl (fun m a => m.swShow a)
    { m with swActs := m.swActs.filter fun a => decide (m.now < a.due) }

/-- Insertion by instant, after those of the same one. -/
def insertAct (a : SwAct) : List SwAct → List SwAct
  | [] => [a]
  | x :: t => if x.due ≤ a.due then x :: insertAct a t else a :: x :: t

/-- A switch of channel `q` is to go on or off at Reel time `t`. -/
def Mach.swAt (m : Mach) (q : Nat) (low on' : Bool) (t : Int) : Mach :=
  { m with swActs := insertAct ⟨m.now + (t - m.reel).toNat, q, low, on'⟩ m.swActs }

/-- The switches of the gang of first channel `h` go to `tg` by an edge at `t`; `placed` for an edge that CMP placed in advance
(R267, R271): each acts at its instant. -/
def Mach.chMove (m : Mach) (h : Nat) (tg : Bool × Bool) (t : Int) (placed : Bool) : Mach :=
  ((m.gangMembers h).foldl (fun m q =>
    let c := m.fioChan q
    let at' := switchTimes placed c.hs c.ls tg.1 tg.2 c.hsAt c.lsAt t
    let m := m.modFioCh q fun x => { x with hs := tg.1, ls := tg.2, hsAt := at'.1, lsAt := at'.2, coupOff := false }
    let m := m.cond (c.hs != tg.1) (·.swAt q false tg.1 at'.1)
    m.cond (c.ls != tg.2) (·.swAt q true tg.2 at'.2)) m).swFlush

/-- An edge of channel `h` due at `t` (R269): its instant, and the machine with the crowding counted. An edge less than 1 µs
after the channel's previous edge is delayed to 1 µs after it. -/
def Mach.chCrowd (m : Mach) (h : Nat) (t : Int) : Int × Mach :=
  match (m.fioChan h).lastEdge with
  | some e =>
    if t - e < 1000 then
      (e + 1000, ((m.bump (F.fioChCnt_CROWDED h)).runHit true 0x11 0x1D 0 h [(7, (h : Int))]).modFioCh h
        fun c => { c with lastEdge := some (e + 1000) })
    else (t, (m.runEnd 0x11 0x1D 0 h).modFioCh h fun c => { c with lastEdge := some t })
  | none => (t, (m.runEnd 0x11 0x1D 0 h).modFioCh h fun c => { c with lastEdge := some t })

/-- The gang of first channel `h` takes its target by an edge at `t` (R267, R269, R271, R276). An edge of a channel that drives is
kept 1 µs from the one before; a channel that is forced off, in the safe state or in FOLLOW drops what was still to come and
takes its target at once. -/
def Mach.chApply (m : Mach) (h : Nat) (t : Int) (placed : Bool) : Mach :=
  let lvl := m.on (F.fioChStat_LEVEL h)
  let fc := m.chForced h
  let m := (m.gangMembers h).foldl (fun m q => (m.setb (F.fioChStat_LEVEL q) lvl).setb (F.fioChStat_FORCED q) fc) m
  let tg := m.chTarget h
  let c := m.fioChan h
  let ms := m.gangMembers h
  if m.chDrives h then
    if (c.hs, c.ls) = tg then m
    else
      let (t, m) := m.chCrowd h t
      m.chMove h tg t placed
  else if (ms.all fun q => m.on (F.fioChStat_HS_ON q) = tg.1 && m.on (F.fioChStat_LS_ON q) = tg.2) && !(m.swActs.any fun a => ms.contains a.ch)
    then m
  else
    let m := ({ m with swActs := m.swActs.filter fun a => !ms.contains a.ch }).modFioCh h fun c => { c with lastEdge := some m.reel }
    (ms.foldl (fun m q => m.modFioCh q fun x =>
      { x with hs := m.on (F.fioChStat_HS_ON q), ls := m.on (F.fioChStat_LS_ON q) }) m).chMove h tg m.reel false

/-- Every first channel among `qs` takes its target at this moment. -/
def Mach.chApplyAll (m : Mach) (qs : List Nat) : Mach :=
  qs.foldl (fun m q => if m.gangHead q = q then m.chApply q m.reel false else m) m

/-- The commanded level of first channel `h` becomes `lvl` by an edge at `t` (R267, R269, R276). -/
def Mach.chLevel (m : Mach) (h : Nat) (lvl : Bool) (t : Int) (placed : Bool) : Mach :=
  if m.on (F.fioChStat_LEVEL h) = lvl then m else (m.setb (F.fioChStat_LEVEL h) lvl).chApply h t placed

/-- The bit of FIO_OUT that channel `q` takes its level from (R266). -/
def Mach.outBit (m : Mach) (q : Nat) : Bool :=
  if q < 64 then (m.get F.fioOutLo_LEVEL).testBit q else (m.get F.fioOutHi_LEVEL).testBit (q - 64)

/-- An edge of the compare unit reaches channel `q` (R252, R266): only a compare-sourced first channel takes it. -/
def Mach.compareEdge (m : Mach) (q : Nat) (lvl : Bool) (t : Int) : Mach :=
  if m.gangHead q = q ∧ m.get (F.fioChCfg_SRC q) = 1 then m.chLevel q lvl t true else m

/-- Every compare-sourced channel goes to commanded level 0, without an edge (R280, R325). -/
def Mach.compareZero (m : Mach) : Mach :=
  (List.range 96).foldl (fun m q =>
    if m.gangHead q = q ∧ m.get (F.fioChCfg_SRC q) = 1 then m.setb (F.fioChStat_LEVEL q) false else m) m

/-- The channels among `qs` take the commanded levels of their sources (R266, R280): a register-sourced one its FIO_OUT bit,
any other level 0, for no axis places an edge in the safe state. -/
def Mach.takeSources (m : Mach) (qs : List Nat) : Mach :=
  qs.foldl (fun m q =>
    if m.gangHead q = q then m.setb (F.fioChStat_LEVEL q) (m.get (F.fioChCfg_SRC q) = 0 && m.outBit q) else m) m

/-- Both RAW bits set turn both switches off and set BOTHON (R272): in RAW mode, by the write of a bit or of the mode. -/
def Mach.rawInterlock (m : Mach) (h : Nat) : Mach :=
  if m.get (F.fioChCfg_MODE h) = 3 ∧ m.on (F.fioChCmd_RAW_HS h) ∧ m.on (F.fioChCmd_RAW_LS h)
      ∧ !m.on (F.fioChStat_BOTHON h) then
    (m.setb (F.fioChStat_BOTHON h) true).emit 0x11 0x10 0 [(7, (h : Int))]
  else m

/-- The configuration of the channels `qs` has changed, or they leave the safe state (R266, R271, R272, R280): each first channel
takes the level of its source, both RAW bits at once set BOTHON, and the switches take their target. -/
def Mach.chRefresh (m : Mach) (qs : List Nat) : Mach :=
  (qs.foldl (fun m q => if m.gangHead q = q then m.rawInterlock q else m) (m.takeSources qs)).chApplyAll qs

/-- FOLLOW begins or ends (R282): FIO_STAT.FOLLOW, and every channel takes its target. -/
def Mach.setFollow (m : Mach) (b : Bool) : Mach :=
  if m.on F.fioStat_FOLLOW = b then m
  else (m.setb F.fioStat_FOLLOW b).chApplyAll (List.range 96)

/-! ## Commands on outputs -/

/-- OUT_LEVEL_WRITE (R266, R267): the word is stored, and each register-sourced channel takes its bit with its edge now. -/
def outLevelWrite (hi : Bool) (val : Word) (m : Mach) : Mach :=
  let m := if hi then m.set F.fioOutHi_LEVEL val.toNat else m.set F.fioOutLo_LEVEL val.toNat
  ((if hi then (List.range 32).map (64 + ·) else List.range 64)).foldl (fun m q =>
    if m.gangHead q = q ∧ m.get (F.fioChCfg_SRC q) = 0 then m.chLevel q (m.outBit q) m.reel false else m) m

/-- RAW_WRITE (R267, R272): FIO_CH_CMD takes the bits, and a RAW channel's switches act on the write. -/
def rawWrite (q : Nat) (val : Word) (m : Mach) : Mach :=
  let m := (m.setb (F.fioChCmd_RAW_HS q) (val.toNat.testBit 0)).setb (F.fioChCmd_RAW_LS q) (val.toNat.testBit 1)
  if m.gangHead q = q ∧ m.get (F.fioChCfg_MODE q) = 3 then (m.rawInterlock q).chApply q m.reel false else m

/-- BOTHON_CLEAR (R272): the channel takes its RAW bits again; both bits still set make BOTHON again. -/
def bothonClear (q : Nat) (m : Mach) : Mach :=
  if m.on (F.fioChStat_BOTHON q) then
    let m := (m.setb (F.fioChStat_BOTHON q) false).rawInterlock q
    m.chApply q m.reel false
  else m

/-- OVERLOAD (R273): a trip of the gang of channel `q`; the fourth within 1,000 ms latches it off. -/
def overload (q : Nat) (m : Mach) : Mach :=
  let h := m.gangHead q
  if m.on (F.fioChStat_TRIPPED h) || m.on (F.fioChStat_OVL_LATCH h) then m
  else
    let ts := ((m.fioChan h).trips.filter fun t => decide (m.now < t + 1000000000)) ++ [m.now]
    let m := ((m.modFioCh h fun c => { c with trips := ts }).bump (F.fioChCnt_TRIPS h)).emit 0x11 0x11 0
      [(7, (h : Int)), (32, (ts.length : Int))]
    let m :=
      if ts.length ≥ 4 then (m.setb (F.fioChStat_OVL_LATCH h) true).emit 0x11 0x12 0 [(7, (h : Int))]
      else (m.setb (F.fioChStat_TRIPPED h) true).modFioCh h fun c => { c with retryAt := some (m.now + 100000000) }
    m.chApply h m.reel false

/-- OVERLOAD_RETRY (R273): 100 ms after the trip TRIPPED clears and the channel takes its commanded level. -/
def overloadRetry (q : Nat) (m : Mach) : Mach :=
  match (m.fioChan q).retryAt with
  | some t =>
    if t ≤ m.now ∧ m.on (F.fioChStat_TRIPPED q) then
      let m := (m.setb (F.fioChStat_TRIPPED q) false).modFioCh q fun c => { c with retryAt := none }
      m.chApply q m.reel false
    else m
  | none => m

/-- OVL_LATCH_CLEAR (R273). -/
def ovlLatchClear (q : Nat) (m : Mach) : Mach :=
  if m.on (F.fioChStat_OVL_LATCH q) then
    let m := m.setb (F.fioChStat_OVL_LATCH q) false
    m.chApply q m.reel false
  else m

/-- The open-wire test of channel `h` runs (R274). -/
def Mach.owTests (m : Mach) (h : Nat) : Bool :=
  m.gangHead h = h && m.on (F.fioChCfg_OW_EN h) && (m.get (F.fioChCfg_MODE h) = 1 || m.get (F.fioChCfg_MODE h) = 2)
    && !m.on (F.fioChStat_LEVEL h) && m.chDrives h

/-- OPEN_OUT (R271, R274): the load of channel `q` has been open for 5 ms; the gang's first channel reports and counts it. -/
def openOut (q : Nat) (m : Mach) : Mach :=
  let h := m.gangHead q
  if m.owTests h then
    let m := m.modFioCh q fun c => { c with wireOpen := true }
    if m.on (F.fioChStat_OPEN h) then m
    else ((m.setb (F.fioChStat_OPEN h) true).bump (F.fioChCnt_OPENS h)).emit 0x11 0x13 0 [(7, (h : Int))]
  else m

/-- OPEN_OUT_CLEAR (R271, R274): channel `q` has not been open for 5 ms; OPEN clears once no member of its gang is open. -/
def openOutClear (q : Nat) (m : Mach) : Mach :=
  let h := m.gangHead q
  if m.owTests h then
    let m := m.modFioCh q fun c => { c with wireOpen := false }
    if (m.gangMembers h).any fun g => (m.fioChan g).wireOpen then m else m.setb (F.fioChStat_OPEN h) false
  else m

/-- OVERTEMP (R271, R275): channel `q` is too hot; its gang turns off, and the first channel reports and counts it. -/
def overtemp (q : Nat) (m : Mach) : Mach :=
  let h := m.gangHead q
  let m := m.modFioCh q fun c => { c with hot := true }
  if m.on (F.fioChStat_OT h) then m
  else
    let m := ((m.setb (F.fioChStat_OT h) true).bump (F.fioChCnt_OTS h)).emit 0x11 0x14 0 [(7, (h : Int))]
    m.chApply h m.reel false

/-- OVERTEMP_CLEAR (R271, R275, R276): channel `q` has cooled down; OT clears once no member of its gang is hot. -/
def overtempClear (q : Nat) (m : Mach) : Mach :=
  let h := m.gangHead q
  let m := m.modFioCh q fun c => { c with hot := false }
  if m.on (F.fioChStat_OT h) && !(m.gangMembers h).any fun g => (m.fioChan g).hot then
    let m := m.setb (F.fioChStat_OT h) false
    m.chApply h m.reel false
  else m

/-! ## Group supplies (R277) -/

/-- FIO_STAT shows the group states (R291). -/
def Mach.grpMirror (m : Mach) (g : Nat) : Mach :=
  let put (w : Nat) (b : Bool) := w - (if w.testBit g then 2 ^ g else 0) + (if b then 2 ^ g else 0)
  (m.set F.fioStat_GRP_LOW (put (m.get F.fioStat_GRP_LOW) (m.on (F.fioGrpStat_LOW g)))).set F.fioStat_GRP_WARN
    (put (m.get F.fioStat_GRP_WARN) (m.on (F.fioGrpStat_WARN g)))

/-- The channels of group `g` (R263). -/
def groupCh (g : Nat) : List Nat := (List.range 8).map (8 * g + ·)

/-- GRP_WARN (R277): L+ below 19.2 V for 1 ms. -/
def grpWarn (g volt : Nat) (m : Mach) : Mach :=
  if volt < 1920 ∧ !m.on (F.fioGrpStat_WARN g) then
    (((m.setb (F.fioGrpStat_WARN g) true).bump (F.fioGrpCnt_WARNS g)).grpMirror g).emit 0x11 0x15 0
      [(32, (g : Int)), (16, (volt : Int))]
  else m

/-- GRP_WARN_CLEAR (R277): L+ at 19.6 V or more for 1 ms. -/
def grpWarnClear (g volt : Nat) (m : Mach) : Mach :=
  if 1960 ≤ volt ∧ m.on (F.fioGrpStat_WARN g) then (m.setb (F.fioGrpStat_WARN g) false).grpMirror g else m

/-- GRP_LOW (R277): L+ below 15.0 V for 100 µs; every channel of the group is forced off. -/
def grpLow (g volt : Nat) (m : Mach) : Mach :=
  if volt < 1500 ∧ !m.on (F.fioGrpStat_LOW g) then
    let m := (((m.setb (F.fioGrpStat_LOW g) true).bump (F.fioGrpCnt_LOWS g)).grpMirror g).emit 0x11 0x16 0
      [(32, (g : Int)), (16, (volt : Int))]
    m.chApplyAll (groupCh g)
  else m

/-- GRP_OK (R277): L+ at 16.0 V or more for 10 ms clears LOW. -/
def grpOk (g volt : Nat) (m : Mach) : Mach :=
  if 1600 ≤ volt ∧ m.on (F.fioGrpStat_LOW g) then
    let m := ((m.setb (F.fioGrpStat_LOW g) false).grpMirror g).emit 0x11 0x17 0 [(32, (g : Int))]
    m.chApplyAll (groupCh g)
  else m

/-- GRP_OV (R277): L+ above 31.0 V for 100 µs. -/
def grpOv (g volt : Nat) (m : Mach) : Mach :=
  if 3100 < volt ∧ !m.on (F.fioGrpStat_OV g) then
    ((m.setb (F.fioGrpStat_OV g) true).bump (F.fioGrpCnt_OVS g)).emit 0x11 0x18 0 [(32, (g : Int)), (16, (volt : Int))]
  else m

/-- GRP_OV_CLEAR (R277): L+ at 30.5 V or less for 1 ms. -/
def grpOvClear (g volt : Nat) (m : Mach) : Mach :=
  if volt ≤ 3050 ∧ m.on (F.fioGrpStat_OV g) then m.setb (F.fioGrpStat_OV g) false else m

/-- COUPLER_TIMEOUT (R281): the coupler's field side turns both switches off, whatever SAFE_LS says. -/
def couplerTimeout (q : Nat) (m : Mach) : Mach :=
  (((m.setb (F.fioChStat_HS_ON q) false).setb (F.fioChStat_LS_ON q) false).modFioCh q fun c =>
    { c with hs := false, ls := false, hsAt := m.reel, lsAt := m.reel, coupOff := true }) |> fun m =>
    { m with swActs := m.swActs.filter fun a => a.ch ≠ q }

/-! ## Inputs -/

/-- `w` with bit `i` made `b`. -/
def putBit (w i : Nat) (b : Bool) : Nat := w - (if w.testBit i then 2 ^ i else 0) + (if b then 2 ^ i else 0)

/-- The recorded inputs of a FOLLOWER and of REPLAY come from elsewhere (R319, R353). -/
def Mach.inputsTold (m : Mach) : Bool := m.follower || m.replaying

/-- The level that FIO_IN_W shows of class-W input `i` (R283, R285, R289): what was told, where it comes from elsewhere; else the
accepted level, inverted by INV, and 0 while its wire is open. -/
def Mach.levelW (m : Mach) (i : Nat) : Bool :=
  if m.on (F.fioIwCfg_REC i) && m.inputsTold then (m.inW i).told
  else ((m.inW i).level != m.on (F.fioIwCfg_INV i)) && !m.on (F.fioIwStat_OPEN i)

/-- The level of class-W input `i` goes into the record ring (R289, R342). -/
def Mach.recW (m : Mach) (i : Nat) : Mach :=
  m.record ⟨0x04, 0x3F, i, false, m.reel, leBytes 8 (m.levelW i).toNat⟩

/-- What followed a change of class-W input `i` of this module itself (R289): the level is the one to start from when it is told
from elsewhere, and with REC = 1 it is recorded, `always` or when it differs from `old`. -/
def Mach.ownW (m : Mach) (i : Nat) (always old : Bool) : Mach :=
  if m.inputsTold then m
  else
    let m := m.modInW i fun c => { c with told := m.levelW i }
    m.cond (m.on (F.fioIwCfg_REC i) && (always || old != m.levelW i)) (·.recW i)

/-- INPUT_CHANGE (R284, R289): class-W input `i` has been at level `lvl` for `samples` consecutive samples; DEB_US + 1 of them make it
the accepted level. -/
def inputChange (i : Nat) (lvl : Bool) (samples : Nat) (m : Mach) : Mach :=
  if (m.inW i).level = lvl || decide (samples < m.get (F.fioIwCfg_DEB_US i) + 1) then m
  else
    let m := m.modInW i fun c => { c with level := lvl }
    (m.cond (!(m.on (F.fioIwCfg_REC i) && m.inputsTold)) (·.count (F.fioIwStat_CHANGES i))).ownW i true false

/-- WB_MS of class-W input `i`, 0 acting as 1 (R291). -/
def Mach.wbMs (m : Mach) (i : Nat) : Nat := max 1 (m.get (F.fioIwCfg_WB_MS i))

/-- IN_OPEN (R285): class-W input `i` has drawn `draw`, in 0.1 mA, for `ms` ms; a draw below 0.5 mA for WB_MS sets OPEN. -/
def inOpen (i draw ms : Nat) (m : Mach) : Mach :=
  if m.on (F.fioIwCfg_WB_EN i) ∧ draw < 5 ∧ m.wbMs i ≤ ms ∧ !m.on (F.fioIwStat_OPEN i) then
    let old := m.levelW i
    let m := (m.setb (F.fioIwStat_OPEN i) true).bump (F.fioIwStat_BREAKS i)
    ((m.set F.fioInW_OPEN (putBit (m.get F.fioInW_OPEN) i true)).ownW i false old).emit 0x11 0x1B 0 [(32, (i : Int))]
  else m

/-- IN_WIRE_OK (R285): class-W input `i` has drawn `draw`, in 0.1 mA, for `ms` ms; 0.7 mA or more for WB_MS clears OPEN. -/
def inWireOk (i draw ms : Nat) (m : Mach) : Mach :=
  if m.on (F.fioIwCfg_WB_EN i) ∧ 7 ≤ draw ∧ m.wbMs i ≤ ms ∧ m.on (F.fioIwStat_OPEN i) then
    let old := m.levelW i
    let m := m.setb (F.fioIwStat_OPEN i) false
    ((m.set F.fioInW_OPEN (putBit (m.get F.fioInW_OPEN) i false)).ownW i false old).emit 0x11 0x1C 0 [(32, (i : Int))]
  else m

/-- EDGE selects an edge of the level after INV (R287). -/
def edgeCounts (edge : Nat) (rise : Bool) : Bool :=
  match edge with
  | 0 => rise
  | 1 => !rise
  | 2 => true
  | _ => false

/-- The gate length of class-C input `i` in ns (R288). -/
def Mach.gateLen (m : Mach) (i : Nat) : Int := (clampN 10 (2 ^ 24) (m.get (F.fioIcCfg_GATE_US i))) * 1000

/-- A counted edge stamped `t` enters the gate that its stamp lies in, of length `g` (R288); the gates before the newest two can
no longer be reported. -/
def gateEdge (g t : Int) (l : List Gate) : List Gate :=
  let st := t.fdiv g * g
  let old := (l.find? fun x => x.start = st).getD { start := st, first := t }
  (({ old with n := old.n + 1, last := t } : Gate) :: l.filter fun x => x.start ≠ st).take 2

/-- COUNTED_EDGE (R286, R287): the level of class-C input `i` has been `rise` since `back` ns ago; FILT_N samples of it make it the
filtered level, and the edge is stamped with the first of them. -/
def countedEdge (i : Nat) (rise : Bool) (back : Nat) (m : Mach) : Mach :=
  if (m.inC i).level = rise || !m.filtered (m.get (F.fioIcCfg_FILT_N i)) back then m
  else
    let up := rise != m.on (F.fioIcCfg_INV i)
    let t := m.edgeStamp back
    let told := m.on (F.fioIcCfg_REC i) && m.inputsTold
    let m := (m.modInC i fun c => { c with level := rise }).set F.fioInC_LEVEL (putBit (m.get F.fioInC_LEVEL) i up)
    if !told && edgeCounts (m.get (F.fioIcCfg_EDGE i)) up then
      let c := m.get (F.fioIcCount_COUNT i)
      let m := m.set (F.fioIcCount_COUNT i) (if m.on (F.fioIcCfg_DOWN i) then c + (2 ^ 32 - 1) else c + 1)
      let g := m.gateLen i
      (m.seti (F.fioIcEdge_REEL i) t).modInC i fun c => { c with gates := gateEdge g t c.gates }
    else m

/-- The frequency of a gate with `n` edges from `t1` to `tn`, in mHz (R288). -/
def gateFreq (n : Nat) (t1 tn : Int) : Nat :=
  if n < 2 then 0 else (divRound (((n : Int) - 1) * 10 ^ 12) (tn - t1)).toNat

/-- The newest gate boundary of class-C input `i` whose edges have all passed the filter (R286, R288; log entry 144). -/
def Mach.gateBound (m : Mach) (i : Nat) : Int :=
  (m.reel - (4 * max 1 (m.get (F.fioIcCfg_FILT_N i)) + 20 : Nat)).fdiv (m.gateLen i) * m.gateLen i

/-- GATE_END (R288, R289): the gate that ends at the newest boundary is reported. -/
def gateEnd (i : Nat) (m : Mach) : Mach :=
  let b := m.gateBound i
  let g : Gate := ((m.inC i).gates.find? fun x => x.start = b - m.gateLen i).getD { start := b }
  if b ≤ (m.inC i).gateStart then m
  else
    let m := m.modInC i fun c => { c with gates := c.gates.filter fun x => decide (b ≤ x.start), gateStart := b }
    if m.on (F.fioIcCfg_REC i) && m.inputsTold then m
    else
      let m := (m.set (F.fioIcFreq_EDGES i) g.n).set (F.fioIcFreq_FREQ i) (gateFreq g.n g.first g.last)
      if m.on (F.fioIcCfg_REC i) then
        m.record ⟨0x04, 0x3F, 32 + i, false, m.reel,
          leBytes 4 (m.get (F.fioIcCount_COUNT i)) ++ leBytes 4 g.n ++ leBytes 4 (m.get (F.fioIcFreq_FREQ i)) ++ leBytes 4 0⟩
      else m

/-- COUNT_WRITE (R287). -/
def countWrite (i : Nat) (val : Word) (m : Mach) : Mach := m.set (F.fioIcCount_COUNT i) val.toNat

end Sys2Proof.Machine
end

