-- ==== Sys2Proof/Machine/Pos.lean ====
section
/-!
DEFINITION. Encoder position (07_tracking_and_ejection.md, R227 to R240): decoding, tooth wheels, reference marks, edge records,
speed and interpolation. The commands, which also act on the compare units, stand in Machine/Track.lean.
-/

namespace Sys2Proof.Machine

/-- The track that lines and compare entries use: the axis's own decode, or the forwarded or replayed records (R259, R353). -/
def Mach.trk (m : Mach) (a : Nat) : Track :=
  if m.follower || m.replaying then (m.posAx a).fwd else (m.posAx a).own

/-- The axis is RUNNING (R261). -/
def Mach.posRuns (m : Mach) (a : Nat) : Bool := m.get (F.posStat_STATE a) = 1

/-! ## Speed (R239) -/

/-- A counted edge reaches a track: stamp `t`, position `p` after it, counts `adv` advanced without corrections. -/
def Track.edge (k : Track) (speedW : Nat) (t p adv : Int) (back : Bool) : Track :=
  let since := if k.still then k.sinceStill + 1 else k.sinceStill
  let win := if (k.counted && back != k.back) || (k.still && since = 1) then [] else k.win
  let cnt := k.cnt + adv
  let n := min (2 ^ min speedW 4) win.length
  let period := match win[n - 1]? with
    | some (tw, cw) => (divRound ((t - tw) * 65536) (cnt - cw).natAbs).toNat
    | none => k.period
  { p, te := t, period, back, still := k.still && decide (since < 2), win := (t, cnt) :: win.take 15, cnt,
    sinceStill := since, counted := true }

/-- PERIOD was computed at the newest edge, and is below 10 ns: an overspeed (R239). -/
def Track.overspeed (k : Track) : Bool := decide (2 ≤ k.win.length) && decide (k.period < 655360)

/-- STILL sets (R239). -/
def Track.stop (k : Track) : Track := { k with still := true, sinceStill := 0, win := [] }

/-- The interpolated position at Reel time `t`, in 1/65,536 count (R240). -/
def Track.at (k : Track) (t : Int) : Int :=
  if k.still || k.period = 0 then k.p * 65536
  else
    let o := min (((t - k.te) * 2 ^ 32).fdiv k.period) 65535
    if k.back then k.p * 65536 - o else k.p * 65536 + o

/-- A position in 1/65,536 count rounded to 1/256, ties upward (R58). -/
def round256 (x : Int) : Int := (x + 128).fdiv 256

/-- The interpolated position of axis `a` now, in 1/65,536 count. -/
def Mach.interp (m : Mach) (a : Nat) : Int := (m.trk a).at m.reel

/-! ## Registers -/

/-- POS's registers show its own decode (R261). -/
def Mach.posShow (m : Mach) (a : Nat) : Mach :=
  let k := (m.posAx a).own
  (((((m.seti (F.posPos_COUNT a) k.p).seti (F.posEdgeReel_REEL a) k.te).setb (F.posSpeed_STILL a) k.still).setb
    (F.posSpeed_DIR a) k.back).set (F.posSpeed_PERIOD a) k.period).set (F.posStat_INDEX a) (m.posAx a).index

/-- A reported discrepancy `d` at position `p` (R235, R236): POS_DISC, the event, and the count of nonzero ones. -/
def Mach.posDisc (m : Mach) (a : Nat) (d p : Int) : Mach :=
  let m := (m.seti (F.posDisc_AT a) p).seti (F.posDisc_DISC a) (satI 16 d)
  (m.cond (d ≠ 0) (·.bump (F.posCnt_RESYNCS a))).emit 0x0F 0x11 a [(3, (a : Int)), (16, satI 16 d), (48, p)]

/-! ## Edge records (R238) -/

/-- An edge record's 16 bytes (R238). -/
def edgeBytes (r : EdgeRec) : List Byte :=
  leBytes 8 (r.reel % 2 ^ 64).toNat
    ++ leBytes 8 ((r.count % 2 ^ 48).toNat * 2 ^ 16 + r.axis % 8 * 2 ^ 13 + r.kind % 8 * 2 ^ 10
      + r.back.toNat * 2 ^ 9 + r.corr.toNat * 2 ^ 8 + (r.step % 256).toNat)

/-- An edge record by its 16 bytes (R238). -/
def edgeOfBytes (l : List Byte) : EdgeRec :=
  let w0 := ofLe (l.take 8)
  let w1 := ofLe ((l.drop 8).take 8)
  { reel := wrapI 64 w0, count := wrapI 48 (w1 / 2 ^ 16), axis := w1 / 2 ^ 13 % 8, kind := w1 / 2 ^ 10 % 8,
    back := w1.testBit 9, corr := w1.testBit 8, step := wrapI 8 (w1 % 256) }

/-- A record's counts advanced without its correction (R233, R238): a gap edge advances by MISSING + 1, other counted edges
by 1, backward edges negatively. -/
def Mach.recAdv (m : Mach) (r : EdgeRec) : Int :=
  let n : Int := if r.kind = 4 then m.get (F.posTooth_MISSING r.axis) + 1 else 1
  if r.back then -n else n

/-- An edge record's kind is that of a counted edge (R237, R238): A, B, tooth, gap. -/
def countedKind (k : Nat) : Bool := k = 0 || k = 1 || k = 3 || k = 4

/-- A forwarded or replayed record updates a track (R239, R259). -/
def Mach.trackRec (m : Mach) (k : Track) (r : EdgeRec) : Track :=
  if countedKind r.kind then k.edge (m.get (F.posCfg_SPEED_W r.axis)) r.reel r.count (m.recAdv r) r.back
  else if r.kind = 7 then k.stop
  else { k with p := r.count }

/-! ## Decoding -/

/-- The place of a pair of levels in the forward sequence 00, 10, 11, 01 (R229). -/
def grayPos (a b : Bool) : Nat :=
  match a, b with
  | false, false => 0
  | true, false => 1
  | true, true => 2
  | false, true => 3

/-- A counted edge of POS's own decode: the track, the registers, and its edge record. -/
def Mach.ownEdge (m : Mach) (a : Nat) (t : Int) (kind : Nat) (adv d : Int) (corr back : Bool) : Mach × List EdgeRec :=
  let k := (m.posAx a).own
  let mv := if back then -(adv + d) else adv + d
  let p := wrapI 48 (k.p + mv)
  let m := (m.modPos a fun x => { x with own := k.edge (m.get (F.posCfg_SPEED_W a)) t p (if back then -adv else adv) back }).posShow a
  (m, [{ reel := t, count := p, axis := a, kind, back, corr, step := satI 8 mv }])

/-- A quadrature edge (R229, R230): both lines at one sample are a quad error. -/
def Mach.quadEdge (m : Mach) (a : Nat) (old new : Bool × Bool) (chgA chgB : Bool) (t : Int) : Mach × List EdgeRec :=
  if chgA && chgB then
    let first := !m.on (F.posStat_ERR a)
    let k := (m.posAx a).own
    let m := (m.setb (F.posStat_ERR a) true).bump (F.posCnt_QERR a)
    (m.cond first (·.emit 0x0F 0x10 a [(3, (a : Int)), (48, k.p)]),
      [{ reel := t, count := k.p, axis := a, kind := 6, back := k.back, corr := false, step := 0 }])
  else
    let back := ((grayPos new.1 new.2 + 4 - grayPos old.1 old.2) % 4 == 3) != m.on (F.posCfg_DIR_INV a)
    m.ownEdge a t (if chgA then 0 else 1) 1 0 false back

/-- Regular teeth per revolution (R235). -/
def Mach.teethR (m : Mach) (a : Nat) : Nat :=
  let n := clampN 8 4095 (m.get (F.posTooth_TEETH a))
  if m.on (F.posTooth_REF_KIND a) then n else n - m.get (F.posTooth_MISSING a)

/-- A reference edge of the tooth wheel (R235): the discrepancy d, and the machine with REVOK set and d reported. -/
def Mach.toothRef (m : Mach) (a : Nat) : Int × Mach :=
  let d : Int := (m.teethR a : Int) - 1 - (m.posAx a).index
  let m := m.setb (F.posStat_REVOK a) true
  (d, if d = 0 then m else m.posDisc a d (m.posAx a).own.p)

/-- The tooth index goes on by one (R233, R235): at 2R without a reference the reference is lost. -/
def Mach.toothNext (m : Mach) (a : Nat) : Mach :=
  let x := m.posAx a
  let i := if x.afterExtra then 0 else x.index + 1
  let m := m.modPos a fun x => { x with index := i, afterExtra := false }
  if i = 2 * m.teethR a then
    ((m.setb (F.posStat_REVOK a) false).bump (F.posCnt_MISPLACED a)).emit 0x0F 0x12 a [(3, (a : Int))]
  else m

/-- Classification starts over (R232): no regular period is known, and REVOK reads 0. -/
def Mach.toothRestart (m : Mach) (a : Nat) : Mach :=
  (m.modPos a fun x => { x with periods := [], tooth := none, afterExtra := false }).setb (F.posStat_REVOK a) false

/-- A tooth (R231 to R235): a rising edge of A, stamped `t`. -/
def Mach.toothEdge (m : Mach) (a : Nat) (back : Bool) (t : Int) : Mach × List EdgeRec :=
  let m := m.cond ((m.posAx a).own.counted && back != (m.posAx a).own.back) (·.toothRestart a)
  let x := m.posAx a
  let per := x.tooth.map (t - ·)
  let known := x.periods.length = 8
  let sum := x.periods.foldl (· + ·) 0
  let resync := m.on (F.posCfg_RESYNC a)
  match per with
  | some p =>
    if known && !m.on (F.posTooth_REF_KIND a) && decide (16 * p > 3 * sum) then
      let (d, m) := m.toothRef a
      let m := m.modPos a fun x => { x with index := 0, tooth := some t }
      m.ownEdge a t 4 (m.get (F.posTooth_MISSING a) + 1) (if resync then d else 0) (resync && d != 0) back
    else if known && m.on (F.posTooth_REF_KIND a) && decide (40 * p < 3 * sum) then
      let (d, m) := m.toothRef a
      let mv := if !resync then 0 else if back then -d else d
      let pos := wrapI 48 ((m.posAx a).own.p + mv)
      let m := (m.modPos a fun x => { x with afterExtra := true, own := { x.own with p := pos } }).posShow a
      (m, [{ reel := t, count := pos, axis := a, kind := 5, back, corr := resync && d != 0, step := satI 8 mv }])
    else
      let m := (m.modPos a fun x => { x with periods := (p :: x.periods).take 8, tooth := some t }).toothNext a
      m.ownEdge a t 3 1 0 false back
  | none =>
    let m := (m.modPos a fun x => { x with tooth := some t }).toothNext a
    m.ownEdge a t 3 1 0 false back

/-- A used rising edge of Z (R236): home, or check against REF_POS + k × COUNTS_PER_REV. -/
def Mach.zUse (m : Mach) (a : Nat) (t : Int) : Mach × List EdgeRec :=
  let zm := m.get (F.posCfg_Z_MODE a)
  let x := m.posAx a
  let p := x.own.p
  let ref := m.geti (F.posRef_REF_POS a)
  let setP (m : Mach) (q : Int) := (m.modPos a fun x => { x with own := { x.own with p := q } }).posShow a
  if zm = 0 || x.own.back || !x.own.counted then (m, [])
  else if zm ≠ 2 && !x.homed then
    let m := (setP (m.modPos a fun x => { x with homed := true }) ref).setb (F.posStat_REVOK a) true
    (m, [{ reel := t, count := ref, axis := a, kind := 2, back := false, corr := ref != p, step := satI 8 (ref - p) }])
  else if zm = 1 then (m, [])
  else
    let c : Int := max 1 (m.get (F.posRev_COUNTS_PER_REV a))
    let g := ref + (2 * (p - ref) + c - 1).fdiv (2 * c) * c
    let d := g - p
    let resync := m.on (F.posCfg_RESYNC a)
    let m := m.cond (d ≠ 0 || m.on (F.posStat_ERR a)) (·.posDisc a d p)
    let m := m.setb (F.posStat_REVOK a) true
    let m := if resync then setP m (wrapI 48 g) else m
    (m, [{ reel := t, count := if resync then wrapI 48 g else p, axis := a, kind := 2, back := false,
           corr := resync && d != 0, step := if resync then satI 8 d else 0 }])

/-- POS starts at its tick (R237): position REF_POS, STILL 1, INDEX 0, nothing counted. -/
def Mach.posStart (m : Mach) (a : Nat) : Mach :=
  let k : Track := { p := m.geti (F.posRef_REF_POS a), te := m.reel, period := (m.posAx a).own.period }
  let m := m.modPos a fun x =>
    { x with own := k, fwd := k, periods := [], tooth := none, afterExtra := false, index := 0, homed := false,
             ownEdges := [], fwdEdges := [], diff := none }
  (((m.set (F.posStat_STATE a) 1).set (F.posStat_LINES a) 0).setb (F.posStat_REVOK a) false).posShow a

/-- The lines that the mode uses, as POS_STAT.LINES bits: A 1, B 2, Z 4 (R257). -/
def Mach.posUsed (m : Mach) (a : Nat) : Nat :=
  if m.get (F.posCfg_MODE a) = 0 then (if m.get (F.posCfg_Z_MODE a) = 0 then 3 else 7)
  else if m.on (F.posCfg_DIR_SRC a) then 3 else 1

/-- The offset of the first POS register that keeps axis `a` from starting (R261): a reserved MODE, or MISSING = 0, whatever the
mode. -/
def Mach.posInvalid (m : Mach) (a : Nat) : Option Nat :=
  if m.get (F.posCfg_MODE a) ≥ 2 then some (R.posCfg a)
  else if m.get (F.posTooth_MISSING a) = 0 then some (R.posTooth a)
  else none

end Sys2Proof.Machine
end

