-- ==== Sys2Proof/Machine/Cmp.lean ====
section
/-!
DEFINITION. Compare units (07_tracking_and_ejection.md, R241 to R258; R322): tracking slots, compare entries, prediction,
hand-off, merging, lateness, axis faults and stops.
-/

namespace Sys2Proof.Machine

/-! ## The entry list -/

/-- Entry `i` of axis `a`, if in use. -/
def Mach.entry (m : Mach) (a i : Nat) : Option Entry := ((m.cmpAx a).entries.find? fun e => e.1 = i).map (·.2)

/-- Entry `i` of a list changed by `f`. -/
def modEntries (f : Entry → Entry) (i : Nat) (l : List (Nat × Entry)) : List (Nat × Entry) :=
  l.map fun e => if e.1 = i then (i, f e.2) else e

/-- CMP_STAT shows how many slots and entries an axis holds (R262). -/
def Mach.cmpShow (m : Mach) (a : Nat) : Mach :=
  (m.set (F.cmpStat_ENTRIES a) (m.cmpAx a).entries.length).set (F.cmpStat_SLOTS a) (m.cmpAx a).slots.length

def Mach.modEntry (m : Mach) (a i : Nat) (f : Entry → Entry) : Mach :=
  m.modCmp a fun c => { c with entries := modEntries f i c.entries }

/-- Entry `i` leaves the list (R249). -/
def Mach.dropEntry (m : Mach) (a i : Nat) : Mach :=
  (m.modCmp a fun c => { c with entries := c.entries.filter fun e => e.1 ≠ i }).cmpShow a

/-- The lowest index of the list that no entry uses (log entry 20), from `i` on among the next `n`. -/
def freeIndex (l : List (Nat × Entry)) : Nat → Nat → Nat
  | 0, i => i
  | n + 1, i => if l.any fun e => e.1 = i then freeIndex l n (i + 1) else i

/-- An entry goes into the list at its index, indices rising. -/
def putEntry (i : Nat) (e : Entry) : List (Nat × Entry) → List (Nat × Entry)
  | [] => [(i, e)]
  | x :: t => if x.1 < i then x :: putEntry i e t else (i, e) :: x :: t

/-- The five words of an entry (R249); an unused index reads 0 in every word, and T_ON and T_OFF read 0 while the entry is held,
without a prediction (R250) or by the horizon (R322). -/
def entryWord (e : Option Entry) (n : Nat) : Word :=
  match e with
  | none => 0
  | some e =>
    match n with
    | 0 => BitVec.ofNat 64 (e.tag % 2 ^ 32 * 2 ^ 32 + e.valve % 128 * 2 ^ 25 + e.value % 16 * 2 ^ 21 + e.kind % 4 * 2 ^ 19
        + e.lateFire.toNat * 2 ^ 18 + e.offDone.toNat * 2 ^ 17 + e.onDone.toNat * 2 ^ 16 + e.offHanded.toNat * 2 ^ 15
        + e.onHanded.toNat * 2 ^ 14 + 1)
    | 1 => BitVec.ofInt 64 (e.xOn * 256)
    | 2 => BitVec.ofInt 64 (e.xOff * 256)
    | 3 => BitVec.ofInt 64 (if e.held then 0 else e.tOn.getD 0)
    | _ => BitVec.ofInt 64 (if e.held then 0 else e.tOff.getD 0)

/-! ## Prediction (R250) -/

/-- The predicted instant of target `x` (1/256 count), or none while the track is STILL or moves backward (R250). -/
def predict (k : Track) (x : Int) (dly cpl : Nat) : Option Int :=
  if k.still || k.back || k.period = 0 then none
  else
    let d := wrapI 56 (x - k.p * 256)
    let acc := d * k.period - (dly : Int) * 2 ^ 24 - (cpl : Int) * 2 ^ 20
    some (k.te + (acc + 2 ^ 23).fdiv (2 ^ 24))

/-- ON instant of a target at valve `v` (R250). -/
def Mach.predOn (m : Mach) (a v : Nat) (x : Int) : Option Int :=
  predict (m.trk a) x (m.get (F.cmpValveDly_DLY_ON v)) (m.get (F.cmpCpl_CPL_RISE (m.get (F.cmpValveCfg_OUTPUT v))))

/-- Last feasible fire point of an ON target at valve `v` (R250). -/
def Mach.predLff (m : Mach) (a v : Nat) (x : Int) : Option Int := m.predOn a v (x + m.get (F.cmpValveLim_TOL v))

/-- OFF instant of a target at valve `v` (R250). -/
def Mach.predOff (m : Mach) (a v : Nat) (x : Int) : Option Int :=
  predict (m.trk a) x (m.get (F.cmpValveDly_DLY_OFF v)) (m.get (F.cmpCpl_CPL_FALL (m.get (F.cmpValveCfg_OUTPUT v))))

/-- MIN_ON_US of a valve in ns (R253). -/
def Mach.minOn (m : Mach) (v : Nat) : Int := m.get (F.cmpValveLim_MIN_ON_US v) * 1000

/-! ## Late events (R255, R256) -/

/-- The cause under which the verdict or slot of a tag is handled once found late with `cause` (R255): the one reported first. -/
def Mach.lateCause (m : Mach) (a tag cause : Nat) : Nat :=
  (((m.cmpAx a).lateTags.find? fun t => t.1 = tag).map (·.2)).getD cause

/-- A late entry of a job is placed all the same (R254): its cause is 0x1, 0x2 or 0x4, and the job's LATE_POL is 1. -/
def Mach.firesLate (m : Mach) (cause job : Nat) : Bool :=
  (cause = 1 || cause = 2 || cause = 4) && m.on (F.cmpJob_LATE_POL job)

/-- A verdict or slot is found late with a cause (R255): once per tag it counts, is recorded and raised, and drives LATE. -/
def Mach.late (m : Mach) (a tag cause job port : Nat) : Mach :=
  if (m.cmpAx a).lateTags.any fun t => t.1 = tag then m
  else
    let pos := round256 (m.interp a)
    let m := m.modCmp a fun c =>
      { c with lateTags := (tag, cause) :: c.lateTags.filter fun t =>
                 c.slots.any (·.tag = t.1) || c.entries.any (·.2.tag = t.1) }
    let m := (m.bump (F.cmpCnt_LATE a)).count (F.schAccVerd_LATE job)
    let m := ((((m.set F.cmpLateTag_TAG tag).set F.cmpLateTag_JOB job).set F.cmpLateTag_PORT port).set F.cmpLateTag_AXIS a).set
      F.cmpLateTag_CAUSE cause
    let m := (m.seti F.cmpLatePos_POS pos).seti F.cmpLateReel_REEL m.reel
    let m := m.emit 0x10 0x10 a
      [(32, (tag : Int)), (3, (a : Int)), (3, (cause : Int)), (32, pos.fdiv 256), (32, m.reel)]
    let m := m.freezeTrigger 2
    if m.replaying then m
    else
      ({ m.setb F.cmpLate_LATCH true with lateUntil := m.now + max 1 (m.get F.cmpLate_HOLD_MS) * 1000000 }).latePin

/-- LATE_HOLD_END (R256). -/
def lateHoldEnd (m : Mach) : Mach := m.latePin

/-! ## Discarding, merging, hand-off -/

/-- An entry leaves the list once both its edges are done (R249); where a merge cancelled its OFF for an entry whose ON is still
to be placed, what it was is kept, for that OFF may be reinstated (R253). -/
def Mach.retire (m : Mach) (a i : Nat) : Mach :=
  match m.entry a i with
  | some e =>
    if e.onDone && e.offDone then
      (m.modCmp a fun c => if e.mergedBy.isSome then { c with cancelled := c.cancelled ++ [(i, e)] } else c).dropEntry a i
    else m
  | none => m

/-- The entries that left the list with an OFF cancelled for one that `p` names come back into it, each at its index or, when
that is in use, at the lowest free one (R253). -/
def Mach.recall (m : Mach) (a : Nat) (p : Option Nat → Bool) : Mach :=
  (m.modCmp a fun c =>
    { c with entries := (c.cancelled.filter fun e => p e.2.mergedBy).foldl (fun l e =>
               putEntry (if l.any fun x => x.1 = e.1 then freeIndex l 4096 0 else e.1) e.2 l) c.entries,
             cancelled := c.cancelled.filter fun e => !p e.2.mergedBy }).cmpShow a

/-- The OFF edges that entry `i` cancelled are reinstated at their instants, or 50 ns ahead when those have passed (R253). -/
def Mach.reinstate (m : Mach) (a i : Nat) : Mach :=
  (m.recall a (· == some i)).modCmp a fun c =>
    { c with entries := c.entries.map fun e =>
        if e.2.mergedBy = some i then
          let passed := match e.2.pOff with | some t => decide (t - m.reel < 50) | none => true
          if e.2.onHanded && passed then
            let t := some (m.reel + 50)
            (e.1, { e.2 with mergedBy := none, offDone := false, offHanded := true, tOff := t, pOff := t })
          else (e.1, { e.2 with mergedBy := none, offDone := false })
        else e }

/-- Entry `i` is discarded (R253, R254): it leaves the list, and an OFF it cancelled before its ON was placed comes back. -/
def Mach.discard (m : Mach) (a i : Nat) : Mach :=
  match m.entry a i with
  | some e => (m.dropEntry a i).cond (!e.onDone) (·.reinstate a i)
  | none => m

/-- An entry counts for merging: its ON has an instant and is neither held nor judged late, and its OFF is open (R253). -/
def Entry.merges (e : Entry) : Bool :=
  !e.offDone && e.tOff.isSome && e.tOn.isSome && !e.lateFire && (e.onHanded || !e.held)

/-- Insertion by ON instant, then index. -/
def insertByOn (x : Nat × Entry) : List (Nat × Entry) → List (Nat × Entry)
  | [] => [x]
  | y :: t => if x.2.tOn.getD 0 < y.2.tOn.getD 0 then x :: y :: t else y :: insertByOn x t

/-- The OFF of entry `lose` is cancelled for that of entry `win` (R253). -/
def Mach.cancelOff (m : Mach) (a lose win : Nat) : Mach :=
  let won := match m.entry a win with | some w => w.onDone | none => true
  let m := m.modEntry a lose fun e => { e with offDone := true, mergedBy := if won then none else some win }
  (m.bump (F.cmpCnt2_MERGED a)).retire a lose

/-- Pairs of entries in ON order whose pulses meet within `gap`: the earlier OFF is cancelled (R253). -/
def mergeWalk (a : Nat) (gap : Int) : Nat × Entry → List (Nat × Entry) → Mach → Mach
  | _, [], m => m
  | o, f :: t, m =>
    let oOff := o.2.tOff.getD 0
    let fOff := f.2.tOff.getD 0
    if f.2.tOn.getD 0 ≤ oOff + gap then
      if fOff < oOff then mergeWalk a gap o t (m.cancelOff a f.1 o.1)
      else mergeWalk a gap f t (m.cancelOff a o.1 f.1)
    else mergeWalk a gap (if oOff < fOff then f else o) t m

/-- The merge test over the entries of valve `v` (R253). -/
def Mach.merge (m : Mach) (a v : Nat) : Mach :=
  match ((m.cmpAx a).entries.filter fun e => e.2.valve = v && e.2.merges).foldl (fun l e => insertByOn e l) [] with
  | o :: t => mergeWalk a (m.get (F.cmpValveLim_MIN_OFF_US v) * 1000) o t m
  | [] => m

/-- The ON edge of entry `i` is handed off at instant `t`; its OFF keeps MIN_ON from it (R252, R253). -/
def Mach.placeOn (m : Mach) (a i : Nat) (t : Int) : Mach :=
  let m := m.modEntry a i fun e =>
    let off := if e.offHanded || e.offDone then e.tOff else e.tOff.map (max · (t + m.minOn e.valve))
    { e with onHanded := true, held := false, tOn := some t, pOn := some t, tOff := off }
  match m.entry a i with
  | some e => m.merge a e.valve
  | none => m

/-- The OFF edge of entry `i` is handed off once its ON has been and its instant is due (R252). -/
def Mach.offEval (m : Mach) (a i : Nat) : Mach :=
  match m.entry a i with
  | some e =>
    match e.tOff with
    | some t =>
      if e.onHanded && !e.offHanded && !e.offDone && decide (t - 4000 ≤ m.reel) then
        let t' := if t - m.reel < 50 then m.reel + 50 else t
        (m.modEntry a i fun e => { e with offHanded := true, tOff := some t', pOff := some t' }).merge a e.valve
      else m
    | none => m
  | none => m

/-- The horizon holds an ON edge due at `t` (R322): a lead's edge beyond Z_A, a follower's beyond Z_F. -/
def Mach.horizonHolds (m : Mach) (t : Int) : Bool :=
  (m.tngIs 2 || m.tngIs 3) && decide (m.geti F.tngHorizon_Z < t)

/-- Entry `i`, made in time, is found late with a cause (R254, R255): reported, then handled under the cause its verdict was first
reported with: placed at once, or discarded. -/
def Mach.lateEntry (m : Mach) (a i : Nat) (e : Entry) (cause : Nat) : Mach :=
  let c := m.lateCause a e.tag cause
  let m := m.late a e.tag cause e.job e.port
  if m.firesLate c e.job then (m.modEntry a i fun e => { e with lateFire := true }).placeOn a i (m.reel + 50)
  else m.discard a i

/-- The ON edge of entry `i` at an evaluation instant (R252, R254, R322): left alone until 4,000 ns before its instant, held by
the horizon, handed off, placed at once, or judged late. -/
def Mach.onEval (m : Mach) (a i : Nat) : Mach :=
  match m.entry a i with
  | some e =>
    match e.tOn, e.lff with
    | some t, some l =>
      if e.onHanded then m
      else if m.reel < t - 4000 then m.modEntry a i fun e => { e with held := false }
      else if m.horizonHolds t then
        if l < m.reel && m.tngIs 2 then m.lateEntry a i e 7
        else m.modEntry a i fun e => { e with held := true }
      else if t - m.reel < 50 then
        if l < m.reel && !e.lateFire then m.lateEntry a i e (if e.held then 7 else 1)
        else m.placeOn a i (m.reel + 50)
      else m.placeOn a i t
    | _, _ => m
  | none => m

/-- The instants of entry `i` from the newest counted edge (R250, R251, R253). -/
def Mach.repredict (m : Mach) (a i : Nat) : Mach :=
  m.modEntry a i fun e =>
    let e := if e.onHanded then e else
      let t := m.predOn a e.valve e.xOn
      { e with tOn := t, lff := m.predLff a e.valve e.xOn, pOn := if t.isSome then t else e.pOn }
    if e.offHanded || (e.offDone && e.mergedBy.isNone) then e
    else
      let t := match m.predOff a e.valve e.xOff, e.tOn with
        | some t, some o => some (max t (o + m.minOn e.valve))
        | some t, none => some t
        | none, _ => none
      { e with tOff := t, pOff := if t.isSome then t else e.pOff }

/-- Entry `i` is evaluated: merged, and each edge handed off when due (R252, R253). -/
def Mach.evalEntry (m : Mach) (a i : Nat) : Mach :=
  match m.entry a i with
  | some e => ((m.merge a e.valve).onEval a i).offEval a i
  | none => m

/-- Every entry of axis `a` is recomputed from the newest counted edge, and then each is evaluated (R251). -/
def Mach.recompute (m : Mach) (a : Nat) : Mach :=
  let is := (m.cmpAx a).entries.map (·.1)
  is.foldl (fun m i => m.evalEntry a i) (is.foldl (fun m i => m.repredict a i) m)

/-! ## Entries from verdicts (R248, R254) -/

/-- Targets X_ON and X_OFF of valve `v` for an object from `f` to `l` (R248). -/
def Mach.targets (m : Mach) (v : Nat) (f l : Int) : Int × Int :=
  let mid := (f + l).fdiv 2
  let (on', off) := match m.get (F.cmpValveCfg_AIM v) with
    | 0 => (f, f)
    | 1 => (mid, mid)
    | 2 => (l, l)
    | _ => (f, l)
  let d : Int := m.get (F.cmpValveDist_DIST v)
  (on' + d - m.get (F.cmpValveExt_PRE v), off + d + m.get (F.cmpValveExt_POST v))

/-- Valve `v` fires for a record (R248). -/
def Mach.valveFires (m : Mach) (v : Nat) (r : Verdict) : Bool :=
  m.on (F.cmpValveCfg_EN v) && m.get (F.cmpValveCfg_PORT v) = r.port
    && m.get (F.cmpValveCols_COL_FIRST v) ≤ r.colLast && r.colFirst ≤ m.get (F.cmpValveCols_COL_LAST v)
    && (m.get (F.cmpValveCfg_FIRE_MASK v)).testBit r.value

/-- One compare entry for valve `v` (R248, R254): none when the list is full; late when its last feasible fire point has
passed, then made only under LATE_POL. -/
def Mach.addEntry (m : Mach) (a v : Nat) (s : Slot) (r : Verdict) : Mach :=
  let (xOn, xOff) := m.targets v s.first s.last
  let xOn := wrapI 56 xOn
  let xOff := wrapI 56 xOff
  if (m.cmpAx a).entries.length ≥ 4096 then
    ((m.bump (F.cmpCnt_LIST_FULL a)).emit 0x10 0x12 a [(3, (a : Int)), (32, (s.tag : Int))]).late a s.tag 3 s.job s.port
  else
    let lateNow := match m.predLff a v xOn with | some l => decide (l < m.reel) | none => false
    let cause := m.lateCause a s.tag 1
    let m := m.cond lateNow (·.late a s.tag 1 s.job s.port)
    if lateNow && !m.firesLate cause s.job then m
    else
      let i := freeIndex (m.cmpAx a).entries 4096 0
      let e : Entry := { tag := s.tag, valve := v, value := r.value, kind := r.kind, job := s.job, port := s.port,
                         xOn, xOff, lateFire := lateNow }
      (((m.modCmp a fun c => { c with entries := putEntry i e c.entries }).cmpShow a).repredict a i).evalEntry a i

/-- An accepted record makes its entries in valve order (R248). -/
def Mach.makeEntries (m : Mach) (a : Nat) (s : Slot) (r : Verdict) : Mach :=
  (List.range 96).foldl (fun m v => if m.valveFires v r then m.addEntry a v s r else m) m

/-- The substitute verdict of a slot (R244). -/
def Mach.substitute (m : Mach) (tag job port block : Nat) : Verdict :=
  { tag, job, port, kind := 2, value := m.get (F.cmpJob_SUBST job), block, colFirst := 0, colLast := 0x3FFF, dreel := m.reel }

/-- A slot closes late with cause 0x2 or 0x4 (R243, R246, R254): as if it had accepted a substitute record. -/
def Mach.closeLate (m : Mach) (a : Nat) (s : Slot) (cause : Nat) : Mach :=
  let m := (m.modCmp a fun c => { c with slots := c.slots.filter fun x => x.tag ≠ s.tag }).cmpShow a
  (m.late a s.tag cause s.job s.port).makeEntries a s (m.substitute s.tag s.job s.port s.block)

/-- A slot opens for a closed block (R242, R243): its tag, and the machine. -/
def Mach.openSlot (m : Mach) (a port block job : Nat) (f l : Int) : Nat × Mach :=
  let seq := ((m.cmpAx a).seq + 1) % 2 ^ 24
  let idx := seq % 4096
  let m := match (m.cmpAx a).slots.find? fun s => s.idx = idx with
    | some s => (m.bump (F.cmpCnt_EVICTED a)).closeLate a s 4
    | none => m
  let gen := (spGet (fun _ => 0) (m.cmpAx a).gens idx + 1) % 256
  let tag := seq * 256 + gen
  let m := m.modCmp a fun c =>
    { c with seq := seq, gens := spPut (fun _ => 0) c.gens idx gen,
             slots := c.slots ++ [{ idx, tag, port, block, first := f, last := l, job }] }
  (tag, (m.set (F.cmpStat_LAST_TAG a) tag).cmpShow a)

/-- The close point of a slot (R246): the earliest last feasible fire point over the enabled valves bound to its port. -/
def Mach.closePoint (m : Mach) (a : Nat) (s : Slot) : Option Int :=
  (List.range 96).foldl (fun acc v =>
    if m.on (F.cmpValveCfg_EN v) && m.get (F.cmpValveCfg_PORT v) = s.port then
      match m.predLff a v (m.targets v s.first s.last).1, acc with
      | some t, some u => some (min t u)
      | some t, none => some t
      | none, u => u
    else acc) none

/-! ## Faults and stops (R257, R258) -/

/-- The slots close and the entries whose ON is not handed off are discarded with a cause; the others get their OFF: at once
where the output is on, an OFF cancelled for an entry still to fire included, MIN_ON_US after their ON where it is still to fire
(R257, R258). -/
def Mach.cmpDiscard (m : Mach) (a cause : Nat) : Mach :=
  let m := (m.cmpAx a).slots.foldl (fun m s => m.late a s.tag cause s.job s.port) m
  let m := m.modCmp a fun c => { c with slots := [] }
  let m := (m.cmpAx a).entries.foldl (fun m e =>
    if e.2.onHanded then m else (m.late a e.2.tag cause e.2.job e.2.port).discard a e.1) m
  let m := (m.recall a fun _ => true).modCmp a fun c =>
    { c with entries := c.entries.map fun e =>
        if e.2.onDone then
          (e.1, { e.2 with offDone := false, mergedBy := none, offHanded := true, tOff := some m.reel, pOff := some m.reel })
        else
          let t := (e.2.tOn.getD m.reel) + m.minOn e.2.valve
          (e.1, { e.2 with offDone := false, mergedBy := none, offHanded := true, tOff := some t, pOff := some t }) }
  m.cmpShow a

/-- The safe state makes an axis discard all entries and handed-off edges and stop, without late events (R258, R280). -/
def Mach.cmpSafeStop (m : Mach) (a : Nat) : Mach :=
  let m := m.modCmp a fun c => { c with slots := [], entries := [], cancelled := [], lateTags := [] }
  (m.set (F.cmpCtl_STATE a) 0).cmpShow a

/-- An axis fault (R257). -/
def Mach.axisFault (m : Mach) (a : Nat) : Mach :=
  if m.get (F.cmpCtl_STATE a) = 1 then
    ((m.set (F.cmpCtl_STATE a) 2).emit 0x10 0x14 a [(3, (a : Int))]).cmpDiscard a 5
  else m

/-- CMP axis `a` starts at its tick (R242): SEQ and every generation 0, no slot open, no entry. -/
def Mach.cmpStart (m : Mach) (a : Nat) : Mach :=
  ((m.modCmp a fun _ => {}).set (F.cmpCtl_STATE a) 1).cmpShow a

/-- The first register that keeps axis `a` from starting (R241, R247, R262): the valve or port it belongs to, and its offset
(R260). -/
def Mach.cmpInvalid (m : Mach) (a : Nat) : Option (Nat × Nat) :=
  let badValve (v : Nat) : Bool :=
    m.on (F.cmpValveCfg_EN v) && m.get (F.cmpValveCfg_AXIS v) = a &&
      (m.get (F.cmpValveCfg_OUTPUT v) ≥ 96
        || (m.on (F.cmpPort_EN (m.get (F.cmpValveCfg_PORT v))) && m.get (F.cmpPort_AXIS (m.get (F.cmpValveCfg_PORT v))) ≠ a)
        || (List.range 96).any fun u => u ≠ v && m.on (F.cmpValveCfg_EN u)
            && m.get (F.cmpValveCfg_OUTPUT u) = m.get (F.cmpValveCfg_OUTPUT v))
  let badDly (v : Nat) : Bool :=
    m.on (F.cmpValveCfg_EN v) && m.get (F.cmpValveCfg_AXIS v) = a &&
      (m.get (F.cmpValveDly_DLY_ON v) > 50000000 || m.get (F.cmpValveDly_DLY_OFF v) > 50000000)
  let badPort (p : Nat) : Bool :=
    m.on (F.cmpPort_EN p) && m.get (F.cmpPort_AXIS p) = a &&
      (m.get (F.schJobStat_CLASS (m.get (F.cmpPort_JOB p))) ≠ 0 || m.get (F.grsTrg_AXIS p) ≠ a || !m.on (F.grsTrg_AXIS_VALID p))
  match (List.range 96).find? fun v => badValve v || badDly v with
  | some v => some (v, if badValve v then R.cmpValveCfg v else R.cmpValveDly v)
  | none => ((List.range 16).find? badPort).map fun p => (p, R.cmpPort p)

/-! ## Commands -/

/-- EDGE_HANDOFF (R252): an edge whose instant is 4,000 ns ahead or nearer is handed to the output logic. -/
def edgeHandoff (a i : Nat) (off : Bool) (m : Mach) : Mach :=
  if off then m.offEval a i
  else
    match m.entry a i with
    | some e => if e.onHanded then m else m.onEval a i
    | none => m

/-- LAST_FEASIBLE_FIRE_POINT (R252): Reel passes the point of an ON edge not handed off; a held one is late with cause 0x7. -/
def lastFeasibleFirePoint (a i : Nat) (m : Mach) : Mach :=
  match m.entry a i with
  | some e => if e.onHanded then m else m.onEval a i
  | none => m

/-- A trace record of an edge (R461). -/
def Mach.traceEdge (m : Mach) (e : Entry) (off : Bool) (t : Int) : Mach :=
  m.trace 13 false (some e.job) { typ := 0x09, job := e.job, agent := 0x062, layer := 0, operator := 0, sub := off.toNat, reel := m.reel,
                                  arg0 := e.tag % 2 ^ 32 + e.valve * 2 ^ 32, arg1 := (m.coarse t % 2 ^ 64).toNat }

/-- The ON edge of entry `i` is placed at its instant (R252, R253). -/
def Mach.fireOn (m : Mach) (a i : Nat) (e : Entry) (t : Int) : Mach :=
  let m := (m.traceEdge e false t).modEntry a i fun e => { e with onDone := true }
  let m := m.modCmp a fun c =>
    { c with entries := c.entries.map fun x => if x.2.mergedBy = some i then (x.1, { x.2 with mergedBy := none }) else x,
             cancelled := c.cancelled.filter fun x => x.2.mergedBy ≠ some i }
  let m := m.count (F.cmpCnt2_FIRED a)
  let m := m.setPulse e.valve (match m.pulse e.valve with
    | some p => some { p with members := p.members ++ [i] }
    | none => some { since := t, axis := a, members := [i] })
  let m := if m.replaying then m else m.compareEdge (m.get (F.cmpValveCfg_OUTPUT e.valve)) true t
  (m.retire a i).offEval a i

/-- The OFF edge of entry `i` is placed at its instant (R252, R253). -/
def Mach.fireOff (m : Mach) (a i : Nat) (e : Entry) (t : Int) : Mach :=
  let m := ((m.traceEdge e true t).modEntry a i fun e => { e with offDone := true }).setPulse e.valve none
  let m := if m.replaying then m else m.compareEdge (m.get (F.cmpValveCfg_OUTPUT e.valve)) false t
  m.retire a i

/-- EDGE_FIRE (R252): a handed-off edge whose instant has come. -/
def edgeFire (a i : Nat) (off : Bool) (m : Mach) : Mach :=
  match m.entry a i with
  | some e =>
    if off then
      match e.tOff with
      | some t => if e.offHanded && !e.offDone && e.onDone && decide (t ≤ m.reel) then m.fireOff a i e t else m
      | none => m
    else
      match e.tOn with
      | some t => if e.onHanded && !e.onDone && decide (t ≤ m.reel) then m.fireOn a i e t else m
      | none => m
  | none => m

/-- MAX_ON_CLAMP (R253): the output of valve `v` has been on for MAX_ON_US. -/
def maxOnClamp (v : Nat) (m : Mach) : Mach :=
  match m.pulse v with
  | some p =>
    if p.since + max 1 (m.get (F.cmpValveLim_MAX_ON_US v)) * 1000 ≤ m.reel then
      let m := p.members.foldl (fun m i =>
        match m.entry p.axis i with
        | some e =>
          if e.valve = v && e.onDone then
            (m.modEntry p.axis i fun e => { e with offDone := true, mergedBy := none }).retire p.axis i
          else m
        | none => m) (m.modCmp p.axis fun c => { c with cancelled := c.cancelled.filter fun e => e.2.valve ≠ v })
      let m := m.setPulse v none
      let m := if m.replaying then m else m.compareEdge (m.get (F.cmpValveCfg_OUTPUT v)) false m.reel
      (m.bump (F.cmpCnt2_CLAMPED p.axis)).emit 0x10 0x13 p.axis [(7, (v : Int))]
    else m
  | none => m

/-- SLOT_CLOSE_POINT (R246): no record was accepted by the close point of slot `idx`. -/
def slotClosePoint (a idx : Nat) (m : Mach) : Mach :=
  match (m.cmpAx a).slots.find? fun s => s.idx = idx with
  | some s =>
    match m.closePoint a s with
    | some t => if t ≤ m.reel then m.closeLate a s 2 else m
    | none => m
  | none => m

/-- VERDICT_RECORD (R245): the next delivered record reaches its CMP axis. -/
def verdictRecord (a : Nat) (m : Mach) : Mach :=
  match m.verdQ.find? fun x => x.1 = a with
  | none => m
  | some x =>
    if m.traceStalls 0x061 then m
    else
    let r := x.2
    let m := { m with verdQ := m.verdQ.erase x }
    if m.get (F.cmpCtl_STATE a) ≠ 1 || !m.on (F.cmpPort_EN r.port) then m
    else
      match (m.cmpAx a).slots.find? fun s => s.tag = r.tag with
      | some s =>
        let m := (m.modCmp a fun c => { c with slots := c.slots.filter fun x => x.tag ≠ s.tag }).cmpShow a
        m.makeEntries a s r
      | none => (m.bump (F.cmpCnt_STALE a)).emit 0x10 0x11 a [(32, (r.tag : Int)), (3, (a : Int))]

/-- AXIS_STOP (R258): a write of CMP_CTL.RUN = 0. -/
def axisStop (a : Nat) (m : Mach) : Mach :=
  let m := m.setb (F.cmpCtl_RUN a) false
  let st := m.get (F.cmpCtl_STATE a)
  if st = 0 then m
  else (m.set (F.cmpCtl_STATE a) 0).cond (st = 1) (·.cmpDiscard a (if m.get (F.posStat_STATE a) = 2 then 5 else 6))

end Sys2Proof.Machine
end

