-- ==== Sys2Proof/Machine/Safe.lean ====
section
/-!
DEFINITION. The safe state (R278 to R280): its causes, its entry, which also discards on every compare axis (R258), its release.
-/

namespace Sys2Proof.Machine

/-- The safe state begins (R280): the event, every CMP axis stops, compare-sourced channels go to level 0, every channel takes
its safe target. -/
def Mach.safeEnter (m : Mach) : Mach :=
  let m := (m.setb F.fioStat_SAFE true).emit 0x11 0x19 0 [(6, (m.get F.fioSafe_CAUSE : Int))]
  let m := (List.range 8).foldl (fun m a => m.cmpSafeStop a) m
  let m := (List.range 96).foldl (fun m v => m.setPulse v none) m
  let m := (m.latePin).compareZero
  m.chApplyAll (List.range 96)

/-- Cause `b` of FIO_SAFE.CAUSE sets (R279, R280). -/
def Mach.safeCause (m : Mach) (b : Nat) : Mach :=
  let c := m.get F.fioSafe_CAUSE
  if c.testBit b then m
  else
    let m := m.set F.fioSafe_CAUSE (c + 2 ^ b)
    if c = 0 then m.safeEnter else m

/-- Cause `b` clears (R279, R280): with the last one FIO leaves the safe state, unless its configuration is invalid (R266). -/
def Mach.safeClear (m : Mach) (b : Nat) : Mach :=
  let c := m.get F.fioSafe_CAUSE
  if !c.testBit b then m
  else if c = 2 ^ b then
    match m.fioInvalid with
    | some o => m.emit 0x11 0x1E 0 [(32, (o : Int) - R.fioStat)]
    | none =>
      let m := ((m.set F.fioSafe_CAUSE 0).setb F.fioStat_SAFE false).emit 0x11 0x1A 0 []
      m.chRefresh (List.range 96)
  else m.set F.fioSafe_CAUSE (c - 2 ^ b)

/-- ENTER (R279): cause CMD sets. -/
def enter (m : Mach) : Mach := m.safeCause 1

/-- RELEASE (R279): cause CMD clears. -/
def release (m : Mach) : Mach := m.safeClear 1

end Sys2Proof.Machine
end

