-- ==== Sys2Proof/Machine/Monitor.lean ====
section
/-!
DEFINITION. The deadline monitor (R209, R210), the verdict bucket and the class-0 guarantee (R199, R200), and the comparison of
verdicts and digests between twins (R320).
-/

namespace Sys2Proof.Machine

/-! ## Which job a port serves -/

/-- The enabled slots of pipeline `p` (MSH_SRC, R108): context and port of each. -/
def Mach.srcSlots (m : Mach) (p : Nat) : List (Nat × Nat) :=
  ([m.get (F.mshSrc_SLOT0 p), m.get (F.mshSrc_SLOT1 p), m.get (F.mshSrc_SLOT2 p), m.get (F.mshSrc_SLOT3 p)].filter
    (·.testBit 15)).map fun w => (w / 256 % 32, w % 16)

/-- The contexts bound to a port, over all pipelines (R108). -/
def Mach.portCtx (m : Mach) (port : Nat) : List Nat :=
  (List.range 16).flatMap fun p => ((m.srcSlots p).filter (·.2 = port)).map (·.1)

/-- A field of context `c`, whose registers stand in pipeline window c mod 16 (R108). -/
def Mach.cxOwner (m : Mach) (c : Nat) : Nat := m.get (F.mshCxCfg_OWNER (c % 16) (c / 16))

/-- The jobs that a port serves: the job of its enabled CMP binding (R241) and the owners of its contexts (R108). -/
def Mach.portJobs (m : Mach) (port : Nat) : List Nat :=
  ((if m.on (F.cmpPort_EN port) then [m.get (F.cmpPort_JOB port)] else []) ++ (m.portCtx port).map m.cxOwner).eraseDups

def Mach.jobState (m : Mach) (j : Nat) : Nat := m.get (F.schJobStat_STATE j)
def Mach.jobClass (m : Mach) (j : Nat) : Nat := m.get (F.schJobStat_CLASS j)

/-- The job is RUNNING or STOPPING. -/
def Mach.jobActive (m : Mach) (j : Nat) : Bool := m.jobState j = 2 || m.jobState j = 3

/-- What the package says of job `j` (R410). -/
def Mach.pkgJob (m : Mach) (j : Nat) : Option PkgJob := (m.jobs.find? fun p => p.1 = j).map (·.2)

/-- The units of job `j`: those the package lists for it (R213). -/
def Mach.jobUnits (m : Mach) (j : Nat) : List (Nat × Nat) := match m.pkgJob j with | some p => p.units | none => []

/-- The units that serve job `j` and no other RUNNING or STOPPING job (R194). -/
def Mach.ownUnits (m : Mach) (j : Nat) : List (Nat × Nat) :=
  let others := (m.jobs.filter fun p => p.1 ≠ j && m.jobActive p.1).flatMap (·.2.units)
  (m.jobUnits j).filter fun u => !others.contains u

/-- The class-0 job that a port serves, if any (R209): RUNNING or FAULTED, or STOPPING with the port among the units that stop with it; what a
shared port brings for a stopped job is discarded (R194). -/
def Mach.portJob0 (m : Mach) (port : Nat) : Option Nat :=
  (m.portJobs port).find? fun j => m.jobClass j = 0
    && (m.jobState j = 2 || m.jobState j = 5 || (m.jobState j = 3 && (m.ownUnits j).contains (1, port)))

/-- Class-0 work is there for an island to carry (R199): a class-0 job is RUNNING or STOPPING. -/
def Mach.class0Works (m : Mach) : Bool := (List.range 64).any fun j => m.jobClass j = 0 && m.jobActive j

/-! ## The guarantee -/

/-- The broken bits of SCH_GUAR: LOAD 1, CLOCK 2, SUPPLY 4, TRACE 8 (R199). -/
def Mach.guarBits (m : Mach) : Nat :=
  m.get F.schGuar_LOAD + 2 * m.get F.schGuar_CLOCK + 4 * m.get F.schGuar_SUPPLY + 8 * m.get F.schGuar_TRACE

/-- A condition of the guarantee breaks (R200): HELD clears and NOTICE sets. -/
def Mach.guarBreak (m : Mach) (f : Fld) : Mach :=
  let m := m.setb f true
  if m.on F.schGuar_HELD then
    ((m.setb F.schGuar_HELD false).setb F.schGuar_NOTICE true).emit 0x0C 0x17 0 [(32, (m.guarBits : Int))]
  else m

/-- CLOCK is broken while thermal level 3 runs the compute-die islands at 1.2 GHz (R499) and any class-0 job works on them (R199). -/
def Mach.clockShow (m : Mach) : Mach :=
  if m.get F.kilnStat_LEVEL = 3 && m.class0Works then m.cond (!m.on F.schGuar_CLOCK) (·.guarBreak F.schGuar_CLOCK)
  else m.setb F.schGuar_CLOCK false

/-- LOAD breaks now (R199). -/
def Mach.loadBreak (m : Mach) : Mach := { m.guarBreak F.schGuar_LOAD with loadAt := m.now }

/-- BUCKET_REFILL (R199): a token each 1,000 ns, up to 196. -/
def bucketRefill (m : Mach) : Mach :=
  if m.bucketAt + 1000 ≤ m.now then
    { m.set F.schGuar_BUCKET (min 196 (m.get F.schGuar_BUCKET + 1)) with bucketAt := m.bucketAt + 1000 }
  else m

/-! ## Twins' comparison (R320) -/

/-- A mismatch is found (R320): counted, held in TNG_DIV, raised for the first since VALID was cleared. -/
def Mach.mismatch (m : Mach) (verdict : Bool) (entry step : Nat) : Mach :=
  let m := m.bump F.tngCnt_MISMATCH
  let m := m.freezeTrigger 1
  if m.on F.tngDiv_VALID then m
  else
    ((((m.setb F.tngDiv_VALID true).setb F.tngDiv_KIND verdict).set F.tngDiv_ENTRY entry).set F.tngDiv_STEP step).emit
      0x13 0x17 0 [(1, (verdict.toNat : Int)), (10, (entry : Int)), (32, (step : Int))]

/-- A twin in a pair compares (R320). -/
def Mach.paired (m : Mach) : Bool := m.tngIs 2 || m.tngIs 3

/-- A verdict record's words 0 and 1 (R244). -/
def Verdict.w0 (v : Verdict) : Nat :=
  v.tag % 2 ^ 32 * 2 ^ 32 + v.job % 64 * 2 ^ 26 + v.port % 16 * 2 ^ 22 + v.kind % 4 * 2 ^ 20 + v.value % 16 * 2 ^ 16
def Verdict.w1 (v : Verdict) : Nat := v.block % 2 ^ 32 * 2 ^ 32 + v.colLast % 2 ^ 14 * 2 ^ 18 + v.colFirst % 2 ^ 14 * 2 ^ 4

/-- One side's item meets the other side's item of the same key, or waits for it (R320). -/
def matchUp (key a b : Nat) (mine theirs : List (Nat × Nat × Nat)) : Option Bool × List (Nat × Nat × Nat) × List (Nat × Nat × Nat) :=
  match theirs.find? fun t => t.1 = key with
  | some t => (some (t.2 = (a, b)), mine, theirs.erase t)
  | none => (none, (mine ++ [(key, a, b)]).reverse.take 4096 |>.reverse, theirs)

/-- A replayed item meets the recorded one of the same key, or waits for it (R355): cause 1 a digest, 2 a verdict. -/
def Mach.replayed (m : Mach) (cause unit key a b : Nat) : Mach :=
  if m.replaying then
    let (r, mine, theirs) := matchUp (key * 2 + (cause - 1)) a b m.rplSeen m.rplRec
    let m := { m with rplSeen := mine, rplRec := theirs }
    if r = some false then m.diverged cause unit (if cause = 1 then key / 1024 else key) else m
  else m

/-- A recorded item meets the replayed one of the same key, or waits for it (R355). -/
def Mach.recorded (m : Mach) (cause unit key a b : Nat) : Mach :=
  let (r, theirs, mine) := matchUp (key * 2 + (cause - 1)) a b m.rplRec m.rplSeen
  let m := { m with rplSeen := mine, rplRec := theirs }
  if r = some false then m.diverged cause unit (if cause = 1 then key / 1024 else key) else m

/-- The verdict this module delivered is compared with the twin's (R320). -/
def Mach.verdictMine (m : Mach) (v : Verdict) : Mach :=
  if m.paired then
    let (r, mine, theirs) := matchUp v.tag v.w0 v.w1 m.ownVerdicts m.peerVerdicts
    let m := { m with ownVerdicts := mine, peerVerdicts := theirs }
    if r = some false then m.mismatch true 0 v.tag else m
  else m

/-! ## Delivery -/

/-- The monitor delivers a verdict (R209, R244): it goes to the CMP axis of the port, is recorded and compared. -/
def Mach.deliver (m : Mach) (axis : Nat) (v : Verdict) : Mach :=
  let v := { v with dreel := m.reel }
  let m := { m with verdQ := m.verdQ ++ [(axis, v)] }
  let m := m.trace 12 true (some v.job)
    { typ := 0x08, job := v.job, agent := 0x061, layer := 0, operator := 0, sub := v.kind, reel := m.reel, arg0 := v.w0, arg1 := v.w1 }
  (m.record ⟨0x0C, v.job, v.port, true, m.reel, leBytes 8 v.w0 ++ leBytes 8 v.w1⟩).verdictMine v |>.cond (m.rplCov.contains (v.port, v.block)) (·.replayed 2 0 v.tag v.w0 v.w1)

/-- A verdict delivered other than main for a timing reason is recorded (R210, R342): 1 reserve, 2 none ready, 3 monitor full. -/
def Mach.recordChoice (m : Mach) (job port block choice : Nat) : Mach :=
  m.record ⟨0x09, job, port, false, m.reel, leBytes 4 block ++ leBytes 4 choice⟩

def Mach.modMon (m : Mach) (port block : Nat) (f : MonBlk → MonBlk) : Mach :=
  { m with mon := m.mon.map fun b => if b.port = port && b.block = block then f b else b }

def Mach.monBlk (m : Mach) (port block : Nat) : Option MonBlk := m.mon.find? fun b => b.port = port && b.block = block

/-- Arguments of the monitor's events: job, port, block (R224). -/
def monArgs (job port block : Nat) : List (Nat × Int) := [(6, (job : Int)), (4, (port : Int)), (32, (block : Int))]

/-- A main verdict of block `b` comes after its delivery (R209): discarded, counted, raised once per run. -/
def Mach.mainAfter (m : Mach) (b : MonBlk) : Mach :=
  let m := { m with mon := m.mon.filter fun x => !(x.port = b.port && x.block = b.block) }
  (m.count (F.schAccVerd2_MAIN_AFTER b.job)).runHit false 0x0C 0x15 0 b.job (monArgs b.job b.port b.block)

/-- Block `b` gets its substitute verdict (R209, R195): the runs of the job's late blocks end. -/
def Mach.deliverSubst (m : Mach) (b : MonBlk) : Mach :=
  let m := m.modMon b.port b.block fun b => { b with delivered := true, switchAt := none }
  let m := (m.runEnd 0x0C 0x14 0 b.job).runEnd 0x0C 0x16 0 b.job
  m.deliver b.axis (m.substitute b.tag b.job b.port b.block)

/-- Block `b` gets its main verdict before the switch point, or first when neither was ready (R209). -/
def Mach.deliverMain (m : Mach) (b : MonBlk) (v : Verdict) : Mach :=
  let inTime := b.switchAt.isSome
  let m := { m with mon := m.mon.filter fun x => !(x.port = b.port && x.block = b.block) }
  let m := ((m.runEnd 0x0C 0x14 0 b.job).runEnd 0x0C 0x15 0 b.job).cond inTime (·.runEnd 0x0C 0x16 0 b.job)
  m.deliver b.axis { v with tag := b.tag }

/-- Block `b` gets its reserve verdict (R209): counted, raised once per run. A main verdict held till then is discarded (R210). -/
def Mach.deliverReserve (m : Mach) (b : MonBlk) (v : Verdict) : Mach :=
  let m := m.modMon b.port b.block fun b => { b with delivered := true, switchAt := none }
  let m := (m.count (F.schAccVerd_RESERVE_USED b.job)).runHit false 0x0C 0x14 0 b.job (monArgs b.job b.port b.block)
  (m.deliver b.axis { v with tag := b.tag }).cond b.main.isSome (·.mainAfter b)

/-- Neither verdict of block `b` was ready at its switch point (R209): the first of the two to arrive will be delivered. -/
def Mach.noneReady (m : Mach) (b : MonBlk) : Mach :=
  let m := m.modMon b.port b.block fun b => { b with switchAt := none }
  let m := (m.count (F.schAccVerd2_NO_VERDICT b.job)).runHit false 0x0C 0x16 0 b.job (monArgs b.job b.port b.block)
  m.recordChoice b.job b.port b.block 2

/-- The reserve verdict of block `b` is chosen (R209, R210). -/
def Mach.chooseReserve (m : Mach) (b : MonBlk) (v : Verdict) : Mach :=
  let m := m.recordChoice b.job b.port b.block 1
  (m.cond b.switchAt.isSome (·.runEnd 0x0C 0x16 0 b.job)).deliverReserve b v

/-- The choice at a block's switch point (R209): the reserve when it is ready, else the first of the two to arrive. -/
def Mach.choose (m : Mach) (b : MonBlk) : Mach :=
  match b.reserve with
  | some v => m.chooseReserve b v
  | none => m.noneReady b

/-- The monitor makes its own choices: neither a follower nor a replay (R210). -/
def Mach.choosesItself (m : Mach) : Bool := !m.follower && !m.replaying

/-- A class-0 block closes (R199, R209): it takes its token and opens at the monitor, or gets its substitute at once. -/
def Mach.monOpen (m : Mach) (job port block tag axis : Nat) (ref : Int) (cut : Bool) : Mach :=
  let m := if m.get F.schGuar_BUCKET = 0 then m.loadBreak else m.set F.schGuar_BUCKET (m.get F.schGuar_BUCKET - 1)
  let b : MonBlk := { job, port, block, tag, axis, ref, switchAt := some (ref + m.switchUs job * 1000),
                      main := none, reserve := none, delivered := false, told := none }
  let full := (m.mon.filter (!·.delivered)).length ≥ 512
  let m := { m with mon := (m.mon.filter fun x => !(x.port = port && x.block = block)) ++ [b] }
  if cut || m.jobState job = 5 then m.deliverSubst b
  else if full then
    if m.choosesItself then ((m.loadBreak).recordChoice job port block 3).deliverSubst b else m
  else m

/-- SWITCH_POINT (R209). -/
def switchPoint (port block : Nat) (m : Mach) : Mach :=
  match m.monBlk port block with
  | some b =>
    match b.switchAt with
    | some t => if !b.delivered && m.choosesItself && decide (t ≤ m.reel) then m.choose b else m
    | none => m
  | none => m

/-- A main verdict of block `b` waits for the lead's choice, or for a recorded one that is to come (R210, R353; log entry 138). -/
def Mach.mainHeld (m : Mach) (b : MonBlk) : Bool :=
  if m.follower then b.told ≠ some 0
  else m.replaying && m.rplChoices.any fun c => c.1 = b.port && c.2.1 = b.block

/-- Held main verdicts that nothing holds any more are delivered (R210, R326). -/
def Mach.mainsGo (m : Mach) : Mach :=
  m.mon.foldl (fun m b => match b.main with | some v => if b.delivered || m.mainHeld b then m else m.deliverMain b v | none => m) m

/-- The lead delivered the main verdict of a block (R210, R319): so does the follower. -/
def Mach.toldMain (m : Mach) (port block : Nat) : Mach :=
  if m.follower then (m.modMon port block fun b => { b with told := some 0 }).mainsGo else m

/-- A choice that the lead or the record made (R210, R353): 1 reserve, 2 none ready, 3 monitor full. -/
def Mach.applyChoice (m : Mach) (port block choice : Nat) : Mach :=
  let m := { m with rplChoices := m.rplChoices.erase (port, block, choice) }
  match m.monBlk port block with
  | some b =>
    if b.delivered then m
    else if choice = 3 then (((m.loadBreak).recordChoice b.job port block 3).deliverSubst b).cond b.main.isSome (·.mainAfter b)
    else if choice = 1 then
      match b.reserve with
      | some v => m.chooseReserve b v
      | none => m.modMon port block fun b => { b with told := some 1 }
    else (m.noneReady b).mainsGo
  | none => m

/-- FORWARDED_CHOICE (R210): the follower's monitor applies the lead's choice. -/
def forwardedChoice (port block choice : Nat) (m : Mach) : Mach :=
  if m.follower then m.applyChoice port block choice else m

/-- A verdict of job `job` arrives at the monitor (R209, R210). -/
def Mach.monArrive (m : Mach) (v : Verdict) : Mach :=
  match m.monBlk v.port v.block with
  | none => m
  | some b =>
    if b.job ≠ v.job then m
    else if v.kind = 0 then
      if b.delivered then m.mainAfter b
      else if m.mainHeld b then m.modMon b.port b.block fun b => { b with main := some v }
      else m.deliverMain b v
    else if v.kind = 1 then
      if b.delivered then m
      else if (m.choosesItself && b.switchAt.isNone) || b.told = some 1 then m.chooseReserve b v
      else m.modMon b.port b.block fun b => { b with reserve := some v }
    else m

/-- The verdict record that four stored words spell, stamped with the writing core's job (R244). -/
def verdictOf (job : Nat) (ws : List Word) : Verdict :=
  let w0 := (ws.getD 0 0).toNat
  let w1 := (ws.getD 1 0).toNat
  { tag := 0, job, port := w0 / 2 ^ 22 % 16, kind := w0 / 2 ^ 20 % 4, value := w0 / 2 ^ 16 % 16, block := w1 / 2 ^ 32,
    colLast := w1 / 2 ^ 18 % 2 ^ 14, colFirst := w1 / 2 ^ 4 % 2 ^ 14, dreel := 0 }

/-- A store to a verdict page (R244): one aligned 32-byte store reaches the monitor; any other is discarded. -/
def Mach.verdictPage (m : Mach) (job agent addr : Nat) (ws : List Word) : Mach :=
  if addr % 32 = 0 ∧ ws.length = 4 then m.monArrive (verdictOf job ws)
  else m.emit 0x0C 0x1F 0 [(6, (addr / 0x1000 % 64 : Int)), (12, (agent : Int))]

end Sys2Proof.Machine
end

