-- ==== Sys2Proof/Machine/Syn.lean ====
section
/-!
DEFINITION. Sync objects (R216 to R218) and mailboxes (R219 to R222).
-/

namespace Sys2Proof.Machine

/-! ## Instances -/

def Mach.engine (m : Mach) (e : Nat) : Eng := spGet (fun _ => {}) m.eng e
def Mach.modEng (m : Mach) (e : Nat) (f : Eng → Eng) : Mach :=
  { m with eng := spPut (fun _ => {}) m.eng e (f (m.engine e)) }

def Mach.core (m : Mach) (k : Nat) : FCore := spGet (fun _ => {}) m.cores k
def Mach.modCore (m : Mach) (k : Nat) (f : FCore → FCore) : Mach :=
  { m with cores := spPut (fun _ => {}) m.cores k (f (m.core k)) }

def Mach.port (m : Mach) (i : Nat) : WPort := spGet (fun _ => {}) m.ports i
def Mach.modPort (m : Mach) (i : Nat) (f : WPort → WPort) : Mach :=
  { m with ports := spPut (fun _ => {}) m.ports i (f (m.port i)) }

/-- A core's scalar register; s0 reads as 0 (R146). -/
def FCore.sreg (c : FCore) (i : Nat) : Word := if i = 0 then 0 else spGet (fun _ => 0) c.s i

/-- A core's scalar register written; a write of s0 is discarded (R146). -/
def FCore.setS (c : FCore) (i : Nat) (w : Word) : FCore :=
  if i = 0 then c else { c with s := spPut (fun _ => 0) c.s i w }

def FCore.vreg (c : FCore) (i : Nat) : BitVec 256 := spGet (fun _ => 0) c.v i
def FCore.setV (c : FCore) (i : Nat) (w : BitVec 256) : FCore := { c with v := spPut (fun _ => 0) c.v i w }

/-- Commands and memory transactions in flight device-wide (R218): engine commands queued and running, and the transfers of the cores' DMA
channels; every other transaction of this model is over within its command (log entry 142). -/
def Mach.inFlight (m : Mach) : Nat :=
  let eng := m.eng.foldl (fun a y => a + y.2.q0.length + y.2.q1.length + y.2.q2.length + y.2.run.isSome.toNat) 0
  m.cores.foldl (fun a y => a + y.2.dma.length) eng

/-- One more would stall its requester (R218). -/
def Mach.flightFull (m : Mach) : Bool := 16384 ≤ m.inFlight

/-! ## Sync objects -/

/-- (value − threshold) ≥ 0 as a signed difference of 32 bits (R10, R217). -/
def satisfied (value thr : Nat) : Bool := decide (0 ≤ wrapI 32 ((value : Int) - thr))

/-- WAIT_EN, WAIT_OBJ and WAIT_THRESH of a command (R123). -/
def Cmd.waitEn (c : Cmd) : Bool := (c.words.getD 1 0).getLsbD 49
def Cmd.waitObj (c : Cmd) : Nat := ((c.words.getD 1 0).extractLsb' 50 14).toNat
def Cmd.waitThr (c : Cmd) : Nat := ((c.words.getD 1 0).extractLsb' 0 32).toNat

/-- The head of a queue is tested against object `n`'s value (R217). -/
def latchHead (n value : Nat) : List Cmd → List Cmd
  | c :: t => (if c.waitEn && c.waitObj = n && satisfied value c.waitThr then { c with sat := true } else c) :: t
  | [] => []

/-- Every waiter on object `n` is tested after a change of its value (R217); a satisfied one stays so. -/
def Mach.synWake (m : Mach) (n : Nat) : Mach :=
  let v := m.get (F.synObj_VALUE n)
  let ports := m.ports.map fun x =>
    (x.1, if x.2.armed && x.2.obj = n && satisfied v x.2.thr then { x.2 with sat := true } else x.2)
  let eng := m.eng.map fun x =>
    (x.1, { x.2 with q0 := latchHead n v x.2.q0, q1 := latchHead n v x.2.q1, q2 := latchHead n v x.2.q2 })
  { m with ports, eng }

def Mach.hopEnt (m : Mach) (e : Nat) : HopEnt := spGet (fun _ => {}) m.hop e
def Mach.modHop (m : Mach) (e : Nat) (f : HopEnt → HopEnt) : Mach :=
  { m with hop := spPut (fun _ => {}) m.hop e (f (m.hopEnt e)) }

/-- Step s of entry `e` is in flight: issued, and STEP has not reached s + 1 (R165). -/
def Mach.stepInFlight (m : Mach) (e : Nat) : Bool :=
  let next := m.get (F.hopEntStep_STEP e)
  next != 0 && !satisfied (m.get (F.synObj_VALUE (m.get (F.hopEntSync_STEP_OBJ e)))) (next % 2 ^ 32)

/-- Rows of entry `e` formed and not issued (R160, R192), below END_ROW where it has ended (R164). -/
def Mach.rowsWaiting (m : Mach) (e : Nat) : Nat :=
  let n := (wrapI 32 ((m.get (F.synObj_VALUE (m.get (F.hopEntSync_FEED_OBJ e))) : Int) - m.get (F.hopEntStep_STEP e))).toNat
  match (m.hopEnt e).endRow with
  | some r => min n (r - m.get (F.hopEntStep_STEP e))
  | none => n

/-- A class-0 entry has a row waiting behind its step in flight, which breaks LOAD (R166, R199; log entry 137). -/
def Mach.overdue (m : Mach) (e : Nat) : Bool :=
  m.jobClass (m.get (F.hopEntCfg_JOB e)) = 0 && m.rowsWaiting e != 0 && m.stepInFlight e

/-- BACKLOG shows the rows formed and not issued (R192). -/
def Mach.showBacklog (m : Mach) (e : Nat) : Mach :=
  (m.set (F.hopEntStat_BACKLOG e) (min (m.rowsWaiting e) 255)).cond (m.overdue e) (·.loadBreak)

/-- GUARANTEE_HELD (R199, R200): LOAD holds again 120 µs after it last broke; with every condition holding, HELD sets. -/
def guaranteeHeld (m : Mach) : Mach :=
  let backlog := m.hop.any fun y => y.1 < 1024 && y.2.live && m.overdue y.1
  let m := m.cond (m.loadAt + 120000 ≤ m.now && !backlog) (·.setb F.schGuar_LOAD false)
  if m.started ∧ !m.on F.schGuar_HELD ∧ m.guarBits = 0 then
    (m.setb F.schGuar_HELD true).emit 0x0C 0x18 0 []
  else m

/-- Hopper follows the objects of its entries: when EDGE reached a count (R187), when rows were formed (R178) and the rows that
wait (R166): those that waited behind a step until STEP moved broke LOAD till then. -/
def Mach.hopWatch (m : Mach) (n : Nat) : Mach :=
  m.hop.foldl (fun m x =>
    let e := x.1
    if !x.2.live || 1024 ≤ e then m
    else
      let m := m.cond (m.get (F.hopEntSync_EDGE_OBJ e) = n) (·.modHop e fun h =>
        { h with edgeAt := (m.get (F.synObj_VALUE n), m.reel, max 1 (m.get F.hopHaloCfg_TMO_US)) :: h.edgeAt.take 63 })
      let m := m.cond (m.get (F.hopEntSync_STEP_OBJ e) = n && m.jobClass (m.get (F.hopEntCfg_JOB e)) = 0 && m.rowsWaiting e != 0) (·.loadBreak)
      if m.get (F.hopEntSync_FEED_OBJ e) = n then
        let m := m.cond (m.get (F.hopEntStat_STATE e) = 2) (·.modHop e fun h =>
          { h with formed := m.reel :: h.formed.take 1, lead := m.get F.hopPoolCfg_LEAD_US })
        m.showBacklog e
      else m) m

/-- The step counters of the running jobs whose step object is `n` advance (R338). -/
def Mach.stepCount (m : Mach) (n inc : Nat) : Mach :=
  m.jobs.foldl (fun m p =>
    if p.1 < 64 && m.get (F.trcJobStepcfg_OBJ p.1) = n && (m.jobState p.1 = 2 || m.jobState p.1 = 3) then m.count (F.trcJobStep_STEP p.1) inc
    else m) m

/-- Object `n` gains `inc`, modulo 2^32 (R216). -/
def Mach.synAdd (m : Mach) (n inc : Nat) : Mach :=
  (((m.count (F.synObj_VALUE n) inc).synWake n).hopWatch n).stepCount n inc

/-- Job `j` may use object `n` (R218). -/
def Mach.synOwns (m : Mach) (j n : Nat) : Bool := m.on (F.synObj_SHARED n) || m.get (F.synObj_OWNER n) = j

/-- A signal by a Mash stream or by Hopper for job `j` (R218): refused signals are discarded, counted and raised, and fault the job (R195) when
the command is done (log entry 141). -/
def Mach.synSignal (m : Mach) (agent j n : Nat) : Mach :=
  if m.synOwns j n then m.synAdd n 1
  else
    { (m.bump F.synStat_REFUSED).emit 0x0D 0x10 0 [(12, (agent : Int)), (14, (n : Int))] with violated := m.violated ++ [j] }

/-- Waiters armed and unsatisfied (R226): wait ports, and queue heads that wait. -/
def Mach.synWaiting (m : Mach) : Nat :=
  let ports := m.ports.countP fun x => x.2.armed && !x.2.sat
  let head (q : List Cmd) : Nat :=
    match q with
    | c :: _ => (c.waitEn && !c.sat && !satisfied (m.get (F.synObj_VALUE c.waitObj)) c.waitThr).toNat
    | [] => 0
  ports + (m.eng.map fun x => head x.2.q0 + head x.2.q1 + head x.2.q2).foldl (· + ·) 0

/-- SYN_ADD (R216): a control-space signal; an increment of 0 is ignored (R226). -/
def synAddCmd (val : Word) (m : Mach) : Mach :=
  let inc := (val.extractLsb' 0 8).toNat
  if inc = 0 then m else m.synAdd (val.extractLsb' 50 14).toNat inc

/-- Job `j` is RUNNING or STOPPING: its configuration fields are locked (R25, R225). -/
def Mach.jobLocked (m : Mach) (j : Nat) : Bool := m.get (F.schJobStat_STATE j) = 2 || m.get (F.schJobStat_STATE j) = 3

/-- SYN_OBJ (R216, R226): OWNER, SHARED and VALUE are written while the owner job is not RUNNING or STOPPING. -/
def synObjCmd (n : Nat) (val : Word) (m : Mach) : Mach :=
  if n ≥ 16384 then m
  else if m.jobLocked (m.get (F.synObj_OWNER n)) then
    if (val ^^^ m.rd (R.synObj n)) &&& 0xFE000000FFFFFFFF = 0 then m
    else m.emit 0x0D 0x02 0 []
  else (m.wr (R.synObj n) (val &&& 0xFE000000FFFFFFFF)).synWake n

/-! ## Mailboxes -/

/-- Job `j` may use mailbox `n` (R221). -/
def Mach.mbxOwns (m : Mach) (j n : Nat) : Bool := m.on (F.mbxCfg_SHARED n) || m.get (F.mbxCfg_OWNER n) = j

/-- MBX_STAT.FULL counts the full mailboxes (R226). -/
def Mach.mbxFull (m : Mach) (n : Nat) (full : Bool) : Mach :=
  let c := m.get F.mbxStat_FULL
  (m.setb (F.mbxSide_FULL n) full).set F.mbxStat_FULL (if full then c + 1 else c - 1)

/-- A parked cluster wakes (R206, R222). -/
def Mach.wakeCluster (m : Mach) (c : Nat) : Mach :=
  if c < 96 && m.get (F.flrStat_STATE c) = 2 then m.set (F.flrStat_STATE c) 3 else m

/-- A word arrives in an empty mailbox, stamped with its sender (R220, R222). -/
def Mach.mbxPut (m : Mach) (n agent : Nat) (val : Word) : Mach :=
  let m := ((m.wr (R.mbxTake n) val).set (F.mbxSide_SENDER n) agent).mbxFull n true
  m.cond (m.on (F.mbxCfg_WAKE n)) (·.wakeCluster (m.get (F.mbxCfg_CLUSTER n)))

/-- The word of a full mailbox is taken (R221): the stamp stays, FULL clears, and the first stalled sender is served (R220). -/
def Mach.mbxPop (m : Mach) (n : Nat) : Mach :=
  let m := (m.wr (R.mbxTake n) 0).mbxFull n false
  match m.mbxWait.find? fun w => w.mbx = n with
  | none => m
  | some w =>
    let m := { m with mbxWait := m.mbxWait.erase w }
    (m.mbxPut n w.agent w.val).modCore w.core fun c => { c.setS w.d 1 with pc := c.pc + 4 }

/-- A send is refused (R220, R221, R224): 1 full, 2 not owner. -/
def Mach.mbxRefuse (m : Mach) (agent n why : Nat) : Mach :=
  (m.bump F.mbxStat_REFUSED).emit 0x0E 0x10 0 [(12, (agent : Int)), (9, (n : Int)), (32, (why : Int))]

/-- MBX_SEND (R220): a send from the control space, discarded and counted when the mailbox is full. -/
def mbxSendCmd (agent n : Nat) (val : Word) (m : Mach) : Mach :=
  if n ≥ 512 then m
  else if m.on (F.mbxSide_FULL n) then m.mbxRefuse agent n 1
  else m.mbxPut n agent val

/-- MBX_TAKE (R221): a read from the control space takes the word; the read of an empty mailbox changes nothing. -/
def mbxTakeCmd (n : Nat) (m : Mach) : Mach :=
  if n < 512 ∧ m.on (F.mbxSide_FULL n) then m.mbxPop n else m

end Sys2Proof.Machine
end

