-- ==== Sys2Proof/Machine/Msh.lean ====
section
/-!
DEFINITION. The image pipelines (03_image_pipeline.md, R71 to R108): the integer stages, the parameter sets and their commits,
output streams, statistics and host assist.
-/

namespace Sys2Proof.Machine

/-! ## Places -/

def Mach.pipe (m : Mach) (p : Nat) : Pipe := spGet (fun _ => {}) m.pipes p
def Mach.modPipe (m : Mach) (p : Nat) (f : Pipe → Pipe) : Mach :=
  { m with pipes := spPut (fun _ => {}) m.pipes p (f (m.pipe p)) }

def Mach.cx (m : Mach) (c : Nat) : Cx := spGet (fun _ => {}) m.cxs c
def Mach.modCx (m : Mach) (c : Nat) (f : Cx → Cx) : Mach :=
  { m with cxs := spPut (fun _ => {}) m.cxs c (f (m.cx c)) }

def Cx.stream (x : Cx) (s : Nat) : Strm := spGet (fun _ => {}) x.strm s
def Cx.modStream (x : Cx) (s : Nat) (f : Strm → Strm) : Cx :=
  { x with strm := spPut (fun _ => {}) x.strm s (f (x.stream s)) }

/-- A field of context `c`, whose registers stand in window c mod 16 (R108). -/
def cxf (f : Nat → Nat → Fld) (c : Nat) : Fld := f (c % 16) (c / 16)

/-- A field of stream `s` of context `c` (R108). -/
def stf (f : Nat → Nat → Nat → Fld) (c s : Nat) : Fld := f (c % 16) (c / 16) s

/-- Control offset of context `c`'s registers (R108). -/
def cxBase (c : Nat) : Nat := 0x102000 + 0x10000 * (c % 16) + 0x2000 * (c / 16)

/-- The pipeline and the port that context `c` is bound to (R85). -/
def Mach.cxBinding (m : Mach) (c : Nat) : Option (Nat × Nat) :=
  (List.range 16).findSome? fun p => ((m.srcSlots p).find? (·.1 = c)).map fun s => (p, s.2)

/-- The pipeline that an event of context `c` names (R508). -/
def Mach.cxInst (m : Mach) (c : Nat) : Nat := match m.cxBinding c with | some (p, _) => p | none => c % 16

/-! ## Parameter sets (R87) -/

/-- Offsets, within a context, of the shadow registers (R87). -/
def shadowOffs : List Nat :=
  [0x40, 0x48, 0x50, 0x58, 0xC0, 0xC8] ++ (List.range 4).flatMap fun s => (List.range 5).map fun i => 0x100 + 0x40 * s + 8 * i

/-- The word of a set's register at offset `o` within the context. -/
def CxSet.word (x : CxSet) (o : Nat) : Word :=
  match x.regs.find? fun r => r.1 = o with
  | some r => r.2
  | none => regReset (cxBase 0 + o)

/-- A field of a set, named by the field of context 0. -/
def CxSet.get (x : CxSet) (f : Fld) : Nat := ((x.word (f.off - cxBase 0)).extractLsb' f.lo f.w).toNat
def CxSet.geti (x : CxSet) (f : Fld) : Int := ((x.word (f.off - cxBase 0)).extractLsb' f.lo f.w).toInt
def CxSet.on (x : CxSet) (f : Fld) : Bool := x.get f = 1

/-- A stream's field of a set. -/
def CxSet.st (x : CxSet) (f : Nat → Nat → Nat → Fld) (s : Nat) : Nat := x.get (f 0 0 s)

/-- The shadow of context `c` as a set with commit number `seq`. -/
def Mach.shadow (m : Mach) (c seq : Nat) : CxSet :=
  { regs := (shadowOffs.map fun o => (o, m.rd (cxBase c + o))).filter fun r => r.2 ≠ regReset (cxBase 0 + r.1)
    tone := (m.cx c).tone, seq }

/-- Start of tone segment `s` (R83). -/
def toneStart (s : Nat) : Nat := if s < 32 then 2 * s else (32 + (s - 32) % 32) * 2 ^ ((s - 32) / 32 + 1)

/-- A tone knot at reset (R83). -/
def toneReset (n : Nat) : Nat := if n % 512 = 480 then 0xFFFF else toneStart (n % 512) / 16

/-- Knot `n` of channel `ch` of a set. -/
def CxSet.knot (x : CxSet) (ch n : Nat) : Nat := spGet toneReset x.tone (ch * 512 + n)

/-- Channels of a context by its PATTERN and its port's NEXP (R80). -/
def Mach.nch (m : Mach) (c port : Nat) : Nat :=
  match m.get (cxf F.mshCxCfg_PATTERN c) with
  | 0 => 1
  | 1 => 3
  | _ => m.get (F.grsFmt_NEXP port) + 1

/-! ## The stages -/

/-- Clamp to 20 bits, telling whether it changed the value (R78, R81, R82). -/
def clamp20 (v : Int) : Nat × Bool :=
  if v < 0 then (0, true) else if v > 0xFFFFF then (0xFFFFF, true) else (v.toNat, false)

/-- An element of a line, 0 beyond its end. -/
def at' (l : List Nat) (i : Nat) : Nat := l.getD i 0

/-- Columns of a line, clipped values counted (R102). -/
def mapClip (f : Nat → Nat × Bool) (n : Nat) : List Nat × Nat :=
  let r := (List.range n).map f
  (r.map (·.1), r.countP (·.2))

/-- Samples of a list of channels clamped, over all of them. -/
def mapChans (f : Nat → Nat → Nat × Bool) (nch n : Nat) : List (List Nat) × Nat :=
  let r := (List.range nch).map fun c => mapClip (f c) n
  (r.map (·.1), (r.map (·.2)).foldl (· + ·) 0)

/-- Nearest sample of channel `c` on one side of column `x`, if any (R80). -/
def nearest (l : List Nat) (phase c : Nat) (xs : List Nat) : Option Nat := (xs.find? fun x => (x + phase) % 3 = c).map (at' l)

/-- Channel `c` of column `x` of a colour filter array line (R80). -/
def cfa (l : List Nat) (phase c x : Nat) : Nat :=
  if (x + phase) % 3 = c then at' l x
  else
    let left := nearest l phase c ([x - 1, x - 2].filter fun y => y < x)
    let right := nearest l phase c ([x + 1, x + 2].filter fun y => y < l.length)
    match left, right with
    | some a, some b => (a + b + 1) / 2
    | some a, none => a
    | none, some b => b
    | none, none => 0

/-- Channel assembly (R80). -/
def assemble (pattern phase : Nat) (chans : List (List Nat)) : List (List Nat) :=
  if pattern = 1 then
    let l := chans.headD []
    (List.range 3).map fun c => (List.range l.length).map (cfa l phase c)
  else chans

/-- White balance gain of a channel (R81). -/
def CxSet.wb (x : CxSet) (c : Nat) : Nat := ((x.word 0x40).extractLsb' (16 * (c % 4)) 16).toNat

/-- Colour matrix coefficient (R82). -/
def CxSet.ccm (x : CxSet) (i j : Nat) : Int :=
  let n := 3 * i + j
  ((x.word (0x48 + 8 * (n / 4))).extractLsb' (16 * (n % 4)) 16).toInt

/-- White balance (R81). -/
def whiteBalance (x : CxSet) (chans : List (List Nat)) (n : Nat) : List (List Nat) × Nat :=
  mapChans (fun c i => clamp20 ((at' (chans.getD c []) i * x.wb c + 2048) / 4096 : Nat)) chans.length n

/-- Colour matrix (R82). -/
def colourMatrix (x : CxSet) (chans : List (List Nat)) (n : Nat) : List (List Nat) × Nat :=
  if chans.length ≥ 3 && x.on (F.mshCxCcm2_CCM_EN 0 0) then
    mapChans (fun c i =>
      if c < 3 then
        let v (j : Nat) : Int := at' (chans.getD j []) i
        clamp20 ((x.ccm c 0 * v 0 + x.ccm c 1 * v 1 + x.ccm c 2 * v 2 + 2048).fdiv 4096)
      else (at' (chans.getD c []) i, false)) chans.length n
  else (chans, 0)

/-- The tone curve (R83). -/
def tone (x : CxSet) (ch v : Nat) : Nat :=
  let k := Nat.log2 v
  let b := if v < 64 then 1 else k - 5
  let s := if v < 64 then v / 2 else 32 + 32 * (k - 6) + v / 2 ^ b % 32
  let start := v / 2 ^ b * 2 ^ b
  let k0 : Int := x.knot ch s
  let k1 : Int := x.knot ch (s + 1)
  (k0 + ((k1 - k0) * ((v : Int) - start) + 2 ^ (b - 1)).fdiv (2 ^ b)).toNat

/-- Stages 4 to 7 of a line: the tone outputs, one list a channel, and the samples that stages 5 and 6 clamped. -/
def stages (pattern phase : Nat) (x : CxSet) (chans : List (List Nat)) : List (List Nat) × Nat :=
  let chans := assemble pattern phase chans
  let n := (chans.headD []).length
  let (a, s1) := whiteBalance x chans n
  let (b, s2) := colourMatrix x a n
  ((List.range b.length).map fun c => (b.getD c []).map (tone x c), s1 + s2)

/-- Luma of a column (R84). -/
def luma (rows : List (List Nat)) (i : Nat) : Nat :=
  if rows.length ≥ 3 then
    (77 * at' (rows.getD 0 []) i + 150 * at' (rows.getD 1 []) i + 29 * at' (rows.getD 2 []) i + 128) / 256
  else at' (rows.getD 0 []) i

/-- An 8-bit element (R84). -/
def elem8 (t : Nat) : Nat := min 255 ((t + 128) / 256)

/-! ## Stream formats (R93) -/

/-- Channels of an element: 0 stands for luma, c + 1 for channel c. -/
def fmtChans (fmt chsel nch : Nat) : List Nat :=
  match fmt with
  | 0 => [0]
  | 1 => [chsel + 1]
  | 2 => [1, 2, 3]
  | 3 => [0]
  | 4 => [chsel + 1]
  | 5 => [1, 2, 3]
  | 6 => (List.range nch).map (· + 1)
  | 7 => [0]
  | 8 => [1, 2, 3]
  | _ => [chsel + 1]

def fmtS2d (fmt : Nat) : Bool := 7 ≤ fmt && fmt ≤ 9
def fmt8 (fmt : Nat) : Bool := fmt ≤ 2 || fmtS2d fmt

/-- A format is defined for `nch` channels (R93). -/
def fmtOk (fmt chsel nch : Nat) : Bool :=
  match fmt with
  | 0 | 3 | 7 => nch ≠ 2
  | 1 | 4 | 9 => chsel < nch
  | 2 | 5 | 8 => nch ≥ 3
  | 6 => true
  | _ => false

/-- log2 of a scale factor, held to 4 (R95, R506). -/
def scaleLog (v : Nat) : Nat := min v 4

/-- Bytes of an output line (R93, R96). -/
def lineBytes (fmt fx xw nch : Nat) : Nat :=
  let c := (fmtChans fmt 0 nch).length
  let cols := xw / 2 ^ fx
  if fmtS2d fmt then cols / 4 * 16 * c else if fmt8 fmt then cols * c else cols * c * 2

/-- Lines in a group: FY, or 4 FY for an S2D format (R95). -/
def groupLines (fmt fy : Nat) : Nat := if fmtS2d fmt then 4 * 2 ^ fy else 2 ^ fy

/-- One scaled value: the rounded mean of an FX by FY box of a channel (R95). -/
def boxMean (rows : List (List (List Nat))) (r0 fx fy x c : Nat) : Nat :=
  let s := (List.range (2 ^ fy)).foldl (fun a dy =>
    (List.range (2 ^ fx)).foldl (fun a dx => a + at' ((rows.getD (r0 + dy) []).getD c []) (x * 2 ^ fx + dx)) a) 0
  if fx + fy = 0 then s else (s + 2 ^ (fx + fy - 1)) / 2 ^ (fx + fy)

/-- The bytes of one output line from its group's rows (R93, R95, R96). -/
def outBytes (x : CxSet) (s nch : Nat) (rows : List (List (List Nat))) : List Byte :=
  let fmt := x.st F.strmCfg_FMT s
  let fx := scaleLog (x.st F.strmCfg_FX s)
  let fy := scaleLog (x.st F.strmCfg_FY s)
  let cols := x.st F.strmCrop_XW s / 2 ^ fx
  let nc := (fmtChans fmt (x.st F.strmCfg_CHSEL s) nch).length
  let sign := x.st F.strmCfg_SIGNED s = 1
  let b8 (v : Nat) : Byte := let e := BitVec.ofNat 8 (elem8 v); if sign then e ^^^ 0x80#8 else e
  if fmtS2d fmt then
    (List.range (cols / 4)).flatMap fun g => (List.range 4).flatMap fun dy => (List.range 4).flatMap fun dx =>
      (List.range nc).map fun c => b8 (boxMean rows (dy * 2 ^ fy) fx fy (4 * g + dx) c)
  else
    (List.range cols).flatMap fun i => (List.range nc).flatMap fun c =>
      let v := boxMean rows 0 fx fy i c
      if fmt8 fmt then [b8 v] else leBytes 2 v

/-- The cropped row of a line in a stream's channels (R93, R94). -/
def cropRow (x : CxSet) (s nch : Nat) (rows : List (List Nat)) : List (List Nat) :=
  let x0 := x.st F.strmCrop_X0 s
  let cols := (List.range (x.st F.strmCrop_XW s)).map (x0 + ·)
  (fmtChans (x.st F.strmCfg_FMT s) (x.st F.strmCfg_CHSEL s) nch).map fun k =>
    cols.map fun i => if k = 0 then luma rows i else at' (rows.getD (k - 1) []) i

/-- A stream takes a line (R94). -/
def selects (x : CxSet) (s : Nat) (t : Tag) : Bool :=
  match x.st F.strmCfg_LINESEL s with
  | 0 => true
  | 1 => t.inblock
  | 2 => t.inblock && x.st F.strmCrop_Y0 s ≤ t.line && t.line < x.st F.strmCrop_Y0 s + x.st F.strmCrop_YH s
  | _ => false

/-! ## Tags -/

/-- The four words of a tag, EXP 0 (R59, R77). -/
def Tag.words (t : Tag) : List Word :=
  [BitVec.ofInt 64 (t.pos * 256 + t.drop.toNat * 128 + t.trunc.toNat * 64 + t.untriggered.toNat * 32 + t.concealed.toNat * 16
      + t.last.toNat * 8 + t.first.toNat * 4 + t.inblock.toNat * 2),
   BitVec.ofInt 64 t.reel,
   BitVec.ofNat 64 (t.block % 2 ^ 32 * 2 ^ 32 + t.line % 2 ^ 16 * 2 ^ 16 + t.camcnt % 2 ^ 12 * 16 + t.port % 16),
   BitVec.ofNat 64 (t.axisValid.toNat * 128 + t.nexp % 4 * 32 + t.axis % 8)]

/-- The tag that four words spell (R59). -/
def Tag.ofWords (w0 w1 w2 w3 : Word) : Tag :=
  { pos := (w0.extractLsb' 8 56).toInt, reel := w1.toInt, drop := w0.getLsbD 7, trunc := w0.getLsbD 6,
    untriggered := w0.getLsbD 5, concealed := w0.getLsbD 4, last := w0.getLsbD 3, first := w0.getLsbD 2,
    inblock := w0.getLsbD 1, axisValid := w3.getLsbD 7, block := (w2.extractLsb' 32 32).toNat,
    line := (w2.extractLsb' 16 16).toNat, camcnt := (w2.extractLsb' 4 12).toNat, port := (w2.extractLsb' 0 4).toNat,
    nexp := (w3.extractLsb' 5 2).toNat, axis := (w3.extractLsb' 0 3).toNat }

def wordBytes (l : List Word) : List Byte := l.flatMap fun w => leBytes 8 w.toNat

def Tag.bytes (t : Tag) : List Byte := wordBytes t.words

/-! ## Commits (R88 to R92) -/

/-- The ring registers of stream `s` in a set (R97). -/
def CxSet.ring (x : CxSet) (s : Nat) : List Word :=
  let o := 0x100 + 0x40 * s
  [x.word (o + 0x10), x.word (o + 0x18), x.word (o + 0x20)]

/-- The offset within its context of the first register whose shadow breaks a rule of the chapter (R92). A stream's rules are checked
while its EN is 1, those of STATS_CFG and STATS_BASE always (log entry 127). -/
def shadowBad (x : CxSet) (nch width : Nat) : Option Nat :=
  let stats :=
    if x.get (F.mshCxStatsCfg_CHSEL 0 0) > 4 || (x.get (F.mshCxStatsCfg_CHSEL 0 0) = 4 && nch = 2)
        || (x.get (F.mshCxStatsCfg_CHSEL 0 0) < 4 && x.get (F.mshCxStatsCfg_CHSEL 0 0) ≥ nch) then
      some 0xC0
    else if x.get (F.mshCxStatsBase_BASE 0 0) % 64 ≠ 0 then some 0xC8
    else none
  let strm (s : Nat) : Option Nat :=
    let o := 0x100 + 0x40 * s
    let fmt := x.st F.strmCfg_FMT s
    let fx := scaleLog (x.st F.strmCfg_FX s)
    let xw := x.st F.strmCrop_XW s
    let x0 := x.st F.strmCrop_X0 s
    if x.st F.strmCfg_EN s = 0 then none
    else if !fmtOk fmt (x.st F.strmCfg_CHSEL s) nch || x.st F.strmCfg_LINESEL s = 3
        || (x.st F.strmCfg_SIGNED s = 1 && !fmt8 fmt) then some o
    else if x0 % 4 ≠ 0 || x0 + xw > width || xw % ((if fmtS2d fmt then 4 else 1) * 2 ^ fx) ≠ 0 || xw / 2 ^ fx < 16
        || (x.st F.strmCfg_LINESEL s = 2 && x.st F.strmCrop_YH s = 0) then some (o + 8)
    else if x.st F.strmBase_BASE s % 64 ≠ 0 then some (o + 0x10)
    else if x.st F.strmRing_PITCH s % 64 ≠ 0 || x.st F.strmRing_PITCH s < lineBytes fmt fx xw nch then some (o + 0x18)
    else if x.st F.strmTagbase_TAGBASE s % 64 ≠ 0 then some (o + 0x20)
    else none
  match stats with
  | some o => some o
  | none => (List.range 4).findSome? strm

/-- A COMMIT record's body (R342): context, block, and the whole new active set, its registers and its tone knots. -/
def commitBody (c block : Nat) (x : CxSet) : List Byte :=
  leBytes 4 c ++ leBytes 4 block ++ (shadowOffs.flatMap fun o => leBytes 8 (x.word o).toNat)
    ++ (List.range 4).flatMap fun ch => (List.range 481).flatMap fun n => leBytes 2 (x.knot ch n)

/-- The take (R90, R92, R97): the shadow becomes the active set for block `block`, or is rejected. -/
def Mach.take (m : Mach) (c block : Nat) : Mach :=
  let inst := m.cxInst c
  let port := match m.cxBinding c with | some (_, p) => p | none => 0
  let edge := (m.cx c).edgeC.getD m.reel
  let seq := (m.get (cxf F.mshCxTook_SEQ c) + 1) % 2 ^ 16
  let x := m.shadow c seq
  let m := (m.setb (cxf F.mshCxTook_PENDING c) false).modCx c fun y => { y with edgeC := none }
  match shadowBad x (m.nch c port) (m.get (F.grsFmt_WIDTH port)) with
  | some o =>
    (m.setb (cxf F.mshCxTook_ERR c) true).emit 0x02 0x11 inst [(5, (c : Int)), (32, (cxBase c + o - 0x100000 : Int))]
  | none =>
    let old := (m.cx c).active
    let m := (m.setb (cxf F.mshCxTook_ERR c) false).modCx c fun y => { y with active := x }
    let m := (List.range 4).foldl (fun m s => m.cond (old.ring s ≠ x.ring s) (·.set (stf F.strmStat_SLOT c s) 0)) m
    let m := ((m.set (cxf F.mshCxTook_SEQ c) seq).set (cxf F.mshCxTook_BLOCK c) block).seti (cxf F.mshCxDoneReel_REEL c) edge
    (m.record ⟨0x06, m.cxOwner c, c, false, m.reel, commitBody c block x⟩).emit 0x02 0x10 inst
      [(5, (c : Int)), (32, (block : Int))]

/-- Block start edge E at the source of context `c` (R88): a commit pending since 8 clock periods or more is taken. -/
def Mach.blockStart (m : Mach) (c block clkSinceC : Nat) : Mach :=
  if m.on (cxf F.mshCxTook_PENDING c) && (m.cx c).edgeC.isSome && clkSinceC ≥ 8 then m.take c block else m

/-- COMMIT (R88, R89, R91). A take at once, which has no edge C, writes the present Reel time to DONE_REEL, and a context that no
port is bound to counts as one whose port is STOPPED (log entry 128). -/
def commit (c : Nat) (val : Word) (m : Mach) : Mach :=
  if c ≥ 32 || !val.getLsbD 0 || m.on (cxf F.mshCxTook_PENDING c) then m
  else
    let m := m.setb (cxf F.mshCxTook_PENDING c) true
    let stopped : Bool := match m.cxBinding c with
      | some (_, p) => m.get (F.grsStatus_STATE p) = 0
      | none => true
    if stopped then m.take c 1 else m

/-- COMMIT_COMPLETE (R88): edge C, the first rising CLK edge on which the source port has registered the commit. -/
def commitComplete (c : Nat) (m : Mach) : Mach :=
  if c < 32 ∧ m.on (cxf F.mshCxTook_PENDING c) ∧ (m.cx c).edgeC.isNone then
    m.modCx c fun x => { x with edgeC := some m.reel }
  else m

/-- A write of a shadow field while a commit is pending is ignored, counted and raised (R89). -/
def Mach.shadowBusy (m : Mach) (c o : Nat) : Mach :=
  (m.bump (cxf F.mshCxCnt_BUSY_WRITES c)).emit 0x02 0x12 (c % 16) [(5, (c : Int)), (32, (cxBase c + o - 0x100000 : Int))]

/-- TONE_SELECT (R108): MSH_CX_TONE_ACC shows the knot it selects; CH and INDEX are run-time, and a knot above 480 reads 0 (log entry
129). -/
def toneSelect (c ch index : Nat) (m : Mach) : Mach :=
  let i := index % 512
  let ch := ch % 4
  let k := if i ≤ 480 then spGet toneReset (m.cx c).tone (ch * 512 + i) else 0
  ((m.set (cxf F.mshCxToneAcc_CH c) ch).set (cxf F.mshCxToneAcc_INDEX c) i).set (cxf F.mshCxToneAcc_KNOT c) k

/-- TONE_STORE (R89, R108): a shadow knot is stored; an index above 480 is ignored; the selection takes effect in any case. -/
def toneStore (c ch index knot : Nat) (m : Mach) : Mach :=
  let i := index % 512
  let m := if m.on (cxf F.mshCxTook_PENDING c) then m.shadowBusy c 0x80
    else if i ≤ 480 then
      m.modCx c fun x => { x with tone := spPut toneReset x.tone (ch % 4 * 512 + i) (knot % 2 ^ 16) }
    else m
  toneSelect c ch i m

/-! ## Arrival (R85, R86) -/

/-- The block of a context gets DROP and its substitute verdict (R86, R99): at once where the monitor already holds it. -/
def Mach.dropBlock (m : Mach) (c port block : Nat) : Mach :=
  let m := m.modCx c fun x => { x with drops := block :: x.drops.filter (· ≠ block) }
  match m.monBlk port block with
  | some b => if b.delivered then m else m.deliverSubst b
  | none => m

/-- Lines with pixels in the input buffer, shown in IN_LEVEL (R86, R108). -/
def Pipe.level (p : Pipe) : Nat := p.buf.countP (·.kind = .line)

/-- The lines of a block that stand in the buffer from the one that `hit` names on get DROP (R86). -/
def dropFrom (hit : MshLine → Bool) (block : Nat) : List MshLine → List MshLine
  | [] => []
  | l :: t =>
    if hit l then (l :: t).map fun k => if k.tag.inblock && k.tag.block = block then { k with tag := { k.tag with drop := true } } else k
    else l :: dropFrom hit block t

/-- An OVERFLOW record is applied to the line it names (R353): a line still in the buffer loses its pixels. -/
def Mach.toldOverflow (m : Mach) (p port block line : Nat) : Mach :=
  let hit (l : MshLine) : Bool := l.kind = .line && l.tag.port = port && l.tag.block = block && l.tag.line = line
  match (m.pipe p).buf.find? hit with
  | some l =>
    let m := m.modPipe p fun x =>
      { x with buf := (dropFrom hit block x.buf).map fun l => if hit l then { l with kind := .replacement, chans := [] } else l }
    let m := (m.bump (F.mshCnt_IN_OVERFLOW p)).emit 0x02 0x13 p [(4, (p : Int)), (4, (port : Int)), (32, (block : Int))]
    m.cond l.tag.inblock (·.dropBlock l.ctx port block)
  | none => m

/-- A line or marker as the pipeline takes it (R86, R99): after an overflow in its block, or a fault of the context, with DROP. -/
def Mach.dropTag (m : Mach) (l : MshLine) : MshLine :=
  let y := m.cx l.ctx
  { l with tag := { l.tag with drop := l.tag.drop || (l.tag.inblock && (y.drops.contains l.tag.block || y.faulted)) } }

/-- A line enters the buffer; with its block's LAST the block's drop is over. -/
def Mach.mshEnter (m : Mach) (p : Nat) (l : MshLine) : Mach :=
  let m := m.modPipe p fun x => { x with buf := x.buf ++ [m.dropTag l] }
  m.cond l.tag.last (·.modCx l.ctx fun y => { y with drops := y.drops.filter (· ≠ l.tag.block) })

/-- A released line reaches pipeline `p` (R85, R86): discarded while it is STOPPED or its job has stopped (R194), replaced when the buffer is full. -/
def Mach.mshArrive (m : Mach) (p : Nat) (l : MshLine) : Mach :=
  let owner := m.jobState (m.cxOwner l.ctx)
  if m.get (F.mshCtl_STATE p) = 0 || (l.kind = .line && (owner = 3 || owner = 4)) then
    if l.kind = .marker then m else m.bump (F.mshCnt_DISCARDED p)
  else if l.kind = .line && (m.pipe p).level ≥ 4 then
    let m := (m.bump (F.mshCnt_IN_OVERFLOW p)).emit 0x02 0x13 p
      [(4, (p : Int)), (4, (l.tag.port : Int)), (32, (l.tag.block : Int))]
    let m := m.record ⟨0x0A, m.cxOwner l.ctx, p, false, m.reel,
      leBytes 4 p ++ leBytes 4 l.tag.port ++ leBytes 4 l.tag.block ++ leBytes 4 l.tag.line⟩
    let m := m.cond m.replaying (·.diverged 3 (m.cxOwner l.ctx) l.tag.line)
    (m.cond l.tag.inblock (·.dropBlock l.ctx l.tag.port l.tag.block)).mshEnter p { l with kind := .replacement, chans := [] }
  else
    let m := m.mshEnter p l
    m.set (F.mshCtl_IN_LEVEL p) (m.pipe p).level

/-! ## Streams -/

/-- The tag of a group: its first line's, with DROP, CONCEALED, TRUNC and LAST ORed (R97). -/
def orTag (a : Option Tag) (t : Tag) : Tag :=
  match a with
  | none => t
  | some a => { a with drop := a.drop || t.drop, concealed := a.concealed || t.concealed, trunc := a.trunc || t.trunc,
                       last := a.last || t.last }

/-- Signals due after an output line (R98): after every SYNC_LINES lines, and after a line that carries LAST. -/
def syncDue (x : CxSet) (s since : Nat) (last : Bool) : Nat × Nat :=
  let n := x.st F.strmCfg_SYNC_LINES s
  let due := n ≠ 0 && since + 1 ≥ n
  ((due || last).toNat, if due then 0 else since + 1)

/-- A stream's complete group becomes an output line (R95, R97, R98); `written` is false for a block on the HOST path, whose lines
only reserve their slots (R106). -/
def Mach.emitGroup (m : Mach) (pl c s nch : Nat) (x : CxSet) (written : Bool) : Mach :=
  let st := (m.cx c).stream s
  let t := st.tag.getD {}
  let n := max 1 (x.st F.strmRing_NLINES s)
  let (sig, since) := if written then syncDue x s st.sinceSync t.last else (0, st.sinceSync)
  let o : StrmOut := { ctx := c, strm := s, addr := x.st F.strmBase_BASE s + st.slot * x.st F.strmRing_PITCH s,
                       data := outBytes x s nch st.rows, tagAddr := x.st F.strmTagbase_TAGBASE s + st.slot * 32, tag := t,
                       signals := sig, obj := x.st F.strmCfg_SYNC_OBJ s, nslots := n, slot := st.slot, ring := st.ring }
  let m := m.modCx c fun y => y.modStream s fun st =>
    { st with rows := [], tag := none, slot := (st.slot + 1) % n, sinceSync := since }
  if written then m.modPipe pl fun p => { p with out := p.out ++ [o] }
  else
    let m := (m.count (stf F.strmStat_K c s)).set (stf F.strmStat_SLOT c s) ((st.slot + 1) % n)
    m.modCx c fun y => { y with handed := if y.handed.isEmpty then [] else y.handed.dropLast ++ [y.handed.getLastD 0 + 1] }

/-- A stream sees the set of a new line (R95, R97): a take that changes the ring restarts the slot index, and any take restarts
the groups. -/
def Cx.seeSet (y : Cx) (s : Nat) (x : CxSet) : Cx :=
  let ring := x.ring s
  y.modStream s fun st =>
    let st := if st.ring ≠ ring then { st with slot := if st.ring = [] then st.slot else 0, ring := ring } else st
    if st.seq ≠ x.seq then { st with seq := x.seq, rows := [], tag := none } else st

/-- Rows filled up to `n` by repeating the last (R95). -/
def fillRows (n : Nat) (rows : List (List (List Nat))) : List (List (List Nat)) :=
  rows ++ List.replicate (n - rows.length) (rows.getLastD [])

/-- A signal of stream `s` without an output line, for the marker `t`, goes out in output order (R66, R98). -/
def Mach.signalOnly (m : Mach) (pl c s obj : Nat) (t : Tag) : Mach :=
  let s : StrmOut := { ctx := c, strm := s, addr := 0, data := [], tagAddr := 0, tag := t, signals := 1, obj, nslots := 0 }
  m.modPipe pl fun p => { p with out := p.out ++ [s] }

/-- A block ends for stream `s` (R95): an incomplete group is filled and written, at a marker with the marker's flags; a stream whose
groups are all written signals once for the marker (R66). -/
def Mach.endBlock (m : Mach) (pl c s nch : Nat) (x : CxSet) (marker : Option Tag) (written : Bool) : Mach :=
  let st := (m.cx c).stream s
  if st.rows.isEmpty then
    match marker with
    | some k => m.cond written (·.signalOnly pl c s (x.st F.strmCfg_SYNC_OBJ s) k)
    | none => m
  else if x.st F.strmCfg_LINESEL s = 0 then m
  else
    let g := groupLines (x.st F.strmCfg_FMT s) (scaleLog (x.st F.strmCfg_FY s))
    let m := m.modCx c fun y => y.modStream s fun st =>
      { st with rows := fillRows g st.rows, tag := match marker with | some k => some (orTag st.tag k) | none => st.tag }
    m.emitGroup pl c s nch x written

/-- One stage-7 line through stream `s` of context `c`. -/
def Mach.streamLine (m : Mach) (pl c s nch : Nat) (x : CxSet) (t : Tag) (rows : List (List Nat)) (written : Bool) : Mach :=
  if x.st F.strmCfg_EN s = 0 || m.on (stf F.strmStat_FAULT c s) then m
  else
    let m := m.modCx c fun y => y.seeSet s x
    let m :=
      if selects x s t then
        let g := groupLines (x.st F.strmCfg_FMT s) (scaleLog (x.st F.strmCfg_FY s))
        let m := m.modCx c fun y => y.modStream s fun st =>
          { st with rows := st.rows ++ [cropRow x s nch rows], tag := some (orTag st.tag t) }
        m.cond (decide (((m.cx c).stream s).rows.length ≥ g)) (·.emitGroup pl c s nch x written)
      else m
    m.cond t.last (·.endBlock pl c s nch x none written)

/-! ## Statistics (R100 to R102) -/

/-- A histogram with one more count in bin `i`. -/
def histAdd (h : List (Nat × Nat)) (i : Nat) : List (Nat × Nat) := spPut (fun _ => 0) h i (spGet (fun _ => 0) h i + 1)

/-- Column sums with a line's values added, by 2^dec columns. -/
def colAdd (sums vals : List Nat) (dec : Nat) : List Nat :=
  (List.range ((vals.length + 2 ^ dec - 1) / 2 ^ dec)).map fun j =>
    at' sums j + (((vals.drop (j * 2 ^ dec)).take (2 ^ dec)).foldl (· + ·) 0)

/-- A block line enters the statistics of its context. -/
def Stats.line (s : Stats) (x : CxSet) (t : Tag) (rows : List (List Nat)) (clipRaw sat : Nat) : Stats :=
  let sel := x.get (F.mshCxStatsCfg_CHSEL 0 0)
  let n := (rows.headD []).length
  let vals := (List.range n).map fun i => if sel = 4 then luma rows i else at' (rows.getD sel []) i
  { hist := vals.foldl (fun h v => histAdd h (v / 256)) s.hist
    cols := colAdd s.cols vals (scaleLog (x.get (F.mshCxStatsCfg_COLDEC 0 0)))
    lines := s.lines + 1, clipRaw := s.clipRaw + clipRaw, sat := s.sat + sat, concealed := s.concealed || t.concealed,
    firstTag := s.firstTag.or (some t), lastTag := t }

/-- The bytes of a statistics record (R101). -/
def Stats.bytes (s : Stats) (x : CxSet) (c widx width : Nat) (host : Bool) : List Byte :=
  let f := s.firstTag.getD {}
  let l := s.lastTag
  let dec := scaleLog (x.get (F.mshCxStatsCfg_COLDEC 0 0))
  let flags := l.trunc.toNat + 2 * l.drop.toNat + 4 * s.concealed.toNat + 8 * host.toNat
  let w0 := 0x5354 * 2 ^ 48 + 2 ^ 40 + c * 2 ^ 32 + l.port * 2 ^ 24 + flags
  let w1 := l.block * 2 ^ 32 + s.lines % 2 ^ 16 * 2 ^ 16 + x.get (F.mshCxStatsCfg_COLDEC 0 0) * 2 ^ 8
    + x.get (F.mshCxStatsCfg_CHSEL 0 0)
  let words := [w0, w1, (f.reel % 2 ^ 64).toNat, (l.reel % 2 ^ 64).toNat, (f.pos % 2 ^ 56).toNat * 256,
    (l.pos % 2 ^ 56).toNat * 256, s.clipRaw % 2 ^ 32 * 2 ^ 32 + s.sat % 2 ^ 32, x.seq * 2 ^ 48 + widx]
  let means := (List.range 16384).map fun j =>
    if j < s.cols.length then
      let n := (min (2 ^ dec) (width - j * 2 ^ dec)) * s.lines
      if n = 0 then 0 else (at' s.cols j + n / 2) / n
    else 0
  (words.flatMap (leBytes 8)) ++ ((List.range 256).flatMap fun i => leBytes 4 (spGet (fun _ => 0) s.hist i))
    ++ means.flatMap (leBytes 2)

/-- The block's record is complete (R100): it waits to be written. -/
def Mach.statsEnd (m : Mach) (c width : Nat) (x : CxSet) : Mach :=
  let y := m.cx c
  if y.stats.lines = 0 then m
  else
    let widx := m.get (cxf F.mshCxCnt_STATS_WIDX c) + y.statQ.length
    let r := y.stats.bytes x c (widx % 2 ^ 32) width x.host
    m.modCx c fun y => { y with stats := {}, statQ := y.statQ ++ [(r, x.get (F.mshCxStatsBase_BASE 0 0),
      max 1 (x.get (F.mshCxStatsCfg_NREC 0 0)))] }

/-! ## Host assist (R103 to R106) -/

/-- The stream of context `c` that is marked ASSIST (R103). -/
def Mach.assistStream (m : Mach) (c : Nat) : Option Nat := (List.range 4).find? fun s => m.on (stf F.strmCfg_ASSIST c s)

/-- LEVEL and ABOVE follow the ingest queue; HI_NOTICE sets on a rise to HI (R104, R223). -/
def Mach.assistShow (m : Mach) (c old : Nat) : Mach :=
  let n := (m.cx c).queue.length
  let hi := m.get (cxf F.mshCxAssist_HI c)
  let m := (m.set (cxf F.mshCxAssistStat_LEVEL c) n).setb (cxf F.mshCxAssistStat_ABOVE c) (decide (hi ≤ n))
  m.cond (decide (old < hi ∧ hi ≤ n)) (·.setb (cxf F.mshCxAssistStat_HI_NOTICE c) true)

/-- The path of a block that starts at the source of context `c` (R105), if it has an ASSIST stream in a running pipeline. -/
def Mach.assistPath (m : Mach) (c block : Nat) : Mach :=
  let runs : Bool := match m.cxBinding c with | some (pl, _) => m.get (F.mshCtl_STATE pl) != 0 | none => false
  if !runs || (m.assistStream c).isNone then m else
  let n := (m.cx c).queue.length
  let was := m.on (cxf F.mshCxAssistStat_PATH c)
  let now := if m.replaying then false else if m.get (cxf F.mshCxAssist_HI c) ≤ n then true else if n ≤ m.get (cxf F.mshCxAssist_LO c) then false else was
  let m := m.setb (cxf F.mshCxAssistStat_PATH c) now
  m.cond (now != was) (·.emit 0x02 (if now then 0x15 else 0x16) (m.cxInst c) [(5, (c : Int)), (32, (block : Int))])

/-- The set that a line of port `p` carries: the active one of the port's context, with the path of the block (R88, R105). -/
def Mach.lineSet (m : Mach) (p : Nat) : CxSet :=
  match m.portCtx p with
  | c :: _ => { (m.cx c).active with host := m.on (cxf F.mshCxAssistStat_PATH c) }
  | [] => {}

/-- Bytes of an ingest-queue slot (R104). -/
def slotBytes (nch width : Nat) : Nat := (32 + 2 * nch * width + 63) / 64 * 64

/-- The bytes of an ingest-queue slot (R104): the tag, then the values column by column with the channels of a column side by side
(log entry 130). -/
def slotData (nch width : Nat) (t : Tag) (rows : List (List Nat)) : List Byte :=
  t.bytes ++ (List.range width).flatMap fun k => (List.range nch).flatMap fun h => leBytes 2 (at' (rows.getD h []) k)

/-- A selected line of the ASSIST stream enters the ingest queue (R104), in DRAM at QBASE; a full queue discards it. A bus error
faults the context without STREAM_FAULT (log entry 131). -/
def Mach.assistEnter (m : Mach) (v : View) (c nch width : Nat) (x : CxSet) (t : Tag) (rows : List (List Nat)) : Mach × List Wr :=
  let n := (m.cx c).queue.length
  let q := m.get (cxf F.mshCxAssist_QLINES c)
  if q ≤ n then
    ((m.bump (cxf F.mshCxCnt_ASSIST_DROPPED c)).runHit true 0x02 0x17 (m.cxInst c) c [(5, (c : Int))], [])
  else
    let m := m.runEnd 0x02 0x17 (m.cxInst c) c
    let i := (m.cx c).qIdx
    let first := t.inblock && (m.cx c).qBlock ≠ some t.block
    let m := m.modCx c fun y =>
      { y with queue := y.queue ++ [{ tag := t, chans := rows, set := x, host := x.host, first }], qIdx := (i + 1) % q,
               qBlock := if t.inblock then some t.block else y.qBlock }
    let m := m.assistShow c n
    let addr := m.get (cxf F.mshCxAssistQ_QBASE c) + i * slotBytes nch width
    match m.writeMem v { agent := 0x50 + t.port % 16, job := some (m.cxOwner c) } addr (slotData nch width t rows) with
    | (none, ws, m) => (m, ws)
    | (some _, ws, m) =>
      ((m.emit 0x02 0x04 (m.cxInst c) []).modCx c fun y => { y with faulted := true }, ws)

/-- The end of a block reaches the ingest queue (R95, R105, R106): its last slot ends it, unless that slot carries LAST; where the
slots have left the queue already, the block ends at once. -/
def Mach.assistEnd (m : Mach) (pl c : Nat) (x : CxSet) (t : Tag) (marker : Bool) : Mach :=
  match m.assistStream c with
  | none => m
  | some s =>
    let y := m.cx c
    let done (m : Mach) (k : Option Tag) : Mach :=
      (m.endBlock pl c s (m.nch c t.port) x k !x.host).cond (x.host && m.on F.mgtPcieStat_UP && !m.mgt.d3)
        (·.msixRaise (m.get (cxf F.mshCxAssist_VEC c)))
    if y.qBlock ≠ some t.block then
      m.cond (marker && !x.host) (·.endBlock pl c s (m.nch c t.port) x (some t) true)
    else
      let m := m.modCx c fun y => { y with qBlock := none }
      let k := if marker then some t else none
      match y.queue.reverse with
      | a :: r =>
        if a.tag.inblock && a.tag.block = t.block then
          if a.tag.last then m else m.modCx c fun y => { y with queue := (({ a with fin := some k } : AssistSlot) :: r).reverse }
        else done m k
      | [] => done m k

/-! ## Commands -/

/-- The pipeline ends its current line (R108): a stopping one is STOPPED, and lines still in its buffer are discarded (R85). -/
def Mach.pipeEnd (m : Mach) (pl : Nat) : Mach :=
  if m.get (F.mshCtl_STATE pl) = 2 then
    let n := (m.pipe pl).level
    let m := (m.modPipe pl fun p => { p with buf := [] }).bump (F.mshCnt_DISCARDED pl) n
    ((m.set (F.mshCtl_STATE pl) 0).set (F.mshCtl_IN_LEVEL pl) 0).runsEnd fun r => r.blk = 0x02 && r.inst = pl
  else m.set (F.mshCtl_IN_LEVEL pl) (m.pipe pl).level

/-- A line of context `c` after stage 7: statistics, the ingest queue or the streams. A line replaced by R86 still counts the clipped
samples of its own pixels (log entry 132). -/
def Mach.afterStage7 (m : Mach) (v : View) (pl : Nat) (l : MshLine) (rows : List (List Nat)) (sat : Nat) : Mach × List Wr :=
  let c := l.ctx
  let port := l.tag.port
  let nch := m.nch c port
  let width := m.get (F.grsFmt_WIDTH port)
  let x := l.set
  let t := { l.tag with concealed := l.tag.concealed || l.kind = .replacement }
  let m := m.modCx c fun y => { y with prev := rows }
  let m := if x.on (F.mshCxStatsCfg_EN 0 0) && t.inblock then
      let m := m.modCx c fun y => { y with stats := y.stats.line x t rows l.clipRaw (l.sat + sat) }
      m.cond t.last (·.statsEnd c width x)
    else m
  let assist := m.assistStream c
  let m := (List.range 4).foldl (fun m s => if assist = some s then m else m.streamLine pl c s nch x t rows true) m
  match assist with
  | some s =>
    let (m, ws) := if x.st F.strmCfg_EN s = 1 && selects x s t then m.assistEnter v c nch width x t rows else (m, [])
    (m.cond t.last (·.assistEnd pl c x t false), ws)
  | none => (m, [])

/-- An end-of-block marker ends the line groups of the context's streams (R66, R95, R98). -/
def Mach.markerLine (m : Mach) (pl : Nat) (l : MshLine) : Mach :=
  let c := l.ctx
  let nch := m.nch c l.tag.port
  let assist := m.assistStream c
  let m := (List.range 4).foldl (fun m s =>
    if l.set.st F.strmCfg_EN s = 0 || m.on (stf F.strmStat_FAULT c s) then m
    else if assist = some s then m.assistEnd pl c l.set l.tag true
    else m.endBlock pl c s nch l.set (some l.tag) true) m
  let m := m.modCx c fun y => { y with stats := { y.stats with lastTag := l.tag } }
  m.cond (l.set.on (F.mshCxStatsCfg_EN 0 0)) (·.statsEnd c (m.get (F.grsFmt_WIDTH l.tag.port)) l.set)

/-- A queued slot passes into its stream; with its block's last slot the block ends (R95). -/
def Mach.slotLine (m : Mach) (pl c s : Nat) (a : AssistSlot) (written : Bool) : Mach :=
  let nch := m.nch c a.tag.port
  let m := m.streamLine pl c s nch a.set a.tag a.chans written
  match a.fin with
  | some k => m.endBlock pl c s nch a.set k written
  | none => m

/-- A queued slot on the DEVICE path is drained into its stream (R104, R106). -/
def Mach.drainAssist (m : Mach) (pl c : Nat) : Mach :=
  match (m.cx c).queue with
  | a :: t =>
    if a.host then m
    else
      let n := (m.cx c).queue.length
      let m := (m.modCx c fun y => { y with queue := t }).assistShow c n
      match m.assistStream c with
      | some s => m.slotLine pl c s a true
      | none => m
  | [] => m

/-- PIPELINE_LINE (R86): the oldest line of the buffer passes stages 4 to 8; with no line in the buffer the pipeline drains the
ingest queues of its contexts. -/
def pipelineLine (pl : Nat) (v : View) (m : Mach) : Mach × List Wr :=
  if m.get (F.mshCtl_STATE pl) = 0 then (m, [])
  else
    match (m.pipe pl).buf with
    | [] => ((((m.srcSlots pl).foldl (fun m s => m.drainAssist pl s.1) m)).pipeEnd pl, [])
    | l :: t =>
      let m := m.modPipe pl fun p => { p with buf := t }
      let c := l.ctx
      match l.kind with
      | .marker => ((m.markerLine pl l).pipeEnd pl, [])
      | .replacement =>
        let (m, ws) := (m.count (F.mshCnt_LINES pl)).afterStage7 v pl l (m.cx c).prev 0
        (m.pipeEnd pl, ws)
      | .line =>
        let (rows, sat) := stages (m.get (cxf F.mshCxCfg_PATTERN c)) (m.get (cxf F.mshCxCfg_CFA_PHASE c)) l.set l.chans
        let (m, ws) := (m.count (F.mshCnt_LINES pl)).afterStage7 v pl l rows sat
        (m.pipeEnd pl, ws)

/-- Signals of stream `s`: those of the ASSIST stream are held while a handed block before them is open (R106). -/
def Mach.streamSignals (m : Mach) (c s obj n port : Nat) : Mach :=
  let send (m : Mach) : Mach := (List.range n).foldl (fun m _ => m.synSignal (0x50 + port % 16) (m.cxOwner c) obj) m
  if m.assistStream c ≠ some s then send m else
  match (m.cx c).handed with
  | [] => send m
  | l => m.modCx c fun y => { y with heldSig := y.heldSig ++ List.replicate n (l.length, obj) }

/-- A stream write met a bus error (R99). The lines of the block then open get DROP from here on as those of later blocks do (log entry
131). -/
def Mach.streamFault (m : Mach) (c s : Nat) : Mach :=
  let inst := m.cxInst c
  let m := (m.emit 0x02 0x04 inst []).emit 0x02 0x14 inst [(5, (c : Int)), (2, (s : Int))]
  let m := (m.setb (stf F.strmStat_FAULT c s) true).modCx c fun y => { y with faulted := true }
  m.modPipe inst fun p => { p with out := p.out.filter fun o => !(o.ctx = c && o.strm = s) }

/-- STREAM_LINE_WRITTEN (R97, R98): the oldest output line and its tag become visible; then its signals are sent. -/
def streamLineWritten (pl : Nat) (v : View) (m : Mach) : Mach × List Wr :=
  match (m.pipe pl).out with
  | [] => (m, [])
  | o :: t =>
    let m := m.modPipe pl fun p => { p with out := t }
    let c := o.ctx
    if o.nslots = 0 then (m.streamSignals c o.strm o.obj o.signals o.tag.port, [])
    else
      let acc : Acc := { agent := 0x50 + o.tag.port % 16, job := some (m.cxOwner c) }
      match m.writeMem v acc o.addr o.data with
      | (some _, ws, m) => (m.streamFault c o.strm, ws)
      | (none, ws, m) =>
        match m.writeMem v acc o.tagAddr o.tag.bytes with
        | (some _, ws', m) => (m.streamFault c o.strm, ws ++ ws')
        | (none, ws', m) =>
          let m := m.count (stf F.strmStat_K c o.strm)
          let m := m.cond (o.ring = (m.cx c).active.ring o.strm) (·.set (stf F.strmStat_SLOT c o.strm) ((o.slot + 1) % o.nslots))
          (m.streamSignals c o.strm o.obj o.signals o.tag.port, ws ++ ws')

/-- STATS_RECORD_WRITTEN (R100): the oldest record is in memory, and STATS_WIDX increments. -/
def statsRecordWritten (c : Nat) (v : View) (m : Mach) : Mach × List Wr :=
  match (m.cx c).statQ with
  | [] => (m, [])
  | (bytes, base, nrec) :: t =>
    let m := m.modCx c fun y => { y with statQ := t }
    let widx := m.get (cxf F.mshCxCnt_STATS_WIDX c)
    let port := match m.cxBinding c with | some (_, p) => p | none => 0
    match m.writeMem v { agent := 0x50 + port, job := some (m.cxOwner c) } (base + widx % nrec * 0x8440) bytes with
    | (some _, ws, m) => (m.emit 0x02 0x04 (m.cxInst c) [], ws)
    | (none, ws, m) => (m.count (cxf F.mshCxCnt_STATS_WIDX c), ws)

/-- ASSIST_SLOT_COPY (R106): the oldest queued slot of a HOST-path block goes to the host ring by a PCIe write; its stream reserves the slots of
the block's output lines; the vector follows the block's last slot. With the link down the slot is discarded and counted. -/
def assistSlotCopy (c : Nat) (m : Mach) : Mach :=
  match (m.cx c).queue with
  | a :: t =>
    if !a.host then m
    else
      let n := (m.cx c).queue.length
      let m := (m.modCx c fun y => { y with queue := t }).assistShow c n
      if !m.on F.mgtPcieStat_UP || m.mgt.d3 then m.bump (cxf F.mshCxCnt_ASSIST_DROPPED c)
      else
        let nch := m.nch c a.tag.port
        let width := m.get (F.grsFmt_WIDTH a.tag.port)
        let slot := m.get (cxf F.mshCxAssistStat_HOST_WIDX c) % max 1 (m.get (cxf F.mshCxAssist_QLINES c))
        let dst := m.get (cxf F.mshCxHostBase_HOST_BASE c) + slot * slotBytes nch width
        let m := { m with pcieOut := some (dst, slotData nch width a.tag a.chans) }
        let m := m.count (cxf F.mshCxAssistStat_HOST_WIDX c)
        let m := m.cond a.first (·.modCx c fun y => { y with handed := y.handed ++ [0] })
        let m := match m.assistStream c with
          | some s => m.slotLine (m.cxInst c) c s a false
          | none => m
        m.cond (a.tag.last || a.fin.isSome) (·.msixRaise (m.get (cxf F.mshCxAssist_VEC c)))
  | [] => m

/-- Held signals whose handed blocks have all been returned are sent (R106). -/
def Mach.releaseSignals (m : Mach) (c : Nat) : Mach :=
  let go := (m.cx c).heldSig.filter fun s => s.1 ≤ 1
  let m := m.modCx c fun y => { y with heldSig := (y.heldSig.filter fun s => 1 < s.1).map fun s => (s.1 - 1, s.2) }
  go.foldl (fun m s => m.synSignal (0x50 + (m.cxInst c) % 16) (m.cxOwner c) s.2) m

/-- ASSIST_DONE (R106): the output lines of the oldest handed block are returned: they count for the stream's signals, and the
signals that waited for them are sent. -/
def assistDone (c : Nat) (val : Word) (m : Mach) : Mach :=
  match (m.cx c).handed with
  | [] => m
  | _ :: t =>
    let n := (val.extractLsb' 0 16).toNat
    match m.assistStream c with
    | none => m
    | some s =>
      let x := (m.cx c).active
      let sl := x.st F.strmCfg_SYNC_LINES s
      let since := ((m.cx c).stream s).sinceSync + n
      let sig := (if sl = 0 then 0 else since / sl) + (if n ≠ 0 ∧ (sl = 0 ∨ since % sl ≠ 0) then 1 else 0)
      let m := m.modCx c fun y =>
        { y with handed := t }.modStream s fun st => { st with sinceSync := if sl = 0 then 0 else since % sl }
      let obj := x.st F.strmCfg_SYNC_OBJ s
      let m := (List.range sig).foldl (fun m _ => m.synSignal (0x50 + (m.cxInst c) % 16) (m.cxOwner c) obj) m
      m.releaseSignals c

/-- PIPELINE_STOP (R108): a write of MSH_CTL.RUN = 0; the pipeline stops at the end of the current line. -/
def Mach.mshStop (m : Mach) (pl : Nat) : Mach :=
  if m.get (F.mshCtl_STATE pl) = 1 then
    if (m.pipe pl).buf.isEmpty then (m.set (F.mshCtl_STATE pl) 0).runsEnd fun r => r.blk = 0x02 && r.inst = pl else m.set (F.mshCtl_STATE pl) 2
  else m

def pipelineStop (pl : Nat) (m : Mach) : Mach := (m.setb (F.mshCtl_RUN pl) false).mshStop pl

/-! ## Start -/

/-- The offset of the first register that keeps pipeline `pl` from starting (R80, R85, R103, R104). Of two pipelines that `us` starts at
one tick with bindings that clash, the higher one is the later (log entry 133). -/
def Mach.mshInvalid (m : Mach) (us : List (Nat × Nat)) (pl : Nat) : Option Nat :=
  let slots := m.srcSlots pl
  let other (f : Nat × Nat → Bool) : Bool :=
    (List.range 16).any fun q => q ≠ pl && (m.get (F.mshCtl_STATE q) ≠ 0 || (decide (q < pl) && us.contains (0x02, q))) && (m.srcSlots q).any f
  let badSrc := slots.any fun s =>
    (s.2 / 8 ≠ pl / 8) || (slots.countP fun t => t.2 = s.2) > 1 || (slots.countP fun t => t.1 = s.1) > 1
      || other (fun t => t.1 = s.1 || t.2 = s.2)
  if badSrc then some (R.mshSrc pl)
  else
    slots.findSome? fun s =>
      let c := s.1
      let pat := m.get (cxf F.mshCxCfg_PATTERN c)
      let assist := (List.range 4).filter fun k => m.on (stf F.strmCfg_ASSIST c k)
      let hi := m.get (cxf F.mshCxAssist_HI c)
      if pat = 3 || ((pat = 2) != (m.get (F.grsCorCtl_MERGE s.2) = 2)) then some (cxBase c)
      else if !assist.isEmpty && (assist.length > 1 || m.jobClass (m.cxOwner c) ≠ 2) then
        some (R.strmCfg (c % 16) (c / 16) (assist.getLastD 0))
      else if (hi ≤ m.get (cxf F.mshCxAssist_LO c) || m.get (cxf F.mshCxAssist_QLINES c) < hi) then
        some (R.mshCxAssist (c % 16) (c / 16))
      else none

/-- Pipeline `pl` starts at its tick (R99, R108): its contexts' streams begin at slot 0 with K 0 and no fault. -/
def Mach.mshStart (m : Mach) (pl : Nat) : Mach :=
  let m := (m.srcSlots pl).foldl (fun m s =>
    let c := s.1
    let m := (List.range 4).foldl (fun m k => m.wr (R.strmStat (c % 16) (c / 16) k) 0) m
    let m := m.modCx c fun y =>
      { y with strm := [], drops := [], faulted := false, prev := [], stats := {}, statQ := [], queue := [], qIdx := 0, qBlock := none,
               handed := [], heldSig := [] }
    m.assistShow c 0) m
  ((m.modPipe pl fun _ => {}).set (F.mshCtl_STATE pl) 1).set (F.mshCtl_IN_LEVEL pl) 0

end Sys2Proof.Machine
end

