-- ==== Sys2Proof/Machine/Track.lean ====
section
/-!
DEFINITION. The commands of the encoder axes (R229 to R239, R257, R259, R261): edges, reference marks, STILL, faults and stops,
and how an edge record reaches the compare unit, the record ring and a follower.
-/

namespace Sys2Proof.Machine

/-- Two records are of one edge (R319): the same kind, with stamps within 100 ns. -/
def sameEdge (r o : EdgeRec) : Bool := decide (o.kind = r.kind) && decide ((o.reel - r.reel).natAbs ≤ 100)

/-- A record of the axis's own decode goes on (R238, R259, R319, R353): to CMP and the record ring, or, on a follower, only into
the list against which forwarded records are matched; in REPLAY nowhere. -/
def Mach.ownRec (m : Mach) (r : EdgeRec) : Mach :=
  if m.follower then m.modPos r.axis fun x =>
    match x.fwdEdges.find? fun o => sameEdge r o with
    | some o => { x with diff := some (wrapI 48 (o.count - r.count)), fwdEdges := x.fwdEdges.erase o }
    | none => { x with ownEdges := (r :: x.ownEdges).take 64 }
  else if m.replaying then m
  else (m.record ⟨0x03, 0x3F, r.axis, false, r.reel, edgeBytes r⟩).recompute r.axis

/-- A forwarded or replayed record drives the axis's track, CMP and the record ring (R259, R319, R353). -/
def Mach.toldRec (m : Mach) (r : EdgeRec) : Mach :=
  let m := m.modPos r.axis fun x => { x with fwd := m.trackRec x.fwd r }
  (m.record ⟨0x03, 0x3F, r.axis, false, r.reel, edgeBytes r⟩).recompute r.axis

/-- POS goes to FAULT (R257): its position freezes, STILL sets, the event is raised, and the CMP axis faults. -/
def Mach.posFault (m : Mach) (a loc : Nat) (args : List (Nat × Int)) : Mach :=
  let m := (m.set (F.posStat_STATE a) 2).modPos a fun x => { x with own := { x.own with still := true } }
  ((m.posShow a).emit 0x0F loc a args).axisFault a

/-- What a decoded edge leads to: its records, MOVING when STILL cleared (R239), an overspeed fault. -/
def Mach.afterEdge (m : Mach) (a : Nat) (wasStill : Bool) (rs : List EdgeRec) : Mach :=
  let k := (m.posAx a).own
  let m := m.cond (wasStill && !k.still) (·.emit 0x0F 0x16 a [(3, (a : Int))])
  let m := rs.foldl (fun m r => m.ownRec r) m
  if rs.any (fun r => countedKind r.kind) && k.overspeed then
    m.posFault a 0x14 [(3, (a : Int)), (48, (k.period : Int))]
  else m

/-- ENCODER_EDGE (R228 to R235, R239): the raw level of A, of B or of both has changed `back` ns ago and held since. FILT_N
samples of it make it the filtered level; a level that has held for fewer is not accepted. -/
def encoderEdge (a : Nat) (chgA chgB : Bool) (back : Nat) (m : Mach) : Mach :=
  let x := m.posAx a
  let new := (x.a != chgA, x.b != chgB)
  let t := m.edgeStamp back
  if !m.filtered (m.get (F.posCfg_FILT_N a)) back then m
  else
  let m := m.modPos a fun x => { x with a := new.1, b := new.2 }
  if !m.posRuns a then m
  else if m.get (F.posCfg_MODE a) = 0 then
    if chgA || chgB then
      let (m, rs) := m.quadEdge a (x.a, x.b) new chgA chgB t
      m.afterEdge a x.own.still rs
    else m
  else if chgA && new.1 then
    let (m, rs) := m.toothEdge a (m.on (F.posCfg_DIR_SRC a) && new.2) t
    m.afterEdge a x.own.still rs
  else m

/-- Z_EDGE (R228, R236): Z rose `back` ns ago and has held since; the filter takes it as an edge of A or B. -/
def zEdge (a back : Nat) (m : Mach) : Mach :=
  if m.posRuns a ∧ m.get (F.posCfg_MODE a) = 0 ∧ m.filtered (m.get (F.posCfg_FILT_N a)) back then
    let (m, rs) := m.zUse a (m.edgeStamp back)
    rs.foldl (fun m r => m.ownRec r) m
  else m

/-- LINE_FAULT (R227, R257): the RS-422 lines below 100 mV for 1 µs, as bits A 1, B 2, Z 4; only lines the mode uses count. While
the axis is in FAULT by a line, LINES goes on showing those faulted now (R261). -/
def lineFault (a lines : Nat) (m : Mach) : Mach :=
  let used := lines &&& m.posUsed a
  if m.posRuns a ∧ !m.on (F.posCfg_IN a) ∧ used ≠ 0 then
    let n := (List.range 3).countP (used.testBit ·)
    let m := ((m.set (F.posStat_LINES a) used).setb (F.posStat_LFAULT a) true).bump (F.posCnt_LFAULTS a) n
    m.posFault a 0x13 [(3, (a : Int)), (3, (used : Int))]
  else if m.get (F.posStat_STATE a) = 2 ∧ m.get (F.posStat_LINES a) ≠ 0 then m.set (F.posStat_LINES a) used
  else m

/-- STILL (R239): no counted edge for STILL_US; a STILL notice is written (R238). -/
def stillSets (a : Nat) (m : Mach) : Mach :=
  let k := (m.posAx a).own
  if m.posRuns a ∧ !k.still ∧ k.te + (max 1 (m.get (F.posCfg_STILL_US a)) : Int) * 1000 ≤ m.reel then
    let m := (m.modPos a fun x => { x with own := k.stop }).posShow a
    let m := m.cond (m.get (F.posCfg_MODE a) = 1) (·.toothRestart a)
    (m.emit 0x0F 0x15 a [(3, (a : Int))]).ownRec
      { reel := m.reel, count := k.p, axis := a, kind := 7, back := k.back, corr := false, step := 0 }
  else m

/-- POS_STOP (R261): a write of POS_CTL.RUN = 0 stops the decoder at once. -/
def posStop (a : Nat) (m : Mach) : Mach :=
  ((m.setb (F.posCtl_RUN a) false).set (F.posStat_STATE a) 0).set (F.posStat_LINES a) 0

/-- FORWARDED_EDGE (R259, R319): a record of the lead drives the follower's axis and is matched to the follower's own decode of
the same edge, whichever of the two comes first; the difference of counts is held. -/
def forwardedEdge (r : EdgeRec) (m : Mach) : Mach :=
  if m.follower then
    let m := m.modPos r.axis fun x =>
      match x.ownEdges.find? fun o => sameEdge r o with
      | some o => { x with diff := some (wrapI 48 (r.count - o.count)), ownEdges := x.ownEdges.erase o }
      | none => { x with fwdEdges := (r :: x.fwdEdges).take 64 }
    m.toldRec r
  else m

end Sys2Proof.Machine
end

