-- ==== Sys2Proof/Machine/Grs.lean ====
section
/-!
DEFINITION. The camera ports (02_camera_ports.md, R36 to R70; R71 to R79): training, lines and their tags, blocks, triggers,
concealment, clock loss and stop, the UART, and the stages that run in Grist.
-/

namespace Sys2Proof.Machine

def Mach.grsPort (m : Mach) (p : Nat) : GrsPort := spGet (fun _ => {}) m.grs p
def Mach.modGrs (m : Mach) (p : Nat) (f : GrsPort → GrsPort) : Mach :=
  { m with grs := spPut (fun _ => {}) m.grs p (f (m.grsPort p)) }

/-- Own lines of a follower or in REPLAY are discarded without being counted (R319, R353). -/
def Mach.linesTold (m : Mach) : Bool := m.follower || m.replaying

/-- The argument every event of a port begins with (R69). -/
def portArg (p : Nat) : Nat × Int := (4, (p : Int))

/-- Pixel depth in bits (R41, R70). -/
def depthBits (d : Nat) : Nat := if d = 0 then 8 else if d = 1 then 10 else 12

/-! ## Checks of a line (R60) -/

/-- Segments of a line of `w` pixels (R44). -/
def segments (w : Nat) : Nat := (w + 1023) / 1024

/-- Parity of segment `k` (R44). -/
def parity (pix : List Nat) (k : Nat) : Nat := ((pix.drop (1024 * k)).take 1024).foldl (· ^^^ ·) 0

/-- The stream of the DV-high beats as one number, the first beat lowest (R40, R41). -/
def beatStream : List (Nat × Nat) → Nat
  | [] => 0
  | (r, f) :: t => r % 4096 + f % 4096 * 4096 + beatStream t * 2 ^ 24

/-- `n` pixels of `d` bits, LSB first (R41). -/
def pixelsOf (d : Nat) : Nat → Nat → List Nat
  | 0, _ => []
  | n + 1, x => x % 2 ^ d :: pixelsOf d n (x / 2 ^ d)

/-- The pixels that a line carried (R41): as many whole pixels as its DV-high periods hold, without the fill of the last period of a
line of `w` pixels. -/
def linePixels (w d : Nat) (l : LineIn) : List Nat :=
  let n := l.dv.length
  pixelsOf d (if n = (w * d + 23) / 24 then w else n * 24 / d) (beatStream l.dv)

/-- The segments whose trailer parity differs from the received pixels, as a bit mask (R60). -/
def badSegs (w d : Nat) (l : LineIn) : Nat :=
  let pix := (linePixels w d l).take w
  (List.range (segments w)).foldl (fun a k =>
    match l.trailer[k]? with
    | some t => if t.1 = parity pix k then a else a + 2 ^ k
    | none => a) 0

/-- A trailer period is missing, a segment index is wrong, or the end beat is wrong (R60 kind 0x3). -/
def trailerBad (w : Nat) (l : LineIn) : Bool :=
  let n := segments w
  (List.range n).any (fun k => match l.trailer[k]? with | some t => t.2 ≠ k | none => true)
    || (match l.trailer[n]? with | some t => t.2 < 0xFF0 || 0xFF3 < t.2 | none => true)

/-- The exposure index of the trailer's last period (R44). -/
def endExp (w : Nat) (l : LineIn) : Nat := match l.trailer[segments w]? with | some t => t.2 - 0xFF0 | none => 0

/-- The camera's line counter, if the trailer's last period was received (R44). -/
def camCnt (w : Nat) (l : LineIn) : Option Nat := l.trailer[segments w]?.map fun t => t.1 % 4096

/-- The kind of a corrupt line, lowest code first, with its pixel position and failing segments (R60, R65); kind 0 for a good
line. -/
def corruption (w d slot : Nat) (lost : Bool) (l : LineIn) : Nat × Nat × Nat :=
  let n := (linePixels w d l).length
  let got := min n w
  let segs := badSegs w d l
  if lost then (5, got, 0)
  else if segs ≠ 0 then (1, 1024 * ((List.range 16).find? fun k => segs.testBit k).getD 0, segs)
  else if n ≠ w then (2, got, 0)
  else if trailerBad w l then (3, 0, 0)
  else if l.short then (4, got, 0)
  else if endExp w l ≠ slot then (6, 0, 0)
  else if l.strayDv then (7, 0, 0)
  else (0, 0, 0)

/-! ## Stages 1 to 3 (R73 to R78) -/

/-- Linearisation entry `k` = exposure * 4096 + index at reset (R73). -/
def linReset (k : Nat) : Nat := k % 4096 * 16

/-- Flat-field entry at reset: GAIN 0x4000, OFFSET 0 (R78). -/
def ffReset : Nat → Nat := fun _ => 0x40000000

/-- Exposure merge of one column's linear values (R75, R76): its channels, and whether each counts for CLIP_RAW (R102). -/
def mergeCol (merge clip : Nat) (ks : List Nat) (maxRaw : Nat) (lin raw : List Nat) : List (Nat × Bool) :=
  let n := lin.length
  if merge = 2 then (List.range n).map fun i => (at' lin i, at' raw i = maxRaw)
  else if merge = 1 then
    let i := ((List.range n).find? fun i => at' lin i < clip).getD (n - 1)
    [((clamp20 ((at' lin i * at' ks i + 1024) / 2048 : Nat)).1, at' raw i = maxRaw)]
  else [((lin.foldl (· + ·) 0 + n / 2) / n, raw.any (· = maxRaw))]

/-- Flat field of one sample (R78). -/
def flatField (entry v : Nat) : Nat × Bool := clamp20 (((v - entry % 2 ^ 16) * (entry / 2 ^ 16) + 8192) / 16384 : Nat)

/-- Stages 1 to 3 of a line of port `p`: its channels, CLIP_RAW samples and flat-field clamps. -/
def Mach.correct (m : Mach) (p : Nat) (exps : List (List Nat)) : List (List Nat) × Nat × Nat :=
  let g := m.grsPort p
  let w := m.get (F.grsFmt_WIDTH p)
  let d := depthBits (m.get (F.grsFmt_DEPTH p))
  let merge := m.get (F.grsCorCtl_MERGE p)
  let ks := [m.get (F.grsHdrK_K0 p), m.get (F.grsHdrK_K1 p), m.get (F.grsHdrK_K2 p), m.get (F.grsHdrK_K3 p)]
  let ne := exps.length
  let col (x : Nat) : List (Nat × Bool) :=
    let raw := exps.map (at' · x)
    let lin := (List.range ne).map fun e => spGet linReset g.lin (e % 4 * 4096 + at' raw e * 2 ^ (12 - d))
    mergeCol merge (m.get (F.grsCorCtl_HDR_CLIP p)) ks (2 ^ d - 1) lin raw
  let cols := (List.range w).map col
  let nc := if merge = 2 then ne else 1
  let clip := cols.foldl (fun a c => a + c.countP (·.2)) 0
  let chan (c x : Nat) : Nat × Bool :=
    let v := ((cols.getD x []).getD c (0, false)).1
    if m.on (F.grsCorCtl_FF_EN p) then flatField (spGet ffReset g.ff (c * w + x)) v else (v, false)
  let (chans, sat) := mapChans chan nc w
  (chans, clip, sat)

/-! ## Release to Mash -/

/-- Bits packed LSB first into bytes (R41). -/
def packPixels (d : Nat) (pix : List Nat) : List Byte :=
  let n := pix.foldr (fun v a => v % 2 ^ d + 2 ^ d * a) 0
  leBytes ((pix.length * d + 7) / 8) n

/-- Trailer values of an exposure line (R44). -/
def trailerBytes (w : Nat) (pix : List Nat) (camcnt e : Nat) : List Byte :=
  ((List.range (segments w)).flatMap fun k => leBytes 2 (parity pix k) ++ leBytes 2 k) ++ leBytes 2 camcnt ++ leBytes 2 (0xFF0 + e)

/-- The LINE records of a released line (R342, R346), one an exposure line; `nth` counts lines since the port's start. -/
def Mach.recordLine (m : Mach) (p : Nat) (t : Tag) (exps : List (List Nat)) (nth : Nat) : Mach :=
  let mode := m.get (F.trcRecPort_MODE p)
  let dec := max 1 (m.get (F.trcRecPort_DEC p))
  let x0 := m.get (F.trcRecPort_X0 p)
  let xw := m.get (F.trcRecPort_XW p)
  let keep : Bool := match mode with
    | 0 => false
    | 1 => true
    | 2 => t.inblock
    | _ => nth % dec = 0
  if !keep then m
  else
    let d := depthBits (m.get (F.grsFmt_DEPTH p))
    let job := (m.portJobs p).headD 0x3F
    let head := if mode = 1 then [] else leBytes 2 x0 ++ leBytes 2 xw ++ leBytes 4 dec
    (List.range (max 1 exps.length)).foldl (fun m e =>
      let pix := exps.getD e []
      let pix := if mode = 2 then (pix.drop x0).take xw else pix
      let tb := t.bytes.take 24 ++ leBytes 8 (((t.words.getD 3 0).toNat) + 8 * e)
      m.record ⟨0x02, job, p, false, t.reel,
        tb ++ head ++ packPixels d pix ++ (if exps.isEmpty then [] else trailerBytes (m.get (F.grsFmt_WIDTH p)) pix t.camcnt e)⟩) m

/-- A line leaves Grist (R79): recorded, corrected, and handed to the pipeline its port is bound to; without exposures it is an
end-of-block marker (R66). -/
def Mach.lineOut (m : Mach) (p : Nat) (t : Tag) (exps : List (List Nat)) (set : CxSet) : Mach :=
  let m := m.recordLine p t exps (m.grsPort p).lines
  let m := m.tellFollower 5 0x02 [p] (t.bytes ++ exps.flatMap fun pix => packPixels (depthBits (m.get (F.grsFmt_DEPTH p))) pix
    ++ trailerBytes (m.get (F.grsFmt_WIDTH p)) pix t.camcnt 0)
  let (chans, clipRaw, sat) := if exps.isEmpty then ([], 0, 0) else m.correct p exps
  (List.range 16).foldl (fun m pl =>
    ((m.srcSlots pl).filter (·.2 = p)).foldl (fun m s =>
      m.mshArrive pl { ctx := s.1, kind := if exps.isEmpty then .marker else .line, tag := t, set, chans, clipRaw, sat }) m) m

/-! ## Concealment (R61 to R63) -/

/-- Pixels replaced: the failing segments, or the whole line. -/
def mask (x : Expo) (repl : Nat → Nat) (w : Nat) : List Nat :=
  (List.range w).map fun i => if x.whole || x.segs.testBit (i / 1024) then repl i else at' x.pix i

def Expo.good (x : Expo) : Bool := !x.whole && x.segs = 0

/-- A good line before may serve a line (R61): inside a block only a line of the same block. -/
def GoodLine.serves (g : GoodLine) (t : Tag) : Bool := !t.inblock || (g.inblock && g.block = t.block)

/-- A line of the same scope as tag `t` (R61). -/
def sameScope (t u : Tag) : Bool := !t.inblock || (u.inblock && u.block = t.block)

/-- The nearest good line after, for exposure `e` of tag `t`, among the lines that have arrived (R61). -/
def goodAfter (t : Tag) (e : Nat) (rest : List WLine) : Option (List Nat) :=
  rest.findSome? fun l =>
    if sameScope t l.tag then match l.exps[e]? with | some x => if x.good then some x.pix else none | none => none else none

/-- No good line can follow any more (R61): the line is the last of its block, or a line of another scope or the block's last
line has arrived, or the block is closed. -/
def noneFollows (t : Tag) (openBlock : Option Nat) (rest : List WLine) : Bool :=
  t.inblock && (t.last || openBlock ≠ some t.block || rest.any fun l => !sameScope t l.tag || l.tag.last)

/-- The concealed pixels of exposure `e` of the oldest waiting line, or none while it must wait (R61, R62). Over R63's limit they are
those of the last good line of the block, 0 where it has none (log entry 121). -/
def conceal (w : Nat) (good : List (Nat × GoodLine)) (l : WLine) (e : Nat) (x : Expo) (openBlock : Option Nat) (rest : List WLine)
    (late : Bool) : Option (List Nat) :=
  let before := ((good.find? fun g => g.1 = e && g.2.serves l.tag).map (·.2.pix))
  if x.good then some x.pix
  else if l.prevOnly then some ((List.range w).map (at' (before.getD [])))
  else
    let after := goodAfter l.tag e rest
    match before, after with
    | some a, some b => some (mask x (fun i => (at' a i + at' b i + 1) / 2) w)
    | some a, none => if late || noneFollows l.tag openBlock rest then some (mask x (at' a) w) else none
    | none, some b => some (mask x (at' b) w)
    | none, none => if late || noneFollows l.tag openBlock rest then some (mask x (fun _ => 0) w) else none

/-- All exposures of the oldest waiting line, or none while one must wait. -/
def concealAll (w : Nat) (good : List (Nat × GoodLine)) (l : WLine) (openBlock : Option Nat) (rest : List WLine) (late : Bool) :
    Option (List (List Nat)) :=
  (List.range l.exps.length).foldr (fun e acc =>
    match acc, l.exps[e]? with
    | some t, some x => (conceal w good l e x openBlock rest late).map (· :: t)
    | _, _ => none) (some [])

/-- The good exposures of a line that leaves become the lines before (R61). -/
def keepGood (good : List (Nat × GoodLine)) (l : WLine) : List (Nat × GoodLine) :=
  (List.range l.exps.length).foldl (fun g e =>
    match l.exps[e]? with
    | some x => if x.good then (e, ⟨l.tag.inblock, l.tag.block, x.pix⟩) :: g.filter (·.1 ≠ e) else g
    | none => g) good

/-- The block open at port `p`. -/
def Mach.openBlock (m : Mach) (p : Nat) : Option Nat :=
  if m.on (F.grsStatus_INBLOCK p) then some (m.get (F.grsStatus_BLOCK p)) else none

/-- Waiting lines leave in arrival order, as far as they can (R62). -/
def releaseLines (p : Nat) (late : Bool) : List WLine → Mach → Mach
  | [], m => m.modGrs p fun g => { g with waiting := [] }
  | l :: rest, m =>
    let g := m.grsPort p
    match concealAll (m.get (F.grsFmt_WIDTH p)) g.good l (m.openBlock p) rest late with
    | none => m.modGrs p fun g => { g with waiting := l :: rest }
    | some exps =>
      let m := m.modGrs p fun g => { g with good := keepGood g.good l }
      releaseLines p false rest (m.lineOut p l.tag exps l.set)

def Mach.grsRelease (m : Mach) (p : Nat) (late : Bool) : Mach := releaseLines p late (m.grsPort p).waiting m

/-- A tagged line, or a marker without exposures, joins the lines to be released. -/
def Mach.grsPush (m : Mach) (p : Nat) (l : WLine) : Mach :=
  (m.modGrs p fun g => { g with waiting := g.waiting ++ [l] }).grsRelease p false

/-- CONCEAL_TIMEOUT (R61): the oldest line has waited 100 µs for a good line and copies the line before. -/
def concealTimeout (p : Nat) (m : Mach) : Mach :=
  match (m.grsPort p).waiting with
  | l :: _ => if l.since + 100000 ≤ m.now then m.grsRelease p true else m
  | [] => m

/-! ## Blocks (R46 to R51) -/

/-- A block closes (R46, R209, R242): its slot opens on the CMP axis of its port, and the monitor opens it for a class-0 job. -/
def Mach.blockClosed (m : Mach) (p : Nat) (first last : Tag) (ref : Int) : Mach :=
  let a := m.get (F.cmpPort_AXIS p)
  let bound := m.on (F.cmpPort_EN p) && m.get (F.cmpCtl_STATE a) = 1
  let (tag, m) := if bound then m.openSlot a p last.block (m.get (F.cmpPort_JOB p)) first.pos last.pos else (0, m)
  match m.portJob0 p with
  | some j =>
    let dropped := (m.portCtx p).any fun c => (m.cx c).drops.contains last.block || (m.cx c).faulted
    m.monOpen j p last.block tag a ref (last.drop || last.trunc || dropped)
  | none => m

/-- A block opens at a line's LV rise (R46, R49, R51), a block start edge of its context (R88, R105). -/
def Mach.blockOpen (m : Mach) (p clkSinceC : Nat) : Mach :=
  let m := ((m.count (F.grsStatus_BLOCK p)).setb (F.grsStatus_INBLOCK p) true).set (F.grsStatus_LINE p) 0
  let m := m.modGrs p fun g => { g with run := 0, drop := false }
  (m.portCtx p).foldl (fun m c => (m.blockStart c (m.get (F.grsStatus_BLOCK p)) clkSinceC).assistPath c (m.get (F.grsStatus_BLOCK p))) m

/-- The open block closes with `last` as its last line (R46, R48, R50). -/
def Mach.blockClose (m : Mach) (p : Nat) (last : Tag) : Mach :=
  let m := (m.setb (F.grsStatus_INBLOCK p) false).set (F.grsStatus_LINE p) 0
  let m := m.cond last.trunc (·.bump (F.grsCntErr_TRUNCATED p))
  let g := m.grsPort p
  (m.modGrs p fun g => { g with run := 0, drop := false }).blockClosed p g.firstTag last g.ref

/-- The open block closes at its last tagged line through an end-of-block marker (R66, R67, R326). Mash learns of a block closed
late (R48) by such a marker too, without TRUNC (log entry 122). After a truncation BV must be seen low first (R50). -/
def Mach.closeMarker (m : Mach) (p : Nat) (trunc : Bool) : Mach :=
  if m.on (F.grsStatus_INBLOCK p) && 0 < m.get (F.grsStatus_LINE p) then
    let g := m.grsPort p
    let t := { g.lastTag with last := true, trunc := trunc || g.lastTag.trunc, drop := g.drop || g.lastTag.drop }
    let set := m.lineSet p
    let m := m.cond (trunc && !m.on (F.grsFmt_BVSRC p)) (·.modGrs p fun g => { g with needLow := true })
    (m.blockClose p t).grsPush p { tag := t, exps := [], prevOnly := false, since := m.now, set }
  else m.setb (F.grsStatus_INBLOCK p) false

/-! ## Triggers (R52 to R58) -/

/-- The axis of port `p` runs and gives positions (R58). -/
def Mach.tagAxis (m : Mach) (p : Nat) : Bool := m.on (F.grsTrg_AXIS_VALID p) && m.posRuns (m.get (F.grsTrg_AXIS p))

/-- The interpolated position for a tag at Reel instant `t`, in 1/256 count; 0 without a position (R58). -/
def Mach.tagPos (m : Mach) (p : Nat) (t : Int) : Int :=
  if m.tagAxis p then round256 ((m.trk (m.get (F.grsTrg_AXIS p))).at t) else 0

/-- TRG's high time in ns (R56, R506). -/
def Mach.trgWidth (m : Mach) (p : Nat) : Nat := max 8 (m.get (F.grsTrg_WIDTH_NS p))

/-- The CAMCNT that the port expects next (R69). -/
def GrsPort.expected (g : GrsPort) : Nat := match g.camLast with | some c => (c + 1) % 4096 | none => 0

/-- A trigger that falls due now (R55 to R57), for a line tagged with `pos`. A follower's or a replaying port's drives nothing and
tags nothing (R319, R353). -/
def Mach.trgDue (m : Mach) (p : Nat) (pos : Int) : Mach :=
  let g := m.grsPort p
  let gap : Int := max (m.get (F.grsTrgMin_MIN_NS p)) (m.trgWidth p + 8)
  let early := match g.lastTrig with | some l => decide (m.reel - l < gap) | none => false
  if early then
    if m.linesTold then m
    else (m.bump (F.grsCntTrg_TRG_OVERRUN p)).runHit true 0x01 0x18 p 0 [portArg p]
  else
    let m := (m.runEnd 0x01 0x18 p 0).modGrs p fun g => { g with lastTrig := some m.reel }
    if m.linesTold then m
    else
      let m := m.modGrs p fun g => { g with trgUntil := some (m.now + m.trgWidth p) }
      let full := g.trigQ.length > m.get (F.grsTrg_DEPTH p)
      let m := m.cond full fun m =>
        ((m.bump (F.grsCntTrg_LINE_MISSING p)).emit 0x01 0x19 p [portArg p, (12, (g.expected : Int)), (32, 2)]).modGrs p
          fun g => { g with trigQ := g.trigQ.tail }
      let ok := m.tagAxis p
      m.modGrs p fun g => { g with trigQ := g.trigQ ++ [(if ok then pos else 0, m.reel, ok)] }

/-- TRIGGER_FIRE (R10, R53, R54): the axis's position has reached T moving forward; T advances by PERIOD. -/
def triggerFire (p : Nat) (m : Mach) : Mach :=
  let a := m.get (F.grsTrg_AXIS p)
  let k := m.trk a
  let t := (m.grsPort p).target
  if m.get (F.grsStatus_STATE p) ≠ 0 ∧ m.get (F.grsTrg_SRC p) = 1 ∧ m.posRuns a ∧ !k.still ∧ !k.back ∧ 0 ≤ wrapI 64 (m.interp a - t) then
    (m.modGrs p fun g => { g with target := wrapI 64 (t + max 1 (m.get (F.grsTrgPeriod_PERIOD p))) }).trgDue p (round256 t)
  else m

/-- TIMER_TRIGGER (R52, R55): the timer falls due every TIMER_NS. -/
def timerTrigger (p : Nat) (m : Mach) : Mach :=
  let due := (m.grsPort p).timerDue
  if m.get (F.grsStatus_STATE p) ≠ 0 ∧ m.get (F.grsTrg_SRC p) = 2 ∧ due ≤ m.reel then
    (m.modGrs p fun g => { g with timerDue := due + max 100 (m.get (F.grsTrgPeriod_TIMER_NS p)) }).trgDue p
      (round256 (m.interp (m.get (F.grsTrg_AXIS p))))
  else m

/-- TRG_PULSE_END (R56): TRG falls after WIDTH_NS. -/
def trgPulseEnd (p : Nat) (m : Mach) : Mach :=
  match (m.grsPort p).trgUntil with
  | some t => if t ≤ m.now then m.modGrs p fun g => { g with trgUntil := none } else m
  | none => m

/-- The divider's target moves on, without firing, to the first one beyond the position (R10, R53, R326). -/
def Mach.trgSkip (m : Mach) (p : Nat) : Mach :=
  let a := m.get (F.grsTrg_AXIS p)
  let t := (m.grsPort p).target
  let per : Int := max 1 (m.get (F.grsTrgPeriod_PERIOD p))
  let past := wrapI 64 (m.interp a - t)
  if m.posRuns a ∧ 0 ≤ past then
    m.modGrs p fun g => { g with target := wrapI 64 (t + (past.fdiv per + 1) * per) }
  else m

/-! ## Lines (R43 to R51, R57 to R66) -/

/-- The tag of a line at its LV rise (R57, R58): from the oldest trigger, else from the LV rise itself. -/
def Mach.tagAtRise (m : Mach) (p : Nat) : Tag × Mach :=
  let base : Tag := { port := p, nexp := m.get (F.grsFmt_NEXP p), axis := m.get (F.grsTrg_AXIS p) }
  match (m.grsPort p).trigQ with
  | (pos, reel, ok) :: t => ({ base with pos, reel, axisValid := ok }, m.modGrs p fun g => { g with trigQ := t })
  | [] =>
    let tag := { base with pos := m.tagPos p m.reel, reel := m.reel, axisValid := m.tagAxis p }
    if m.get (F.grsTrg_SRC p) = 0 then (tag, m)
    else
      ({ tag with untriggered := true },
        (m.bump (F.grsCntTrg_UNTRIGGERED p)).emit 0x01 0x1A p [portArg p, (32, m.reel)])

/-- The LV rise of a tagged line (R45 to R49): blocks close late and open, and the line gets its tag. -/
def Mach.lineRise (m : Mach) (p : Nat) (l : LineIn) : Mach :=
  let m :=
    if m.on (F.grsFmt_BVSRC p) then
      m.cond (!m.on (F.grsStatus_INBLOCK p) && (m.grsPort p).lines % max 1 (m.get (F.grsFmt_CELL_LINES p)) = 0)
        (·.blockOpen p l.clkSinceC)
    else
      let m := m.cond (!l.bvRise) (·.modGrs p fun g => { g with needLow := false })
      let m := m.cond (m.on (F.grsStatus_INBLOCK p) && !l.bvRise) fun m =>
        ((m.bump (F.grsCntTrg_BV_LATE p)).emit 0x01 0x17 p [portArg p, (32, (m.get (F.grsStatus_BLOCK p) : Int))]).closeMarker p
          false
      m.cond (!m.on (F.grsStatus_INBLOCK p) && l.bvRise && !(m.grsPort p).needLow) (·.blockOpen p l.clkSinceC)
  let (t, m) := m.tagAtRise p
  let inb := m.on (F.grsStatus_INBLOCK p)
  let n := m.get (F.grsStatus_LINE p)
  let t := { t with inblock := inb, first := inb && n = 0, block := m.get (F.grsStatus_BLOCK p), line := if inb then n else 0xFFFF }
  m.modGrs p fun g => { g with cur := some (t, []), curCorrupt := false, curCam := false, lines := g.lines + 1 }

/-- DROP sets for the rest of the block (R63, R64): the window is counted and raised. -/
def Mach.setDrop (m : Mach) (p loc : Nat) : Mach :=
  ((m.modGrs p fun g => { g with drop := true }).bump (F.grsCntErr_WINDOWS_DROPPED p)).emit 0x01 loc p
    [portArg p, (32, (m.get (F.grsStatus_BLOCK p) : Int))]

/-- A corrupt exposure line is counted and reported (R65); in COMPAT mode the block's first one drops the window (R64). -/
def Mach.reportCorrupt (m : Mach) (p : Nat) (t : Tag) (kind pixel segs exp : Nat) : Mach :=
  let m := (m.bump (F.grsCntErr_CONCEALED p)).modGrs p fun g => { g with curCorrupt := true }
  let m := (((m.set (F.grsConceal_BLOCK p) t.block).set (F.grsConceal_LINE p) t.line).set (F.grsConceal_EXP p) exp).set
    (F.grsConceal_KIND p) kind
  let m := (m.set (F.grsConcealPos_SEGMASK p) segs).set (F.grsConcealPos_PIXEL p) pixel
  let m := m.emit 0x01 0x13 p
    [portArg p, (3, (kind : Int)), (32, (t.block : Int)), (16, (t.line : Int)), (15, (pixel : Int))]
  m.cond (t.inblock && m.on (F.grsCtl_COMPAT p) && !(m.grsPort p).drop) (·.setDrop p 0x15)

/-- A gap in CAMCNT is counted and raised (R60). -/
def Mach.checkCam (m : Mach) (p cam : Nat) : Mach :=
  let g := m.grsPort p
  let gap := (cam + 4096 - g.expected) % 4096
  let m := m.modGrs p fun g => { g with camLast := some cam }
  if g.camLast.isSome ∧ gap ≠ 0 then
    (m.bump (F.grsCntTrg_LINE_MISSING p)).emit 0x01 0x19 p [portArg p, (12, (g.expected : Int)), (32, 1)]
  else m

/-- An exposure line of the set in progress is received, or cut by clock loss (R60, R65). The tag's CAMCNT is the first one that the
set's trailers bring. A set in progress stays open while the port trains again (log entry 123); a line that fails parity and meets
another kind keeps its other segments (log entry 124). -/
def Mach.exposure (m : Mach) (p : Nat) (lost : Bool) (l : LineIn) : Mach :=
  match (m.grsPort p).cur with
  | none => m
  | some (t, exps) =>
    let w := m.get (F.grsFmt_WIDTH p)
    let slot := exps.length
    let d := depthBits (m.get (F.grsFmt_DEPTH p))
    let (kind, pixel, segs) := corruption w d slot lost l
    let m := m.cond (kind ≠ 0) (·.reportCorrupt p t kind pixel segs slot)
    let cam := if lost then none else camCnt w l
    let seen := (m.grsPort p).curCam
    let (c, m) := match cam with
      | some c => if seen then (t.camcnt, m) else (c, (m.checkCam p c).modGrs p fun g => { g with curCam := true })
      | none => if slot = 0 then let (x, m) := m.free; (x.toNat % 4096, m) else (t.camcnt, m)
    let t := { t with camcnt := c }
    let pix := (linePixels w d l).take w
    let x : Expo := { pix := pix ++ List.replicate (w - pix.length) 0, segs := if kind = 1 then segs else 0,
                      whole := kind ≠ 0 && kind ≠ 1 }
    m.modGrs p fun g => { g with cur := some (t, exps ++ [x]) }

/-- Exposure lines that never came are corrupt of kind 0x5 (R66, R67). -/
def Mach.fillSet (m : Mach) (p : Nat) : Mach :=
  let n := m.get (F.grsFmt_NEXP p) + 1
  (List.range n).foldl (fun m _ =>
    match (m.grsPort p).cur with
    | some (t, exps) =>
      if exps.length < n then
        let m := m.reportCorrupt p t 5 0 0 exps.length
        m.modGrs p fun g => { g with cur := some (t, exps ++ [⟨List.replicate (m.get (F.grsFmt_WIDTH p)) 0, 0, true⟩]) }
      else m
    | none => m) m

/-- How a block ends at a line that is not cut (R46, R49, R50): whether it closes, and whether by MAX_BLOCK_LINES. -/
def Mach.lineCloses (m : Mach) (p n : Nat) (bvFall : Bool) : Bool × Bool :=
  let mx := max 1 (m.get (F.grsFmt_MAX_BLOCK_LINES p))
  if m.on (F.grsFmt_BVSRC p) then
    let cell := max 1 (m.get (F.grsFmt_CELL_LINES p))
    (decide (min cell mx ≤ n), decide (mx ≤ n ∧ n < cell))
  else if !bvFall then (true, false)
  else (decide (mx ≤ n), decide (mx ≤ n))

/-- The set in progress leaves as one tagged line (R45, R50, R63, R66): `cut` closes an open block with TRUNC. R63's limit does not
act with COMPAT = 1 (log entry 125). -/
def Mach.finishSet (m : Mach) (p : Nat) (cut bvFall : Bool) (ref : Int) : Mach :=
  match (m.grsPort p).cur with
  | none => m
  | some (t, exps) =>
    let g := m.grsPort p
    let run := if g.curCorrupt then g.run + 1 else 0
    let m := m.modGrs p fun g => { g with cur := none, curCorrupt := false, run := if t.inblock then run else g.run }
    let limit := t.inblock && decide (max 1 (m.get (F.grsCtl_CONCEAL_MAX p)) < run) && !g.drop && !m.on (F.grsCtl_COMPAT p)
    let m := m.cond limit (·.setDrop p 0x14)
    let n := m.get (F.grsStatus_LINE p) + 1
    let (close, long) := if t.inblock && !cut then m.lineCloses p n bvFall else (false, false)
    let stop := (m.grsPort p).stopping.isSome
    let last := t.inblock && (close || cut || stop)
    let trunc := t.inblock && (cut || long || (stop && !close))
    let m := m.cond long (·.emit 0x01 0x16 p [portArg p, (32, (t.block : Int))])
    let m := m.modGrs p fun g =>
      { g with needLow := if m.on (F.grsFmt_BVSRC p) then g.needLow
                          else if cut then g.needLow || t.inblock
                          else bvFall && (g.needLow || long) }
    let drop := (m.grsPort p).drop
    let t := { t with last, trunc, drop := t.inblock && drop, concealed := g.curCorrupt }
    let m := m.count (F.grsCntLines_LINES p)
    let m := if t.inblock then
        (m.set (F.grsStatus_LINE p) (min n 0xFFFF)).modGrs p fun g =>
          { g with firstTag := if t.first then t else g.firstTag, lastTag := t, ref }
      else m
    let prevOnly := t.inblock && drop && !m.on (F.grsCtl_COMPAT p) && g.curCorrupt
    let set := m.lineSet p
    let m := m.cond last (·.blockClose p t)
    m.grsPush p { tag := t, exps, prevOnly, since := m.now, set }

/-- The port stops (R67): the queue empties and it reports STOPPED. -/
def Mach.grsStopped (m : Mach) (p : Nat) : Mach :=
  let m := (m.closeMarker p true).runEnd 0x01 0x18 p 0
  ((m.modGrs p fun g => { g with trigQ := [], cur := none, stopping := none }).set (F.grsStatus_STATE p) 0).grsRelease p false

/-- The port is told to stop (R67): at the end of the set in progress, or at once when no line is in progress. -/
def Mach.grsStop (m : Mach) (p : Nat) : Mach :=
  if m.get (F.grsStatus_STATE p) = 0 || (m.grsPort p).stopping.isSome then m
  else if (m.grsPort p).cur.isSome then m.modGrs p fun g => { g with stopping := some m.now }
  else m.grsStopped p

/-- A block that is not to exist here passes (R326): its lines are neither tagged nor judged. -/
def Mach.ghostLine (m : Mach) (p : Nat) (l : LineIn) : Mach :=
  let m := m.modGrs p fun g => { g with trigQ := g.trigQ.tail, ghost := l.bvFall }
  match camCnt (m.get (F.grsFmt_WIDTH p)) l with | some c => m.checkCam p c | none => m

/-- A follower's or a replaying port's own line (R319, R353): discarded, but BV and the camera's counter are seen. -/
def Mach.ownLine (m : Mach) (p : Nat) (l : LineIn) : Mach :=
  m.modGrs p fun g =>
    { g with ownBlock := if l.bvRise && !g.ownOpen then g.ownBlock + 1 else g.ownBlock, ownOpen := l.bvRise && l.bvFall,
             camLast := match camCnt (m.get (F.grsFmt_WIDTH p)) l with | some c => some c | none => g.camLast }

/-- Reel time at base count `b` (R442). -/
def Mach.reelAt (m : Mach) (b : Nat) : Int := (derived m.reelB m.reelT m.reelRate b).fdiv (2 ^ 40)

/-- An LV-high period, from its LV rise now to its LV fall (R40, R43); a stop that is asked `stop` ns after the LV rise takes effect at
its end (R67). -/
def Mach.lineHigh (m : Mach) (p : Nat) (l : LineIn) (stop : Option Nat) : Mach :=
  let st := m.get (F.grsStatus_STATE p)
  let stopAfter (m : Mach) : Mach := m.cond stop.isSome (·.grsStop p)
  if st ≠ 2 then
    stopAfter ((m.cond (!m.linesTold) (·.bump (F.grsCntErr_LINES_UNLOCKED p))).advance l.tEnd)
  else if m.linesTold then stopAfter ((m.ownLine p l).advance l.tEnd)
  else if (m.grsPort p).ghost && l.bvRise then stopAfter ((m.ghostLine p l).advance l.tEnd)
  else
    let m := m.modGrs p fun g => { g with ghost := false }
    let ref := m.reelAt (m.now + l.tPix)
    let m := m.cond (m.grsPort p).cur.isNone (·.lineRise p l)
    let m := match stop with
      | some k => m.modGrs p fun g => { g with stopping := g.stopping.orElse fun _ => some (m.now + k) }
      | none => m
    let m := (m.advance l.tEnd).exposure p false l
    match (m.grsPort p).cur with
    | some (_, exps) =>
      if exps.length > m.get (F.grsFmt_NEXP p) then
        let m := m.finishSet p false l.bvFall ref
        m.cond (m.grsPort p).stopping.isSome (·.grsStopped p)
      else m
    | none => m

/-- LINE (R40, R43). -/
def line (p : Nat) (l : LineIn) (m : Mach) : Mach := m.lineHigh p l none

/-! ## Clock, stop, start -/

/-- Idle periods with LV low that follow one another and are correct (`kind` true) or wrong, counted on from `c` over runs of periods
(R39, R40), and whether they reach `limit`. -/
def idleCount (kind : Bool) (limit : Nat) : Nat → List (Nat × Bool) → Nat × Bool
  | c, [] => (c, decide (limit ≤ c))
  | c, (n, good) :: t =>
    if good = kind then
      if limit ≤ c + n then (c + n, true) else idleCount kind limit (c + n) t
    else idleCount kind limit (if n = 0 then c else 0) t

/-- A pair's delay set for the middle `e` of its eye: 0 to 80 steps of 20 ps (R39), from `d` by at most `steps` steps (R40). -/
def pairDelay (steps d e : Nat) : Nat := let e := min 80 e; if d ≤ e then min e (d + steps) else max e (d - steps)

/-- Every pair's delay moves towards the middle of its eye. -/
def setDelays (steps : Nat) (delays eye : List Nat) : List Nat :=
  (List.range 15).map fun i => pairDelay steps (at' delays i) ((eye[i]?).getD (at' delays i))

/-- PORT_LOCKED (R39): idle periods in TRAINING, as runs of correct and wrong ones, with the middle of each pair's eye: the delays
are set, and at 1,024 correct periods in turn the port is LOCKED. -/
def portLocked (p : Nat) (idle : List (Nat × Bool)) (eye : List Nat) (m : Mach) : Mach :=
  if m.get (F.grsStatus_STATE p) = 1 then
    let (c, ok) := idleCount true 1024 (m.grsPort p).idleRun idle
    let m := m.modGrs p fun g =>
      { g with seenClk := true, delays := setDelays 80 g.delays eye, idleRun := if ok then 0 else c, idleErrs := 0, idleAdj := 0 }
    m.cond ok fun m => (m.set (F.grsStatus_STATE p) 2).emit 0x01 0x10 p [portArg p]
  else m

/-- PORT_RETRAIN (R40; log entry 126): idle periods in LOCKED: each delay follows its eye by one step per 256 periods, and at 16 wrong
periods in turn the port trains again. -/
def portRetrain (p : Nat) (idle : List (Nat × Bool)) (eye : List Nat) (m : Mach) : Mach :=
  if m.get (F.grsStatus_STATE p) = 2 then
    let g := m.grsPort p
    let (c, ok) := idleCount false 16 g.idleRun idle
    let errs := g.idleErrs + idle.foldl (fun a r => if r.2 then a else a + r.1) 0
    let adj := g.idleAdj + idle.foldl (fun a r => a + r.1) 0
    let m := m.modGrs p fun g =>
      { g with delays := setDelays (adj / 256) g.delays eye, idleRun := if ok then 0 else c, idleErrs := errs, idleAdj := adj % 256 }
    m.cond ok fun m => (m.set (F.grsStatus_STATE p) 1).emit 0x01 0x11 p [portArg p, (32, (errs : Int))]
  else m

/-- CLK_RETURN (R39, R66): a rising CLK edge after LOSS, or the first one since the start. -/
def clkReturn (p : Nat) (m : Mach) : Mach :=
  let m := m.modGrs p fun g => { g with seenClk := true, idleRun := if m.get (F.grsStatus_STATE p) = 3 then 0 else g.idleRun }
  if m.get (F.grsStatus_STATE p) = 3 then m.set (F.grsStatus_STATE p) 1 else m

/-- CLK_LOSS (R66): with a line in progress the command's time leads to its LV rise, else to the loss itself. -/
def clkLoss (p : Nat) (part : Option LineIn) (m : Mach) : Mach :=
  let st := m.get (F.grsStatus_STATE p)
  if st = 0 ∨ st = 3 ∨ !(m.grsPort p).seenClk then m
  else
    let live := st = 2 && !m.linesTold
    let m := match part with
      | some l => ((m.cond (live && (m.grsPort p).cur.isNone) (·.lineRise p l)).cond (st ≠ 2 && !m.linesTold)
          (·.bump (F.grsCntErr_LINES_UNLOCKED p))).advance l.tEnd
      | none => m
    let m := (m.set (F.grsStatus_STATE p) 3).emit 0x01 0x12 p [portArg p, (32, (m.get (F.grsStatus_BLOCK p) : Int))]
    if m.linesTold then m
    else
      let ref := match part with
        | some l => m.reelAt (m.now - l.tEnd + min l.tPix l.tEnd)
        | none => m.reel
      let m := match part with
        | some l => if live then m.exposure p true l else m
        | none => m
      let m := if (m.grsPort p).cur.isSome then (m.fillSet p).finishSet p true true ref else m.closeMarker p true
      m.cond (m.grsPort p).stopping.isSome (·.grsStopped p)

/-- PORT_STOP (R67): a write of GRS_CTL.RUN = 0; in the middle of a line, which is given with the time of the write after its LV rise,
it takes effect at the end of that line. -/
def portStop (p : Nat) (part : Option (LineIn × Nat)) (m : Mach) : Mach :=
  let m := m.setb (F.grsCtl_RUN p) false
  match part with
  | some (l, k) => m.lineHigh p l (some k)
  | none => m.grsStop p

/-- STOP_EXPOSURE_TIMEOUT (R67): the last exposure has not arrived within 100 µs of the stop. -/
def stopExposureTimeout (p : Nat) (m : Mach) : Mach :=
  match (m.grsPort p).stopping with
  | some t =>
    if t + 100000 ≤ m.now then ((m.fillSet p).finishSet p true true m.reel).grsStopped p else m
  | none => m

/-- The offset of the first register that keeps port `p` from starting (R52, R70, R75, R78). -/
def Mach.grsInvalid (m : Mach) (p : Nat) : Option Nat :=
  let w := m.get (F.grsFmt_WIDTH p)
  let n := m.get (F.grsFmt_NEXP p) + 1
  let merge := m.get (F.grsCorCtl_MERGE p)
  if m.get (F.grsFmt_DEPTH p) = 3 ∨ w < 64 ∨ 16384 < w ∨ 32768 < (if merge = 2 then n else 1) * w then some (R.grsFmt p)
  else if m.get (F.grsTrg_SRC p) = 3 then some (R.grsTrg p)
  else if merge = 3 ∨ (merge = 0 ∧ n = 3) ∨ (merge = 1 ∧ n = 1) then some (R.grsCorCtl p)
  else none

/-- Port `p` starts at its tick (R39, R51, R53, R67). -/
def Mach.grsStart (m : Mach) (p : Nat) : Mach :=
  let m := m.modGrs p fun g =>
    { txq := g.txq, rxq := g.rxq, lin := g.lin, ff := g.ff, trgUntil := g.trgUntil, timerDue := m.reel,
      target := m.geti (F.grsTrgPhase_PHASE p) }
  ((m.set (R.grsStatus p |> fun o => (⟨o, 0, 64⟩ : Fld)) 0).set (F.grsStatus_STATE p) 1).trgSkip p

/-! ## Twin and replay -/

/-- A line that the lead forwards or the record holds takes the place of the port's own (R319, R353): it carries its tag, and
blocks open and close by it. -/
def Mach.toldLine (m : Mach) (p : Nat) (l : FwdLine) : Mach :=
  let t := Tag.ofWords l.tag0 l.tag1 l.tag2 l.tag3
  let m := m.set (F.grsStatus_BLOCK p) t.block
  let m := m.cond (t.inblock && t.first && !l.marker) fun m =>
    let m := (m.setb (F.grsStatus_INBLOCK p) true).set (F.grsStatus_LINE p) 0
    let m := m.modGrs p fun g => { g with firstTag := t, drop := false }
    (m.portCtx p).foldl (fun m c => (m.blockStart c t.block 8).assistPath c t.block) m
  let m := m.cond (!l.marker) fun m =>
    (m.cond t.inblock (·.set (F.grsStatus_LINE p) (min (t.line + 1) 0xFFFF))).modGrs p fun g =>
      { g with lastTag := t, drop := t.drop, lines := g.lines + 1, ref := t.reel }
  let set := m.lineSet p
  let m := m.cond (t.inblock && t.last) (·.blockClose p t)
  m.lineOut p t (if l.marker then [] else l.exps) set

/-- The port takes its own lines again (R326): a block open in the forwarded lines closes with TRUNC, and the divider skips what
fell due. -/
def Mach.grsTakeover (m : Mach) (p : Nat) : Mach :=
  if m.get (F.grsStatus_STATE p) = 0 then m
  else
    let g := m.grsPort p
    let fwd := m.get (F.grsStatus_BLOCK p)
    let m := m.closeMarker p true
    let under := g.ownOpen && !m.on (F.grsFmt_BVSRC p)
    let m := m.modGrs p fun x =>
      { x with trigQ := [], cur := none, needLow := under && g.ownBlock = fwd, ghost := under && g.ownBlock ≠ fwd,
               ownOpen := false }
    m.cond (m.get (F.grsTrg_SRC p) = 1) (·.trgSkip p)

/-! ## UART (R68) -/

def Mach.uartLevels (m : Mach) (p : Nat) : Mach :=
  (m.set (F.grsUartStat_TX_LEVEL p) (m.grsPort p).txq.length).set (F.grsUartStat_RX_LEVEL p) (m.grsPort p).rxq.length

/-- UART_TX (R68): a byte enters the transmit FIFO, or is discarded; a follower discards it without effect (R319). -/
def uartTx (p : Nat) (val : Word) (m : Mach) : Mach :=
  if m.follower then m
  else if (m.grsPort p).txq.length ≥ 256 then m.bump (F.grsUartStat_TX_OVF p)
  else (m.modGrs p fun g => { g with txq := g.txq ++ [val.setWidth 8] }).uartLevels p

/-- UART_TX_BYTE (R68): the oldest byte has been sent. -/
def uartTxByte (p : Nat) (m : Mach) : Mach := (m.modGrs p fun g => { g with txq := g.txq.tail }).uartLevels p

/-- UART_RX_BYTE (R68). -/
def uartRxByte (p : Nat) (b : Byte) (ferr : Bool) (m : Mach) : Mach :=
  if (m.grsPort p).rxq.length ≥ 256 then
    (m.bump (F.grsUartStat_RX_OVF p)).runHit false 0x01 0x1B p 1 [portArg p]
  else ((m.runEnd 0x01 0x1B p 1).modGrs p fun g => { g with rxq := g.rxq ++ [(b, ferr)] }).uartLevels p

/-- What a read of GRS_UART_RX returns (R70). -/
def Mach.uartRxWord (m : Mach) (p : Nat) : Word :=
  match (m.grsPort p).rxq with
  | (b, f) :: _ => BitVec.ofNat 64 (f.toNat * 512 + 256 + b.toNat)
  | [] => 0

/-- UART_RX_READ (R68): the read removes the oldest received byte. -/
def uartRxRead (p : Nat) (m : Mach) : Mach := (m.modGrs p fun g => { g with rxq := g.rxq.tail }).uartLevels p

/-! ## Tables (R74) -/

/-- LIN_SELECT (R74). -/
def linSelect (p e index : Nat) (m : Mach) : Mach :=
  let e := e % 4
  let i := index % 4096
  ((m.set (F.grsLinAcc_EXP p) e).set (F.grsLinAcc_INDEX p) i).set (F.grsLinAcc_DATA p) (spGet linReset (m.grsPort p).lin (e * 4096 + i))

/-- LIN_STORE (R74, R213): stored only while the port is STOPPED; the selection takes effect in any case. -/
def linStore (p e index data : Nat) (m : Mach) : Mach :=
  let m := if m.get (F.grsStatus_STATE p) = 0 && !m.unitFrozen 1 (· = p) then
      m.modGrs p fun g => { g with lin := spPut linReset g.lin (e % 4 * 4096 + index % 4096) (data % 2 ^ 16) }
    else m.emit 0x01 0x02 p []
  linSelect p e index m

/-- FF_SELECT (R74). -/
def ffSelect (p index : Nat) (m : Mach) : Mach :=
  let i := index % 32768
  let v := spGet ffReset (m.grsPort p).ff i
  ((m.set (F.grsFfAcc_INDEX p) i).set (F.grsFfAcc_GAIN p) (v / 2 ^ 16)).set (F.grsFfAcc_OFFSET p) v

/-- FF_STORE (R74). -/
def ffStore (p index gain offset : Nat) (m : Mach) : Mach :=
  let m := if m.get (F.grsStatus_STATE p) = 0 && !m.unitFrozen 1 (· = p) then
      m.modGrs p fun g =>
        { g with ff := spPut ffReset g.ff (index % 32768) (gain % 2 ^ 16 * 2 ^ 16 + offset % 2 ^ 16) }
    else m.emit 0x01 0x02 p []
  ffSelect p index m

end Sys2Proof.Machine
end

