-- ==== Sys2Proof/Machine/HopBase.lean ====
section
/-!
DEFINITION. Hopper's entries (R162 to R164), page tables (R173 to R176), key masks (R172), halo acceptance (R185) and detaches
(R188, R190): the operations that Hopper's commands and the jobs' starts and stops share.
-/

namespace Sys2Proof.Machine

/-! ## An entry's configuration -/

def Mach.hopJob (m : Mach) (e : Nat) : Nat := m.get (F.hopEntCfg_JOB e)
def Mach.across (m : Mach) (e : Nat) : Nat := m.get (F.hopEntCfg_ACROSS e)
def Mach.winRows (m : Mach) (e : Nat) : Nat := m.get (F.hopEntCfg_WIN_ROWS e)
def Mach.layers (m : Mach) (e : Nat) : Nat := m.get (F.hopEntCfg_LAYERS e) + 1
def Mach.hopState (m : Mach) (e : Nat) : Nat := m.get (F.hopEntStat_STATE e)
def Mach.hopNext (m : Mach) (e : Nat) : Nat := m.get (F.hopEntStep_STEP e)
def Mach.hopClass (m : Mach) (e : Nat) : Nat := m.jobClass (m.hopJob e)

/-- A side's neighbour: its type, chain position and entry (R181); `right` names the side. -/
def Mach.nbrType (m : Mach) (e : Nat) (right : Bool) : Nat := m.get (if right then F.hopEntNbr_R_TYPE e else F.hopEntNbr_L_TYPE e)
def Mach.nbrPos (m : Mach) (e : Nat) (right : Bool) : Nat := m.get (if right then F.hopEntNbr_R_POS e else F.hopEntNbr_L_POS e)
def Mach.nbrEnt (m : Mach) (e : Nat) (right : Bool) : Nat := m.get (if right then F.hopEntNbr_R_ENTRY e else F.hopEntNbr_L_ENTRY e)
def Mach.haloObj (m : Mach) (e : Nat) (right : Bool) : Nat := m.get (if right then F.hopEntSync2_HALO_R_OBJ e else F.hopEntSync_HALO_L_OBJ e)

def HopEnt.side (h : HopEnt) (right : Bool) : HopSide := if right then h.right else h.left
def HopEnt.setSide (h : HopEnt) (right : Bool) (s : HopSide) : HopEnt := if right then { h with right := s } else { h with left := s }
def Mach.modSide (m : Mach) (e : Nat) (right : Bool) (f : HopSide → HopSide) : Mach :=
  m.modHop e fun h => h.setSide right (f (h.side right))

/-- Pages of a row (R169). -/
def Mach.ppr (m : Mach) (e : Nat) : Nat := (m.across e + 15) / 16

/-- Halo keys of a side in a row (R171). -/
def Mach.haloKeys (m : Mach) (e : Nat) (right : Bool) : Nat := if m.nbrType e right = 0 then 0 else 2

/-- Rows in the window of step `s` (R167). -/
def Mach.rows (m : Mach) (e s : Nat) : Nat := min (s + 1) (m.winRows e)

/-- Keys of a row (R171). -/
def Mach.rowKeys (m : Mach) (e : Nat) : Nat := m.across e + m.haloKeys e false + m.haloKeys e true

/-- Hopper's accesses for entry `e` (R191, R371). -/
def Mach.hopAcc (m : Mach) (e : Nat) : Acc := { agent := 0x060, job := some (m.hopJob e) }

/-- Byte offset in the virtual range of own token (slot, column) of a layer (R169). -/
def Mach.ownOff (m : Mach) (e l slot col : Nat) : Nat := l * 0x400000 + (slot * m.ppr e + col / 16) * 0x4000 + col % 16 * 0x400

/-- Byte offset of a side's halo position in a layer (R169). -/
def haloOff (l : Nat) (right : Bool) (slot j : Nat) : Nat := l * 0x400000 + (if right then 252 else 248) * 0x4000 + (2 * slot + j) * 0x400

/-! ## States -/

/-- Entry `e` goes to state `st`, and HOP_STAT counts (R192). -/
def Mach.hopGo (m : Mach) (e st : Nat) : Mach :=
  let field (n : Nat) : Option Fld := match n with
    | 1 => some F.hopStat_LOADED
    | 2 => some F.hopStat_RUNNING
    | 3 => some F.hopStat_ENDED
    | _ => none
  let m := match field (m.hopState e) with | some f => m.set f (m.get f - 1) | none => m
  let m := match field st with | some f => m.set f (m.get f + 1) | none => m
  (m.set (F.hopEntStat_STATE e) st).modHop e fun h => { h with live := st = 2 || st = 3 }

/-- The offset of the first register that keeps entry `e` from starting (R159, R170). -/
def Mach.hopInvalid (m : Mach) (e : Nat) : Option Nat :=
  let a := m.across e
  let w := m.winRows e
  let any := m.nbrType e false != 0 || m.nbrType e true != 0
  if m.nbrType e false = 3 || m.nbrType e true = 3 then some (R.hopEntNbr e)
  else if a = 0 || 128 < a || (any && a < 2) || w = 0 || 32 < w || 512 < w * a
      || m.get (F.grsFmt_WIDTH (m.get (F.hopEntCfg_PORT e))) ≠ a * 128 then some (R.hopEntCfg e)
  else none

/-! ## Pages -/

/-- What a virtual access meets (R174): a bus error on the walk at an address, a translation fault, a page on the move, a spilled
page, or the data address. -/
inductive Trans where
  | bus (a : Nat)
  | fault
  | moving
  | spilled
  | at (a : Nat)
  deriving DecidableEq, Repr

/-- The address of the page entry of virtual page `vp` (R173): none on a bus error at the address given, some none where the first
level is invalid. -/
def Fx.pageEntryAt (x : Fx) (acc : Acc) (e vp : Nat) : Except Nat (Option Nat) × Fx :=
  let a := x.m.get (F.hopEntPt_ROOT e) * 512 + vp / 64 * 8
  match x.readNat acc a 8 with
  | (none, x) => (.error a, x)
  | (some w, x) => (.ok (if w % 2 = 1 then some (w / 512 % 2 ^ 31 * 512 + vp % 64 * 8) else none), x)

/-- The two-level walk for offset `off` (R173, R174). -/
def Fx.translate (x : Fx) (acc : Acc) (e off : Nat) (wr : Bool) : Trans × Fx :=
  match x.pageEntryAt acc e (off / 0x4000 % 4096) with
  | (.error a, x) => (.bus a, x)
  | (.ok none, x) => (.fault, x)
  | (.ok (some pa), x) =>
    match x.readNat acc pa 8 with
    | (none, x) => (.bus pa, x)
    | (some w, x) =>
      if w % 2 = 0 || (wr && w / 2 % 2 = 0) then (.fault, x)
      else
        match w / 8 % 4 with
        | 0 => (.at (w / 2 ^ 14 % 2 ^ 26 * 2 ^ 14 + off % 0x4000), x)
        | 2 => (.spilled, x)
        | _ => (.moving, x)

/-- Hopper writes the page entry of `vp` (R175); an entry whose first level is invalid has none. -/
def Fx.setPage (x : Fx) (e vp w : Nat) : Bool × Fx :=
  match x.pageEntryAt (x.m.hopAcc e) e vp with
  | (.error _, x) => (false, x)
  | (.ok none, x) => (true, x)
  | (.ok (some pa), x) => x.write (x.m.hopAcc e) pa (leBytes 8 w)

/-- A page entry's word (R173): valid, writable, its state and frame address. -/
def pageWord (addr st : Nat) : Nat := addr / 2 ^ 14 * 2 ^ 14 + st * 8 + 3

/-- The Tun address of pool frame `f` and the DRAM address of spill slot `n` (R176, R177). -/
def Mach.frameAddr (m : Mach) (f : Nat) : Nat := m.get F.hopPool_BASE * 0x4000 + f * 0x4000
def Mach.slotAddr (m : Mach) (n : Nat) : Nat := m.get F.hopSpill_BASE * 0x4000 + n * 0x4000

/-- Every engine's translation buffer drops a page (R175). -/
def Mach.tbDrop (m : Mach) (e vp : Nat) : Mach := { m with tbuf := m.tbuf.map fun x => (x.1, x.2.filter fun p => p ≠ (e, vp)) }

/-- The pool's figures follow its pages (R177, R192): a fall of FREE below FREE_LO sets LOW_NOTICE; the spill area gains room. -/
def Mach.poolShow (m : Mach) : Mach :=
  let old := m.get F.hopPoolStat_FREE
  let lo := m.get F.hopPoolCfg_FREE_LO
  let free := m.hopPages - (m.pages.filter (·.frame.isSome)).length
  let slots := (m.pages.filter (·.slot.isSome)).length
  let m := (m.set F.hopPoolStat_FREE free).setb F.hopPoolStat_BELOW (free < lo)
  let m := m.set F.hopPoolStat_SPILLED (m.pages.filter (·.st = .spilled)).length
  let m := if m.on F.hopPoolStat_SPILL_FULL && slots < m.get F.hopSpill_SLOTS then
      (m.setb F.hopPoolStat_SPILL_FULL false).setb F.hopPoolStat_SPILLING (free < m.get F.hopPoolCfg_FREE_HI)
    else m
  if lo ≤ old && free < lo then
    ((m.setb F.hopPoolStat_LOW_NOTICE true).setb F.hopPoolStat_SPILLING true).emit 0x0B 0x14 0 [(14, (free : Int))]
  else m

def Mach.page (m : Mach) (e vp : Nat) : Option HopPage := m.pages.find? fun p => p.ent = e && p.vpage = vp

def Mach.modPage (m : Mach) (e vp : Nat) (f : HopPage → HopPage) : Mach :=
  { m with pages := m.pages.map fun p => if p.ent = e && p.vpage = vp then f p else p }

/-- Pages of entry `e` that `f` names return to the pool, and their page entries become invalid (R176): false on a bus error. -/
def Fx.freePages (x : Fx) (e : Nat) (f : HopPage → Bool) : Bool × Fx :=
  let gone := x.m.pages.filter fun p => p.ent = e && f p
  let (ok, x) := gone.foldl (fun (y : Bool × Fx) p =>
    let (ok, x) := y.2.setPage e p.vpage 0
    (y.1 && ok, x.mach (·.tbDrop e p.vpage))) (true, x)
  (ok, x.mach fun m => { m with pages := m.pages.filter fun p => !(p.ent = e && f p) }.poolShow)

/-- Entry `e` goes to STOPPED (R163): classes 1 and 2 return their pages (R176), where a bus error is reported and stops nothing more (R191). -/
def Fx.hopStop (x : Fx) (e : Nat) : Fx :=
  let st := x.m.hopState e
  if st = 2 || st = 3 || st = 1 then
    let x := if x.m.hopClass e = 0 then x
      else
        let (ok, x) := x.freePages e fun _ => true
        x.mach (·.cond (!ok) (·.emit 0x0B 0x04 0 []))
    x.mach fun m => (m.hopGo e 4).set (F.hopEntStat_BACKLOG e) 0
  else x

/-- The entries of job `j` that hold a VALID configuration (R162). -/
def Mach.jobEntries (m : Mach) (j : Nat) : List Nat :=
  (List.range 1024).filter fun e => m.on (F.hopEntCfg_VALID e) && m.hopJob e = j

/-! ## Masks and detaches -/

/-- A side's halo keys are invalid for layer `l` of step `s` (R172, R188, R190). -/
def HopSide.invalid (h : HopSide) (s l : Nat) : Bool :=
  match h.detach with
  | some (ds, dl) => ds < s || (ds = s && dl ≤ l)
  | none => false

/-- The side takes no more halos (R185): its detach lies at its next expected count or before it. -/
def HopSide.shut (h : HopSide) (layers : Nat) : Bool :=
  match h.detach with
  | some (ds, dl) => ds * layers + dl ≤ h.got
  | none => false

/-- Packs key flags, eight a byte, key 0 in bit 0 (R133, R172). -/
def packBits : Nat → List Bool → List Byte
  | 0, _ => []
  | n + 1, l => BitVec.ofNat 8 (((List.range 8).map fun i => if l.getD i false then 2 ^ i else 0).foldl (· + ·) 0) :: packBits n (l.drop 8)

/-- Bytes of a mask (R172). -/
def Mach.maskB (m : Mach) (e : Nat) : Nat := ((m.winRows e * m.rowKeys e + 7) / 8 + 63) / 64 * 64

/-- The mask of layer `l` of step `s` (R171, R172). -/
def Mach.maskBytes (m : Mach) (e s l : Nat) : List Byte :=
  let h := m.hopEnt e
  let row := List.replicate (m.haloKeys e false) (!h.left.invalid s l) ++ List.replicate (m.across e) true
    ++ List.replicate (m.haloKeys e true) (!h.right.invalid s l)
  packBits (m.maskB e) ((List.replicate (m.rows e s) row).flatten)

/-- Where the mask of layer `l` of step `s` lies (R172). -/
def Mach.maskAddr (m : Mach) (e s l : Nat) : Nat := m.get (F.hopEntSync2_MASK e) + (s % 2 * m.layers e + l) * m.maskB e

/-- Hopper writes the masks of layers `lo` and above of step `s` (R167, R188): false on a bus error. -/
def Fx.writeMasks (x : Fx) (e s lo : Nat) : Bool × Fx :=
  (List.range (x.m.layers e - lo)).foldl (fun (ok, x) i =>
    if ok then x.write (x.m.hopAcc e) (x.m.maskAddr e s (lo + i)) (x.m.maskBytes e s (lo + i)) else (ok, x)) (true, x)

/-- Hopper signals object `n` for job `j`, `k` times (R167, R218). -/
def Mach.hopSignal (m : Mach) (j n k : Nat) : Mach := (List.range k).foldl (fun m _ => m.synSignal 0x060 j n) m

/-- An absent side counts as arrived (R167, R188): once every halo before the detach has come, the side's object is signalled for
the layers of the issued steps that are left. -/
def Mach.settle (m : Mach) (e : Nat) (right : Bool) : Mach :=
  let h := (m.hopEnt e).side right
  let layers := m.layers e
  let upTo := m.hopNext e * layers
  let go : Bool := h.shut layers || (h.detach.isNone && m.nbrType e right = 0)
  if go && h.got < upTo then
    (m.hopSignal (m.hopJob e) (m.haloObj e right) (upTo - h.got)).modSide e right fun h => { h with got := upTo }
  else m

/-- B_j of a job (R351): 0 in RUN. -/
def Mach.stepBase (m : Mach) (j : Nat) : Nat := (spGet (fun _ => ({} : JobRt)) m.jobRt j).base

/-- A side is detached at (step, layer) (R188, R190): shown, its masks rewritten in the step in flight, its object signalled. -/
def Fx.detach (x : Fx) (e : Nat) (right : Bool) (s l : Nat) : Bool × Fx :=
  let x := x.mach fun m =>
    let m := m.modSide e right fun h => { h with detach := some (s, l) }
    let abs := s + m.stepBase (m.hopJob e)
    if right then ((m.setb (F.hopEntStat_R_DETACHED e) true).set (F.hopEntDetach_R_STEP e) abs).set (F.hopEntDetach_R_LAYER e) l
    else ((m.setb (F.hopEntStat_L_DETACHED e) true).set (F.hopEntDetach_L_STEP e) abs).set (F.hopEntDetach_L_LAYER e) l
  let (ok, x) := if s < x.m.hopNext e then
    (List.range (x.m.hopNext e - s)).foldl (fun (ok, x) i =>
      if ok then x.writeMasks e (s + i) (if i = 0 then l else 0) else (ok, x)) (true, x) else (true, x)
  (ok, x.mach (·.settle e right))

/-- The chain position of this module (R312). -/
def Mach.chainPos (m : Mach) : Nat := m.get F.pnxChain_POS

/-- First 8 bytes of the running package's digest (R184). -/
def Mach.digestNat (m : Mach) : Nat := m.pkgDigest.toNat

/-- The header of a halo message or END notice (R184), as eight words; `right` is the side of the receiver. -/
def Mach.haloHeader (m : Mach) (e dst : Nat) (right : Bool) (l : Nat) (fin : Bool) (step : Nat) : List Byte :=
  let w0 := 0x48 * 2 ^ 56 + 2 ^ 48 + m.chainPos * 2 ^ 43 + e * 2 ^ 33 + dst * 2 ^ 23 + l * 2 ^ 19 + right.toNat * 2 ^ 18
    + fin.toNat * 2 ^ 17 + m.hopJob e * 2 ^ 11
  leBytes 8 w0 ++ leBytes 8 step ++ leBytes 8 m.digestNat ++ List.replicate 40 0

/-- A message leaves for an adjacent chain position over its fabric links (R181, R293): a follower and a replay send nothing (R182, R353). -/
def Mach.fabricSend (m : Mach) (pos : Nat) (x : OutMsg) : Mach :=
  if m.follower || m.replaying then m
  else if pos + 1 = m.chainPos then (m.linkSend 1 x).linkSend 2 x
  else if pos = m.chainPos + 1 then (m.linkSend 3 x).linkSend 4 x
  else m

end Sys2Proof.Machine
end

