-- ==== Sys2Proof/Machine/Job.lean ====
section
/-!
DEFINITION. Jobs (R193 to R196): their states, faults and stops, and the placement of clusters (R197, R206).
-/

namespace Sys2Proof.Machine

def Mach.jrt (m : Mach) (j : Nat) : JobRt := spGet (fun _ => {}) m.jobRt j
def Mach.modJob (m : Mach) (j : Nat) (f : JobRt → JobRt) : Mach :=
  { m with jobRt := spPut (fun _ => {}) m.jobRt j (f (m.jrt j)) }

/-! ## Queue heads -/

/-- Commands of a FAULTED or STOPPING job are discarded when they reach the head of their queue (R154). -/
def Mach.dropDead (m : Mach) (q : List Cmd) : List Cmd :=
  q.dropWhile fun c => m.jobState c.job = 5 || m.jobState c.job = 3 || m.jobState c.job = 4

/-- ENG_STAT of engine `e`: its block window and instance (R29, R225). -/
def engBlk (e : Nat) : Nat := if e < 4 then 2 else if e < 12 then 3 else if e < 16 then 4 else if e < 20 then 5 else if e < 22 then 6 else 7
def engInst (e : Nat) : Nat := if e < 4 then e else if e < 12 then e - 4 else if e < 16 then e - 12 else if e < 20 then e - 16 else if e < 22 then e - 20 else 0

/-- The agent ID of engine `e` (R33). -/
def engAgent (e : Nat) : Nat :=
  if e < 4 then 0x010 + e else if e < 12 then 0x018 + (e - 4) else if e < 16 then 0x020 + (e - 12)
  else if e < 20 then 0x028 + (e - 16) else if e < 22 then 0x030 + (e - 20) else 0x038

def Cmd.layer (c : Cmd) : Nat := ((c.words.getD 0 0).extractLsb' 36 12).toNat
def Cmd.operator (c : Cmd) : Nat := ((c.words.getD 0 0).extractLsb' 20 16).toNat

/-- A head that reaches the front is tested against its object (R217). -/
def Mach.headTest (m : Mach) : List Cmd → List Cmd
  | c :: t => (if c.waitEn && satisfied (m.get (F.synObj_VALUE c.waitObj)) c.waitThr then { c with sat := true } else c) :: t
  | [] => []

/-- Commands of a queue that have not started (R157). -/
def queued (l : List Cmd) : Nat := l.countP (·.part.isNone)

/-- The head of a queue waits on a sync object (R122). -/
def headWaits : List Cmd → Bool
  | c :: _ => c.waitEn && !c.sat
  | [] => false

/-- <E>_STAT shows the queues and the running command (R157): IDLE, BUSY, WAITING or PREEMPTING. -/
def Mach.engShow (m : Mach) (e : Nat) : Mach :=
  let x := m.engine e
  let b := engBlk e
  let n := engInst e
  let m := ((m.set (F.engStat_Q0 b n) (queued x.q0)).set (F.engStat_Q1 b n) (queued x.q1)).set (F.engStat_Q2 b n) (queued x.q2)
  let waits := headWaits x.q0 || headWaits x.q1 || headWaits x.q2
  match x.run with
  | some (_, c) =>
    let st := if m.on (F.schJobStat_PREEMPTED c.job) || m.on (F.schJobStat_PAUSED c.job) then 3 else 1
    (((m.set (F.engStat_STATE b n) st).set (F.engStat_JOB b n) c.job).set (F.engStat_LAYER b n) c.layer).set (F.engStat_OPERATOR b n)
      c.operator
  | none =>
    (((m.set (F.engStat_STATE b n) (if waits then 2 else 0)).set (F.engStat_JOB b n) 0).set (F.engStat_LAYER b n) 0).set
      (F.engStat_OPERATOR b n) 0

/-- Every engine's heads after a job's state or a queue changed (R154, R217). -/
def Mach.engClean (m : Mach) : Mach :=
  let m := { m with eng := m.eng.map fun (x : Nat × Eng) =>
    (x.1, { x.2 with q0 := m.headTest (m.dropDead x.2.q0), q1 := m.headTest (m.dropDead x.2.q1), q2 := m.headTest (m.dropDead x.2.q2) }) }
  m.eng.foldl (fun m x => m.engShow x.1) m

/-! ## States -/

/-- FAULT source bit 0 while any class-0 job is FAULTED (R195, R423). -/
def Mach.jobFaultLine (m : Mach) : Mach :=
  m.setFaultSrc 0 ((List.range 64).any fun j => m.jobState j = 5 && m.jobClass j = 0)

/-- SCH_STAT and the device mode follow the jobs (R196). -/
def Mach.schShow (m : Mach) : Mach :=
  let n (s : Nat) := (List.range 64).countP fun j => m.jobState j = s
  let mode := if n 2 + n 3 = 0 then 0 else m.lastMode
  (((m.set F.schStat_RUNNING (n 2)).set F.schStat_FAULTED (n 5)).set F.schStat_MODE mode).set F.mgtStat_MODE mode

/-- Job `j` goes to state `st` (R193): raised, counted, shown; what CLOCK rests on may change (R199). -/
def Mach.jobGo (m : Mach) (j st : Nat) : Mach :=
  let m := (m.set (F.schJobStat_STATE j) st).emit 0x0C 0x10 0 [(6, (j : Int)), (3, (st : Int))]
  let m := if st = 2 || st = 3 then m else (m.setb (F.schJobStat_PAUSED j) false).setb (F.schJobStat_PREEMPTED j) false
  (m.schShow.jobFaultLine.clockShow).engClean

/-! ## Clusters -/

/-- Logical clusters of the part (R20). -/
def partClusters : List Nat := (List.range 96).filter fun c => clusterExists c

/-- A class-0 job reserves cluster `c` (R197). -/
def Mach.reserved (m : Mach) (c : Nat) : Bool :=
  (List.range 64).any fun j => m.jobState j != 0 && m.jobClass j = 0
    && m.get (F.schJobRsv_C0_FIRST j) ≤ c && c < m.get (F.schJobRsv_C0_FIRST j) + m.c0Clusters j

def Mach.clQueue (m : Mach) (c : Nat) : List Tile := spGet (fun _ => []) m.clq c
def Mach.setClq (m : Mach) (c : Nat) (q : List Tile) : Mach := { m with clq := spPut (fun _ => []) m.clq c q }

/-- No tile is queued or runs on cluster `c`. -/
def Mach.clEmpty (m : Mach) (c : Nat) : Bool := (m.clQueue c).isEmpty && !m.running.any (·.cluster = c)

/-- When cluster `c` last became idle, in base ns (R206). -/
def Mach.idleSince (m : Mach) (c : Nat) : Nat := spGet (fun _ => 0) m.clIdle c
def Mach.setIdle (m : Mach) (c : Nat) : Mach :=
  if m.clEmpty c then { m with clIdle := spPut (fun _ => 0) m.clIdle c m.now } else m

/-- FLR_STAT of cluster `c` shows its cores (R158). -/
def Mach.flrShow (m : Mach) (c : Nat) : Mach :=
  if 96 ≤ c then m
  else
    let busy := (List.range 64).countP fun k => (m.core (64 * c + k)).running
    let m := m.set (F.flrStat_BUSY c) busy
    let st := m.get (F.flrStat_STATE c)
    if st = 0 || st = 1 then m.set (F.flrStat_STATE c) (if busy = 0 then 0 else 1) else m

/-- SCH_JOB_WM follows the tasks queued on the job's clusters (R223). -/
def Mach.wmShow (m : Mach) (j : Nat) : Mach :=
  let old := m.get (F.schJobWm_LEVEL j)
  if 64 ≤ j then m
  else
  let lvl := ((m.clq.flatMap (·.2)).filter (·.job = j)).foldl (fun a t => a + t.tasks.length) 0
    + (m.jrt j).waiting.foldl (fun a t => a + t.tasks.length) 0
  let mark := m.get (F.schJobWm_MARK j)
  let m := (m.set (F.schJobWm_LEVEL j) lvl).setb (F.schJobWm_ABOVE j) (mark ≤ lvl)
  if old < mark && mark ≤ lvl then (m.setb (F.schJobWm_NOTICE j) true).emit 0x0C 0x1E 0 [(6, (j : Int)), (16, (lvl : Int))] else m

/-- The core stops: its task is over and it has no more of its registers (R152, R195). -/
def Mach.coreStop (m : Mach) (k : Nat) : Mach :=
  { m.modCore k fun c => { c with running := false } with mbxWait := m.mbxWait.filter fun w => w.core ≠ k }

/-- Every task of job `j` stops (R195); its unstarted tiles and assemblies are discarded when `drop`. -/
def Mach.tasksStop (m : Mach) (j : Nat) (drop : Bool) : Mach :=
  let mine := m.running.filter fun t => t.tile.job = j
  let m := mine.foldl (fun m t => t.cores.foldl (fun m k => m.coreStop k) m) m
  let m := { m with running := m.running.filter fun t => t.tile.job ≠ j }
  let m := if drop then
    { m.modJob j fun r => { r with waiting := [] } with
        clq := (m.clq.map fun (x : Nat × List Tile) => (x.1, x.2.filter fun t => t.job ≠ j)).filter fun x => !x.2.isEmpty
        asms := m.asms.filter fun a => a.page ≠ j }
  else m
  let m := ((m.jrt j).clusters.foldl (fun m c => (m.flrShow c).setIdle c) m)
  m.wmShow j

/-- Cluster `c` leaves its job (R195, R206). -/
def Mach.clFree (m : Mach) (c : Nat) : Mach :=
  match m.clusterJob c with
  | none => m
  | some j =>
    if 96 ≤ c || 64 ≤ j then m
    else
    let m := { m with clJob := spPut (fun _ => 0) m.clJob c 0 }
    let m := m.modJob j fun r => { r with clusters := r.clusters.filter (· ≠ c) }
    let m := m.modJob j fun r => { r with waitSince := if r.clusters.length < m.clMin j then some (r.waitSince.getD m.now) else none }
    (((m.set (F.schJobStat_CLUSTERS j) (m.jrt j).clusters.length).set (F.flrStat_JOB c) 0).flrShow c).setIdle c

/-- Job `j`'s clusters return to the unreserved set (R195). -/
def Mach.clFreeAll (m : Mach) (j : Nat) : Mach := (m.jrt j).clusters.foldl (fun m c => m.clFree c) m

/-- Cluster `c` is placed with job `j` (R206): local stores discarded, the instruction store loaded with the job's floor image. -/
def Fx.clPlace (x : Fx) (c j : Nat) : Fx :=
  let base := 0x1100000000 + c * 0x100000
  let x := x.put [.clear base (base + 0x100000)]
  x.mach fun m =>
    let m := { m with clJob := spPut (fun _ => 0) m.clJob c (j + 1) }
    let m := m.modJob j fun r =>
      { r with clusters := r.clusters ++ [c], placedAt := if r.clusters.isEmpty then m.now else r.placedAt }
    let m := m.modJob j fun r => { r with waitSince := if r.clusters.length < m.clMin j then r.waitSince else none }
    let image := match m.pkgJob j with | some p => p.image | none => []
    let keep := m.istore.filter fun w => !(c * 8192 ≤ w.1 && w.1 < c * 8192 + 8192)
    let m := { m with istore := ((image.take 8192).foldl (fun (y : List (Nat × BitVec 32) × Nat) w => (spPut (fun _ => 0) y.1 y.2 w, y.2 + 1)) (keep, c * 8192)).1 }
    let m := (m.set (F.flrStat_JOB c) j).set (F.schJobStat_CLUSTERS j) (m.jrt j).clusters.length
    (m.flrShow c).setIdle c

/-! ### How many clusters each job gets (R206) -/

/-- Running jobs of a class that SCH places, in job order. -/
def Mach.placeable (m : Mach) (cls : Nat) : List Nat :=
  (List.range 64).filter fun j => m.jobClass j = cls && m.jobState j = 2 && !m.on (F.schJobStat_PREEMPTED j) && !m.on (F.schJobStat_PAUSED j)

/-- CL_MIN for each job in turn while the pool lasts. -/
def Mach.minShares (m : Mach) : List Nat → Nat → List (Nat × Nat) × Nat
  | [], n => ([], n)
  | j :: t, n =>
    let g := if m.clMin j ≤ n then m.clMin j else 0
    let (l, r) := m.minShares t (n - g)
    ((j, g) :: l, r)

/-- One more cluster for each job of `l` below its CL_MAX, in order, while the pool lasts. -/
def Mach.oneRound (m : Mach) : List (Nat × Nat) → Nat → List (Nat × Nat) × Nat
  | [], n => ([], n)
  | (j, g) :: t, n =>
    let more := if 0 < g && g < m.clMax j && 0 < n then 1 else 0
    let (l, r) := m.oneRound t (n - more)
    ((j, g + more) :: l, r)

/-- Equal numbers within a class (R206). -/
def Mach.extraShares (m : Mach) : Nat → List (Nat × Nat) → Nat → List (Nat × Nat) × Nat
  | 0, l, n => (l, n)
  | f + 1, l, n =>
    let (l', n') := m.oneRound l n
    if n' = n then (l, n) else m.extraShares f l' n'

/-- The clusters each placed job of classes 1 and 2 is to hold (R206). -/
def Mach.shares (m : Mach) : List (Nat × Nat) :=
  let pool := (partClusters.filter fun c => !m.reserved c).length
  let (l1, r) := m.minShares (m.placeable 1) pool
  let (l2, r) := m.minShares (m.placeable 2) r
  let (l1, r) := m.extraShares 96 l1 r
  let (l2, _) := m.extraShares 96 l2 r
  l1 ++ l2

/-- A job above its share has left cluster `c` idle for 50 µs, and it can be placed with job `j` (R206). -/
def Mach.clIdleFor (m : Mach) (sh : List (Nat × Nat)) (j c : Nat) : Bool :=
  match m.clusterJob c with
  | some k =>
    k ≠ j && m.clEmpty c && decide (m.idleSince c + 50000 ≤ m.now)
      && decide (((sh.find? (·.1 = k)).map (·.2)).getD 0 < (m.jrt k).clusters.length)
      && (m.running.all fun t => !(t.tile.job = k && t.tile.pin && t.cluster = c))
  | none => false

/-- A cluster for job `j`: the lowest-numbered free one, else one that a job above its share has left idle (R206). -/
def Mach.clPick (m : Mach) (sh : List (Nat × Nat)) (j : Nat) : Option Nat :=
  let pool := partClusters.filter fun c => !m.reserved c
  match pool.find? fun c => (m.clusterJob c).isNone with
  | some c => some c
  | none => pool.find? fun c => m.clIdleFor sh j c

/-- Clusters that job `j` could be given now (R206). -/
def Mach.spare (m : Mach) (j : Nat) : Nat :=
  let sh := m.shares
  (partClusters.filter fun c => !m.reserved c).countP fun c => (m.clusterJob c).isNone || m.clIdleFor sh j c

/-- Job `j` receives clusters up to its share. -/
def Fx.clGive (x : Fx) (sh : List (Nat × Nat)) (j : Nat) : Nat → Fx
  | 0 => x
  | n + 1 =>
    match x.m.clPick sh j with
    | some c => ((x.mach (·.clFree c)).clPlace c j).clGive sh j n
    | none => x

/-- Tasks queued on cluster `c`. -/
def Mach.queuedTasks (m : Mach) (c : Nat) : Nat := (m.clQueue c).foldl (fun a t => a + t.tasks.length) 0

/-- The cluster of `l` with the fewest queued tasks, the earlier on a tie (R204). -/
def Mach.fewest (m : Mach) : List Nat → Option Nat
  | [] => none
  | c :: t =>
    match m.fewest t with
    | none => some c
    | some d => if m.queuedTasks c ≤ m.queuedTasks d then some c else some d

/-- Where a complete tile goes (R204): none while its job holds no cluster for it. -/
def Mach.tileHome (m : Mach) (t : Tile) : Option Nat :=
  let cls := (m.jrt t.job).clusters
  if (t.pin || m.jobClass t.job = 0) && t.cl < cls.length then cls[t.cl]?
  else if t.pin && m.jobClass t.job ≠ 0 then none
  else m.fewest cls

/-- A tile enters a cluster's queue (R204): a parked cluster wakes (R206). -/
def Mach.tilePut (m : Mach) (c : Nat) (t : Tile) : Mach :=
  ((m.setClq c (m.clQueue c ++ [t])).wakeCluster c).wmShow t.job

/-- A complete tile is placed, or waits for its job to hold clusters (R204). -/
def Mach.tilePlace (m : Mach) (t : Tile) : Mach :=
  match m.tileHome t with
  | some c => m.tilePut c t
  | none =>
    (m.modJob t.job fun r => { r with waiting := r.waiting ++ [t] }).wmShow t.job

/-- Tiles that waited for clusters are placed (R204). -/
def Mach.waitingGo (m : Mach) (j : Nat) : Mach :=
  let ts := (m.jrt j).waiting
  if ts.isEmpty then m else ts.foldl (fun m t => m.tilePlace t) (m.modJob j fun r => { r with waiting := [] })

/-- SCH places the running jobs of classes 1 and 2 (R206), and the tiles that waited for their clusters (R204). -/
def Fx.placeJobs (x : Fx) : Fx :=
  let sh := x.m.shares
  sh.foldl (fun x s =>
    (x.clGive sh s.1 (s.2 - (x.m.jrt s.1).clusters.length)).mach fun m =>
      m.cond ((m.jrt s.1).saved.isNone && !(m.jrt s.1).clusters.isEmpty) (·.waitingGo s.1)) x

/-- A class-0 job takes its reserved range (R197, R204), as far as the part has it (R20). -/
def Fx.placeReserved (x : Fx) (j : Nat) : Fx :=
  let first := x.m.get (F.schJobRsv_C0_FIRST j)
  let want := ((List.range (x.m.c0Clusters j)).map (first + ·)).filter clusterExists
  want.foldl (fun x c => if x.m.clusterJob c = some j then x else (x.mach (·.clFree c)).clPlace c j) x

/-! ## Faults -/

/-- A unit working for job `j` faults it with a 16-bit event code (R195). -/
def Fx.jobFault (x : Fx) (j code : Nat) : Fx :=
  if !x.m.jobActive j then x
  else
    let x := x.mach fun m => ((m.set (F.schJobStat_FAULT_SRC j) code).jobGo j 5).emit 0x0C 0x11 0 [(6, (j : Int)), (16, (code : Int))]
    let x := x.mach fun m => (m.freezeTrigger 3).tasksStop j true
    let x := (x.m.jobEntries j).foldl (fun x e => x.hopStop e) x
    if x.m.jobClass j = 0 then
      x.mach fun m => (m.mon.filter fun b => b.job = j && !b.delivered).foldl (fun m b => m.deliverSubst b) m
    else x.mach (·.clFreeAll j)

/-- Jobs that a refused signal of this command faults (R195, R218). -/
def Fx.violations (x : Fx) : Fx :=
  x.m.violated.foldl (fun x j => x.jobFault j 0x0D10) (x.mach fun m => { m with violated := [] })

/-- Hopper meets a bus error on an access for entry `e` (R191). -/
def Fx.hopFault (x : Fx) (e : Nat) : Fx :=
  let x := x.mach fun m => m.emit 0x0B 0x04 0 []
  (x.hopStop e).jobFault (x.m.hopJob e) 0x0B04

/-- Hopper writes a page entry (R175); a bus error faults its entry (R191). -/
def Fx.hopPage (x : Fx) (e vp w : Nat) : Fx :=
  let (ok, x) := x.setPage e vp w
  if ok then x else x.hopFault e

/-! ## An entry's end (R164) -/

/-- A local neighbour takes an END notice (R185, R190): its side facing the sender ends at row `row`. -/
def Fx.localEnd (x : Fx) (dst : Nat) (right : Bool) (row : Nat) : Fx :=
  let m := x.m
  let h := (m.hopEnt dst).side right
  if m.hopState dst = 2 && h.detach.isNone then
    let (ok, x) := (x.mach (·.bump F.hopCntHalo_ENDS)).detach dst right row 0
    (if ok then x else x.hopFault dst).violations
  else x

/-- After an ENDED entry's last step has sent its halo, an END notice goes to each neighbour (R164): to a local one when its copy is done. -/
def Fx.endNotices (x : Fx) (e : Nat) : Fx :=
  match (x.m.hopEnt e).endRow with
  | none => x
  | some row =>
    [false, true].foldl (fun x right =>
      let m := x.m
      let h := (m.hopEnt e).side right
      let ty := m.nbrType e right
      if m.hopState e = 3 && (ty = 1 || ty = 2) && !h.endSent && row * m.layers e ≤ (if ty = 1 then h.copied else h.sent) then
        let x := x.mach (·.modSide e right fun h => { h with endSent := true })
        if ty = 1 then x.localEnd (m.nbrEnt e right) (!right) row
        else x.mach (·.fabricSend (m.nbrPos e right)
          ⟨2, 0x48, [], m.haloHeader e (m.nbrEnt e right) (!right) 0 true (row + m.stepBase (m.hopJob e))⟩)
      else x) x

/-- Entry `e` ends at row `row` (R164). -/
def Fx.hopEndAt (x : Fx) (e row : Nat) : Fx :=
  if x.m.hopState e = 2 then
    let abs := row + x.m.stepBase (x.m.hopJob e)
    let x := x.mach fun m =>
      let m := ((m.hopGo e 3).set (F.hopEntStat_END_ROW e) abs).modHop e fun h => { h with endRow := some row }
      ((m.tellFollower 0 0x14 [e, abs] []).showBacklog e).emit 0x0B 0x10 0 [(10, (e : Int)), (32, (abs : Int))]
    x.endNotices e
  else x

/-- Entries whose port has entered LOSS or stopped end there (R164); a follower's wait for the lead's END_ROW. -/
def Fx.hopPort (x : Fx) (p : Nat) : Fx :=
  let st := x.m.get (F.grsStatus_STATE p)
  if (st = 0 || st = 3) && !x.m.follower then
    (x.m.hop.filter fun y => y.1 < 1024 && y.2.live && x.m.get (F.hopEntCfg_PORT y.1) = p).foldl
      (fun x y => x.hopEndAt y.1 ((x.m.grsPort p).lines / 64)) x
  else x

/-! ## Stops -/

/-- A job's unit stops without firmware writing RUN (R194, R510): ports and pipelines. -/
def Fx.unitStop (x : Fx) (u : Nat × Nat) : Fx :=
  match u.1 with
  | 0x01 => if u.2 < 16 then (x.mach (·.grsStop u.2)).hopPort u.2 else x
  | 0x02 => if u.2 < 16 then x.mach (·.mshStop u.2) else x
  | _ => x

/-- JOB_STOP (R193, R194): SCH_JOB_CTL.STOP; ignored unless the job is RUNNING. -/
def jobStopFx (j : Nat) (x : Fx) : Fx :=
  if j < 64 && x.m.jobState j = 2 then
    let units := x.m.ownUnits j
    let ports := units.filter (·.1 = 1)
    let x := x.mach fun m =>
      let m := (m.jobGo j 3).modJob j fun r => { r with stopAt := some m.now, waiting := [] }
      let m := { m with
        clq := (m.clq.map fun (q : Nat × List Tile) => (q.1, q.2.filter fun (t : Tile) => t.job ≠ j)).filter fun q => !q.2.isEmpty
        asms := m.asms.filter fun a => a.page ≠ j }
      (m.jrt j).clusters.foldl (fun m c => m.setIdle c) (m.wmShow j)
    let x := units.foldl (fun x u => x.unitStop u) x
    x.mach fun m => m.record ⟨0x05, j, 0, false, m.reel,
      leBytes 4 1 ++ leBytes 4 j ++ ports.flatMap fun u => leBytes 4 u.2 ++ leBytes 4 ((m.grsPort u.2).lines)⟩
  else x

/-- Job `j` becomes STOPPED: its entries stop (R163), commands of it that never started are discarded (R154, R194), its runs of verdict events
end (R509), a class-1 or class-2 job leaves its clusters. -/
def Fx.jobStoppedNow (x : Fx) (j : Nat) : Fx :=
  let x := x.mach fun m =>
    let m := { m with eng := m.eng.map fun (y : Nat × Eng) =>
      let keep (l : List Cmd) : List Cmd := l.filter fun c => c.job ≠ j
      (y.1, { y.2 with q0 := keep y.2.q0, q1 := keep y.2.q1, q2 := keep y.2.q2
                       run := match y.2.run with | some (q, c) => if c.job = j then none else some (q, c) | none => none }) }
    let m := (m.tasksStop j true).modJob j fun r => { r with stopAt := none, saved := none }
    (m.runsEnd fun r => r.blk = 0x0C && 0x14 ≤ r.loc && r.loc ≤ 0x16 && r.unit = j).jobGo j 4
  let x := (x.m.jobEntries j).foldl (fun x e => x.hopStop e) x
  if x.m.jobClass j = 0 then x else (x.mach (·.clFreeAll j)).placeJobs

/-- JOB_STOPPED (R193): nothing of a STOPPING job runs and no verdict of it is outstanding. A step in flight is over once none of its commands and
tasks runs (log entry 140). -/
def jobStoppedFx (j : Nat) (x : Fx) : Fx :=
  let m := x.m
  let busy := (m.running.any fun t => t.tile.job = j)
    || (m.eng.any fun y => match y.2.run with | some (_, c) => c.job = j | none => false)
    || (m.mon.any fun b => b.job = j && !b.delivered)
    || ((m.ownUnits j).any fun u => (u.1 = 1 && m.get (F.grsStatus_STATE u.2) != 0) || (u.1 = 2 && m.get (F.mshCtl_STATE u.2) != 0))
  if m.jobState j = 3 && !busy then x.jobStoppedNow j else x

/-- STOP_TIMEOUT (R194): STOP_MS, 1 at least, after the stop began; no verdict can come any more, and the blocks still open get their substitute
(log entry 139). -/
def stopTimeoutFx (j : Nat) (x : Fx) : Fx :=
  match (x.m.jrt j).stopAt with
  | some t =>
    if x.m.jobState j = 3 && t + max 1 (x.m.get F.schCfg_STOP_MS) * 1000000 ≤ x.m.now then
      let x := x.mach fun m => (m.mon.filter fun b => b.job = j && !b.delivered).foldl (fun m b => m.deliverSubst b) m
      (x.jobStoppedNow j).mach (·.emit 0x0C 0x1D 0 [(6, (j : Int))])
    else x
  | none => x

/-- JOB_CLEAR (R193): SCH_JOB_CTL.CLEAR; ignored unless the job is FAULTED. -/
def jobClear (j : Nat) (m : Mach) : Mach := if j < 64 && m.jobState j = 5 then m.jobGo j 4 else m

end Sys2Proof.Machine
end

