-- ==== Sys2Proof/Machine/Tile.lean ====
section
/-!
DEFINITION. Tiles and cluster queues (R202 to R206), pre-emption (R207, R208), accounting (R211), engine frames (R201) and the
store to a verdict page (R244).
-/

namespace Sys2Proof.Machine

/-! ## Submission (R202, R203) -/

/-- TASK_REJECTED (R224): the job page and the writer's agent ID. -/
def Mach.taskRejected (m : Mach) (page agent : Nat) : Mach := m.emit 0x0C 0x1F 0 [(6, (page : Int)), (12, (agent : Int))]

/-- The tile and the task that a descriptor's words spell (R202). -/
def tileOf (id job now : Nat) (w0 : Nat) : Tile :=
  { id, job, need := w0 / 2 ^ 46 % 64 + 1, pin := w0 / 2 ^ 45 % 2 = 1, doneEn := w0 / 2 ^ 44 % 2 = 1, doneObj := w0 / 2 ^ 30 % 2 ^ 14,
    cl := w0 / 2 ^ 23 % 128, tasks := [], since := now }
def taskOf (ws : List Word) : Task :=
  let w0 := (ws.getD 0 0).toNat
  { plan := w0 / 2 ^ 52, pc := w0 % 2 ^ 15, args := (ws.drop 1).take 7 }

/-- The reserved bits of a descriptor's word 0 (R202). -/
def taskReserved : Nat := 0x7F8000

/-- The agents that may write tasks to the page of job `j` (R203): the management controller, Hopper, and cores of the job. -/
def mayTask (agent : Nat) (coreJob : Option Nat) (j : Nat) : Bool := agent = 0x001 || agent = 0x060 || coreJob = some j

/-- A write to a submission page (R202 to R204): false when the writer stalls. `coreJob` is the job of a writing core. -/
def Mach.submit (m : Mach) (agent : Nat) (coreJob : Option Nat) (addr : Nat) (ws : List Word) : Bool × Mach :=
  let j := (addr - 0x1800B00000) / 0x1000 % 64
  let w0 := (ws.getD 0 0).toNat
  if ws.length ≠ 8 ∨ addr % 64 ≠ 0 ∨ w0 &&& taskReserved ≠ 0 ∨ mayTask agent coreJob j = false then (true, m.taskRejected j agent)
  else if m.jobState j ≠ 2 then (true, m)
  else
    let old := m.asms.find? fun a => a.page = j && a.agent = agent
    if old.isNone && m.asms.length ≥ 64 then (false, m)
    else
      let a : Asm := old.getD { page := j, agent, tile := tileOf m.tileSeq j m.now w0 }
      let t : Tile := { a.tile with tasks := a.tile.tasks ++ [taskOf ws], since := m.now }
      if t.tasks.length < t.need then
        (true, { m with asms := (m.asms.filter fun b => !(b.page = j && b.agent = agent)) ++ [{ a with tile := t }]
                        tileSeq := if old.isNone then m.tileSeq + 1 else m.tileSeq })
      else
        let full := match m.tileHome t with | some c => decide ((m.clQueue c).length ≥ 64) | none => false
        if full then (false, m)
        else
          let m := { m with asms := m.asms.filter fun b => !(b.page = j && b.agent = agent)
                            tileSeq := if old.isNone then m.tileSeq + 1 else m.tileSeq }
          (true, (m.tilePlace t).modJob j fun r => { r with progressAt := m.now })

/-- The job of core `k`'s cluster, its agent ID (R33). -/
def Mach.coreJob (m : Mach) (k : Nat) : Option Nat := m.clusterJob (k / 64)
def Mach.coreAgent (m : Mach) (k : Nat) : Nat := 0x100 + (m.core k).plan

/-- TASK_WRITE (R202): by the management controller, Hopper, or a core of job `job`. -/
def taskWrite (agent job addr : Nat) (bytes : List Byte) (m : Mach) : Mach :=
  if 0x1800B00000 ≤ addr ∧ addr < 0x1800B40000 then
    (m.submit agent (if agent ≥ 0x100 then some job else none) addr (pageWords 64 bytes)).2
  else m

/-! ## Start, steal, halt -/

/-- WAIT_TOTAL, WAIT_MAX and the histogram of a tile's wait of `ns` (R211): the total counts at full resolution (R382). -/
def Mach.accWait (m : Mach) (j ns : Nat) : Mach :=
  if 64 ≤ j then m
  else
  let us := ns / 1000
  let bin := if us = 0 then 0 else min 15 (Nat.log2 us + 1)
  let h := if bin % 2 = 0 then F.schAccHist_EVEN j (bin / 2) else F.schAccHist_ODD j (bin / 2)
  let m := m.modJob j fun r => { r with waitNs := r.waitNs + ns }
  let m := (m.set (F.schAccWait_TOTAL j) ((m.jrt j).waitNs / 1000)).count h
  m.set (F.schAccWmax_MAX j) (max (m.get (F.schAccWmax_MAX j)) (min us (2 ^ 32 - 1)))

/-- The idle cores of cluster `c`, lowest-numbered first. -/
def Mach.idleCores (m : Mach) (c : Nat) : List Nat := ((List.range 64).map (64 * c + ·)).filter fun k => !(m.core k).running

/-- Tasks in PLAN order (R204). -/
def insertTask (t : Task) : List Task → List Task
  | [] => [t]
  | x :: l => if t.plan < x.plan then t :: x :: l else x :: insertTask t l
def sortTasks (l : List Task) : List Task := l.foldl (fun a t => insertTask t a) []

/-- A core starts a task (R147): PC and s1 to s7 from the descriptor. -/
def Mach.coreStart (m : Mach) (k tile : Nat) (t : Task) : Mach :=
  m.modCore k fun c =>
    let c := { c with pc := t.pc, running := true, plan := t.plan, tile := tile, dma := [] }
    (List.range 7).foldl (fun c i => c.setS (i + 1) (t.args.getD i 0)) c

/-- The job's tiles may run: it runs, and no switch or pause holds them (R207, R208). -/
def Mach.tilesRun (m : Mach) (j : Nat) : Bool :=
  m.jobActive j && !m.on (F.schJobStat_PREEMPTED j) && !m.on (F.schJobStat_PAUSED j)
    && (match m.switching with | some s => s.incoming ≠ j | none => true)

/-- A trace record of a tile (R461). -/
def Mach.traceTile (m : Mach) (typ : Nat) (t : Tile) (c wait : Nat) : Mach :=
  m.trace 9 true (some t.job) { typ, job := t.job, agent := 0x061, layer := 0, operator := 0, sub := t.tasks.length, reel := m.reel, arg0 := c, arg1 := wait }

/-- TILE_START (R204): the head tile of cluster `c` when TILE_N + 1 of its cores are idle. -/
def tileStart (c : Nat) (m : Mach) : Mach :=
  match m.clQueue c with
  | [] => m
  | t :: rest =>
    let idle := m.idleCores c
    let st := m.get (F.flrStat_STATE c)
    if (st = 0 || st = 1) && t.need ≤ idle.length && m.tilesRun t.job && !m.traceStalls 0x061 then
      let cores := idle.take t.tasks.length
      let m := m.traceTile 0x03 t c ((m.now - t.since) / 1000)
      let m := (m.setClq c rest).cond (!t.again) (·.accWait t.job (m.now - t.since))
      let m := ((sortTasks t.tasks).zip cores).foldl (fun m x => m.coreStart x.2 t.id x.1) m
      let m := { m with running := m.running ++ [({ tile := t, cluster := c, cores, left := cores.zip (sortTasks t.tasks) } : RunTile)] }
      ((m.flrShow c).wmShow t.job).modJob t.job fun r => { r with progressAt := m.now }
    else m

/-- The tile of core `k` loses it at HALT; the last one ends the tile and signals DONE_OBJ (R202). -/
def Mach.taskEnd (m : Mach) (k : Nat) : Mach :=
  let c := k / 64
  let m := m.coreStop k
  match m.running.find? fun t => t.cores.contains k with
  | none => m.flrShow c
  | some t =>
    let left := t.cores.filter (· ≠ k)
    let m := m.modJob t.tile.job fun r => { r with progressAt := m.now }
    if left.isEmpty then
      let m := { m with running := m.running.filter fun u => u.tile.id ≠ t.tile.id }
      let m := m.traceTile 0x04 t.tile t.cluster 0
      let m := if t.tile.doneEn then m.synSignal 0x061 t.tile.job t.tile.doneObj else m
      (m.flrShow c).setIdle c
    else
      { m with running := m.running.map fun (u : RunTile) => if u.tile.id = t.tile.id then { u with cores := left, left := u.left.filter (·.1 ≠ k) } else u }.flrShow c

/-- The cluster of `l` with the most queued tasks, the earlier on a tie (R205). -/
def Mach.most (m : Mach) : List Nat → Option Nat
  | [] => none
  | c :: t =>
    match m.most t with
    | none => some c
    | some d => if m.queuedTasks d ≤ m.queuedTasks c then some c else some d

/-- STEAL (R205): an idle cluster takes the youngest unstarted tile that may move and fits, from the job's fullest cluster. -/
def steal (c : Nat) (m : Mach) : Mach :=
  match m.clusterJob c with
  | none => m
  | some j =>
    let idle := (m.idleCores c).length
    if m.jobClass j ≠ 0 && (m.clQueue c).isEmpty && idle != 0 && m.tilesRun j then
      match m.most ((m.jrt j).clusters.filter (· ≠ c)) with
      | none => m
      | some d =>
        match (m.clQueue d).reverse.find? fun t => !t.pin && decide (t.need ≤ idle) with
        | none => m
        | some t =>
          let m := m.setClq d ((m.clQueue d).filter fun u => u.id ≠ t.id)
          ((m.setIdle d).tilePut c t).count (F.schAccCnt_STEALS j)
    else m

/-! ## Parking (R206) -/

/-- CLUSTER_PARKED (R206): an unreserved cluster with no job, or idle for PARK_US. -/
def clusterParkedFx (c : Nat) (x : Fx) : Fx :=
  let m := x.m
  if m.get (F.flrStat_STATE c) = 0 && !m.reserved c && m.clEmpty c
      && ((m.clusterJob c).isNone || decide (m.idleSince c + m.get F.schCfg_PARK_US * 1000 ≤ m.now)) then
    (x.mach fun m => (m.set (F.flrStat_STATE c) 2).emit 0x09 0x11 c [(7, (c : Int))]).placeJobs
  else x

/-- CLUSTER_WOKEN (R206): a parked cluster completes its wake. -/
def clusterWoken (c : Nat) (m : Mach) : Mach :=
  if m.get (F.flrStat_STATE c) = 3 then
    ((m.set (F.flrStat_STATE c) 0).flrShow c).emit 0x09 0x12 c [(7, (c : Int))]
  else m

/-! ## Pre-emption -/

/-- Engines that run a command of job `j` or hold one interrupted (R208). -/
def Mach.jobEngines (m : Mach) (j : Nat) : List Nat :=
  (m.eng.filter fun x => match x.2.run with | some (_, c) => c.job = j | none => false).map (·.1)

/-- F of a job as it stands (R208). -/
def Mach.footprint (m : Mach) (j : Nat) : Nat :=
  64 * (m.jrt j).clusters.length * m.lsSave j + m.tunPages j * 16384
    + 65536 * (m.jobEngines j).length

/-- One copy of SCH for job `j` (R34, R208, R371): false on a bus error, which SCH reports. -/
def Fx.schCopy (x : Fx) (j src dst len : Nat) : Bool × Fx :=
  if len = 0 then (true, x)
  else
    let acc : Acc := { agent := 0x061, job := some j }
    match x.read acc src len with
    | (none, x) => (false, x.mach (·.emit 0x0C 0x04 0 []))
    | (some b, x) =>
      match x.write acc dst b with
      | (true, x) => (true, x)
      | (false, x) => (false, x.mach (·.emit 0x0C 0x04 0 []))

/-- The local stores of job `j` copied between its clusters and its save area (R208): `out` saves, else restores. -/
def Fx.lsCopy (x : Fx) (j : Nat) (out : Bool) (clusters : List Nat) : Bool × Fx :=
  let n := x.m.lsSave j
  let base := x.m.get (F.schJobSave_BASE j) * 0x4000
  let slots := clusters.flatMap fun c => (List.range 64).map fun k => 0x1100000000 + c * 0x100000 + k * 0x4000
  let r := slots.foldl (fun (y : Bool × Nat × Fx) a =>
    let dst := base + y.2.1 * n
    if y.1 then let (ok, x) := if out then y.2.2.schCopy j a dst n else y.2.2.schCopy j dst a n; (ok, y.2.1 + 1, x) else y) (true, 0, x)
  (r.1, r.2.2)

/-- The Tun pages of job `j` copied between Tun and its save area, behind the local stores (R208). -/
def Fx.tunCopy (x : Fx) (j : Nat) (out : Bool) (clusters : Nat) : Bool × Fx :=
  let area := x.m.get (F.schJobSave_BASE j) * 0x4000 + 64 * clusters * x.m.lsSave j
  let tun := 0x1000000000 + x.m.get (F.schJobTun_TUN_OFF j) * 0x4000
  let len := x.m.tunPages j * 16384
  if out then x.schCopy j tun area len else x.schCopy j area tun len

/-- The tile of a started one's tasks that have not halted, as a switch saves it (R208): they start again from their descriptors. -/
def RunTile.halted (t : RunTile) (now : Nat) : Tile :=
  { t.tile with tasks := t.left.map (·.2), need := t.left.length, since := now, again := true }

/-- A job loses its clusters (R207, R208): its tasks halt and restart from their descriptors later, its state is saved; a job whose state is
saved already only leaves the clusters it was given. -/
def Fx.switchOut (x : Fx) (j : Nat) : Fx :=
  if (x.m.jrt j).saved.isSome then x.mach fun m => ((m.clFreeAll j).engClean).wmShow j
  else
  let cls := (x.m.jrt j).clusters
  let idx (c : Nat) : Nat := cls.findIdx (· = c)
  let tiles := (x.m.running.filter fun t => t.tile.job = j).map (fun t => (idx t.cluster, t.halted x.m.now))
    ++ cls.flatMap fun c => (x.m.clQueue c).map fun t => (idx c, t)
  let sv : Saved := { clusters := cls.length, engines := x.m.jobEngines j, bytes := x.m.footprint j, tiles }
  let x := x.mach fun m =>
    let m := (m.tasksStop j false).modJob j fun r => { r with saved := some sv }
    cls.foldl (fun m c => m.setClq c []) m
  let (ok1, x) := x.lsCopy j true cls
  let (ok2, x) := if ok1 then x.tunCopy j true cls.length else (false, x)
  let x := x.mach fun m => ((m.clFreeAll j).engClean).wmShow j
  if ok2 then x else x.jobFault j 0x0C04

/-- A placed job takes its saved state back (R208): local stores by job cluster index and core, Tun pages, tiles. -/
def Fx.switchIn (x : Fx) (j : Nat) : Fx :=
  match (x.m.jrt j).saved with
  | none => x.mach (·.waitingGo j)
  | some sv =>
    let cls := (x.m.jrt j).clusters
    let (ok1, x) := x.lsCopy j false (cls.take sv.clusters)
    let (ok2, x) := if ok1 then x.tunCopy j false sv.clusters else (false, x)
    let x := x.mach fun m =>
      let m := m.modJob j fun r => { r with saved := none }
      let m := sv.tiles.foldl (fun m t => match cls[t.1]? with | some c => m.tilePut c t.2 | none => m.tilePlace t.2) m
      (m.waitingGo j).engClean
    if ok2 then x else x.jobFault j 0x0C04

/-- Shedding pauses the class of job `j` (R207, R393). -/
def Mach.classShed (m : Mach) (j : Nat) : Bool := m.shed.testBit (m.jobClass j) || m.shed.testBit (4 + m.jobClass j)

/-- The job of class `c` placed longest ago, the lower on a tie (R207). -/
def Mach.oldestPlaced (m : Mach) (c : Nat) : Option Nat :=
  (m.placeable c).foldl (fun (a : Option Nat) j =>
    if (m.jrt j).clusters.isEmpty then a
    else match a with
      | none => some j
      | some i => if (m.jrt j).placedAt < (m.jrt i).placedAt then some j else some i) none

/-- Job `j` waits for clusters: it runs, is not paused, and holds fewer than its CL_MIN (R207). -/
def Mach.wantsClusters (m : Mach) (j : Nat) : Bool :=
  m.jobState j = 2 && !m.on (F.schJobStat_PAUSED j) && decide ((m.jrt j).clusters.length < m.clMin j)

/-- A complete tile of job `j` that has not started has waited `ns` (R207): unplaced, queued, or saved by a switch. -/
def Mach.tileWaits (m : Mach) (j ns : Nat) : Bool :=
  let saved := match (m.jrt j).saved with | some s => s.tiles.map (·.2) | none => []
  ((m.jrt j).waiting ++ saved ++ (m.clq.flatMap (·.2)).filter fun t => t.job = j).any fun t => t.since + ns ≤ m.now

/-- Job `j` has been without its CL_MIN clusters longer than job `i` (R207). -/
def Mach.waitsLonger (m : Mach) (j i : Nat) : Bool :=
  match (m.jrt j).waitSince, (m.jrt i).waitSince with
  | some a, some b => a < b
  | some _, none => true
  | none, _ => false

/-- A case of R207 holds for pre-empting `j` for `i`: the clusters that are free do not give `i` its CL_MIN. -/
def Mach.mayPreempt (m : Mach) (j i : Nat) : Bool :=
  m.switching.isNone && m.wantsClusters i && decide ((m.jrt i).clusters.length + m.spare i < m.clMin i) &&
    ((m.jobClass i = 1 && m.oldestPlaced 2 = some j && m.tileWaits i (m.get F.schCfg_PREEMPT_WAIT_US * 1000))
      || (m.jobClass i = m.jobClass j && m.jobClass i ≠ 0 && m.oldestPlaced (m.jobClass j) = some j
        && decide ((m.jrt j).placedAt + max 1 (m.get F.schCfg_QUANTUM_MS) * 1000000 ≤ m.now)
        && (List.range 64).all fun k =>
          !(k ≠ i && m.jobClass k = m.jobClass i && m.wantsClusters k && m.waitsLonger k i)))

/-- PREEMPT (R207, R208): `incoming` 0x3F for a pause. -/
def preemptFx (j incoming : Nat) (x : Fx) : Fx :=
  let m := x.m
  if incoming = 0x3F then
    if m.jobClass j ≠ 0 && m.classShed j && m.jobActive j && !m.on (F.schJobStat_PAUSED j) then
      let x := x.mach fun m => ((m.setb (F.schJobStat_PAUSED j) true).count (F.schAccCnt_PREEMPTS j)).emit 0x0C 0x13 0 [(6, (j : Int)), (6, 0x3F)]
      x.switchOut j
    else x
  else if m.mayPreempt j incoming then
    let fOut := m.footprint j
    let fIn := match (m.jrt incoming).saved with | some s => s.bytes | none => 0
    let due := m.now + 200000 + (fOut + fIn) / 64
    let x := x.mach fun m =>
      ((m.setb (F.schJobStat_PREEMPTED j) true).count (F.schAccCnt_PREEMPTS j)).emit 0x0C 0x13 0 [(6, (j : Int)), (6, (incoming : Int))]
    let x := (x.switchOut j).mach fun m => { m with switching := some { incoming, due } }
    let want := x.m.clMin incoming
    x.clGive [(incoming, want)] incoming (want - (x.m.jrt incoming).clusters.length)
  else x

/-- The job takes up its work after a switch or a pause (R207, R208). -/
def Fx.resume (x : Fx) (j : Nat) : Fx :=
  let was := x.m.on (F.schJobStat_PREEMPTED j) || x.m.on (F.schJobStat_PAUSED j)
  let x := x.mach fun m => (m.setb (F.schJobStat_PREEMPTED j) false).setb (F.schJobStat_PAUSED j) false
  let x := x.placeJobs.switchIn j
  x.mach fun m => (m.engClean).cond was (·.emit 0x0C 0x20 0 [(6, (j : Int))])

/-! ## Frames and verdict stores -/

/-- FRAME_START (R201): engine `e` begins the slot frame of the Reel multiple of 16,000 ns. -/
def frameStart (e : Nat) (m : Mach) : Mach :=
  let x := m.engine e
  if x.frame + 16000 ≤ m.reel then
    m.modEng e fun x => { x with busy := [], frame := m.reel.fdiv 16000 * 16000, runAt := if x.run.isSome then m.now else x.runAt }
  else m

/-- VERDICT_STORE (R244): core `k` stores to a verdict page. -/
def verdictStore (k addr : Nat) (bytes : List Byte) (m : Mach) : Mach :=
  match m.coreJob k with
  | some j => if (m.core k).running && decide (0x1800B40000 ≤ addr) && decide (addr < 0x1800B80000) then m.verdictPage j (m.coreAgent k) addr (pageWords 32 bytes) else m
  | none => m

end Sys2Proof.Machine
end

