-- ==== Sys2Proof/Machine/Restart.lean ====
section
/-!
DEFINITION. Stop, change, restart (R212 to R215): arming, the units' checks, reports, the decision, and the start at the tick.
-/

namespace Sys2Proof.Machine

/-! ## Scope -/

/-- The jobs in scope (R212, R213): those the package defines. -/
def Mach.scopeJobs (m : Mach) (scope : Nat) : List Nat := (List.range 64).filter fun j => scope.testBit j && m.jobState j != 0

/-- The units in scope, as block code and instance: those the package lists for the jobs (R213), the jobs' Hopper entries (R163),
and TIM (R447). -/
def Mach.scopeUnits (m : Mach) (scope : Nat) : List (Nat × Nat) :=
  let js := m.scopeJobs scope
  ((js.flatMap m.jobUnits) ++ (js.flatMap fun j => (m.jobEntries j).map fun e => (0x0B, e)) ++ [(0x19, 0)]).eraseDups

/-- A unit with RUN = 0 takes part in no restart (R510). -/
def Mach.takesPart (m : Mach) (u : Nat × Nat) : Bool :=
  match u.1 with
  | 0x01 => m.on (F.grsCtl_RUN u.2)
  | 0x02 => m.on (F.mshCtl_RUN u.2)
  | 0x0F => m.on (F.posCtl_RUN u.2)
  | 0x10 => m.on (F.cmpCtl_RUN u.2)
  | _ => true

/-- The control base of a block (R29). -/
def blockBase (blk : Nat) : Nat := if blk < 0x1B then (blk - 1) * 0x100000 else 0x1B00000

/-- The offset of a unit's first offending register from its block's base; none when it answers APPLIED (R213); `us` are the units that start with it. -/
def Mach.unitBad (m : Mach) (us : List (Nat × Nat)) (u : Nat × Nat) : Option Nat :=
  let o : Option Nat := match u.1 with
    | 0x01 => m.grsInvalid u.2
    | 0x02 => m.mshInvalid us u.2
    | 0x0B => m.hopInvalid u.2
    | 0x0F => m.posInvalid u.2
    | 0x10 => (m.cmpInvalid u.2).map (·.2)
    | 0x11 => m.fioInvalid
    | 0x19 => if m.get F.timReelStat_STATE = 1 then some R.timReelStat else none
    | _ => none
  o.map (· - blockBase u.1)

/-- A unit's CFG_INVALID event, by its block: the local code and the arguments (R71, R107, R191, R259, R263, R290). -/
def Mach.cfgInvalid (m : Mach) (u : Nat × Nat) (off : Nat) : Mach :=
  let a (w : Nat) : List (Nat × Int) := [(w, (u.2 : Int)), (32, (off : Int))]
  match u.1 with
  | 0x01 => m.emit 0x01 0x1C u.2 (a 4)
  | 0x02 => m.emit 0x02 0x18 u.2 (a 32)
  | 0x0B => m.emit 0x0B 0x16 0 (a 10)
  | 0x0F => m.emit 0x0F 0x17 u.2 (a 3)
  | 0x10 => m.emit 0x10 0x15 u.2 [(7, ((((m.cmpInvalid u.2).map (·.1)).getD u.2 : Nat) : Int)), (32, (off : Int))]
  | 0x11 => m.emit 0x11 0x1E 0 [(32, (off : Int))]
  | _ => m

/-- This module's units in scope check their configurations (R213): the lagging ones, and their events. -/
def Mach.checkUnits (m : Mach) (scope : Nat) (recipes : List (Nat × Nat)) (trcBad : Bool) : List Lag × Mach :=
  let units := (m.scopeUnits scope).filter m.takesPart
  let mk (blk inst off : Nat) : Lag :=
    { pos := m.chainPos, follower := m.follower || m.tngIs 6, block := blk, inst, reason := 2, offset := off }
  let bad := units.filterMap fun u => (m.unitBad units u).map fun o => (u, o)
  let m' := bad.foldl (fun m b => m.cfgInvalid b.1 b.2) m
  let rec' := if m.follower || m.tngIs 6 then
      (m.scopeJobs scope).filterMap fun j =>
        match recipes.find? (·.1 = j) with
        | some r => if r.2 = m.get (F.schJobCtl_RECIPE j) then none else some (mk 0x0C j (R.schJobCtl j - 0xB00000))
        | none => none
    else []
  (bad.map (fun b => mk b.1.1 b.1.2 b.2) ++ rec' ++ (if trcBad then [mk 0x1A 0 (R.trcRplFrom - 0x1900000)] else []), m')

/-- SCH_LAG and its counts cleared. -/
def Mach.lagClear (m : Mach) : Mach :=
  ((List.range 16).foldl (fun m k => m.wr (R.schLag k) 0) m |>.set F.schRestartCtl_LAGS 0).setb F.schRestartCtl_OVF false

/-- Lagging units in the order of R215. -/
def lagBefore (a b : Lag) : Bool :=
  a.pos < b.pos || (a.pos = b.pos && (a.block < b.block || (a.block = b.block && a.inst < b.inst)))
def insertLag (x : Lag) : List Lag → List Lag
  | [] => [x]
  | y :: t => if lagBefore x y then x :: y :: t else y :: insertLag x t

/-- SCH_LAG lists the first 16 lagging units (R215). -/
def Mach.lagShow (m : Mach) (lags : List Lag) : Mach :=
  let l := (lags.foldl (fun a x => insertLag x a) []).take 16
  let put (y : Mach × Nat) (g : Lag) : Mach × Nat :=
    let k := y.2
    let m := (((y.1.set (F.schLag_POS k) g.pos).setb (F.schLag_FOLLOWER k) g.follower).set (F.schLag_BLOCK k) g.block)
    let m := ((m.set (F.schLag_INSTANCE k) g.inst).set (F.schLag_REASON k) g.reason).set (F.schLag_OFFSET k) g.offset
    (m.setb (F.schLag_VALID k) true, k + 1)
  let m := (l.foldl put (m.lagClear, 0)).1
  (m.set F.schRestartCtl_LAGS l.length).setb F.schRestartCtl_OVF (16 < lags.length)

/-! ## Peers -/

/-- A CTRL message to every chain position and the twin (R213, R295). -/
def Mach.tellAll (m : Mach) (kind : Nat) (vals : List Nat) : Mach :=
  if m.follower then m
  else [0, 1, 2, 3, 4].foldl (fun m k => m.linkSend k ⟨1, kind, vals, []⟩) m

/-- A restart is ARMED and not resolved (R212). -/
def Mach.armed (m : Mach) : Bool := match m.restart with | some r => !r.started | none => false

/-- The positions that must report, each with its twins (R213, R316): the package's chain, and this module's own pair. -/
def Mach.expected (m : Mach) : List (Nat × Bool) :=
  let own := m.chainPos
  let chain := if m.chain.isEmpty then [(own, m.paired || m.tngIs 6)] else m.chain
  chain.flatMap fun c => if c.2 && (c.1 ≠ own || m.paired) then [(c.1, false), (c.1, true)] else [(c.1, false)]

/-! ## Commands -/

/-- RESTART_ARM (R212): the write of SCH_RESTART_CTL with ARM = 1; `trcBad` when TRC rejects the ring (R350). A global scope takes in the
package's jobs; any other names each job it wants. -/
def restartArm (val : Word) (trcBad : Bool) (m : Mach) : Mach :=
  let m := m.set F.schRestartCtl_MODE (val.extractLsb' 1 2).toNat
  if !val.getLsbD 0 then m
  else
    let tick := m.get F.schRestartAt_TICK
    let scope := m.get F.schRestartScope_JOBS
    let mode := m.get F.schRestartCtl_MODE
    let ahead := wrapI 64 ((tick : Int) - m.reel)
    let all := 2 ^ 64 - 1
    let named := if scope = all then m.scopeJobs scope else (List.range 64).filter scope.testBit
    if m.armed || mode ≥ 2 || (mode != 0 && scope ≠ all) || ahead < 1000000 || 10000000000 < ahead
        || named.any fun j => m.jobState j != 1 && m.jobState j != 4 then
      m.set F.schRestartCtl_STATUS 4
    else
      let m := (((m.count F.schRestartCtl_ID).setb F.schRestartCtl_ORIGIN true).set F.schRestartCtl_STATUS 1).lagClear
      let id := m.get F.schRestartCtl_ID
      let m := m.tellAll 2 [id, tick, scope, mode]
      let (lags, m) := m.checkUnits scope [] (trcBad && mode = 1)
      let r : Restart :=
        { id, tick := m.reel + ahead, scope, mode, origin := true, units := (m.scopeUnits scope).filter m.takesPart,
          applied := lags.isEmpty, reports := [(m.chainPos, false)], lags, go := none, acks := [(m.chainPos, false)], started := false }
      { m with restart := some r }

/-- A module's answer to the originator at `pos`: a follower's goes to its lead over the twin link, for it sends nothing else (R182, R213). -/
def Mach.answer (m : Mach) (pos : Nat) (x : OutMsg) : Mach := if m.follower then m.linkSend 0 x else m.fabricSend pos x

/-- RESTART_REQUEST (R213, R316): a module in a part of its position takes the restart and its units in scope check. -/
def restartRequest (id : Nat) (tick : Int) (scope : Word) (mode origin : Nat) (recipes : List (Nat × Nat)) (trcBad : Bool)
    (m : Mach) : Mach :=
  if m.armed || m.tngIs 1 || m.tngIs 5 then m
  else
    let m := (((m.set F.schRestartCtl_ID id).setb F.schRestartCtl_ORIGIN false).set F.schRestartCtl_STATUS 1).lagClear
    let m := m.set F.schRestartCtl_MODE mode
    let (lags, m) := m.checkUnits scope.toNat recipes (trcBad && mode = 1 && !m.follower)
    let r : Restart :=
      { id, tick, scope := scope.toNat, mode, origin := false, units := (m.scopeUnits scope.toNat).filter m.takesPart,
        applied := lags.isEmpty, reports := [], lags, go := none, acks := [], started := false }
    { m with restart := some r }.answer origin ⟨1, 3, [id, lags.length], []⟩

/-- RESTART_REPORT (R213): a report that comes by T_R − 200 µs. -/
def restartReport (pos : Nat) (fol : Bool) (lags : List Lag) (m : Mach) : Mach :=
  match m.restart with
  | some r =>
    if r.origin && r.go.isNone && !r.reports.contains (pos, fol) && decide (m.reel ≤ r.tick - 200000) then
      { m with restart := some { r with reports := r.reports ++ [(pos, fol)], lags := r.lags ++ lags } }
    else m
  | none => m

/-- A silent twin or position (R214): its block and instance are not stated (log entry 9). -/
def Mach.silent (m : Mach) (p : Nat × Bool) (reason : Nat) : Lag × Mach :=
  let (a, m) := m.free
  let (b, m) := m.free
  ({ pos := p.1, follower := p.2, block := (a.extractLsb' 0 8).toNat, inst := (b.extractLsb' 0 10).toNat, reason, offset := 0 }, m)

def Mach.silents (m : Mach) (reason : Nat) : List (Nat × Bool) → List Lag × Mach
  | [] => ([], m)
  | p :: t =>
    let (g, m) := m.silent p reason
    let (l, m) := m.silents reason t
    (g :: l, m)

/-- An abandoned autorun attempt (R408): it arms again after AUTORUN_MS, and gives up after the third. -/
def Mach.autoAgain (m : Mach) : Mach :=
  if m.rst.tries = 0 then m
  else if 3 ≤ m.rst.tries then
    { m with rst := { m.rst with tries := 0, autoAt := none } }.emit 0x17 0x20 0 [(32, (m.rst.tries : Int))]
  else { m with rst := { m.rst with autoAt := some (m.now + m.pkg.autorunMs * 1000000) } }

/-- A restart is abandoned on this module with `n` lagging units known to it (R213): the originator still waits for acknowledgements (R214). -/
def Mach.abandon (m : Mach) (r : Restart) (n : Nat) : Mach :=
  ({ m.set F.schRestartCtl_STATUS 3 with
      restart := if r.origin then some { r with go := some false, started := true, units := [] } else none }.emit
    0x0C 0x1A 0 [(16, (r.id : Int)), (32, (n : Int))]).autoAgain

/-- RESTART_DECISION (R213): at T_R − 200 µs the originator decides. -/
def restartDecision (m : Mach) : Mach :=
  match m.restart with
  | some r =>
    if r.origin && r.go.isNone && decide (r.tick - 200000 ≤ m.reel) then
      let missing := m.expected.filter fun p => !r.reports.contains p
      let (quiet, m) := m.silents 1 missing
      let lags := r.lags ++ quiet
      if lags.isEmpty then { m.tellAll 4 [r.id, 1] with restart := some { r with go := some true } }
      else
        ((m.tellAll 4 [r.id, 0]).lagShow lags).abandon { r with lags } lags.length
    else m
  | none => m

/-- RESTART_DECISION_MSG (R213, R214): a module takes the decision and acknowledges it. -/
def restartDecisionMsg (id : Nat) (go : Bool) (m : Mach) : Mach :=
  match m.restart with
  | some r =>
    if !r.origin && r.id = id && r.go.isNone then
      let m := if m.follower then m.linkSend 0 ⟨1, 5, [id, m.chainPos, 1], []⟩ else m.tellAll 5 [id, m.chainPos, 0]
      if go then { m with restart := some { r with go := some true } } else m.abandon r r.lags.length
    else m
  | none => m

/-- RESTART_ACK (R214): the acknowledgement of the module at `pos`, or of its follower. -/
def restartAck (pos : Nat) (fol : Bool) (m : Mach) : Mach :=
  match m.restart with
  | some r => if r.origin && !r.acks.contains (pos, fol) then { m with restart := some { r with acks := r.acks ++ [(pos, fol)] } } else m
  | none => m

/-! ## The start -/

/-- A unit starts at T_R (R213, R510), unless it is running for another job. -/
def Mach.unitStart (m : Mach) (u : Nat × Nat) : Mach :=
  match u.1 with
  | 0x01 => if u.2 < 16 && m.get (F.grsStatus_STATE u.2) = 0 then m.grsStart u.2 else m
  | 0x02 => if u.2 < 16 && m.get (F.mshCtl_STATE u.2) = 0 then m.mshStart u.2 else m
  | 0x0F => if 8 ≤ u.2 || m.get (F.posStat_STATE u.2) = 1 then m else m.posStart u.2
  | 0x10 => if 8 ≤ u.2 || m.get (F.cmpCtl_STATE u.2) = 1 then m else m.cmpStart u.2
  | _ => m

/-- Position, compare, ports and pipelines start in the order in which each uses the one before. -/
def startOrder (l : List (Nat × Nat)) : List (Nat × Nat) :=
  l.filter (·.1 = 0x0F) ++ l.filter (·.1 = 0x10) ++ l.filter (·.1 = 0x02) ++ l.filter (·.1 = 0x01)

/-- Hopper makes entry `e` ready and starts it (R163): its five objects and next step 0, no detach. -/
def Mach.hopStart (m : Mach) (e : Nat) : Mach :=
  let objs := [m.get (F.hopEntSync_FEED_OBJ e), m.get (F.hopEntSync_STEP_OBJ e), m.get (F.hopEntSync_EDGE_OBJ e),
    m.haloObj e false, m.haloObj e true]
  let m := objs.foldl (fun m n => m.set (F.synObj_VALUE n) 0) m
  let m := ((m.modHop e fun _ => {}).set (F.hopEntStep_STEP e) 0).wr (R.hopEntDetach e) 0
  (m.wr (R.hopEntStat e) ((m.rd (R.hopEntStat e)) &&& 0x700)).hopGo e 2

/-- Job `j`'s list objects and ring indices are set to 0 (R168). -/
def Mach.listStart (m : Mach) (j : Nat) : Mach :=
  let o := m.get (F.hopJobSync_LIST_OBJ j)
  let m := (List.range 7).foldl (fun m i => m.set (F.synObj_VALUE ((o + i) % 16384)) 0) m
  let m := ((m.set (F.hopJobSync_WIDX0 j) 0).set (F.hopJobSync_WIDX1 j) 0).set (F.hopJobSync_WIDX2 j) 0
  { m with widx := m.widx.filter fun x => x.1 / 4 ≠ j }

/-- A job's recipe takes effect at its start (R212, R341): the seeds change only when the recipe changed. -/
def Mach.recipeStart (m : Mach) (j : Nat) : Mach :=
  let r := m.get (F.schJobCtl_RECIPE j)
  if r = (m.jrt j).recipe then m
  else
    let m := m.modJob j fun x => { x with recipe := r }
    match m.pkgJob j with
    | some p =>
      match p.seeds[r]? with
      | some s => (m.wr (R.trcJobSeed0 j) s.1).wr (R.trcJobSeed1 j) s.2
      | none => m
    | none => m

/-- Counts are kept from the job's last start (R211). -/
def Mach.accClear (m : Mach) (j : Nat) : Mach :=
  let m := ((((m.wr (R.schAccWait j) 0).wr (R.schAccWmax j) 0).wr (R.schAccCnt j) 0).wr (R.schAccVerd j) 0).wr (R.schAccVerd2 j) 0
  (List.range 8).foldl (fun m k => m.wr (R.schAccHist j k) 0) m

/-- Job `j` goes RUNNING at T_R (R193): `base` is its replay base B_j (R351). Its tensor table is the one that stands now (R118). -/
def Fx.jobStart (x : Fx) (j base : Nat) : Fx :=
  let table := match x.m.pkgJob j with
    | some p => some (x.v.mem.filter fun c => p.tensorBase ≤ c.1 && c.1 < p.tensorBase + 32 * p.tensorCount)
    | none => none
  let x := x.mach fun m =>
    let m := ((m.accClear j).recipeStart j).set (F.schJobStat_FAULT_SRC j) 0
    let m := m.modJob j fun r =>
      { r with stopAt := none, saved := none, waiting := [], waitSince := some m.now, base, progressAt := m.now, hung := none, table, waitNs := 0 }
    let m := (m.set (F.trcJobStep_STEP j) base).set (F.trcJobStepcfg_BASE j) base
    let m := { m with mon := m.mon.filter fun b => b.job ≠ j }
    let m := (m.listStart j).jobGo j 2
    (m.jobEntries j).foldl (fun m e => m.hopStart e) m
  let x := if x.m.jobClass j = 0 then x.placeReserved j else x
  x.mach fun m =>
    if m.jobClass j ≠ 0 && m.classShed j then
      ((m.setb (F.schJobStat_PAUSED j) true).count (F.schAccCnt_PREEMPTS j)).emit 0x0C 0x13 0 [(6, (j : Int)), (6, 0x3F)]
    else m

/-- A global restart that goes ahead (R196, R199, R279, R329): the mode, a full bucket, cause START cleared, twins joined. -/
def Mach.globalStart (m : Mach) (mode : Nat) : Mach :=
  let m := { m with lastMode := mode + 1, started := true, rst := { m.rst with tries := 0, autoAt := none } }
  let m := { (m.set F.schGuar_BUCKET 196) with bucketAt := m.now }
  let m := if m.tngIs 4 && m.tng.joined then
      { ((m.set F.tngStat_STATE 2).set F.tngStat_MISSED 0 |>.safeClear 5).setFaultSrc 3 false with
          tng := { m.tng with joined := false, lost := false, sent := [], wdAt := m.now, ackAt := m.now, wdFired := false } }
    else if m.tngIs 6 then { (m.set F.tngStat_STATE 3).set F.tngStat_MISSED 0 with
          tng := { m.tng with joined := false, checked := false, lastH := m.reel.fdiv 10000 * 10000 } }
    else m
  m.safeClear 0

/-- Everything in scope starts (R213): units, then jobs with their replay bases; recorded as an input (R342). -/
def Fx.goAhead (x : Fx) (scope mode : Nat) (units : List (Nat × Nat)) (bases : List (Nat × Nat)) (tick : Int) : Fx :=
  let js := x.m.scopeJobs scope
  let x := x.mach fun m => m.cond (scope = 2 ^ 64 - 1) (·.globalStart mode)
  let x := x.mach fun m => (startOrder units).foldl (fun m u => m.unitStart u) m
  let x := js.foldl (fun x j => x.jobStart j (((bases.find? (·.1 = j)).map (·.2)).getD 0)) x
  let x := x.placeJobs
  x.mach fun m => m.record ⟨0x05, 0x3F, 0, false, m.reel,
    leBytes 4 0 ++ leBytes 4 mode ++ leBytes 8 (tick % 2 ^ 64).toNat ++ leBytes 8 scope ++
      js.flatMap fun j => leBytes 4 j ++ leBytes 4 (m.jrt j).recipe ++ leBytes 8 (m.rd (R.trcJobSeed0 j)).toNat
        ++ leBytes 8 (m.rd (R.trcJobSeed1 j)).toNat⟩

/-- RESTART_TICK (R213, R214): at T_R, on GO everything in scope starts; a module without a decision is ORPHANED. -/
def restartTickFx (bases : List (Nat × Nat)) (x : Fx) : Fx :=
  match x.m.restart with
  | some r =>
    if r.started || x.m.reel < r.tick then x
    else if r.go = some true then
      let x := x.goAhead r.scope r.mode r.units bases r.tick
      x.mach fun m =>
        let m := (m.set F.schRestartCtl_STATUS 2).emit 0x0C 0x19 0 [(16, (r.id : Int))]
        { m with restart := if r.origin then some { r with started := true, units := [] } else none }
    else
      x.mach fun m =>
        { (m.set F.schRestartCtl_STATUS 5).emit 0x0C 0x1B 0 [(16, (r.id : Int))] with restart := none }
  | none => x

/-- RESTART_INCOMPLETE (R214): acknowledgements of the decision, GO or ABANDON, missing at T_R + 50 µs. -/
def restartIncomplete (m : Mach) : Mach :=
  match m.restart with
  | some r =>
    if r.origin && r.started && decide (r.tick + 50000 ≤ m.reel) then
      let quiet := m.expected.filter fun p => !r.acks.contains p
      let m := { m with restart := none }
      if quiet.isEmpty then m
      else
        let (lags, m) := m.silents 3 quiet
        (((m.set F.schRestartCtl_STATUS 6).lagShow ((if r.go = some false then r.lags else []) ++ lags)).emit 0x0C 0x1C 0 [(16, (r.id : Int)), (32, (quiet.length : Int))])
    else m
  | none => m

end Sys2Proof.Machine
end

