-- ==== Sys2Proof/Machine/Numeric.lean ====
section
/-!
DEFINITION. The arithmetic of the compute die (R109 to R117): element formats, exact values, rounding, accumulation, the named
functions and the counter-based generator (R340).
-/

namespace Sys2Proof.Machine

/-- A number as the engines and cores compute with it: an exact dyadic `±m × 2^e` (zero keeps its sign), an infinity, or NaN. -/
inductive FVal where
  | nan
  | inf (neg : Bool)
  | fin (neg : Bool) (m : Nat) (e : Int)
  deriving DecidableEq, Repr, Inhabited

namespace FVal

def zero : FVal := .fin false 0 0
def ofInt (i : Int) : FVal := .fin (i < 0) i.natAbs 0
def isZero : FVal → Bool
  | .fin _ m _ => m = 0
  | _ => false
def neg : FVal → FVal
  | .nan => .nan
  | .inf s => .inf !s
  | .fin s m e => .fin (!s) m e

/-- `m × 2^e` as an integer multiple of `2^q`, for `q ≤ e`. -/
def scaled (s : Bool) (m : Nat) (e q : Int) : Int := (if s then -1 else 1) * ((m * 2 ^ (e - q).toNat : Nat) : Int)

def mul : FVal → FVal → FVal
  | .nan, _ => .nan
  | _, .nan => .nan
  | .inf s, .inf t => .inf (s != t)
  | .inf s, .fin t m _ => if m = 0 then .nan else .inf (s != t)
  | .fin t m _, .inf s => if m = 0 then .nan else .inf (s != t)
  | .fin s m e, .fin t n f => .fin (s != t) (m * n) (e + f)

/-- An exact sum; opposite values give +0. -/
def add : FVal → FVal → FVal
  | .nan, _ => .nan
  | _, .nan => .nan
  | .inf s, .inf t => if s = t then .inf s else .nan
  | .inf s, _ => .inf s
  | _, .inf s => .inf s
  | .fin s m e, .fin t n f =>
    if m = 0 ∧ n = 0 then .fin (s && t) 0 0
    else if m = 0 then .fin t n f
    else if n = 0 then .fin s m e
    else
      let q := min e f
      let v := scaled s m e q + scaled t n f q
      .fin (v < 0) v.natAbs q

def sub (a b : FVal) : FVal := a.add b.neg

/-- `a < b`; false when either is NaN. -/
def lt : FVal → FVal → Bool
  | .nan, _ => false
  | _, .nan => false
  | .inf s, .inf t => s && !t
  | .inf s, .fin _ _ _ => s
  | .fin _ _ _, .inf t => !t
  | .fin s m e, .fin t n f => let q := min e f; decide (scaled s m e q < scaled t n f q)

/-- The larger of two; NaN when either is NaN (R134). -/
def max' (a b : FVal) : FVal := if a = .nan || b = .nan then .nan else if a.lt b then b else a
def min' (a b : FVal) : FVal := if a = .nan || b = .nan then .nan else if b.lt a then b else a

end FVal

/-! ## Rounding -/

/-- How a value off the grid is rounded (R110, R117): to nearest even, or up when the 16-bit draw says so. -/
inductive Rnd where
  | rne
  | stochastic (r : Nat)
  deriving DecidableEq, Repr

/-- `m / 2^s` rounded to an integer. -/
def roundShift (m s : Nat) (r : Rnd) : Nat :=
  let k := m / 2 ^ s
  let rest := m % 2 ^ s
  match r with
  | .rne => if 2 ^ s < 2 * rest || (2 * rest = 2 ^ s && rest != 0 && k % 2 = 1) then k + 1 else k
  | .stochastic d => if 65536 ≤ rest * 65536 / 2 ^ s + d then k + 1 else k

/-- A float format: precision with the hidden bit, exponents of the smallest and largest normal, bias and field widths. -/
structure Fmt where
  p : Nat
  emin : Int
  emax : Int
  bias : Nat
  eb : Nat

def fp32 : Fmt := ⟨24, -126, 127, 127, 8⟩
def bf16 : Fmt := ⟨8, -126, 127, 127, 8⟩
def e4m3 : Fmt := ⟨4, -6, 8, 7, 4⟩
def e5m2 : Fmt := ⟨3, -14, 15, 15, 5⟩
def e2m1 : Fmt := ⟨2, 0, 2, 1, 2⟩

/-- `m × 2^e` on the format's grid (R110: subnormals kept), as an integer and its exponent. -/
def Fmt.grid (f : Fmt) (m : Nat) (e : Int) (r : Rnd) : Nat × Int :=
  if m = 0 then (0, 0)
  else
    let top : Int := (Nat.log2 m : Int) + e
    let q := max (top - (f.p - 1)) (f.emin - (f.p - 1))
    if q ≤ e then (m * 2 ^ (e - q).toNat, q) else (roundShift m (q - e).toNat r, q)

/-- A value rounded to a format that overflows to infinity (FP32, BF16). -/
def Fmt.round (f : Fmt) (v : FVal) (r : Rnd := .rne) : FVal :=
  match v with
  | .fin s m e =>
    let (k, q) := f.grid m e r
    if k = 0 then .fin s 0 0
    else if f.emax < (Nat.log2 k : Int) + q then .inf s
    else .fin s k q
  | v => v

/-- RNE to FP32. -/
def FVal.r32 (v : FVal) : FVal := fp32.round v

/-- The exponent and mantissa fields of a value on the grid. -/
def Fmt.fields (f : Fmt) (s : Bool) (k : Nat) (q : Int) : Nat :=
  let sign := if s then 2 ^ (f.eb + f.p - 1) else 0
  if k = 0 then sign
  else
    let top : Int := (Nat.log2 k : Int) + q
    if top < f.emin then sign + k
    else
      let man := if Nat.log2 k ≤ f.p - 1 then k * 2 ^ (f.p - 1 - Nat.log2 k) else k / 2 ^ (Nat.log2 k - (f.p - 1))
      sign + (top + f.bias).toNat * 2 ^ (f.p - 1) + (man - 2 ^ (f.p - 1))

/-- The bits of an IEEE-like value that is on the format's grid (FP32, BF16): NaN is canonical (R110). -/
def Fmt.bits (f : Fmt) (v : FVal) : Nat :=
  match f.round v with
  | .nan => (2 ^ f.eb - 1) * 2 ^ (f.p - 1) + 2 ^ (f.p - 2)
  | .inf s => (if s then 2 ^ (f.eb + f.p - 1) else 0) + (2 ^ f.eb - 1) * 2 ^ (f.p - 1)
  | .fin s m e => let (k, q) := f.grid m e .rne; f.fields s k q

/-- The value of finite fields. -/
def Fmt.value (f : Fmt) (w : Nat) : FVal :=
  let man := w % 2 ^ (f.p - 1)
  let ex := w / 2 ^ (f.p - 1) % 2 ^ f.eb
  let s := w / 2 ^ (f.eb + f.p - 1) % 2 = 1
  if ex = 0 then .fin s man (f.emin - (f.p - 1)) else .fin s (2 ^ (f.p - 1) + man) ((ex : Int) - f.bias - (f.p - 1))

/-- The value of an IEEE-like word: all-ones exponents are infinities and NaN. -/
def Fmt.ofBits (f : Fmt) (w : Nat) : FVal :=
  if w / 2 ^ (f.p - 1) % 2 ^ f.eb = 2 ^ f.eb - 1 then
    if w % 2 ^ (f.p - 1) = 0 then .inf (w / 2 ^ (f.eb + f.p - 1) % 2 = 1) else .nan
  else f.value w

/-! ## Element formats (R109) -/

/-- Bits of an element (R109). -/
def elemBits (fmt : Nat) : Nat :=
  match fmt with
  | 0x2 => 4
  | 0x8 => 4
  | 0x9 => 4
  | 0xA => 16
  | 0xB => 32
  | 0xC => 32
  | 0xD => 16
  | _ => 8

/-- MX formats, with a scale per block of 32. -/
def isMx (fmt : Nat) : Bool := 5 ≤ fmt && fmt ≤ 9

/-- Integer formats. -/
def isInt (fmt : Nat) : Bool := fmt = 0 || fmt = 1 || fmt = 2 || fmt = 0xC || fmt = 0xD

/-- `w` read as signed in `n` bits. -/
def sgn (n w : Nat) : Int := Int.bmod (w % 2 ^ n : Nat) (2 ^ n)

/-- The value of an element before its block's scale (R109). -/
def elemVal (fmt w : Nat) : FVal :=
  match fmt with
  | 0x0 => .ofInt (sgn 8 w)
  | 0x1 => .ofInt w
  | 0x2 => .ofInt (sgn 4 w)
  | 0x3 => if w % 128 = 127 then .nan else e4m3.value w
  | 0x4 => e5m2.ofBits w
  | 0x5 => if w % 128 = 127 then .nan else e4m3.value w
  | 0x6 => e5m2.ofBits w
  | 0x7 => (FVal.ofInt (sgn 8 w)).mul (.fin false 1 (-6))
  | 0x8 => e2m1.value w
  | 0x9 => (FVal.ofInt (sgn 4 w)).mul (.fin false 1 (-2))
  | 0xA => bf16.ofBits w
  | 0xB => fp32.ofBits w
  | 0xC => .ofInt (sgn 32 w)
  | _ => .ofInt w

/-- An E8M0 scale: 2^(b − 127); 0xFF is NaN. -/
def scaleVal (b : Nat) : FVal := if b = 255 then .nan else .fin false 1 ((b : Int) - 127)

/-- An element is zero by its encoding (R140). -/
def elemZero (fmt w : Nat) : Bool :=
  match fmt with
  | 0x3 => w % 128 = 0
  | 0x4 => w % 128 = 0
  | 0xA => w % 32768 = 0
  | _ => w = 0

/-! ## Conversion (R116) -/

/-- A converted element: its bits, and whether it saturated or gave NaN or an infinity. -/
abbrev Conv := Nat × Bool

/-- To an integer of `lo` to `hi`: rounded, saturated; a NaN has no stated result (log entry 10). -/
def toInt (lo hi : Int) (bits : Nat) (v : FVal) (r : Rnd) : Conv :=
  match v with
  | .nan => (Config.unstated 1 [bits] % 2 ^ bits, true)
  | .inf s => (((if s then lo else hi) % 2 ^ bits).toNat, true)
  | .fin s m e =>
    let k := if 0 ≤ e then m * 2 ^ e.toNat else roundShift m (-e).toNat r
    let i : Int := if s then -(k : Int) else k
    if i < lo then ((lo % 2 ^ bits).toNat, true)
    else if hi < i then ((hi % 2 ^ bits).toNat, true)
    else ((i % 2 ^ bits).toNat, false)

/-- To an 8-bit float: `maxBits` is the largest finite value, `over` what an overflow gives without SAT. -/
def toFp8 (f : Fmt) (maxBits ovfl : Nat) (sat : Bool) (v : FVal) (r : Rnd) : Conv :=
  match v with
  | .nan => (0x7F, true)
  | .inf s => ((if s then 0x80 else 0) + (if sat then maxBits else ovfl), true)
  | .fin s m e =>
    let (k, q) := f.grid m e r
    let w := f.fields s k q
    if k != 0 && maxBits < w % 128 || f.emax < (Nat.log2 k : Int) + q then
      ((if s then 0x80 else 0) + (if sat then maxBits else ovfl), true)
    else (w, false)

/-- To an MX element, always saturating (R116). -/
def toMxElem (fmt : Nat) (v : FVal) (r : Rnd) : Conv :=
  match fmt with
  | 0x5 => toFp8 e4m3 0x7E 0x7E true v r
  | 0x6 => toFp8 e5m2 0x7B 0x7B true v r
  | 0x7 => toInt (-128) 127 8 (v.mul (.fin false 1 6)) r
  | 0x8 =>
    match v with
    | .fin s m e =>
      let (k, q) := e2m1.grid m e r
      if k != 0 && (7 < e2m1.fields false k q || 2 < (Nat.log2 k : Int) + q) then ((if s then 8 else 0) + 7, true)
      else (e2m1.fields s k q, false)
    | .inf s => ((if s then 8 else 0) + 7, true)
    | .nan => (Config.unstated 1 [4] % 16, true)
  | _ => toInt (-8) 7 4 (v.mul (.fin false 1 2)) r

/-- Conversion of one value to a format without scales (R116); `int` when the value is an INT32 kept as it is. -/
def convElem (fmt : Nat) (sat : Bool) (v : FVal) (r : Rnd) : Conv :=
  match fmt with
  | 0x0 => toInt (-128) 127 8 v r
  | 0x1 => toInt 0 255 8 v r
  | 0x2 => toInt (-8) 7 4 v r
  | 0x3 => toFp8 e4m3 0x7E 0x7F sat v r
  | 0x4 => toFp8 e5m2 0x7B 0x7C sat v r
  | 0xA =>
    let w := bf16.bits (bf16.round v r)
    (w, 0x7F80 ≤ w % 0x8000)
  | 0xB => let w := fp32.bits v; (w, 0x7F800000 ≤ w % 0x80000000)
  | 0xC => toInt (-2147483648) 2147483647 32 v r
  | _ => toInt 0 65535 16 v r

/-- The exponent of the element format's largest power of two (R116). -/
def emaxElem (fmt : Nat) : Int :=
  match fmt with
  | 0x5 => 8
  | 0x6 => 15
  | 0x8 => 2
  | _ => 0

def FVal.finite : FVal → Bool
  | .fin .. => true
  | _ => false

/-- floor(log2) of a finite magnitude that is not zero. -/
def FVal.exp : FVal → Option Int
  | .fin _ m e => if m = 0 then none else some ((Nat.log2 m : Int) + e)
  | _ => none

/-- A block's scale byte (R116): an all-zero block has 2^−127; exponents are held to what E8M0 spells. The rule gives no amax to a block that
holds an infinity or a NaN, whose scale is an unstated value (log entry 134). -/
def blockScale (fmt : Nat) (vs : List FVal) : Nat :=
  if vs.any fun v => !v.finite then Config.unstated 5 (fmt :: vs.map fp32.bits) % 256
  else
  match vs.filterMap FVal.exp with
  | [] => 0
  | x :: t => (max (-127) (min 127 (t.foldl max x - emaxElem fmt)) + 127).toNat

/-! ## Accumulation (R112, R113) -/

/-- The group sum of up to 32 products: none when all are zero. -/
def groupSum (ps : List FVal) : Option FVal :=
  if ps.all FVal.isZero then none
  else if ps.any (· = .nan) || (ps.any (· = .inf false) && ps.any (· = .inf true)) then some .nan
  else if ps.any (· = .inf false) then some (.inf false)
  else if ps.any (· = .inf true) then some (.inf true)
  else
    match ps.filterMap FVal.exp with
    | [] => none
    | x :: t =>
      let q := t.foldl max x - 63
      let trunc : FVal → Int
        | .fin s m e =>
          let i : Int := if s then -(m : Int) else m
          if q ≤ e then i * ((2 ^ (e - q).toNat : Nat) : Int) else i.fdiv ((2 ^ (q - e).toNat : Nat) : Int)
        | _ => 0
      let v := ps.foldl (fun a p => a + trunc p) 0
      some (FVal.fin (v < 0) v.natAbs q).r32

/-- FP32 accumulation over groups of 32 (R113), with `fuel` groups at most. -/
def accGroups : Nat → FVal → List FVal → FVal
  | 0, a, _ => a
  | n + 1, a, ps =>
    if ps.isEmpty then a
    else
      let a := match groupSum (ps.take 32) with | some g => (a.add g).r32 | none => a
      accGroups n a (ps.drop 32)

def accumulate (init : FVal) (ps : List FVal) : FVal := accGroups (ps.length / 32 + 1) init ps

/-- A sum by R113. -/
def sumR (xs : List FVal) : FVal := accumulate .zero xs

/-! ## Named functions (R110): the FP32 value nearest to the exact result -/

/-- Floor square root, one bit a step from bit `n` down. -/
def isqrtStep : Nat → Nat → Nat → Nat
  | 0, x, r => if (r + 1) * (r + 1) ≤ x then r + 1 else r
  | n + 1, x, r => let r' := r + 2 ^ (n + 1); isqrtStep n x (if r' * r' ≤ x then r' else r)
def isqrt (x : Nat) : Nat := isqrtStep (Nat.log2 x / 2 + 1) x 0

/-- `n / d × 2^e` with enough bits for a correct rounding, the rest of the division in the lowest bit. -/
def ratio (s : Bool) (n d : Nat) (e : Int) : FVal :=
  let k := n * 2 ^ (Nat.log2 d + 160) / d
  let rest := n * 2 ^ (Nat.log2 d + 160) % d
  .fin s (2 * k + (if rest = 0 then 0 else 1)) (e - (Nat.log2 d + 160 : Nat) - 1)

/-- A quotient, rounded; by zero it has no stated result. -/
def fdiv (a b : FVal) : FVal :=
  match a, b with
  | .fin s m e, .fin t n f =>
    if n = 0 then fp32.ofBits (Config.unstated 2 [fp32.bits a, fp32.bits b]) else (ratio (s != t) m n (e - f)).r32
  | .fin s _ _, .inf t => .fin (s != t) 0 0
  | .inf s, .fin t _ _ => .inf (s != t)
  | _, _ => .nan

def recip (a : FVal) : FVal := fdiv (.fin false 1 0) a

/-- Reciprocal square root; of zero, or of a negative number, it has no stated result. -/
def rsqrt (a : FVal) : FVal :=
  match a with
  | .nan => .nan
  | .inf false => .zero
  | .inf true => fp32.ofBits (Config.unstated 3 [fp32.bits a])
  | .fin s m e =>
    if m = 0 || s then fp32.ofBits (Config.unstated 3 [fp32.bits a])
    else
      let (m, e) := if e % 2 = 0 then (m, e) else (2 * m, e - 1)
      let k := Nat.log2 m + 160
      let r := isqrt (2 ^ (2 * k) / m)
      (FVal.fin false (2 * r + (if r * r * m = 2 ^ (2 * k) then 0 else 1)) (-(e / 2) - k - 1)).r32

/-- Fraction bits of the fixed-point work below. -/
def fxp : Nat := 512

/-- ln 2 in units of 2^−512: the series Σ 1 / (n 2^n). -/
def ln2Sum : Nat → Nat → Nat
  | 0, a => a
  | n + 1, a => ln2Sum n (a + 2 ^ (fxp + 64) / ((n + 1) * 2 ^ (n + 1)))
def ln2Fix : Nat := ln2Sum 600 0 / 2 ^ 64

/-- e^t for 0 ≤ t < 1 in units of 2^−512, by Horner's rule from term `n` down. -/
def expHorner : Nat → Nat → Nat → Nat
  | 0, _, a => a
  | n + 1, t, a => expHorner n t (2 ^ fxp + t * a / 2 ^ fxp / (n + 1))
def expFix (t : Nat) : Nat := expHorner 120 t (2 ^ fxp)

/-- `m × 2^e` as a whole part and a fraction in units of 2^−512, toward zero. -/
def fixOf (m : Nat) (e : Int) : Nat :=
  if 0 ≤ e + fxp then m * 2 ^ (e + fxp).toNat else m / 2 ^ (-(e + fxp)).toNat

/-- 2^x for x in units of 2^−512 with sign: mantissa in units of 2^−512 and exponent. -/
def exp2Fix (neg : Bool) (x : Nat) : Nat × Int :=
  let one := 2 ^ fxp
  let n := x / one
  let f := x % one
  if f = 0 then (one, if neg then -(n : Int) else n)
  else if neg then (expFix ((one - f) * ln2Fix / one), -(n : Int) - 1)
  else (expFix (f * ln2Fix / one), n)

/-- exp2. -/
def exp2F (a : FVal) : FVal :=
  match a with
  | .nan => .nan
  | .inf s => if s then .zero else .inf false
  | .fin s m e =>
    if m != 0 && 20 < (Nat.log2 m : Int) + e then (if s then .zero else .inf false)
    else
      let (k, n) := exp2Fix s (fixOf m e)
      (FVal.fin false k (n - fxp)).r32

/-- e^x for |x| below 2^10, exactly enough: mantissa in units of 2^−512 and exponent. -/
def expE (neg : Bool) (m : Nat) (e : Int) : Nat × Int :=
  exp2Fix neg (fixOf m e * 2 ^ fxp / ln2Fix)

/-- e^x (ELTWISE exp). -/
def expF (a : FVal) : FVal :=
  match a with
  | .nan => .nan
  | .inf s => if s then .zero else .inf false
  | .fin s m e =>
    if m != 0 && 9 < (Nat.log2 m : Int) + e then (if s then .zero else .inf false)
    else
      let (k, n) := expE s m e
      (FVal.fin false k (n - fxp)).r32

/-- A fixed-point number times a power of two, in units of 2^−512. -/
def shiftFix (k : Nat) (n : Int) : Nat := if 0 ≤ n then k * 2 ^ n.toNat else k / 2 ^ (-n).toNat

/-- sigmoid: 1 / (1 + e^−x). -/
def sigmoidF (a : FVal) : FVal :=
  match a with
  | .nan => .nan
  | .inf s => if s then .zero else .fin false 1 0
  | .fin s m e =>
    if m != 0 && 8 < (Nat.log2 m : Int) + e then (if s then .zero else .fin false 1 0)
    else
      let (k, n) := expE true m e
      let x := shiftFix k n
      let d := 2 ^ fxp + x
      (ratio false (if s then x else 2 ^ fxp) d 0).r32

/-- tanh: (e^2x − 1) / (e^2x + 1). -/
def tanhF (a : FVal) : FVal :=
  match a with
  | .nan => .nan
  | .inf s => .fin s 1 0
  | .fin s m e =>
    if m = 0 then .fin s 0 0
    else if 4 < (Nat.log2 m : Int) + e then .fin s 1 0
    else
      let (k, n) := expE false m (e + 1)
      let x := shiftFix k n
      (ratio s (x - 2 ^ fxp) (x + 2 ^ fxp) 0).r32

/-! ## The counter-based generator (R340) -/

def rotl (x : Word) (n : Nat) : Word := x.rotateLeft n

/-- The state of SipHash. -/
structure Sip where
  v0 : Word
  v1 : Word
  v2 : Word
  v3 : Word

def Sip.round (s : Sip) : Sip :=
  let v0 := s.v0 + s.v1
  let v1 := rotl s.v1 13 ^^^ v0
  let v0 := rotl v0 32
  let v2 := s.v2 + s.v3
  let v3 := rotl s.v3 16 ^^^ v2
  let v0 := v0 + v3
  let v3 := rotl v3 21 ^^^ v0
  let v2 := v2 + v1
  let v1 := rotl v1 17 ^^^ v2
  let v2 := rotl v2 32
  ⟨v0, v1, v2, v3⟩

def Sip.absorb (s : Sip) (w : Word) : Sip :=
  let s := ({ s with v3 := s.v3 ^^^ w } : Sip).round.round
  { s with v0 := s.v0 ^^^ w }

/-- SipHash-2-4 of three 64-bit words (24 bytes). -/
def sipHash24 (k0 k1 a b c : Word) : Word :=
  let s : Sip := ⟨k0 ^^^ 0x736f6d6570736575, k1 ^^^ 0x646f72616e646f6d, k0 ^^^ 0x6c7967656e657261, k1 ^^^ 0x7465646279746573⟩
  let s := (((s.absorb a).absorb b).absorb c).absorb (24 <<< 56)
  let s := ({ s with v2 := s.v2 ^^^ 0xff } : Sip).round.round.round.round
  s.v0 ^^^ s.v1 ^^^ s.v2 ^^^ s.v3

/-- The draw r of R117. -/
def drawR (seed stepkey : Word) (layer index : Nat) : Nat :=
  (sipHash24 seed (seed ^^^ 0x535839524E444B59) stepkey (BitVec.ofNat 64 layer) (BitVec.ofNat 64 index)).toNat % 65536

end Sys2Proof.Machine
end

