-- ==== Sys2Proof/Machine/Tensor.lean ====
section
/-!
DEFINITION. Tensors in data memory (R118, R119, R139 to R141, R171): descriptors, rows of elements read and written, with MX
scales, zero compression and translation.
-/

namespace Sys2Proof.Machine

/-- Why a command cannot go on (R125, R154, R174): a bus error at an address, a translation fault (entry, offset), an invalid command or
descriptor, a class mismatch; or it stalls. -/
inductive EFault where
  | bus (a : Nat)
  | trans (ent off : Nat)
  | invalid
  | badDesc
  | cls
  | stall
  deriving DecidableEq, Repr

/-- A command's work on memory, which a fault ends. -/
abbrev EM := ExceptT EFault (StateM Fx)

/-- The command is invalid unless `b` (R125). -/
def need (b : Bool) (f : EFault := .invalid) : EM Unit := if b then pure () else throw f

/-- Bytes of plain data memory; a bus error names the access that met it (R143, R157). -/
def rdBytes (acc : Acc) (a len : Nat) : EM (List Byte) := do
  let x ← get
  if x.m.stalls a then throw .stall
  else
    match x.readAt acc a len with
    | (.bytes b, x) => set x; pure b
    | (.fault f, x) => set x; throw (.bus f)

def wrBytes (acc : Acc) (a : Nat) (b : List Byte) : EM Unit := do
  let x ← get
  if x.m.stalls a then throw .stall
  else
    match x.writeAt acc a b with
    | (none, x) => set x
    | (some f, x) => set x; throw (.bus f)

/-- The data address of offset `off` in the virtual range of entry `e` (R174). -/
def xlate (acc : Acc) (e off : Nat) (wr : Bool) : EM Nat := do
  let x ← get
  match x.translate acc e off wr with
  | (.at a, x) => set x; pure a
  | (.bus a, x) => set x; throw (.bus a)
  | (.fault, x) => set x; throw (.trans e off)
  | (_, _) => throw .stall

/-- Bytes of the virtual range, a page at a time (R173); `fuel` bounds the pages. -/
def rdVirt (acc : Acc) (e : Nat) : Nat → Nat → Nat → EM (List Byte)
  | 0, _, _ => pure []
  | n + 1, off, len => do
    if len = 0 then pure []
    else
      let k := min len (0x4000 - off % 0x4000)
      let a ← xlate acc e off false
      let b ← rdBytes acc a k
      let rest ← rdVirt acc e n (off + k) (len - k)
      pure (b ++ rest)

def wrVirt (acc : Acc) (e : Nat) : Nat → Nat → List Byte → EM Unit
  | 0, _, _ => pure ()
  | n + 1, off, b => do
    if b.isEmpty then pure ()
    else
      let k := min b.length (0x4000 - off % 0x4000)
      let a ← xlate acc e off true
      wrBytes acc a (b.take k)
      wrVirt acc e n (off + k) (b.drop k)

/-! ## Descriptors (R119) -/

structure Desc where
  fmt : Nat
  zc : Bool
  virt : Bool
  seq : Nat
  base : Nat
  d2 : Nat
  d1 : Nat
  d0 : Nat
  s2 : Nat
  s1 : Nat
  ring : Nat
  scale : Nat
  /-- The row offset of the operand in the command (R123). -/
  ro : Nat

def descOf (w : List Word) (ro : Nat) : Desc :=
  let f (i lo n : Nat) : Nat := ((w.getD i 0).extractLsb' lo n).toNat
  { fmt := f 0 60 4, zc := f 0 59 1 = 1, virt := f 0 58 1 = 1, seq := f 0 48 10, base := f 0 0 40, d2 := f 1 48 16, d1 := f 1 32 16,
    d0 := f 1 16 16, s2 := f 2 32 32, s1 := f 2 0 32, ring := f 3 48 16, scale := f 3 0 40, ro }

/-- A descriptor's own rules (R109, R119, R139): no reserved bit or format, counts of 1 at least, an even D0 for 4-bit formats. -/
def descGood (w : List Word) (d : Desc) : Bool :=
  let reserved := (w.getD 0 0) &&& 0x0000FF0000000000 = 0 && (w.getD 1 0) &&& 0xFFFF = 0 && (w.getD 3 0) &&& 0x0000FF0000000000 = 0
  reserved && d.fmt < 0xE && d.d0 != 0 && d.d1 != 0 && d.d2 != 0 && (elemBits d.fmt != 4 || d.d0 % 2 = 0)
    && (!d.zc || (d.d0 % 64 = 0 && d.d0 ≤ 16384 && (d.fmt = 0 || d.fmt = 1 || d.fmt = 3 || d.fmt = 4 || d.fmt = 0xA)
      && d.s1 % 64 = 0 && 8 + 8 * (d.d0 / 64) + d.d0 * (elemBits d.fmt / 8) ≤ d.s1))

/-- Descriptor `idx` of job `j`'s tensor table (R118), as the table stood when the job started. -/
def readDesc (acc : Acc) (j idx ro : Nat) : EM Desc := do
  let x ← get
  match (x.m.jobs.find? fun p => p.1 = j).map (·.2) with
  | none => throw .badDesc
  | some p =>
    need (idx < p.tensorCount) .badDesc
    let at' := p.tensorBase + 32 * idx
    let b ← rdBytes acc at' 32
    let b := match (spGet (fun _ => ({} : JobRt)) x.m.jobRt j).table with
      | some t => (List.range 32).map fun i => spGet memDflt t (at' + i)
      | none => b
    let w := wordsOfBytes 4 b
    let d := descOf w ro
    need (descGood w d) .badDesc
    pure d

/-- Rows of the tensor. -/
def Desc.rows (d : Desc) : Nat := d.d1 * d.d2

/-- Bytes of an uncompressed row. -/
def Desc.rowBytes (d : Desc) : Nat := (d.d0 * elemBits d.fmt + 7) / 8

/-- The address, or virtual offset, of row (d1, d2) (R119). -/
def Desc.rowAt (d : Desc) (i1 i2 : Nat) : Nat :=
  let k := i2 + d.ro
  d.base + i1 * d.s1 + (if d.ring = 0 then k else k % d.ring) * d.s2

def rdAt (acc : Acc) (d : Desc) (a len : Nat) : EM (List Byte) := if d.virt then rdVirt acc d.seq (len / 0x4000 + 2) a len else rdBytes acc a len
def wrAt (acc : Acc) (d : Desc) (a : Nat) (b : List Byte) : EM Unit := if d.virt then wrVirt acc d.seq (b.length / 0x4000 + 2) a b else wrBytes acc a b

/-- `n` element codes of a byte string, lower nibble first for 4-bit formats (R109). -/
def codesOf (bits n : Nat) (b : List Byte) : List Nat :=
  if bits = 4 then (b.flatMap fun x => [x.toNat % 16, x.toNat / 16]).take n
  else if bits = 8 then (b.map (·.toNat)).take n
  else (List.range n).map fun i => ofLe ((b.drop (i * (bits / 8))).take (bits / 8))

def pairUp : List Nat → List Byte
  | a :: b :: t => BitVec.ofNat 8 (a % 16 + b % 16 * 16) :: pairUp t
  | [a] => [BitVec.ofNat 8 (a % 16)]
  | [] => []

def bytesOf (bits : Nat) (c : List Nat) : List Byte :=
  if bits = 4 then pairUp c else c.flatMap fun x => leBytes (bits / 8) x

/-- The element codes of a compressed row (R139): header, bitmaps, values. -/
def rdCompressed (acc : Acc) (d : Desc) (a : Nat) : EM (List Nat) := do
  let nb := d.d0 / 64
  let e := elemBits d.fmt / 8
  let h ← rdAt acc d a (8 + 8 * nb)
  let vb := ofLe ((h.drop 4).take 4)
  let vals ← rdAt acc d (a + 8 + 8 * nb) vb
  let flags := (h.drop 8).flatMap fun x => (List.range 8).map fun i => x.getLsbD i
  let vs := codesOf (8 * e) (vb / e) vals
  pure ((flags.take d.d0).foldl (fun (y : List Nat × List Nat) f => if f then (y.1 ++ [y.2.headD 0], y.2.tail) else (y.1 ++ [0], y.2))
    ([], vs)).1

/-- A compressed row's used bytes (R139, R140). -/
def compress (fmt : Nat) (c : List Nat) : List Byte :=
  let e := elemBits fmt / 8
  let nz := c.map fun x => !elemZero fmt x
  let vals := (c.filter fun x => !elemZero fmt x).flatMap fun x => leBytes e x
  let nb := c.length / 64
  let nzb := (List.range nb).countP fun b => ((nz.drop (64 * b)).take 64).any id
  leBytes 2 nb ++ leBytes 2 nzb ++ leBytes 4 vals.length ++ packBits (8 * nb) nz ++ vals

/-- The codes of row (d1, d2). -/
def rdRow (acc : Acc) (d : Desc) (i1 i2 : Nat) : EM (List Nat) := do
  if d.zc then rdCompressed acc d (d.rowAt i1 i2)
  else
    let b ← rdAt acc d (d.rowAt i1 i2) d.rowBytes
    pure (codesOf (elemBits d.fmt) d.d0 b)

/-- Where the scale bytes of row (d1, d2) lie (R119). -/
def Desc.scaleAt (d : Desc) (i1 i2 : Nat) : Nat := d.scale + (i1 + d.d1 * i2) * ((d.d0 + 31) / 32)

/-- The scale bytes of a row of an MX tensor. -/
def rdScales (acc : Acc) (d : Desc) (i1 i2 : Nat) : EM (List Nat) := do
  if isMx d.fmt then
    let b ← rdBytes acc (d.scaleAt i1 i2) ((d.d0 + 31) / 32)
    pure (b.map (·.toNat))
  else pure []

/-- Values of a row's codes under its scales. -/
def valuesOf (fmt : Nat) (codes scales : List Nat) : List FVal :=
  let vs := codes.map (elemVal fmt)
  if isMx fmt then (vs.zip (List.range vs.length)).map fun x => x.1.mul (scaleVal (scales.getD (x.2 / 32) 127)) else vs

def rdVals (acc : Acc) (d : Desc) (i1 i2 : Nat) : EM (List FVal) := do
  let c ← rdRow acc d i1 i2
  let s ← rdScales acc d i1 i2
  pure (valuesOf d.fmt c s)

/-- All rows of a tensor, d1 fastest (R119). -/
def rdTensor (acc : Acc) (d : Desc) : EM (List (List FVal)) :=
  (List.range d.rows).mapM fun r => rdVals acc d (r % d.d1) (r / d.d1)

/-- A row of codes written (R139, R141). -/
def wrRow (acc : Acc) (d : Desc) (i1 i2 : Nat) (c : List Nat) : EM Unit :=
  wrAt acc d (d.rowAt i1 i2) (if d.zc then compress d.fmt c else bytesOf (elemBits d.fmt) c)

/-! ## Output (R115 to R117) -/

/-- How a command converts its outputs: saturation, and the draw of stochastic rounding by element index, if any. -/
structure OutCfg where
  sat : Bool
  draw : Option (Nat → Nat)

def OutCfg.rnd (o : OutCfg) (i : Nat) : Rnd := match o.draw with | some f => .stochastic (f i) | none => .rne

/-- The codes and scales of one output row, and whether anything saturated or gave NaN or an infinity (R116): `first` is the logical
index of its first element. -/
def convRow (fmt : Nat) (o : OutCfg) (first : Nat) (vs : List FVal) : List Nat × List Nat × Bool :=
  let ix := vs.zip (List.range vs.length)
  if isMx fmt then
    let nb := (vs.length + 31) / 32
    let scales := (List.range nb).map fun b => blockScale fmt ((vs.drop (32 * b)).take 32)
    let cs := ix.map fun x =>
      let sc : Int := (scales.getD (x.2 / 32) 127 : Int) - 127
      toMxElem fmt (x.1.mul (.fin false 1 (-sc))) (o.rnd (first + x.2))
    (cs.map (·.1), scales, cs.any (·.2))
  else
    let cs := ix.map fun x => convElem fmt o.sat x.1 (o.rnd (first + x.2))
    (cs.map (·.1), [], cs.any (·.2))

/-- Output rows converted and written in order; true when any conversion overflowed (R116). -/
def wrTensor (acc : Acc) (d : Desc) (o : OutCfg) (rows : List (List FVal)) : EM Bool :=
  (rows.zip (List.range rows.length)).foldlM (fun beyond x => do
    let i1 := x.2 % d.d1
    let i2 := x.2 / d.d1
    let (c, s, v) := convRow d.fmt o (d.d0 * x.2) x.1
    wrRow acc d i1 i2 c
    if isMx d.fmt then wrBytes acc (d.scaleAt i1 i2) (s.map fun b => BitVec.ofNat 8 b)
    pure (beyond || v)) false

end Sys2Proof.Machine
end

