-- ==== Sys2Proof/Machine/Engine.lean ====
section
/-!
DEFINITION. The engines (R120 to R141, R154, R155): the queues, what each operation computes, completion, faults and pre-emption.
-/

namespace Sys2Proof.Machine

/-! ## Command words (R123) -/

def Cmd.f (c : Cmd) (w lo n : Nat) : Nat := ((c.words.getD w 0).extractLsb' lo n).toNat
def Cmd.opcode (c : Cmd) : Nat := c.f 0 56 8
def Cmd.sigEn (c : Cmd) : Bool := c.f 1 48 1 = 1
def Cmd.sigObj (c : Cmd) : Nat := c.f 1 34 14
/-- Operand `i`: 0 to 2 for IN0 to IN2, 3 for OUT; its descriptor index and row offset. -/
def Cmd.idx (c : Cmd) (i : Nat) : Nat := c.f 2 (48 - 16 * i) 16
def Cmd.ro (c : Cmd) (i : Nat) : Nat := c.f 7 (48 - 16 * i) 16
def Cmd.rnd (c : Cmd) : Nat := c.f 3 62 2
def Cmd.sat' (c : Cmd) : Bool := c.f 3 61 1 = 1
def Cmd.act (c : Cmd) : Nat := c.f 3 57 4
def Cmd.epi (c : Cmd) : Nat := c.f 3 0 40
def Cmd.stepKey (c : Cmd) : Word := c.words.getD 6 0

/-- The bits of words 4 and 5 that an opcode leaves reserved (R124). -/
def paramReserved (op : Nat) : Word × Word :=
  match op with
  | 0x10 => (0x000000FF00000000, 0xFFFFFFFFFFFFFFFF)
  | 0x30 => (0x00000000FFFFFFFC, 0xFFFFFF0000000000)
  | 0x40 => (0x00000000FFFFFFFE, 0xFFFFFFFFFFFFFFFF)
  | 0x41 => (0xFFFFFFFFFFFFFFEC, 0xFFFFFFFFFFFFFFFF)
  | 0x42 => (0x000FFFFFFFFFFFFE, 0xFFFFFFFFFFFFFFFF)
  | 0x43 => (0xFFFFFFFFFFFFFF00, 0xFFFFFFFFFFFFFFFF)
  | 0x52 => (0xFFFFFFFFFFFFFFFE, 0xFFFFFFFFFFFFFFFF)
  | 0x60 => (0, 0xFFFFFFFFFFFFFFFF)
  | 0x61 => (0xFFFFFFFFFFFFFFF8, 0xFFFFFFFFFFFFFFFF)
  | _ => (0xFFFFFFFFFFFFFFFF, 0xFFFFFFFFFFFFFFFF)

/-- No reserved bit is set, and ACT and RND hold no reserved value (R117, R123 to R125). -/
def Cmd.clean (c : Cmd) : Bool :=
  let r := paramReserved c.opcode
  (c.words.getD 0 0) &&& 0x00030000000FFFFF = 0 && (c.words.getD 1 0) &&& 0x0000000300000000 = 0
    && (c.words.getD 3 0) &&& 0x01FFFF0000000000 = 0 && c.act ≤ 2 && c.rnd ≤ 1 && (c.words.getD 4 0) &&& r.1 = 0 && (c.words.getD 5 0) &&& r.2 = 0

/-- The engine kinds by their opcodes (R124): block window of engine `e` accepts `op`. -/
def accepts (e op : Nat) : Bool :=
  op = 0 || (match engBlk e with
    | 2 => op = 0x10
    | 3 => op = 0x20
    | 4 => op = 0x30
    | 5 => 0x40 ≤ op && op ≤ 0x44
    | 6 => 0x50 ≤ op && op ≤ 0x52
    | _ => op = 0x60 || op = 0x61)

/-! ## What operations share -/

/-- A command in execution: engine, command, requester. -/
structure Ctx where
  e : Nat
  c : Cmd
  acc : Acc

def Ctx.desc (k : Ctx) (i : Nat) : EM Desc := readDesc k.acc k.c.job (k.c.idx i) (k.c.ro i)
def Ctx.has (k : Ctx) (i : Nat) : Bool := k.c.idx i != 0xFFFF

/-- Array operands pair within one family, which sets the accumulator (R111): true for INT32. -/
def pairing (a b : Nat) : Option Bool :=
  if (a = 0 || a = 1) && (b = 0 || b = 2) then some true
  else if (a = 0 || a = 1 || a = 7) && (b = 7 || b = 9) then some false
  else if 3 ≤ a && a ≤ 6 && 3 ≤ b && b ≤ 8 && b != 7 then some false
  else if a = 0xA && b = 0xA then some false
  else none

def family (a b : Nat) : EM Bool := match pairing a b with | some i => pure i | none => throw .invalid

/-- The accumulator after products in order (R112, R113). -/
def accum (int : Bool) (init : FVal) (ps : List FVal) : FVal :=
  if int then
    let v := ps.foldl FVal.add init
    match v with
    | .fin s m e => .ofInt (Int.bmod ((if s then -1 else 1) * ((m * 2 ^ e.toNat : Nat) : Int)) (2 ^ 32))
    | v => v
  else accumulate init ps

/-- Stochastic rounding goes with FP8, MX and BF16 outputs only (R117). -/
def Ctx.rndGood (k : Ctx) (fmt : Nat) : Bool := k.c.rnd = 0 || (3 ≤ fmt && fmt ≤ 0xA)

/-- The output configuration of a command for output format `fmt` (R116, R117). -/
def Ctx.outCfg (k : Ctx) (fmt : Nat) : EM OutCfg := do
  need (k.rndGood fmt)
  let x ← get
  let seed := x.m.rd (R.trcJobSeed0 k.c.job)
  pure { sat := k.c.sat', draw := if k.c.rnd = 1 then some fun i => drawR seed k.c.stepKey k.c.layer i else none }

/-- The epilogue area for `n` channels (R115): LO, HI and the pairs. -/
def Ctx.epiArea (k : Ctx) (epi n : Nat) : EM (List FVal) := do
  if epi = 0 then pure []
  else
    let b ← rdBytes k.acc epi (8 + 8 * n)
    pure ((codesOf 32 (2 + 2 * n) b).map fp32.ofBits)

/-- The activation (R115, R123): ReLU gives +0 only; clamp to [LO, HI], which have no stated values without an epilogue area, and no stated
result where LO > HI (log entry 10). -/
def activate (act : Nat) (area : List FVal) (y : FVal) : FVal :=
  match act with
  | 1 => if y = .nan then .nan else if FVal.zero.lt y then y else .zero
  | 2 =>
    let lo := area.getD 0 (fp32.ofBits (Config.unstated 4 [0]))
    let hi := area.getD 1 (fp32.ofBits (Config.unstated 4 [1]))
    if hi.lt lo then fp32.ofBits (Config.unstated 4 [2, fp32.bits y, fp32.bits lo, fp32.bits hi]) else (y.max' lo).min' hi
  | _ => y

/-- The epilogue on one accumulator of channel `n` (R115). -/
def epilogue (act : Nat) (area : List FVal) (asInt : Bool) (n : Nat) (a : FVal) : FVal :=
  let y := if asInt && area.isEmpty then a else a.r32
  let y := if area.isEmpty then y else (((y.mul (area.getD (2 + 2 * n) .zero)).r32).add (area.getD (3 + 2 * n) .zero)).r32
  activate act area y

/-- Rows of accumulators go through the epilogue and out (R115, R116), but for the rows of `whole`, which are results already. -/
def Ctx.finish (k : Ctx) (out : Desc) (int : Bool) (rows : List (List FVal)) (whole : List Bool := []) : EM Bool := do
  let o ← k.outCfg out.fmt
  let area ← k.epiArea k.c.epi out.d0
  let asInt := int && out.fmt = 0xC
  wrTensor k.acc out o ((rows.zip (List.range rows.length)).map fun y =>
    if whole.getD y.2 false then y.1 else (y.1.zip (List.range y.1.length)).map fun x => epilogue k.c.act area asInt x.2 x.1)

/-- Initial accumulators from IN2 in the accumulator format, else +0: in OUT's shape (R126), or with OUT's rows where only the rows of a
tensor count (R129). -/
def Ctx.initial (k : Ctx) (out : Desc) (int byRow : Bool) : EM (List (List FVal)) := do
  if k.has 2 then
    let d ← k.desc 2
    need (d.d0 = out.d0 && (if byRow then d.rows = out.rows else d.d1 = out.d1 && d.d2 = out.d2) && d.fmt = (if int then 0xC else 0xB)
      && !d.zc)
    rdTensor k.acc d
  else pure []

def initAt (t : List (List FVal)) (r n : Nat) : FVal := (t.getD r []).getD n .zero

/-! ## CONV (R126 to R128) -/

def strideOf (code : Nat) : Nat := if code = 0 then 1 else if code = 1 then 2 else 4

def opConv (k : Ctx) : EM Bool := do
  let c := k.c
  let kh := c.f 4 61 3
  let kw := c.f 4 58 3
  need (kh != 0 && kw != 0 && c.f 4 56 2 != 3 && c.f 4 54 2 != 3)
  let sy := strideOf (c.f 4 56 2)
  let sx := strideOf (c.f 4 54 2)
  let dy := c.f 4 53 1 + 1
  let dx := c.f 4 52 1 + 1
  let pt := c.f 4 49 3
  let pb := c.f 4 46 3
  let pl := c.f 4 43 3
  let pr := c.f 4 40 3
  need (pt ≤ 6 && pb ≤ 6 && pl ≤ 6 && pr ≤ 6)
  let a ← k.desc 0
  let w ← k.desc 1
  let out ← k.desc 3
  let int ← family a.fmt w.fmt
  need (!a.zc && !w.zc)
  let cin := a.d0
  need (w.d0 = cin && w.d1 = kh * kw && w.d2 = out.d0 && cin ≤ 4096 && out.d0 ≤ 4096)
  need (a.d1 * min cin 128 * kh * (elemBits a.fmt / 8) ≤ 458752)
  let spanY := dy * (kh - 1) + 1
  let spanX := dx * (kw - 1) + 1
  need (spanY ≤ a.d2 + pt + pb && spanX ≤ a.d1 + pl + pr)
  need (out.d2 = (a.d2 + pt + pb - spanY) / sy + 1 && out.d1 = (a.d1 + pl + pr - spanX) / sx + 1)
  let init ← k.initial out int false
  let img ← rdTensor k.acc a
  let wts ← rdTensor k.acc w
  let pad := List.replicate cin (elemVal a.fmt (c.f 4 0 32 % 2 ^ elemBits a.fmt))
  let at' (iy ix : Int) : List FVal :=
    if 0 ≤ iy && iy < a.d2 && 0 ≤ ix && ix < a.d1 then img.getD (ix.toNat + a.d1 * iy.toNat) [] else pad
  let rows := (List.range out.rows).map fun r =>
    let ox := r % out.d1
    let oy := r / out.d1
    let patch := (List.range (kh * kw)).flatMap fun t =>
      at' ((oy * sy + t / kw * dy : Nat) - (pt : Int)) ((ox * sx + t % kw * dx : Nat) - (pl : Int))
    (List.range out.d0).map fun o =>
      let ws := (List.range (kh * kw)).flatMap fun t => wts.getD (t + kh * kw * o) []
      accum int (initAt init r o) ((ws.zip patch).map fun x => x.1.mul x.2)
  k.finish out int rows

/-! ## GEMM (R129) -/

/-- Rows of A against the transposed B, with initial accumulators. -/
def gemmRows (int : Bool) (a b init : List (List FVal)) : List (List FVal) :=
  (a.zip (List.range a.length)).map fun x =>
    (b.zip (List.range b.length)).map fun y => accum int (initAt init x.2 y.2) ((x.1.zip y.1).map fun p => p.1.mul p.2)

def opGemm (k : Ctx) : EM Bool := do
  let a ← k.desc 0
  let b ← k.desc 1
  let out ← k.desc 3
  let int ← family a.fmt b.fmt
  need (!b.zc && b.d2 = 1 && b.d0 = a.d0 && b.d1 = out.d0 && out.rows = a.rows && b.d1 ≤ 4096)
  need (a.d0 ≤ 16384 && a.d0 % (if a.zc then 64 else 16) = 0)
  let init ← k.initial out int true
  let av ← rdTensor k.acc a
  let bv ← rdTensor k.acc b
  k.finish out int (gemmRows int av bv init)

/-! ## ATTN (R133, R171, R172) -/

/-- The virtual offsets of a window's keys within its layer, in key order (R171). -/
def windowKeys (m : Mach) (e slot rows : Nat) : List Nat :=
  (List.range rows).flatMap fun a =>
    let q := (slot + 32 * m.winRows e + a + 1 - rows) % max 1 (m.winRows e)
    (List.range (m.haloKeys e false)).map (fun j => haloOff 0 false q j)
      ++ (List.range (m.across e)).map (fun c => m.ownOff e 0 q c)
      ++ (List.range (m.haloKeys e true)).map fun j => haloOff 0 true q j

/-- The keys or values of an operand: a window's tokens, or the rows of a plain tensor. The scale bytes of a window's keys lie at SCALE in key
order (log entry 135). -/
def keyRows (acc : Acc) (d : Desc) (offs : List Nat) : EM (List (List FVal)) :=
  if d.virt then
    let per := (d.d0 + 31) / 32
    (offs.zip (List.range offs.length)).mapM fun o => do
      let b ← rdVirt acc d.seq (d.rowBytes / 0x4000 + 2) (d.base + o.1) d.rowBytes
      let s ← if isMx d.fmt then rdBytes acc (d.scale + o.2 * per) per else pure []
      pure (valuesOf d.fmt (codesOf (elemBits d.fmt) d.d0 b) (s.map (·.toNat)))
  else rdTensor acc d

def opAttn (k : Ctx) : EM Bool := do
  let c := k.c
  let mk := c.f 4 0 2
  need (mk != 3)
  let q ← k.desc 0
  let kd ← k.desc 1
  let vd ← k.desc 2
  let out ← k.desc 3
  let _ ← family q.fmt kd.fmt
  need (!q.zc && !kd.zc && !vd.zc && !out.zc && kd.virt = vd.virt && vd.fmt != 0xB && vd.fmt != 0xC && vd.fmt != 0xD)
  let x ← get
  let offs := if kd.virt then windowKeys x.m kd.seq kd.ro vd.ro else []
  let nk := if kd.virt then offs.length else kd.rows
  let dv := vd.d0
  need ((q.d0 = 32 || q.d0 = 64 || q.d0 = 128) && (dv = 32 || dv = 64 || dv = 128) && kd.d0 = q.d0 && out.d0 = dv
    && out.rows = q.rows && q.rows ≤ 64 && nk ≤ 1024 && (kd.virt || vd.rows = nk))
  let qs ← rdTensor k.acc q
  let ks ← keyRows k.acc kd offs
  let vs ← keyRows k.acc vd offs
  let per := (nk + 7) / 8
  let mask ← if mk = 0 then pure [] else rdBytes k.acc (c.f 5 0 40) (if mk = 1 then per else q.rows * per)
  let valid (i j : Nat) : Bool := match mk with
    | 0 => true
    | 1 => (mask.getD (j / 8) 0).getLsbD (j % 8)
    | _ => (mask.getD (i * per + j / 8) 0).getLsbD (j % 8)
  let scale := fp32.ofBits (c.f 4 32 32)
  let log2e := fp32.ofBits 0x3FB8AA3B
  let none' := (List.range qs.length).map fun i => !(List.range nk).any (valid i)
  let rows := (qs.zip (List.range qs.length)).map fun y =>
    let s := (ks.zip (List.range nk)).map fun kj =>
      (valid y.2 kj.2, ((accumulate .zero ((y.1.zip kj.1).map fun p => p.1.mul p.2)).mul scale).r32)
    match (s.filter (·.1)).map (·.2) with
    | [] => List.replicate dv FVal.zero
    | s0 :: st =>
      let mx := st.foldl FVal.max' s0
      let es := s.map fun z => if z.1 then some (exp2F (((z.2.sub mx).mul log2e).r32)) else none
      let total := (es.filterMap id).foldl (fun a z => (a.add z).r32) .zero
      let r := recip total
      let ps := es.map fun z => match z with | some z => some ((z.mul r).r32) | none => none
      (List.range dv).map fun d =>
        accumulate .zero ((ps.zip vs).map fun z => match z.1 with | some p => p.mul (z.2.getD d .zero) | none => .zero)
  k.finish out false rows none'

/-! ## NE (R134) -/

def opNorm (k : Ctx) : EM Bool := do
  let a ← k.desc 0
  let out ← k.desc 3
  need (out.d0 = a.d0 && out.rows = a.rows && !a.zc)
  let eps := fp32.ofBits (k.c.f 4 32 32)
  let n := FVal.ofInt a.d0
  let t ← rdTensor k.acc a
  let rows := t.map fun r =>
    let x := r.map FVal.r32
    if k.c.f 4 0 1 = 1 then
      let q := fdiv (sumR (x.map fun v => v.mul v)) n
      let s := rsqrt ((q.add eps).r32)
      x.map fun v => (v.mul s).r32
    else
      let mu := fdiv (sumR x) n
      let dev := x.map fun v => (v.sub mu).r32
      let var := fdiv (sumR (dev.map fun v => v.mul v)) n
      let s := rsqrt ((var.add eps).r32)
      dev.map fun v => (v.mul s).r32
  k.finish out false rows

/-- Sum, mean, maximum or minimum (R134). -/
def reduceList (op : Nat) (xs : List FVal) : FVal :=
  match op with
  | 0 => sumR xs
  | 1 => fdiv (sumR xs) (FVal.ofInt xs.length)
  | 2 => match xs with | x :: t => t.foldl FVal.max' x | [] => .zero
  | _ => match xs with | x :: t => t.foldl FVal.min' x | [] => .zero

def opReduce (k : Ctx) : EM Bool := do
  let a ← k.desc 0
  let out ← k.desc 3
  let op := k.c.f 4 0 2
  let t ← rdTensor k.acc a
  let t := t.map fun r => r.map FVal.r32
  need (!a.zc)
  if k.c.f 4 4 1 = 0 then
    need (out.d0 = 1 && out.rows = a.rows)
    k.finish out false (t.map fun r => [reduceList op r])
  else
    need (out.d0 = a.d0 && out.d1 = 1 && out.d2 = a.d2)
    k.finish out false ((List.range a.d2).map fun i2 =>
      let rs := (t.drop (a.d1 * i2)).take a.d1
      (List.range a.d0).map fun i => reduceList op (rs.map fun r => r.getD i .zero))

def opPool (k : Ctx) : EM Bool := do
  let c := k.c
  let kh := c.f 4 61 3 + 1
  let kw := c.f 4 58 3 + 1
  let sy := c.f 4 55 3 + 1
  let sx := c.f 4 52 3 + 1
  let a ← k.desc 0
  let out ← k.desc 3
  need (!a.zc && out.d0 = a.d0 && (out.d2 - 1) * sy < a.d2 && (out.d1 - 1) * sx < a.d1)
  let t ← rdTensor k.acc a
  let rows := (List.range out.rows).map fun r =>
    let win := (List.range (kh * kw)).filterMap fun i =>
      let y := r / out.d1 * sy + i / kw
      let x := r % out.d1 * sx + i % kw
      if y < a.d2 ∧ x < a.d1 then some ((t.getD (x + a.d1 * y) []).map FVal.r32) else none
    (List.range a.d0).map fun ch => reduceList (if c.f 4 0 1 = 1 then 1 else 2) (win.map fun w => w.getD ch .zero)
  k.finish out false rows

/-- GELU by its stated steps (R134). -/
def gelu (x : FVal) : FVal :=
  let cube := (x.mul ((x.mul x).r32)).r32
  let u := (x.add (((fp32.ofBits 0x3D372713).mul cube).r32)).r32
  let t := tanhF (((fp32.ofBits 0x3F4C422A).mul u).r32)
  ((FVal.fin false 1 (-1)).mul ((x.mul ((FVal.fin false 1 0).add t).r32).r32)).r32

def eltFn (fn : Nat) : Option (Bool × (FVal → FVal → FVal)) :=
  match fn with
  | 0x01 => some (true, fun a b => (a.add b).r32)
  | 0x02 => some (true, fun a b => (a.mul b).r32)
  | 0x10 => some (false, fun a _ => activate 1 [] a)
  | 0x11 => some (false, fun a _ => sigmoidF a)
  | 0x12 => some (false, fun a _ => tanhF a)
  | 0x13 => some (false, fun a _ => expF a)
  | 0x14 => some (false, fun a _ => (a.mul (sigmoidF a)).r32)
  | 0x15 => some (false, fun a _ => gelu a)
  | _ => none

def opEltwise (k : Ctx) : EM Bool := do
  match eltFn (k.c.f 4 0 8) with
  | none => throw .invalid
  | some (two, f) =>
    let a ← k.desc 0
    let out ← k.desc 3
    need (!a.zc && out.d0 = a.d0 && out.rows = a.rows)
    let ta ← rdTensor k.acc a
    let tb ← if two then do
        let b ← k.desc 1
        need (!b.zc && b.d0 = a.d0 && b.rows = a.rows)
        rdTensor k.acc b
      else pure ta
    k.finish out false ((ta.zip tb).map fun r => (r.1.zip r.2).map fun x => f x.1.r32 x.2.r32)

/-- COPY (R134): from FP32 for float inputs, from INT32 for integer inputs. -/
def opCopy (k : Ctx) : EM Bool := do
  let a ← k.desc 0
  let out ← k.desc 3
  need (out.d0 = a.d0 && out.d1 = a.d1 && out.d2 = a.d2)
  let t ← rdTensor k.acc a
  let int := isInt a.fmt
  k.finish out int (if int then t else t.map fun r => r.map FVal.r32)

/-! ## CE (R135, R136) -/

def opZ (k : Ctx) (toZc : Bool) : EM Bool := do
  let a ← k.desc 0
  let out ← k.desc 3
  need (k.rndGood out.fmt && a.fmt = out.fmt && a.d0 = out.d0 && a.d1 = out.d1 && a.d2 = out.d2 && a.zc = !toZc && out.zc = toZc)
  (List.range a.rows).forM fun r => do
    let c ← rdRow k.acc a (r % a.d1) (r / a.d1)
    wrRow k.acc out (r % a.d1) (r / a.d1) c
  pure false

/-- The residuals of a line (R136), mapped to naturals: `w` bits a pixel. -/
def auditLine (w : Nat) (prev : Option (List Nat)) (x : List Nat) : List Nat :=
  (List.range x.length).map fun i =>
    let b := match prev with | some p => p.getD i 0 | none => 0
    let a := if i = 0 then b else x.getD (i - 1) 0
    let c := if i = 0 then b else match prev with | some p => p.getD (i - 1) 0 | none => 0
    let pred : Int := if max a b ≤ c then (min a b : Nat) else if c ≤ min a b then (max a b : Nat) else (a : Int) + b - c
    let r := sgn w ((((x.getD i 0 : Nat) : Int) - pred) % 2 ^ w).toNat
    if 0 ≤ r then (2 * r).toNat else (-2 * r - 1).toNat

/-- The code bits of one value under parameter `k` (R136). -/
def auditCode (w k u : Nat) : List Bool :=
  let bits (n v : Nat) : List Bool := (List.range n).reverse.map fun i => v.testBit i
  if u / 2 ^ k < 32 then List.replicate (u / 2 ^ k) false ++ [true] ++ bits k (u % 2 ^ k)
  else List.replicate 32 false ++ [true] ++ bits w u

def auditLen (w k : Nat) (us : List Nat) : Nat := us.foldl (fun a u => a + (if u / 2 ^ k < 32 then u / 2 ^ k + 1 + k else 33 + w)) 0

/-- The smallest k that minimises the line's coded length (R136). -/
def auditK (w : Nat) (us : List Nat) : Nat :=
  (List.range (w + 1)).foldl (fun b k => if auditLen w k us < auditLen w b us then k else b) 0

/-- Bits packed MSB first, padded with zeros to a byte. -/
def packMsb (l : List Bool) : List Byte :=
  (List.range ((l.length + 7) / 8)).map fun i =>
    BitVec.ofNat 8 (((List.range 8).map fun j => if l.getD (8 * i + j) false then 2 ^ (7 - j) else 0).foldl (· + ·) 0)

/-- One line's record (R136). -/
def auditRecord (w : Nat) (us : List Nat) : List Byte :=
  let k := auditK w us
  let body := BitVec.ofNat 8 (k % 16 + (if w = 16 then 16 else 0)) :: packMsb (us.flatMap (auditCode w k))
  leBytes 4 body.length ++ body

/-- AUDIT (R136): lines of raw pixels, compressed or not (R141), each coded to a record in OUT's row; a compressed OUT holds the record's bytes,
padded with zeros to D0 elements (log entry 136). -/
def opAudit (k : Ctx) : EM Bool := do
  let w := if k.c.f 4 0 1 = 1 then 16 else 8
  let a ← k.desc 0
  let out ← k.desc 3
  need (k.rndGood out.fmt && elemBits a.fmt = w && !isMx a.fmt && out.rows = a.rows)
  let _ ← (List.range a.rows).foldlM (fun (prev : Option (List Nat)) r => do
    let x ← rdRow k.acc a (r % a.d1) (r / a.d1)
    let rec' := auditRecord w (auditLine w prev x)
    if out.zc then
      need (rec'.length ≤ out.rowBytes)
      wrRow k.acc out (r % out.d1) (r / out.d1) (codesOf (elemBits out.fmt) out.d0 (rec' ++ List.replicate (out.rowBytes - rec'.length) 0))
    else wrAt k.acc out (out.rowAt (r % out.d1) (r / out.d1)) rec'
    pure (some x)) none
  pure false

/-! ## VE (R137) -/

def opAssemble (k : Ctx) : EM Bool := do
  let c := k.c
  let row0 := c.f 4 48 16
  let rows := c.f 4 32 16
  let col0 := c.f 4 16 16
  let cols := c.f 4 0 16
  let a ← k.desc 0
  let out ← k.desc 3
  need (k.rndGood out.fmt && !a.zc && !out.zc && a.fmt = out.fmt && a.d0 = out.d0 && out.rows = rows * cols && rows * cols ≤ 256
    && row0 + rows ≤ a.d2 && col0 + cols ≤ a.d1)
  (List.range (rows * cols)).forM fun i => do
    let x ← rdRow k.acc a (col0 + i % cols) (row0 + i / cols)
    let s ← rdScales k.acc a (col0 + i % cols) (row0 + i / cols)
    wrRow k.acc out (i % out.d1) (i / out.d1) x
    if isMx a.fmt then wrBytes k.acc (out.scaleAt (i % out.d1) (i / out.d1)) (s.map fun b => BitVec.ofNat 8 b)
  pure false

/-- The layers of a head (R137): each a GEMM with the epilogue; between layers the tokens keep the format of IN0. -/
def headLayers (k : Ctx) (fmt : Nat) (o : OutCfg) : List (List Byte) → List (List FVal) → Bool → EM (List (List FVal) × Bool)
  | [], t, v => pure (t, v)
  | l :: rest, t, v => do
    let idx := ofLe (l.take 2)
    let act := ofLe ((l.drop 2).take 2) % 16
    let epi := ofLe ((l.drop 8).take 5)
    need (act ≤ 2)
    let w ← readDesc k.acc k.c.job idx 0
    let int ← family fmt w.fmt
    need (!w.zc && w.d2 = 1 && (t.all fun r => r.length = w.d0) && w.d1 ≤ (if rest.isEmpty then 16 else 256))
    let area ← k.epiArea epi w.d1
    let wv ← rdTensor k.acc w
    let ys := (gemmRows int t wv []).map fun r => (r.zip (List.range r.length)).map fun x => epilogue act area false x.2 x.1
    if rest.isEmpty then pure (ys, v)
    else
      let cs := (ys.zip (List.range ys.length)).map fun y => convRow fmt o (y.2 * w.d1) y.1
      headLayers k fmt o rest (cs.map fun z => valuesOf fmt z.1 z.2.1) (v || cs.any (·.2.2))

def opHead (k : Ctx) : EM Bool := do
  let a ← k.desc 0
  let tb ← k.desc 1
  let out ← k.desc 3
  let pool := k.c.f 4 1 2
  need (pool ≤ 1 && !a.zc && a.d0 ≤ 1024 && !tb.virt && 1 ≤ tb.rows && tb.rows ≤ 3 && tb.rowBytes = 16)
  let o ← k.outCfg out.fmt
  let layers ← (List.range tb.rows).mapM fun r => rdBytes k.acc (tb.rowAt (r % tb.d1) (r / tb.d1)) 16
  let t ← rdTensor k.acc a
  let (ys, v) ← headLayers k a.fmt o layers t false
  let n := (ys.headD []).length
  let logits := (List.range n).map fun i => reduceList (if pool = 0 then 1 else 2) (ys.map fun r => r.getD i .zero)
  need (out.fmt = 0xB && out.d0 = n + 1 && out.rows = 1 && !out.zc)
  let best := (List.range n).foldl (fun b i => if (logits.getD b .zero).lt (logits.getD i .zero) then i else b) 0
  wrAt k.acc out (out.rowAt 0 0) (logits.flatMap (fun y => leBytes 4 (fp32.bits y)) ++ leBytes 4 best)
  pure (v || (convRow 0xB o 0 logits).2.2)

/-! ## Running a command -/

/-- What an opcode does on memory (R124): true when a conversion overflowed. -/
def opRun (k : Ctx) : EM Bool :=
  match k.c.opcode with
  | 0x00 => pure false
  | 0x10 => opConv k
  | 0x20 => opGemm k
  | 0x30 => opAttn k
  | 0x40 => opNorm k
  | 0x41 => opReduce k
  | 0x42 => opPool k
  | 0x43 => opEltwise k
  | 0x44 => opCopy k
  | 0x50 => opZ k true
  | 0x51 => opZ k false
  | 0x52 => opAudit k
  | 0x60 => opAssemble k
  | _ => opHead k

/-- A command checked and run (R121, R125, R218). -/
def cmdRun (e q : Nat) (c : Cmd) : EM Bool := do
  let x ← get
  need (x.m.jobClass c.job = q) .cls
  need (accepts e c.opcode && c.clean)
  need ((!c.waitEn || x.m.synOwns c.job c.waitObj) && (!c.sigEn || x.m.synOwns c.job c.sigObj))
  opRun { e, c, acc := { agent := engAgent e, job := some c.job } }

/-! ## Counting operations (R453) -/

/-- Valid keys of each query row under a mask (R133). -/
def validKeys (mk rows nk : Nat) (mask : List Byte) : List Nat :=
  let per := (nk + 7) / 8
  (List.range rows).map fun i => (List.range nk).countP fun j => match mk with
    | 0 => true
    | 1 => (mask.getD (j / 8) 0).getLsbD (j % 8)
    | _ => (mask.getD (i * per + j / 8) 0).getLsbD (j % 8)

/-- The multiply-accumulates of a head's layers (R137), each under its weights' format. -/
def headMacs (k : Ctx) (n : Nat) : List (List Byte) → EM (List (Nat × Nat))
  | [] => pure []
  | l :: t => do
    let w ← readDesc k.acc k.c.job (ofLe (l.take 2)) 0
    let r ← headMacs k n t
    pure ((w.fmt, n * w.d0 * w.d1) :: r)

/-- The operations of a command, as 16 * type + format and count (R453; log entry 72). -/
def opCounts (k : Ctx) : EM (List (Nat × Nat)) := do
  let sum : EM Nat := do let d ← k.desc 3; pure (d.rows * d.d0)
  match k.c.opcode with
  | 0x10 => do
    let w ← k.desc 1
    pure [(w.fmt, (← sum) * w.d1 * w.d0)]
  | 0x20 => do
    let b ← k.desc 1
    pure [(b.fmt, (← sum) * b.d0)]
  | 0x30 => do
    let q ← k.desc 0
    let kd ← k.desc 1
    let vd ← k.desc 2
    let out ← k.desc 3
    let x ← get
    let nk := if kd.virt then (windowKeys x.m kd.seq kd.ro vd.ro).length else kd.rows
    let mk := k.c.f 4 0 2
    let per := (nk + 7) / 8
    let mask ← if mk = 0 then pure [] else rdBytes k.acc (k.c.f 5 0 40) (if mk = 1 then per else q.rows * per)
    let v := validKeys mk q.rows nk mask
    let keys := v.foldl (· + ·) 0
    pure [(kd.fmt, keys * (q.d0 + vd.d0)), (16 + out.fmt, keys + v.countP (· != 0))]
  | 0x40 => do
    let a ← k.desc 0
    let out ← k.desc 3
    pure [(16 + out.fmt, a.rows)]
  | 0x43 => do
    let out ← k.desc 3
    let fn := k.c.f 4 0 8
    pure (if 0x11 ≤ fn && fn ≤ 0x15 then [(16 + out.fmt, out.rows * out.d0)] else [])
  | 0x60 | 0x44 | 0x50 | 0x51 | 0x52 => do
    let a ← k.desc 0
    let out ← k.desc 3
    let n := if k.c.opcode = 0x60 then out.rows * out.d0 else a.rows * a.d0
    pure [(32 + out.fmt, n)]
  | 0x61 => do
    let a ← k.desc 0
    let tb ← k.desc 1
    let layers ← (List.range tb.rows).mapM fun r => rdBytes k.acc (tb.rowAt (r % tb.d1) (r / tb.d1)) 16
    headMacs k a.rows layers
  | _ => pure []

/-- The crossed counters count commands of this layer (R453). -/
def Mach.profiles (m : Mach) (c : Cmd) : Bool :=
  m.on F.trcProf_EN && m.get F.pwrStat_STAGE = 0 && (m.on F.trcProf_LAYER_ALL || m.get F.trcProf_LAYER_SEL = c.layer)

/-- A counter of R452 to R455 goes up (R474: free-running, wrapping). -/
def Mach.profAdd (m : Mach) (o n : Nat) : Mach :=
  if n = 0 then m else { m with prof := spPut (fun _ => 0) m.prof o (spGet (fun _ => 0) m.prof o + BitVec.ofNat 64 n) }

/-- The operations of the command that engine `e` completes (R453). -/
def Mach.opsCount (m : Mach) (e : Nat) (c : Cmd) : Mach :=
  if m.profiles c then (m.engine e).ops.foldl (fun m x => m.profAdd (R.engOps (engBlk e) (engInst e) x.1) x.2) m else m

/-- The command may start: its wait holds and its job's work goes on. -/
def Mach.ready (m : Mach) (c : Cmd) : Bool :=
  (!c.waitEn || c.sat) && !m.on (F.schJobStat_PREEMPTED c.job) && !m.on (F.schJobStat_PAUSED c.job)

/-- The head that the engine starts next (R201), with its queue. -/
def Mach.pick (m : Mach) (e : Nat) : Option (Nat × Cmd) :=
  let x := m.engine e
  let busy (c : Nat) : Nat := spGet (fun _ => 0) x.busy c
  let head (q : Nat) : Option (Nat × Cmd) :=
    match (if q = 0 then x.q0 else if q = 1 then x.q1 else x.q2) with
    | c :: _ => if m.ready c then some (q, c) else none
    | [] => none
  let within (q lim : Nat) : Option (Nat × Cmd) := if busy q < lim * 250 then head q else none
  (within 0 (m.slotC0 e)).orElse fun _ =>
    (within 2 (m.get (F.schSlot_C2_MIN e))).orElse fun _ =>
      (head 1).orElse fun _ => (head 0).orElse fun _ => head 2

/-- The head of queue `q` leaves it. -/
def Eng.pop (x : Eng) (q : Nat) : Eng :=
  if q = 0 then { x with q0 := x.q0.tail } else if q = 1 then { x with q1 := x.q1.tail } else { x with q2 := x.q2.tail }

/-- Arguments of an engine event (R156): the instance has RST_CMD.INSTANCE's width (R507). -/
def engArgs (e : Nat) (c : Cmd) (mid : List (Nat × Int)) : List (Nat × Int) :=
  [(10, (engInst e : Int))] ++ mid ++ [(6, (c.job : Int)), (12, (c.layer : Int)), (16, (c.operator : Int))]

/-- A trace record of a command (R461). -/
def Mach.traceCmd (m : Mach) (e typ : Nat) (c : Cmd) (arg0 arg1 : Nat) : Mach :=
  m.trace 8 true (some c.job) { typ, job := c.job, agent := engAgent e, layer := c.layer, operator := c.operator, sub := c.opcode, reel := m.reel, arg0, arg1 }

/-- Busy time of the running command is accounted to its class (R201). -/
def Eng.account (x : Eng) (q now : Nat) : Eng :=
  { x with busy := spPut (fun _ => 0) x.busy q (spGet (fun _ => 0) x.busy q + (now - x.runAt)) }

/-- The running command stops at a tile boundary (R155, R201): back at the head of its queue, with its progress. -/
def Eng.suspend (x : Eng) (now : Nat) : Eng :=
  match x.run with
  | none => x
  | some (q, c) =>
    let x := { x.account q now with run := none }
    let c := { c with sat := true, part := some ⟨x.ops, x.cmdBusy, x.cmdStall⟩ }
    if q = 0 then { x with q0 := c :: x.q0 } else if q = 1 then { x with q1 := c :: x.q1 } else { x with q2 := c :: x.q2 }

/-- What engine `e` starts at a command boundary, or at a tile boundary of a running class-1 or class-2 command (R201): the machine in which it
stands at that boundary, the queue and its head. A class-0 command never yields, one of a pre-empted job is PREEMPTED's, and one that goes on
starts nothing. -/
def Mach.toStart (m : Mach) (e : Nat) : Option (Mach × Nat × Cmd) :=
  if 23 ≤ e then none
  else
    let idle := m.modEng e fun x => x.suspend m.now
    match (m.engine e).run, idle.pick e with
    | _, none => none
    | none, some (q, c) => some (m, q, c)
    | some (q, c), some (q', c') =>
      if q = 0 || q = q' || m.on (F.schJobStat_PREEMPTED c.job) || m.on (F.schJobStat_PAUSED c.job) then none else some (idle, q', c')

/-- Command `c` of queue `q` is engine `e`'s running command, with what it has behind it. -/
def Mach.engRuns (m : Mach) (e q : Nat) (c : Cmd) (p : Progress) : Mach :=
  let m := m.modEng e fun y =>
    { y.pop q with run := some (q, { c with part := none }), runAt := m.now, cmdBusy := p.busy, cmdStall := p.stall, ops := p.ops }
  (m.modJob c.job fun r => { r with progressAt := m.now }).engClean.engShow e

/-- Engine `e` starts the command at its head when it is one of `op` and good (R122, R201): its outputs are written. One that a tile boundary
interrupted goes on from there, with the bits of an uninterrupted run (R114, R155). A command that would fault is CMD_FAULT's. -/
def engineStart (op e : Nat) (x : Fx) : Fx :=
  if x.m.traceStalls (engAgent e) then x
  else
    match x.m.toStart e with
    | none => x
    | some (m, q, c) =>
      if c.opcode ≠ op then x
      else
        match c.part with
        | some p => x.mach fun _ => m.engRuns e q c p
        | none =>
        match (cmdRun e q c).run (x.mach fun _ => m) with
        | (.error _, _) => x
        | (.ok beyond, y) =>
          let ops := match (opCounts { e, c, acc := { agent := engAgent e, job := some c.job } }).run x with | (.ok l, _) => l | _ => []
          y.mach fun m =>
            let m := m.traceCmd e 0x01 c q c.stepKey.toNat
            let m := m.cond beyond (·.emit (engBlk e + 1) 0x13 (engInst e) (engArgs e c []))
            let m := m.cond (op = 0x61) fun m => m.modEng e fun y => { y with reserve := c.f 4 0 1 = 1 }
            m.engRuns e q c ⟨ops, 0, 0⟩

/-- COMMAND_COMPLETE (R122, R154): the running command completes and signals; one whose job has FAULTED, or a class-1 or class-2 one
whose job is STOPPING, signals nothing. -/
def commandComplete (e : Nat) (m : Mach) : Mach :=
  match (m.engine e).run with
  | none => m
  | some (q, c) =>
    let x := m.engine e
    let m := (m.traceCmd e 0x02 c (x.cmdBusy / 1024 * 1024) (x.cmdStall / 1024 * 1024)).opsCount e c
    let m := m.modEng e fun y => { y.account q m.now with run := none }
    let st := m.jobState c.job
    let m := if c.sigEn && (st = 2 || (st = 3 && q = 0)) then m.synAdd c.sigObj 1 else m
    (m.modJob c.job fun r => { r with progressAt := m.now }).engClean.engShow e

/-- Cause and address of an engine fault (R157, R174). -/
def EFault.cause : EFault → Nat × Nat
  | .bus a => (1, a)
  | .trans e o => (2, e % 1024 * 2 ^ 26 + o % 2 ^ 26)
  | .invalid => (3, 0)
  | .badDesc => (4, 0)
  | .cls => (5, 0)
  | .stall => (3, 0)

/-- Engine `e`'s command `c` of queue `q` faults (R154, R195). -/
def Fx.engFault (x : Fx) (e : Nat) (c : Cmd) (f : EFault) : Fx :=
  let b := engBlk e
  let n := engInst e
  let (cause, addr) := f.cause
  let x := x.mach fun m =>
    let m := if m.on (F.engFault_VALID b n) then m
      else (((((((m.setb (F.engFault_VALID b n) true).set (F.engFault_CAUSE b n) cause).set (F.engFault_JOB b n) c.job).set
        (F.engFault_LAYER b n) c.layer).set (F.engFault_OPERATOR b n) c.operator).set (F.engFault_AGENT b n) c.agent).set
        (F.engFaultAddr_ADDR b n) addr)
    let m := m.emit (b + 1) 0x10 n (engArgs e c [(4, (cause : Int))])
    let m := m.cond (cause = 1) (·.emit (b + 1) 0x04 n [])
    let keep (l : List Cmd) : List Cmd := l.filter fun d => d.job ≠ c.job
    m.modEng e fun y => { y with q0 := keep y.q0, q1 := keep y.q1, q2 := keep y.q2, run := none }
  (x.jobFault c.job ((b + 1) * 256 + 0x10)).mach fun m => (m.engClean).engShow e

/-- CMD_FAULT (R125, R154): the head that the engine starts next is invalid or meets an error. -/
def cmdFaultFx (e : Nat) (x : Fx) : Fx :=
  match x.m.toStart e with
  | none => x
  | some (m, q, c) =>
    if c.part.isSome then x
    else
      match (cmdRun e q c).run (x.mach fun _ => m) with
      | (.error f, y) => if f = .stall then x else y.engFault e c f
      | (.ok _, _) => x

/-- Where the save area of job `j` holds engine `e`'s interrupted command (R208). -/
def Mach.engArea (m : Mach) (e j : Nat) : Nat :=
  let sv := (m.jrt j).saved
  let nth := match sv with | some s => s.engines.findIdx (· = e) | none => 0
  let cl := match sv with | some s => s.clusters | none => 0
  m.get (F.schJobSave_BASE j) * 0x4000 + 64 * cl * m.lsSave j + m.tunPages j * 16384 + 65536 * nth

/-- PREEMPTED (R155): a class-1 or class-2 command of a pre-empted or paused job stops at its tile boundary and is kept for resumption; what
the save area then holds of it is not stated. -/
def preemptedFx (e : Nat) (x : Fx) : Fx :=
  match (x.m.engine e).run with
  | none => x
  | some (q, c) =>
    let m := x.m
    if q ≠ 0 && (m.on (F.schJobStat_PREEMPTED c.job) || m.on (F.schJobStat_PAUSED c.job)) then
      let area := m.engArea e c.job
      let image := (List.range 8192).flatMap fun i => leBytes 8 (Config.freeWord (m.fresh + i)).toNat
      let x := x.mach fun m =>
        let m := { m with fresh := m.fresh + 8192 }
        let m := m.modEng e fun y => y.suspend m.now
        (m.emit (engBlk e + 1) 0x12 (engInst e) [(10, (engInst e : Int)), (6, (c.job : Int))]).engShow e
      let (ok, x) := x.write { agent := 0x061, job := some c.job } area image
      if ok then x else x.jobFault c.job 0x0C04
    else x

/-! ## Writing commands (R120, R121) -/

/-- The engine and queue of a data-port address (R120): engine number and queue page. -/
def cmdPort (a : Nat) : Option (Nat × Nat) :=
  let o := a - 0x1800000000
  let inst := o % 0x100000 / 0x10000
  let page := o % 0x10000 / 0x1000
  if a < 0x1800200000 || 2 < page then none
  else
    match o / 0x100000 with
    | 2 => if inst < 4 then some (inst, page) else none
    | 3 => if inst < 8 then some (4 + inst, page) else none
    | 4 => if inst < 4 then some (12 + inst, page) else none
    | 5 => if inst < 4 then some (16 + inst, page) else none
    | 6 => if inst < 2 then some (20 + inst, page) else none
    | 7 => if inst < 1 then some (22, page) else none
    | _ => none

/-- A write to a queue page (R120): false when the writer stalls, on a full queue or on R218's limit. -/
def Mach.cmdPush (m : Mach) (agent : Nat) (coreJob : Option Nat) (addr : Nat) (bytes : List Byte) : Bool × Mach :=
  match cmdPort addr with
  | none => (true, m)
  | some (e, q) =>
    let may := agent = 0x001 || agent = 0x061 || coreJob.isSome
    if bytes.length ≠ 64 ∨ addr % 64 ≠ 0 ∨ may = false then
      (true, m.emit (engBlk e + 1) 0x11 (engInst e) [(10, (engInst e : Int)), (12, (agent : Int)), (32, (addr % 0x1000 : Int))])
    else
      let x := m.engine e
      let l := if q = 0 then x.q0 else if q = 1 then x.q1 else x.q2
      if 64 ≤ queued l || m.flightFull then (false, m)
      else
        let ws := wordsOfBytes 8 bytes
        let c : Cmd := { words := ws, job := coreJob.getD ((ws.getD 0 0).extractLsb' 50 6).toNat, agent }
        let m := m.modEng e fun x =>
          if q = 0 then { x with q0 := x.q0 ++ [c] } else if q = 1 then { x with q1 := x.q1 ++ [c] } else { x with q2 := x.q2 ++ [c] }
        (true, m.engClean.engShow e)

/-- COMMAND_WRITE (R120): by SCH, the management controller, or a core of job `job`. -/
def commandWrite (agent job addr : Nat) (bytes : List Byte) (m : Mach) : Mach :=
  (m.cmdPush agent (if agent ≥ 0x100 then some job else none) addr bytes).2

end Sys2Proof.Machine
end

