-- ==== Sys2Proof/Machine/Hop.lean ====
section
/-!
DEFINITION. Hopper's commands: steps (R165 to R168), the shared pool, spill and fetch (R176 to R180), halos (R183 to R190), and
what follows a completed step (R176, R320).
-/

namespace Sys2Proof.Machine

/-! ## CRC-64/XZ (R320) -/

def crc64Bit : Nat → BitVec 64 → BitVec 64
  | 0, c => c
  | n + 1, c => crc64Bit n (if c.getLsbD 0 then (c >>> 1) ^^^ 0xC96C5795D7870F42 else c >>> 1)
def crc64 (bs : List Byte) : Nat :=
  (~~~ (bs.foldl (fun c (b : Byte) => crc64Bit 8 (c ^^^ b.setWidth 64)) (BitVec.allOnes 64))).toNat

/-! ## Tokens -/

/-- What an access of Hopper to a page of an entry meets: done, the page is not there, or an error that faults the entry (R191). -/
inductive HopAcc where
  | ok (b : List Byte)
  | absent
  | error
  deriving DecidableEq, Repr

/-- Bytes of the virtual range of entry `e`, within one page, as Hopper reads them (R173, R191). -/
def Fx.hopRead (x : Fx) (e off len : Nat) : HopAcc × Fx :=
  match x.translate (x.m.hopAcc e) e off false with
  | (.at a, x) =>
    match x.read (x.m.hopAcc e) a len with
    | (some b, x) => (.ok b, x)
    | (none, x) => (.error, x)
  | (.bus _, x) => (.error, x)
  | (.fault, x) => (.absent, x)
  | (_, x) => (.absent, x)

def Fx.hopWrite (x : Fx) (e off : Nat) (b : List Byte) : HopAcc × Fx :=
  match x.translate (x.m.hopAcc e) e off true with
  | (.at a, x) =>
    match x.write (x.m.hopAcc e) a b with
    | (true, x) => (.ok [], x)
    | (false, x) => (.error, x)
  | (.bus _, x) => (.error, x)
  | (.fault, x) => (.absent, x)
  | (_, x) => (.absent, x)

/-- The two edge tokens of layer `l` of row `s` on a side (R183): columns 0 and 1, or the last two. -/
def Fx.edgeTokens (x : Fx) (e : Nat) (right : Bool) (s l : Nat) : HopAcc × Fx :=
  let slot := s % x.m.winRows e
  let col := if right then x.m.across e - 2 else 0
  match x.hopRead e (x.m.ownOff e l slot col) 1024 with
  | (.ok a, x) =>
    match x.hopRead e (x.m.ownOff e l slot (col + 1)) 1024 with
    | (.ok b, x) => (.ok (a ++ b), x)
    | r => r
  | r => r

/-! ## Spilling and fetching -/

/-- Pages of entry `e` are pinned (R177): its step in flight uses them, or the fetch for its next step has started. -/
def Mach.pinned (m : Mach) (e : Nat) : Bool := m.stepInFlight e || (m.hopEnt e).fetching

/-- The order of spill victims and of fetches (R177, R178): class 2 first, then the newest row, entry, layer, page. -/
def Mach.pageKey (m : Mach) (p : HopPage) : Nat :=
  ((2 - m.hopClass p.ent) * 2 ^ 64 + p.newest) * 2 ^ 22 + p.ent * 2 ^ 12 + p.vpage

def Mach.least (m : Mach) : List HopPage → Option HopPage
  | [] => none
  | p :: t =>
    match m.least t with
    | none => some p
    | some q => if m.pageKey p ≤ m.pageKey q then some p else some q

/-- Pages that may be spilled (R177). -/
def Mach.victims (m : Mach) : List HopPage := m.pages.filter fun p => p.st = .resident && !m.pinned p.ent

/-- The lowest free frame of the shared pool. -/
def Mach.freeFrame (m : Mach) : Option Nat :=
  (List.range (m.hopPages)).find? fun f => !m.pages.any fun p => p.frame = some f

/-- The lowest free slot of the spill area. -/
def Mach.freeSlot (m : Mach) : Option Nat :=
  (List.range (m.get F.hopSpill_SLOTS)).find? fun n => !m.pages.any fun p => p.slot = some n

/-- Page `p` starts to spill into slot `n` (R175): its entry reads SPILLING and every translation buffer drops it. -/
def Fx.spillPage (x : Fx) (p : HopPage) (n : Nat) : Fx :=
  let x := x.hopPage p.ent p.vpage (pageWord (x.m.frameAddr (p.frame.getD 0)) 1)
  x.mach fun m => (m.modPage p.ent p.vpage fun q => { q with st := .spilling, slot := some n }).tbDrop p.ent p.vpage |>.poolShow

/-- Hopper starts page copies while spilling (R177): eight at most in flight. -/
def Fx.spillStart (x : Fx) : Nat → Fx
  | 0 => x
  | k + 1 =>
    let m := x.m
    let flight := (m.pages.filter (·.st = .spilling)).length
    let free := m.get F.hopPoolStat_FREE
    if !m.on F.hopPoolStat_SPILLING then x
    else if m.get F.hopPoolCfg_FREE_HI ≤ free then x.mach (·.setb F.hopPoolStat_SPILLING (flight ≠ 0))
    else if 8 ≤ flight || m.get F.hopPoolCfg_FREE_HI ≤ free + flight then x
    else
      match m.least m.victims with
      | none => x
      | some p =>
        match m.freeSlot with
        | some n => (x.spillPage p n).spillStart k
        | none =>
          if m.on F.hopPoolStat_SPILL_FULL then x
          else x.mach fun m => ((m.setb F.hopPoolStat_SPILL_FULL true).setb F.hopPoolStat_SPILLING false).emit 0x0B 0x17 0
            [(16, (m.get F.hopSpill_SLOTS : Int))]

/-- Spilled live pages of entry `e` start back into free frames, oldest first (R178), and pin its pages (R177). -/
def Fx.fetchStart (x : Fx) (e : Nat) : Nat → Fx
  | 0 => x
  | k + 1 =>
    match x.m.least (x.m.pages.filter fun p => p.ent = e && p.st = .spilled), x.m.freeFrame with
    | some p, some f =>
      let x := x.hopPage e p.vpage (pageWord (x.m.slotAddr (p.slot.getD 0)) 3)
      let x := x.mach fun m =>
        ((m.modPage e p.vpage fun q => { q with st := .fetching, frame := some f }).modHop e fun h => { h with fetching := true }).poolShow
      x.fetchStart e k
    | _, _ => x

/-- Everything that waits for room goes on: spills, then the fetches of entries whose next step waits (R177, R178). -/
def Fx.poolPump (x : Fx) : Fx :=
  let x := (x.mach (·.poolShow)).spillStart 9
  x.m.hop.foldl (fun x y => if y.2.live && (y.2.fetching || y.2.stalled.isSome) then x.fetchStart y.1 1024 else x) x

/-! ## Halo arrival -/

/-- The halo of count `n` of a side is written into its slot and signalled (R183, R185); one whose page is not there yet is held
until it is (log entry 61). -/
def Fx.haloStore (x : Fx) (e : Nat) (right : Bool) (n : Nat) (payload : List Byte) (again : Bool) : Fx :=
  let layers := x.m.layers e
  let s := n / layers
  let l := n % layers
  match x.hopWrite e (haloOff l right (s % x.m.winRows e) 0) payload with
  | (.ok _, x) =>
    let x := x.mach fun m =>
      let m := m.modPage e (l * 256 + (if right then 252 else 248) + s % m.winRows e / 8) fun p => { p with newest := max p.newest s }
      (m.hopSignal (m.hopJob e) (m.haloObj e right) 1).settle e right
    x.violations
  | (.absent, x) =>
    if again then x else x.mach (·.modHop e fun h => { h with held := h.held ++ [(right, n, payload)] })
  | (.error, x) => x.hopFault e

/-- An accepted halo (R185). -/
def Fx.haloTake (x : Fx) (e : Nat) (right : Bool) (payload : List Byte) : Fx :=
  let n := ((x.m.hopEnt e).side right).got
  (x.mach (·.modSide e right fun h => { h with got := n + 1 })).haloStore e right n payload false

/-- Halos that were held go to their pages (log entry 61). -/
def Fx.heldGo (x : Fx) (e : Nat) : Fx :=
  let l := (x.m.hopEnt e).held
  (l.foldl (fun (y : Fx × Bool) (h : Bool × Nat × List Byte) =>
    let layers := y.1.m.layers e
    let off := haloOff (h.2.1 % layers) h.1 (h.2.1 / layers % y.1.m.winRows e) 0
    match y.1.translate (y.1.m.hopAcc e) e off true with
    | (.at _, x) => ((x.mach (·.modHop e fun g => { g with held := g.held.erase h })).haloStore e h.1 h.2.1 h.2.2 true, y.2)
    | (.bus _, x) => (x.hopFault e, y.2)
    | (_, x) => (x, y.2)) (x, true)).1

/-! ## Issue -/

/-- The pages that step `s` of entry `e` writes or fills (R165, R169): its row's own pages, and its halo pages. -/
def Mach.stepPages (m : Mach) (e s : Nat) : List Nat :=
  let slot := s % m.winRows e
  let halo := (if m.nbrType e false = 0 then [] else [248 + slot / 8]) ++ (if m.nbrType e true = 0 then [] else [252 + slot / 8])
  (List.range (m.layers e)).flatMap fun l => (((List.range (m.ppr e)).map (slot * m.ppr e + ·)) ++ halo).map (l * 256 + ·)

/-- Missing pages are allocated from the shared pool (R176): false when no frame is left, or the entry met a bus error (R191). -/
def Fx.allocPages (x : Fx) (e s : Nat) : List Nat → Bool × Fx
  | [] => (true, x)
  | vp :: t =>
    match x.m.page e vp with
    | some _ => (x.mach (·.modPage e vp fun p => { p with newest := s })).allocPages e s t
    | none =>
      match x.m.freeFrame with
      | none => (false, x)
      | some f =>
        let x := x.mach fun m =>
          { m with pages := m.pages ++ [({ ent := e, vpage := vp, frame := some f, slot := none, st := .resident, newest := s } : HopPage)] }.poolShow
        let x := x.hopPage e vp (pageWord (x.m.frameAddr f) 0)
        if x.m.hopState e = 4 then (false, x) else x.allocPages e s t

/-- An issue is delayed for pages (R178): counted once a step; raised once when nothing is free and every candidate is pinned. -/
def Mach.issueStall (m : Mach) (e s : Nat) (full : Bool) : Mach :=
  let (seen, raised) := match (m.hopEnt e).stalled with | some (t, r) => if t = s then (true, r) else (false, false) | none => (false, false)
  let m := m.cond (!seen) (·.bump F.hopCnt_ISSUE_STALL)
  let tell := full && !raised && m.freeFrame.isNone && m.victims.isEmpty && (m.pages.filter (·.st = .spilling)).isEmpty
  let m := m.modHop e fun h => { h with stalled := some (s, raised || tell) }
  m.cond tell (·.emit 0x0B 0x15 0 [(10, (e : Int)), (32, (s : Int))])

/-- The bucket of a fill (R167). -/
def bucketOf (fill : Nat) : Nat := if fill ≤ 128 then 0 else if fill ≤ 256 then 1 else 2

/-- WIDX_b of job `j`, 32 bits (R168). -/
def Mach.ringIdx (m : Mach) (j b : Nat) : Nat := spGet (fun _ => 0) m.widx (j * 4 + b)

/-- Ring b of job `j` has room (R168): WIDX_b − C_b < SLOTS. -/
def Mach.ringRoom (m : Mach) (j b : Nat) : Bool :=
  let c := m.get (F.synObj_VALUE ((m.get (F.hopJobSync_LIST_OBJ j) + 4 + b) % 16384))
  decide (wrapI 32 ((m.ringIdx j b : Int) - c) < max 1 (m.get (F.hopJobList_SLOTS j)))

/-- The 32-byte work item of step `s` (R167). -/
def Mach.workItem (m : Mach) (e s : Nat) : List Byte :=
  let rows := m.rows e s
  let fill := rows * m.across e
  let w0 := e * 2 ^ 54 + m.hopJob e * 2 ^ 48 + bucketOf fill * 2 ^ 46 + fill % 1024 * 2 ^ 36 + rows * 2 ^ 30
    + s % m.winRows e * 2 ^ 25 + rows * m.rowKeys e * 2 ^ 14
  leBytes 8 w0 ++ leBytes 8 (s + m.stepBase (m.hopJob e)) ++ leBytes 8 ((s * m.layers e + 1) % 2 ^ 32 * 2 ^ 32) ++
    leBytes 8 (m.maskAddr e s 0)

/-- The job's tasks of a work item are submitted by Hopper (R203): none when a write would stall. -/
def Mach.itemTasks (m : Mach) (j : Nat) : Option Mach :=
  let ts := match m.pkgJob j with | some p => p.itemTasks | none => []
  ts.foldl (fun (a : Option Mach) ws =>
    a.bind fun m =>
      match m.submit 0x060 none (0x1800B00000 + j * 0x1000) ws with
      | (true, m) => some m
      | (false, _) => none) (some m)

/-- The step's row is formed and its turn has come (R164, R165). -/
def Mach.mayIssue (m : Mach) (e : Nat) : Bool :=
  let s := m.hopNext e
  let j := m.hopJob e
  let on := m.hopState e = 2 || (m.hopState e = 3 && (match (m.hopEnt e).endRow with | some r => decide (s < r) | none => false))
  on && m.jobState j = 2 && !m.on (F.schJobStat_PREEMPTED j) && !m.on (F.schJobStat_PAUSED j)
    && satisfied (m.get (F.synObj_VALUE (m.get (F.hopEntSync_FEED_OBJ e)))) ((s + 1) % 2 ^ 32)
    && !m.stepInFlight e

/-- A trace record of Hopper (R461). -/
def Mach.traceHop (m : Mach) (src typ e sub step : Nat) : Mach :=
  m.trace src true (some (m.hopJob e)) { typ, job := m.hopJob e, agent := 0x060, layer := 0, operator := 0, sub, reel := m.reel, arg0 := e, arg1 := step }

/-- Hopper performs the actions of R167 for step `s`. -/
def Fx.issue (x : Fx) (e s : Nat) : Fx :=
  let j := x.m.hopJob e
  let b := bucketOf (x.m.rows e s * x.m.across e)
  match x.m.itemTasks j with
  | none => x
  | some _ =>
    let (ok, x) := x.writeMasks e s 0
    if !ok then x.hopFault e
    else
      let x := x.mach fun m =>
        let m := m.wr (R.hopEntStep e) (BitVec.ofNat 64 (s + 1))
        let m := ((m.setb (F.hopEntStat_L_LATE e) false).setb (F.hopEntStat_R_LATE e) false).modHop e fun h =>
          { h with stalled := none, fetching := false }
        (m.settle e false).settle e true
      let k := x.m.ringIdx j b
      let slots := max 1 (x.m.get (F.hopJobList_SLOTS j))
      let (ok, x) := x.write (x.m.hopAcc e) (x.m.get (F.hopJobList_BASE j) + (b * slots + k % slots) * 32) (x.m.workItem e s)
      if !ok then (x.hopFault e).violations
      else
        let x := x.mach fun m =>
          let m := { m with widx := spPut (fun _ => 0) m.widx (j * 4 + b) ((k + 1) % 2 ^ 32) }
          let m := m.set (if b = 0 then F.hopJobSync_WIDX0 j else if b = 1 then F.hopJobSync_WIDX1 j else F.hopJobSync_WIDX2 j) (k + 1)
          let m := m.hopSignal j ((m.get (F.hopJobSync_LIST_OBJ j) + b) % 16384) 1
          let m := ((m.itemTasks j).getD m).traceHop 10 0x05 e b (s + m.stepBase j)
          (m.showBacklog e).modJob j fun r => { r with progressAt := m.now }
        x.violations

/-- Entry `e` could issue its next step now (R165): its row is formed, its turn has come, its list ring has room, and its pages are resident or
can be allocated. -/
def Mach.issuable (m : Mach) (e : Nat) : Bool :=
  let s := m.hopNext e
  m.mayIssue e && m.ringRoom (m.hopJob e) (bucketOf (m.rows e s * m.across e))
    && (m.hopClass e = 0 || ((m.pages.all fun p => p.ent ≠ e || p.st = .resident)
      && decide ((m.stepPages e s).countP (fun vp => (m.page e vp).isNone) + m.pages.countP (·.frame.isSome) ≤ m.hopPages)))

/-- An entry that Hopper serves before `e` could issue (R165): class 0 first, then 1, then 2, and the lower entry within a class. -/
def Mach.outranked (m : Mach) (e : Nat) : Bool :=
  m.hop.any fun y => y.1 < 1024 && y.2.live
    && (m.hopClass y.1 < m.hopClass e || (m.hopClass y.1 = m.hopClass e && y.1 < e)) && m.issuable y.1

/-- STEP_ISSUE (R165, R167): entry `e`'s next step, when its row is formed, its turn has come and its pages are there. -/
def stepIssueFx (e : Nat) (x : Fx) : Fx :=
  let m := x.m
  let s := m.hopNext e
  if 1024 ≤ e || m.traceStalls 0x060 || m.outranked e || !m.mayIssue e || !m.ringRoom (m.hopJob e) (bucketOf (m.rows e s * m.across e)) then x
  else if m.hopClass e = 0 then (x.issue e s).heldGo e
  else
    let (all, x) := x.allocPages e s (m.stepPages e s)
    let x := (x.spillStart 9).heldGo e
    if !x.m.mayIssue e then x
    else if !all then x.mach (·.issueStall e s true)
    else if x.m.pages.any fun p => p.ent = e && p.st ≠ .resident then
      (x.mach (·.issueStall e s true)).fetchStart e 1024
    else x.issue e s

/-! ## After a step -/

/-- The own tokens of row `s`, layer 0 first and columns ascending (R320). -/
def Fx.rowBytes (x : Fx) (e s : Nat) : HopAcc × Fx :=
  let cells := (List.range (x.m.layers e)).flatMap fun l => (List.range (x.m.across e)).map fun c => (l, c)
  cells.foldl (fun (y : HopAcc × Fx) lc =>
    match y.1 with
    | .ok b =>
      match y.2.hopRead e (y.2.m.ownOff e lc.1 (s % y.2.m.winRows e) lc.2) 1024 with
      | (.ok t, x) => (.ok (b ++ t), x)
      | r => r
    | _ => y) (.ok [], x)

/-- A step of a job is covered in a replay (R354). -/
def Mach.covered (m : Mach) (j step : Nat) : Bool :=
  decide (m.stepBase j + m.get (F.trcJobStepcfg_WARM_ROWS j) ≤ step)

/-- The digest of a completed step (R320): recorded, and compared with the twin's or the record's. -/
def Mach.stepDigest (m : Mach) (e step d : Nat) : Mach :=
  let j := m.hopJob e
  let m := m.record ⟨0x0B, j, e, true, m.reel, leBytes 8 e ++ leBytes 8 step ++ leBytes 8 d⟩
  let key := step * 1024 + e
  let m := if m.paired then
      let (r, mine, theirs) := matchUp key d 0 m.ownDigests m.peerDigests
      let m := { m with ownDigests := mine, peerDigests := theirs }
      if r = some false then m.mismatch false e step else m
    else m
  m.cond (m.covered j step) (·.replayed 1 e key d 0)

/-- Step `s` of entry `e` has completed (R176, R320): its digest is made, and pages whose rows have all left the window of the next
step return to the pool. -/
def Fx.stepDone (x : Fx) (e s : Nat) : Fx :=
  let (b, x) := x.rowBytes e s
  let x := match b with
    | .ok b => x.mach fun m => m.stepDigest e (s + m.stepBase (m.hopJob e)) (crc64 b)
    | .absent => x
    | .error => x.hopFault e
  let x := x.mach fun m => (m.modHop e fun h => { h with done := s + 1 }).traceHop 10 0x06 e 0 (s + m.stepBase (m.hopJob e))
  let w := x.m.winRows e
  let x := if x.m.hopClass e = 0 then x
    else
      let (ok, x) := x.freePages e fun p => p.newest + w ≤ s + 1
      if ok then x else x.hopFault e
  x.endNotices e

/-- What signals of a command bring after it: jobs faulted (R195), and Hopper's entries following their STEP objects (R165), where every completed
step is dealt with. -/
def Fx.hopAfter (x : Fx) : Fx :=
  let x := x.violations
  let due := x.m.hop.filter fun y =>
    y.1 < 1024 && y.2.live && y.2.done < x.m.hopNext y.1
      && satisfied (x.m.get (F.synObj_VALUE (x.m.get (F.hopEntSync_STEP_OBJ y.1)))) ((y.2.done + 1) % 2 ^ 32)
  if due.isEmpty then x else (due.foldl (fun x y => x.stepDone y.1 y.2.done) x).poolPump

/-! ## Halo commands -/

/-- HALO_SEND (R183): EDGE has reached the next count of a side with a neighbour; a remote neighbour gets a message. -/
def haloSendFx (e side : Nat) (x : Fx) : Fx :=
  let m := x.m
  let right : Bool := side = 1
  let h := (m.hopEnt e).side right
  let n := h.sent
  let layers := m.layers e
  let ty := m.nbrType e right
  if e < 1024 && h.sent < m.hopNext e * layers && (m.hopEnt e).live && (ty = 1 || ty = 2)
      && satisfied (m.get (F.synObj_VALUE (m.get (F.hopEntSync_EDGE_OBJ e)))) ((n + 1) % 2 ^ 32) then
    if ty = 1 then x.mach (·.modSide e right fun h => { h with sent := n + 1 })
    else
      match x.edgeTokens e right (n / layers) (n % layers) with
      | (.ok b, x) =>
        let x := x.mach fun m =>
          let head := m.haloHeader e (m.nbrEnt e right) (!right) (n % layers) false (n / layers + m.stepBase (m.hopJob e))
          (m.fabricSend (m.nbrPos e right) ⟨2, 0x48, [], head ++ b⟩).modSide e right fun h => { h with sent := n + 1 }
        x.endNotices e
      | (.absent, x) => x
      | (.error, x) => x.hopFault e
  else x

/-- HALO_COPY_DONE (R183): the copy to a local neighbour completes; one that does not run or has the side detached takes none. -/
def haloCopyDoneFx (e side : Nat) (x : Fx) : Fx :=
  let m := x.m
  let right : Bool := side = 1
  let h := (m.hopEnt e).side right
  let layers := m.layers e
  if e < 1024 && m.nbrType e right = 1 && h.copied < h.sent && (m.hopEnt e).live then
    match x.edgeTokens e right (h.copied / layers) (h.copied % layers) with
    | (.ok b, x) =>
      let x := x.mach (·.modSide e right fun h => { h with copied := h.copied + 1 })
      let dst := x.m.nbrEnt e right
      let d := (x.m.hopEnt dst).side (!right)
      let x := if (x.m.hopEnt dst).live && !d.shut layers && d.got = h.copied then x.haloTake dst (!right) b else x
      x.endNotices e
    | (.absent, x) => x
    | (.error, x) => x.hopFault e
  else x

/-- The fields of a halo header (R184): type, version, source position and entry, destination entry, layer, side, END, job. -/
structure HaloHdr where
  typ : Nat
  ver : Nat
  pos : Nat
  src : Nat
  dst : Nat
  layer : Nat
  right : Bool
  fin : Bool
  job : Nat
  deriving DecidableEq, Repr

def haloHdr (w : Word) : HaloHdr :=
  let n := w.toNat
  { typ := n / 2 ^ 56, ver := n / 2 ^ 48 % 256, pos := n / 2 ^ 43 % 32, src := n / 2 ^ 33 % 1024, dst := n / 2 ^ 23 % 1024,
    layer := n / 2 ^ 19 % 16, right := w.getLsbD 18, fin := w.getLsbD 17, job := n / 2 ^ 11 % 64 }

/-- The first condition of R185 that a message fails, as its reason; none when it is accepted. `step` is the entry's own number. -/
def Mach.haloReason (m : Mach) (h : HaloHdr) (step : Int) (pkg : Word) : Option Nat :=
  let e := h.dst
  let s := (m.hopEnt e).side h.right
  if m.hopState e ≠ 2 then some 1
  else if m.nbrType e h.right ≠ 2 || m.nbrPos e h.right ≠ h.pos || m.nbrEnt e h.right ≠ h.src then some 2
  else if m.hopJob e ≠ h.job || pkg ≠ m.pkgDigest then some 3
  else if s.shut (m.layers e) then some 4
  else if m.layers e ≤ h.layer || step * (m.layers e : Int) + h.layer ≠ (s.got : Int) then some 5
  else none

/-- A remote message arrives (R185, R190): accepted ones are recorded (R342) and, by a lead, forwarded (R182). -/
def Fx.haloArrive (x : Fx) (w0 w1 w2 : Word) (payload : List Byte) : Fx :=
  let h := haloHdr w0
  let e := h.dst
  let step : Int := (w1.toNat : Int) - x.m.stepBase (x.m.hopJob e)
  match x.m.haloReason h step w2 with
  | some r => x.mach fun m => (m.bump F.hopCntHalo_DISCARDED).emit 0x0B 0x13 0 [(10, (e : Int)), (32, (r : Int)), (5, (h.pos : Int))]
  | none =>
    let whole := leBytes 8 w0.toNat ++ leBytes 8 w1.toNat ++ leBytes 8 w2.toNat ++ List.replicate 40 0 ++ payload
    let x := x.mach fun m => ((m.record ⟨0x07, h.job, e, false, m.reel, whole⟩).tellFollower 2 0x48 [] whole).traceHop 11 0x07 e
      (h.right.toNat * 512 + h.layer % 512) w1.toNat
    if h.fin then
      let (ok, x) := (x.mach (·.bump F.hopCntHalo_ENDS)).detach e h.right step.toNat 0
      (if ok then x else x.hopFault e).violations
    else x.haloTake e h.right payload

/-- HALO_MESSAGE (R185): a message of type 0x48 without END, with its 2,048 bytes; in REPLAY none is accepted (R353). -/
def haloMessageFx (w0 w1 w2 : Word) (payload : List Byte) (x : Fx) : Fx :=
  if (haloHdr w0).typ = 0x48 && (haloHdr w0).ver = 1 && !(haloHdr w0).fin && payload.length = 2048 && !x.m.replaying then
    x.haloArrive w0 w1 w2 payload
  else x

/-- END_NOTICE (R190): a message with END set. -/
def endNoticeFx (w0 w1 w2 : Word) (x : Fx) : Fx :=
  if (haloHdr w0).typ = 0x48 && (haloHdr w0).ver = 1 && (haloHdr w0).fin && !x.m.replaying then x.haloArrive w0 w1 w2 [] else x

/-- When EDGE of entry `e` reached count `v`, and TMO_US then (R187, R188). -/
def Mach.edgeReached (m : Mach) (e v : Nat) : Option (Int × Nat) :=
  ((m.hopEnt e).edgeAt.filter fun t => satisfied t.1 (v % 2 ^ 32)).getLast?.map (·.2)

/-- The side waits for the halo of count `got`, which EDGE reached at the instant given (R187, R188). -/
def Mach.sideWaits (m : Mach) (e : Nat) (right : Bool) : Option (Int × Nat) :=
  let h := (m.hopEnt e).side right
  if (m.hopEnt e).live && m.nbrType e right ≠ 0 && !h.shut (m.layers e) && h.got < m.hopNext e * m.layers e then
    m.edgeReached e (h.got + 1)
  else none

/-- HALO_LATE (R187): LATE_NS after EDGE reached the count; once per side per step. -/
def haloLate (e side : Nat) (m : Mach) : Mach :=
  let right : Bool := side = 1
  let h := (m.hopEnt e).side right
  let s := h.got / m.layers e
  match m.sideWaits e right with
  | some (t, _) =>
    if t + m.get F.hopHaloCfg_LATE_NS ≤ m.reel && h.lateFor ≠ some s then
      let m := (m.modSide e right fun h => { h with lateFor := some s }).setb
        (if right then F.hopEntStat_R_LATE e else F.hopEntStat_L_LATE e) true
      (m.bump F.hopCntHalo_LATE).emit 0x0B 0x11 0 [(10, (e : Int)), (1, (side : Int)), (32, ((s + m.stepBase (m.hopJob e) : Nat) : Int))]
    else m
  | none => m

/-- A side is detached at (s, l) by timeout, or where the lead or the record says (R188, R189). -/
def Fx.detachAt (x : Fx) (e : Nat) (right : Bool) (s l : Nat) : Fx :=
  let abs := s + x.m.stepBase (x.m.hopJob e)
  let x := x.mach fun m =>
    let m := m.record ⟨0x08, m.hopJob e, e, false, m.reel, leBytes 4 e ++ leBytes 4 right.toNat ++ leBytes 8 abs ++ leBytes 8 l⟩
    (m.bump F.hopCntHalo_DETACHED).emit 0x0B 0x12 0 [(10, (e : Int)), (1, (right.toNat : Int)), (32, (abs : Int)), (4, (l : Int))]
  let (ok, x) := x.detach e right s l
  (if ok then x else x.hopFault e).violations

/-- HALO_DETACHED (R188): TMO_US after EDGE reached the count; not on a follower or in REPLAY (R189). -/
def haloDetachedFx (e side : Nat) (x : Fx) : Fx :=
  let m := x.m
  let right : Bool := side = 1
  let h := (m.hopEnt e).side right
  match m.sideWaits e right with
  | some (t, tmo) =>
    if t + (tmo : Int) * 1000 ≤ m.reel && !m.follower && !m.replaying then
      x.detachAt e right (h.got / m.layers e) (h.got % m.layers e)
    else x
  | none => x

/-- FORWARDED_DETACH (R189, R319): the follower detaches at the lead's step and layer. -/
def forwardedDetachFx (e side step layer : Nat) (x : Fx) : Fx :=
  let right : Bool := side = 1
  if x.m.follower && e < 1024 && (x.m.hopEnt e).live && ((x.m.hopEnt e).side right).detach.isNone then
    x.detachAt e right (step - x.m.stepBase (x.m.hopJob e)) layer
  else x

/-- FORWARDED_END_ROW (R164, R319). -/
def forwardedEndRowFx (e row : Nat) (x : Fx) : Fx :=
  if x.m.follower && e < 1024 then x.hopEndAt e (row - x.m.stepBase (x.m.hopJob e)) else x

/-! ## Resuming -/

/-- Every page of the entries of job `j` is resident (R180). -/
def Mach.pagesBack (m : Mach) (j : Nat) : Bool := m.pages.all fun p => m.hopJob p.ent ≠ j || p.st = .resident

/-- The pages of job `j`'s next steps are fetched before it resumes (R178, R180). -/
def Fx.fetchFor (x : Fx) (j : Nat) : Fx :=
  (x.m.jobEntries j).foldl (fun x e =>
    if x.m.pages.all fun p => p.ent ≠ e || p.st = .resident then x
    else (x.mach (·.modHop e fun h => { h with fetching := true })).fetchStart e 1024) x

/-- The job takes up its work once its pages are back. -/
def Fx.resumeWhen (x : Fx) (j : Nat) : Fx := if x.m.pagesBack j then x.resume j else x.fetchFor j

/-- JOB_RESUMED (R207, R208): the switch to job `j` is over, its class is no longer shed, or clusters for it have become free. -/
def jobResumedFx (j : Nat) (x : Fx) : Fx :=
  let m := x.m
  match m.switching with
  | some s =>
    if s.incoming = j && decide (s.due ≤ m.now) then
      if m.jobState j ≠ 2 || m.classShed j then { x with m := { m with switching := none } }
      else if m.pagesBack j then ({ x with m := { m with switching := none } } : Fx).resume j
      else x.fetchFor j
    else x
  | none =>
    if m.jobState j = 2 && m.on (F.schJobStat_PAUSED j) && !m.classShed j then x.resumeWhen j
    else if m.jobState j = 2 && m.on (F.schJobStat_PREEMPTED j)
        && decide (m.clMin j ≤ (partClusters.filter fun c => !m.reserved c && (m.clusterJob c).isNone).length) then x.resumeWhen j
    else x

/-! ## Page commands -/

/-- The next unpinned page of a pre-empted job, in the order of R177, may start to spill whatever FREE reads (R180). -/
def Fx.spillOut (x : Fx) (e vp : Nat) : Fx :=
  let busy := (x.m.pages.filter fun (p : HopPage) => p.st = PageState.spilling).length
  match x.m.page e vp with
  | some p =>
    match x.m.freeSlot with
    | some n =>
      let next := x.m.least (x.m.victims.filter fun q => x.m.hopJob q.ent = x.m.hopJob e)
      if next = some p && x.m.on (F.schJobStat_PREEMPTED (x.m.hopJob e)) && x.m.hopClass e != 0 && decide (busy < 8) then x.spillPage p n else x
    | none => x
  | none => x

/-- PAGE_SPILL (R177): a page copy to the spill area completes. -/
def pageSpillFx (e vp : Nat) (x : Fx) : Fx :=
  let x := x.spillOut e vp
  match x.m.page e vp with
  | none => x
  | some p =>
    let m := x.m
    let dst := m.slotAddr (p.slot.getD 0)
    if p.st ≠ .spilling || m.stalls dst then x
    else
      match x.read { agent := 0x060 } (m.frameAddr (p.frame.getD 0)) 16384 with
      | (none, x) => x.hopFault e
      | (some b, x) =>
        let (ok, x) := x.write { agent := 0x060 } dst b
        if !ok then x.hopFault e
        else
          let x := x.hopPage e vp (pageWord dst 2)
          (x.mach fun m => (m.modPage e vp fun q => { q with st := .spilled, frame := none }).bump F.hopCnt_SPILLS).poolPump

/-- PAGE_FETCH (R178): a page copy back from the spill area completes; its slot frees (R177). -/
def pageFetchFx (e vp : Nat) (x : Fx) : Fx :=
  match x.m.page e vp with
  | none => x
  | some p =>
    let m := x.m
    let src := m.slotAddr (p.slot.getD 0)
    let dst := m.frameAddr (p.frame.getD 0)
    if p.st ≠ .fetching || m.stalls src then x
    else
      match x.read { agent := 0x060 } src 16384 with
      | (none, x) => x.hopFault e
      | (some b, x) =>
        let (ok, x) := x.write { agent := 0x060 } dst b
        if !ok then x.hopFault e
        else
          let x := x.hopPage e vp (pageWord dst 0)
          ((x.mach fun m => (m.modPage e vp fun q => { q with st := .resident, slot := none }).bump F.hopCnt_FETCHES).poolPump).heldGo e

/-- FETCH_LEAD (R178): LEAD_US before the predicted formation of the next row, an entry's spilled pages start back; before a
pre-empted job resumes they may start at any time (R180). -/
def fetchLeadFx (e : Nat) (x : Fx) : Fx :=
  let m := x.m
  let due : Bool := match (m.hopEnt e).formed with
    | a :: b :: _ => decide (a + (a - b) - ((m.hopEnt e).lead : Int) * 1000 ≤ m.reel)
    | _ => false
  if (m.hopEnt e).live && m.hopClass e ≠ 0 && !(m.hopEnt e).fetching && (due || m.on (F.schJobStat_PREEMPTED (m.hopJob e))) then
    (x.mach (·.modHop e fun h => { h with fetching := true })).fetchStart e 1024
  else x

/-- A spilled page of a demand fetch starts back (R174). -/
def Fx.demandFetch (x : Fx) (e vp : Nat) : Fx :=
  match x.m.page e vp, x.m.freeFrame with
  | some p, some f =>
    if p.st = .spilled then
      let x := x.hopPage e vp (pageWord (x.m.slotAddr (p.slot.getD 0)) 3)
      x.mach fun m => ((m.modPage e vp fun q => { q with st := .fetching, frame := some f }).bump F.hopCnt_DEMAND).poolShow
    else x
  | _, _ => x

/-- TRANSLATION_MISS (R174): engine `g` walks the tables of entry `e`; the page enters its translation buffer of 64, a spilled one
starts back on demand, an invalid one faults the running command, or the head that it starts next. -/
def translationMissFx (g e off : Nat) (wr : Bool) (x : Fx) : Fx :=
  if 23 ≤ g || 1024 ≤ e || 2 ^ 26 ≤ off then x
  else
    let m := x.m
    let buf := spGet (fun _ => []) m.tbuf g
    let vp := off / 0x4000
    if buf.contains (e, vp) then x
    else
      match (match (m.engine g).run with | some r => some r | none => m.pick g) with
      | none => x
      | some (_, c) =>
        match x.translate { agent := engAgent g, job := some c.job } e off wr with
        | (.at _, x) => x.mach fun m => { m with tbuf := spPut (fun _ => []) m.tbuf g ((buf ++ [(e, vp)]).reverse.take 64).reverse }
        | (.spilled, x) => x.demandFetch e vp
        | (.moving, x) => x
        | (.bus a, x) => x.engFault g c (.bus a)
        | (.fault, x) => x.engFault g c (.trans e off)

end Sys2Proof.Machine
end

