-- ==== Sys2Proof/Machine/Reel.lean ====
section
/-!
DEFINITION. Reel's discipline (R314, R315, R444 to R447): the source link, its SYNC cells, holdover and the root.
-/

namespace Sys2Proof.Machine

/-- Link `k` gives this module its Reel now (R315, R444): it is UP and its peer's Reel is disciplined. -/
def Mach.sourceGood (m : Mach) (k : Nat) : Bool :=
  m.linkUp k && (match (m.link k).sync with | some s => s.disciplined | none => false)

/-- Hops of the peer on link `k` from its root (R314). -/
def Mach.sourceHops (m : Mach) (k : Nat) : Nat := match (m.link k).sync with | some s => s.hops | none => 0

/-- The modules that take Reel from the twin link (R315; log entry 65). -/
def Mach.reelTwin (m : Mach) : Bool := m.tngIs 3 || m.tngIs 5 || m.tngIs 6

/-- The source link that R315 names, 7 for none: the twin link for a follower, else the UP link whose peer is the upstream
position's single or lead, which is the one with fewer hops (log entry 65). -/
def Mach.reelChoice (m : Mach) : Nat :=
  if m.reelTwin && m.sourceGood 0 then 0
  else if m.reelTwin && m.linkUp 0 then 7
  else if m.on F.pnxChain_VALID && m.chainPos = 0 then 7
  else
    match m.sourceGood 1, m.sourceGood 2 with
    | true, true => if m.sourceHops 1 ≤ m.sourceHops 2 then 1 else 2
    | true, false => 1
    | false, true => 2
    | false, false => 7

/-- TIM shows its root and the hops to it (R314, R472). -/
def Mach.reelShow (m : Mach) (serial : Word) (pos hops : Nat) : Mach :=
  ((m.set F.timReelRoot_SERIAL serial.toNat).set F.timReelStat_ROOT_POS pos).set F.timReelStat_HOPS hops

/-- Reel leaves its source or has none: its counts of cells begin again. -/
def Mach.reelCells (m : Mach) : Mach := { m with reelGood := 0, reelOff := 0, reelSeen := m.now }

/-- REEL_ROOT is raised with the root this module now follows or is (R446). -/
def Mach.rootEvent (m : Mach) : Mach :=
  m.emit 0x19 0x13 0 [(5, (m.get F.timReelStat_ROOT_POS : Int)), (32, (m.get F.timReelRoot_SERIAL : Int))]

/-- The module becomes root (R446): its Reel goes on without a step. -/
def Mach.becomeRoot (m : Mach) : Mach :=
  ((((m.reelShow Config.idSerial m.chainPos 0).set F.timReelStat_SRC 7).set F.timReelStat_STATE 0).reelCells).rootEvent

/-- Reel takes link `k` as its source and slews to it (R446). -/
def Mach.takeSource (m : Mach) (k : Nat) : Mach :=
  match (m.link k).sync with
  | some s =>
    let root := m.get F.timReelStat_STATE = 0
    let m := (((m.reelShow s.serial s.rootPos (s.hops + 1)).set F.timReelStat_SRC k).set F.timReelStat_STATE 1).reelCells
    m.cond root (·.rootEvent)
  | none => m

/-- The source is chosen again (R315, R446): after a link comes or goes, a change of part, or news of a root. -/
def Mach.reelPick (m : Mach) : Mach :=
  let k := m.reelChoice
  let st := m.get F.timReelStat_STATE
  let src := m.get F.timReelStat_SRC
  if k = 7 then
    if st = 0 || (src < 5 && m.linkUp src && !(m.on F.pnxChain_VALID && m.chainPos = 0)) then m else m.becomeRoot
  else if st != 0 && src = k then m
  else
    match (m.link k).sync with
    | some s =>
      if st = 0 && !m.reelTwin && m.on F.pnxChain_VALID && m.chainPos ≤ s.rootPos then m else m.takeSource k
    | none => m

/-- RATE_PPB shows Reel's rate in units of 100 ppb from 1.0 (R472). -/
def Mach.rateShow (m : Mach) : Mach :=
  m.seti F.timReelStat_RATE_PPB (((m.reelRate : Int) - 2 ^ 40) * 10000000 / 2 ^ 40)

/-- The loop's new RATE (R444): its constants are not stated, so the correction, of ±500 ppm, is free (log entry 66). -/
def Mach.reelSlew (m : Mach) : Mach :=
  let (x, m) := m.free
  (m.setReelRate (2 ^ 40 - 549755813 + x.toNat % 1099511627)).rateShow

/-- Reel may step (R444): STOPPED or MINIMAL mode, no restart or snapshot ARMED, and every CMP axis STOPPED. -/
def Mach.reelMayStep (m : Mach) : Bool :=
  (m.get F.schStat_MODE = 0 || m.on F.rstStat_MINIMAL) && !m.armed && m.get F.trcSnapCtl_STATE != 1
    && (List.range 8).all fun a => m.get (F.cmpCtl_STATE a) = 0

/-- A SYNC cell of the source link with error `e` in ps (R444, R445). -/
def Mach.reelCell (m : Mach) (e : Int) : Mach :=
  let src := m.get F.timReelStat_SRC
  let m := { m.seti F.timReelStat_ERR e with
               reelSeen := m.now, reelGood := if e.natAbs ≤ 1000 then m.reelGood + 1 else 0,
               reelOff := if 4000 < e.natAbs then m.reelOff + 1 else 0 }
  let m := m.cond (m.get F.timReelStat_STATE = 3) fun m =>
    { m.set F.timReelStat_STATE 1 with reelGood := if e.natAbs ≤ 1000 then 1 else 0 }
  let m := if 1000000 < e.natAbs && m.reelMayStep then
      let ns := divRound e 1000
      (m.stepReel ns).emit 0x19 0x14 0 [(64, ns)]
    else m.reelSlew
  let st := m.get F.timReelStat_STATE
  if st = 1 && 1024 ≤ m.reelGood then (m.set F.timReelStat_STATE 2).emit 0x19 0x10 0 [(3, (src : Int))]
  else if st = 2 && 16 ≤ m.reelOff then
    { m.set F.timReelStat_STATE 1 with reelGood := 0 }.emit 0x19 0x11 0 [(32, e)]
  else m

/-- REEL_HOLDOVER (R445): no SYNC cell from the source link for 10 µs. -/
def reelHoldover (m : Mach) : Mach :=
  let st := m.get F.timReelStat_STATE
  if (st = 1 || st = 2) && decide (m.reelSeen + 10000 ≤ m.now) then
    (m.set F.timReelStat_STATE 3).emit 0x19 0x12 0 [(3, (m.get F.timReelStat_SRC : Int))]
  else m

end Sys2Proof.Machine
end

