-- ==== Sys2Proof/Machine/Tng.lean ====
section
/-!
DEFINITION. Twin pairs (R316 to R329): pairing, heartbeats and their horizon, the output watchdog, takeover, the ways out of a pair,
joining, and what the lead forwards.
-/

namespace Sys2Proof.Machine

/-! ## Roles -/

/-- Tango goes to state `st` (R316, R282): FOLLOWER, STANDBY and JOINING follow. -/
def Mach.tngGo (m : Mach) (st : Nat) : Mach :=
  (m.set F.tngStat_STATE st).setFollow (st = 3 || st = 5 || st = 6)

/-- ON edges that the horizon held are judged again (R322, R327). -/
def Mach.heldGo (m : Mach) : Mach :=
  (List.range 8).foldl (fun m a =>
    (m.cmpAx a).entries.foldl (fun m e => if e.2.held && !e.2.onHanded then (m.onEval a e.1).offEval a e.1 else m) m) m

/-- A twin becomes SOLO (R318, R326, R327): a lead places its held ON edges. -/
def Mach.becomeSolo (m : Mach) (why : Nat) : Mach :=
  let lead := m.tngIs 2
  let m := ((m.tngGo 4).set F.tngStat_REASON why).emit 0x13 0x12 0 [(32, (why : Int))]
  (m.cond lead (·.heldGo)).reelPick

/-- Module B of its position (R293). -/
def Mach.isB (m : Mach) : Bool := m.twinPres && m.twinB

/-- Pairing is refused (R318): the straps alone decide who goes SOLO; with like straps nobody does. -/
def Mach.pairRefused (m : Mach) (why : Nat) : Mach :=
  let m := (m.set F.tngStat_REASON why).emit 0x13 0x11 0 [(32, (why : Int))]
  if !m.tngIs 1 then m
  else if m.isB || why = 4 then m.tngGo 5
  else m.becomeSolo why

/-- The checks of R318 on a partner whose keys stand; the reason of the first that fails, else 0. -/
def Mach.pairCheck (m : Mach) (p : PeerId) : Nat :=
  if p.twinB = m.twinB then 4
  else if p.arithRev ≠ m.get F.idPart_ARITH_REV then 3
  else if p.digest ≠ m.pkgDigest || !p.digestEq then 2
  else if m.get F.tngStat_TL_ACTIVE < clampN 1 12 (m.get F.tngCfg_TL_MIN) then 5
  else 0

/-- The event arguments of PAIRED and JOINED (R330): the role is given as the state's code. -/
def Mach.roleArgs (m : Mach) : List (Nat × Int) := [(3, (m.get F.tngStat_STATE : Int)), (32, (m.get F.tngPeer_SERIAL : Int))]

/-- Two twins pair (R318): module A leads, its watchdog armed, and module B follows. -/
def Mach.pairUp (m : Mach) : Mach :=
  let m := m.tngGo (if m.isB then 3 else 2)
  let t := { m.tng with sent := [], seq := 0, wdAt := m.now, wdFired := false, ackAt := m.now, lost := false, joined := false,
                        lastH := m.reel.fdiv 10000 * 10000 }
  ({ m with tng := t }.set F.tngStat_MISSED 0).emit 0x13 0x10 0 m.roleArgs |>.reelPick

/-- A SOLO module accepts its checked partner (R329). -/
def Mach.joinAccept (m : Mach) : Mach :=
  if m.tngIs 4 && m.tng.checked && !m.tng.joined then
    let m := { m with tng := { m.tng with joined := true } }
    (m.linkSend 0 ⟨0, 0x18, [], []⟩).emit 0x13 0x18 0 m.roleArgs
  else m

/-- A partner's PAIR cells are complete (R318, R329): `accepts` when they say that a SOLO partner accepts this module. -/
def Mach.pairDecide (m : Mach) (p : PeerId) (accepts : Bool) : Mach :=
  let why := m.pairCheck p
  let partnerSolo := p.state = 4
  if m.tngIs 1 && !partnerSolo then (if why = 0 then m.pairUp else m.pairRefused why)
  else if m.tngIs 1 || m.tngIs 5 then
    if !partnerSolo then m
    else if why ≠ 0 then
      let m := (m.set F.tngStat_REASON why).emit 0x13 0x11 0 [(32, (why : Int))]
      m.cond (m.tngIs 1) (·.tngGo 5)
    else if accepts then
      let m := m.tngGo 6
      { m with tng := { m.tng with checked := true } }.emit 0x13 0x18 0 m.roleArgs |>.reelPick
    else { m with tng := { m.tng with checked := true } }
  else if m.tngIs 4 && (p.state = 1 || p.state = 5) then
    if why ≠ 0 then (m.set F.tngStat_REASON why).emit 0x13 0x11 0 [(32, (why : Int))]
    else
      let m := { m with tng := { m.tng with checked := true } }
      m.cond (m.on F.tngCfg_ACCEPT) (·.joinAccept)
  else m

/-- PAIR_WAIT (R318): no partner has answered within PAIR_WAIT_MS. -/
def pairWait (m : Mach) : Mach :=
  if m.tngIs 1 && m.tng.peer.isNone && decide (m.tng.startAt + m.get F.tngCfg_PAIR_WAIT_MS * 1000000 ≤ m.now) then
    m.pairRefused 1
  else m

/-! ## Heartbeats (R321 to R324) -/

/-- The lead's newest heartbeat has not been acknowledged. -/
def Mach.unacked (m : Mach) : Bool := !m.tng.sent.isEmpty

/-- HEARTBEAT_SEND (R321, R323): at a multiple of 10,000 ns, when the health probe was answered within 10 µs. -/
def heartbeatSend (probeOk : Bool) (m : Mach) : Mach :=
  let h := m.reel.fdiv 10000 * 10000
  let last := m.geti F.tngHb_H
  if m.tngIs 2 && probeOk && !m.on F.pwrStat_PWRFAIL && !(m.get F.tngHb_H != 0 && decide (h ≤ last)) then
    let m := m.cond m.unacked (·.bump F.tngStat_MISSED)
    let seq := m.tng.seq + 1
    let z := h + 14000
    let t := { m.tng with seq, sent := m.tng.sent ++ [(seq, h, z)], wdAt := m.now, wdFired := false }
    ({ m with tng := t }.seti F.tngHb_H h).linkSend 0 ⟨0, 0x10, [seq, (h % 2 ^ 64).toNat, (z % 2 ^ 64).toNat], []⟩
  else m

/-- HEARTBEAT (R321, R324): the follower acknowledges it, and any arrival resets the count of misses. -/
def heartbeat (seq : Nat) (h z : Int) (m : Mach) : Mach :=
  if m.follower then
    let m := ({ m with tng := { m.tng with lastH := h } }.seti F.tngHb_H h).set F.tngStat_MISSED 0
    ((m.linkSend 0 ⟨0, 0x11, [seq], []⟩).seti F.tngHorizon_Z z).heldGo
  else m

/-- HEARTBEAT_ACK (R321): Z_A is the Z of the newest heartbeat whose acknowledgement came. -/
def heartbeatAck (seq : Nat) (m : Mach) : Mach :=
  match m.tng.sent.find? fun s => s.1 = seq with
  | some s =>
    if m.tngIs 2 then
      let t := { m.tng with sent := m.tng.sent.filter fun x => seq < x.1, ackAt := m.now, lost := false }
      (({ m with tng := t }.seti F.tngHorizon_Z s.2.2).set F.tngStat_MISSED 0).heldGo
    else m
  | none => m

/-- FOLLOWER_LOST (R327): no acknowledgement for three consecutive heartbeats. -/
def followerLost (m : Mach) : Mach :=
  if m.tngIs 2 && 3 ≤ m.get F.tngStat_MISSED && !m.tng.lost then
    { m with tng := { m.tng with lost := true } }.emit 0x13 0x14 0 []
  else m

/-- AUTO_SOLO (R327): SOLO_US without an acknowledgement. -/
def autoSolo (m : Mach) : Mach :=
  if m.tngIs 2 && m.tng.lost && m.on F.tngCfg_AUTO_SOLO && decide (m.tng.ackAt + m.get F.tngCfg_SOLO_US * 1000 ≤ m.now) then
    m.becomeSolo 9
  else m

/-- LEAD_WATCHDOG (R323): the lead's output watchdog has not been restarted for 25 µs. -/
def leadWatchdog (m : Mach) : Mach :=
  if m.tngIs 2 && !m.tng.wdFired && decide (m.tng.wdAt + 25000 ≤ m.now) then
    let m := { m with tng := { m.tng with wdFired := true } }
    ((m.safeCause 5).setFaultSrc 3 true).emit 0x13 0x16 0 []
  else m

/-- SOLO (R327, R332): a write of TNG_CTL.SOLO, on a STANDBY module or a lead that lost its follower. -/
def soloCmd (m : Mach) : Mach := if m.tngIs 5 || (m.tngIs 2 && m.tng.lost) then m.becomeSolo 8 else m

/-- JOIN (R329): a write of TNG_CTL.JOIN. -/
def joinCmd (m : Mach) : Mach := m.joinAccept

/-- FOLLOWER_STANDBY (R327): the follower told that it left, and the lead becomes SOLO at once. -/
def followerStandby (_reason : Nat) (m : Mach) : Mach :=
  if m.tngIs 2 then (m.bump F.tngCnt_BREAKS).becomeSolo 0xA else m

/-! ## Takeover (R325, R326) -/

/-- What becomes of a compare entry at takeover (R325): kept, removed, or uncertain. -/
inductive Fate where
  | kept
  | removed
  | uncertain
  deriving DecidableEq, Repr

/-- The classification of R325, by the instants at the logic, those of the hold's begin for a held entry; `h` is H_last, `z` is Z_F. -/
def Entry.fate (e : Entry) (h z : Int) : Fate :=
  let on' := if e.tOn.isSome then e.tOn else e.pOn
  let off := if e.tOff.isSome then e.tOff else e.pOff
  match on' with
  | none => .kept
  | some t =>
    if t ≤ h && (match off with | some u => decide (u ≤ h) | none => false) then .removed
    else if t ≤ z then .uncertain
    else .kept

/-- Axis `a` at takeover (R325): the number of uncertain entries, and the machine with the kept ones alone. -/
def Mach.cmpTakeover (m : Mach) (a : Nat) (h z : Int) : Mach :=
  let m := (m.cmpAx a).entries.foldl (fun m e =>
    match e.2.fate h z with
    | .kept => m.modEntry a e.1 fun x => { x with onHanded := false, offHanded := false, onDone := false, offDone := false,
                                                    mergedBy := none, held := false }
    | .removed => m.dropEntry a e.1
    | .uncertain => ((m.dropEntry a e.1).bump F.tngCnt_UNCERTAIN).late a e.2.tag 7 e.2.job e.2.port) m
  (m.modCmp a fun c => { c with cancelled := [] }).recompute a

/-- POS takes its own count plus the held difference (R319, R326). -/
def Mach.posTakeover (m : Mach) (a : Nat) : Mach :=
  let m := m.modPos a fun x =>
    let d := x.diff.getD 0
    { x with own := { x.own with p := wrapI 48 (x.own.p + d), win := x.own.win }, fwd := {}, ownEdges := [], fwdEdges := [], diff := none }
  if m.posRuns a then m.posShow a else m

/-- TAKEOVER (R324 to R326): the follower classifies its entries, ends FOLLOW and runs as SOLO on its own inputs. -/
def Fx.takeover (x : Fx) : Fx :=
  let h := x.m.tng.lastH
  let z := x.m.geti F.tngHorizon_Z
  let ends := (x.m.hop.filter fun y => y.1 < 1024 && y.2.live).map fun y => (y.1, (x.m.grsPort (x.m.get (F.hopEntCfg_PORT y.1))).lines / 64)
  let before := x.m.get F.tngCnt_UNCERTAIN
  let x := x.mach fun m =>
    let m := m.set F.tngStat_STATE 4
    let m := (List.range 8).foldl (fun m a => m.posTakeover a) m
    let m := m.compareZero
    let m := (List.range 96).foldl (fun m v => m.setPulse v none) m
    let m := (List.range 8).foldl (fun m a => m.cmpTakeover a h z) m
    let m := (m.bump F.tngCnt_TAKEOVERS).setFollow false
    let m := (List.range 16).foldl (fun m p => m.grsTakeover p) m
    { m with tng := { m.tng with joined := false, checked := false } }.set F.tngStat_MISSED 0
  let x := ends.foldl (fun x y => x.hopEndAt y.1 y.2) x
  x.mach fun m =>
    let n : Int := (m.get F.tngCnt_UNCERTAIN : Int) - before
    ((m.emit 0x13 0x15 0 [(32, h), (32, n)]).becomeSolo 0xB).mainsGo

/-- HEARTBEAT_MISSED (R324): heartbeat H_last + 10,000 n has not come 3,000 ns after its time; the third is the takeover. -/
def heartbeatMissedFx (x : Fx) : Fx :=
  let n := x.m.get F.tngStat_MISSED
  if x.m.follower && decide (x.m.tng.lastH + 13000 + 10000 * n ≤ x.m.reel) then
    let x := x.mach (·.bump F.tngStat_MISSED)
    if n + 1 = 3 then x.takeover else x
  else x

/-! ## Leaving the pair, and what is forwarded -/

/-- Every job stops at once, without saving, and no verdict comes any more (R316, R394 step 2). -/
def Fx.stopAll (x : Fx) : Fx :=
  let js := (List.range 64).filter fun j => x.m.jobActive j
  let x := x.mach fun m => { m with mon := [], verdQ := [] }
  let x := js.foldl (fun x j => x.jobStoppedNow j) x
  x.mach fun m =>
    let m := (List.range 16).foldl (fun m p => if m.get (F.grsStatus_STATE p) = 0 then m else m.grsStopped p) m
    (List.range 16).foldl (fun m p => m.mshStop p) m

/-- The follower leaves the pair on its own (R327): it becomes STANDBY, runs no jobs, and tells the lead. -/
def Fx.pairBreak (x : Fx) (why : Nat) : Fx :=
  if !x.m.follower then x
  else
    let x := x.mach fun m =>
      (((m.linkSend 0 ⟨0, 0x17, [why], []⟩).bump F.tngCnt_BREAKS).set F.tngStat_REASON why).emit 0x13 0x13 0 [(32, (why : Int))]
    let x := (x.mach (·.tngGo 5)).stopAll
    x.mach fun m =>
      let m := (List.range 8).foldl (fun m a => m.cmpSafeStop a) m
      (m.compareZero).reelPick

/-- FORWARDED_LINE (R319, R327): `lost` when the lead's forwarding buffer overflowed and this line was lost. -/
def forwardedLineFx (p : Nat) (l : FwdLine) (lost : Bool) (x : Fx) : Fx :=
  if !x.m.follower then x
  else if lost then x.pairBreak 7
  else x.mach (·.toldLine p l)

/-- A field-input event that the lead or the record brings takes the place of the module's own (R289, R319, R353); a follower records
it (R342). -/
def Mach.toldInput (m : Mach) (classC : Bool) (i : Nat) (w0 w1 : Word) : Mach :=
  if classC then
    let m := m.set (F.fioIcCount_COUNT i) (w0.extractLsb' 0 32).toNat
    let m := (m.set (F.fioIcFreq_EDGES i) (w0.extractLsb' 32 32).toNat).set (F.fioIcFreq_FREQ i) (w1.extractLsb' 0 32).toNat
    m.record ⟨0x04, 0x3F, 32 + i, false, m.reel, leBytes 8 w0.toNat ++ leBytes 8 w1.toNat⟩
  else
    let m := m.modInW i fun c => { c with told := w0.getLsbD 0 }
    (m.cond (m.on (F.fioIwCfg_REC i)) (·.count (F.fioIwStat_CHANGES i))).recW i

/-- FORWARDED_INPUT (R319). -/
def forwardedInput (classC : Bool) (i : Nat) (w0 w1 : Word) (m : Mach) : Mach :=
  if m.follower then m.toldInput classC i w0 w1 else m

/-- DIGEST (R320): a step digest or a verdict's words come from the twin and meet this module's own; the lead's main verdict is its choice (R210). -/
def digestCmd (verdict : Bool) (e step : Nat) (w0 w1 : Word) (m : Mach) : Mach :=
  if !m.paired then m
  else if verdict then
    let tag := (w0.extractLsb' 32 32).toNat
    let (r, theirs, mine) := matchUp tag w0.toNat w1.toNat m.peerVerdicts m.ownVerdicts
    let m := { m with ownVerdicts := mine, peerVerdicts := theirs }
    let m := m.cond (r = some false) (·.mismatch true 0 tag)
    m.cond (w0.toNat / 2 ^ 20 % 4 = 0) (·.toldMain (w0.toNat / 2 ^ 22 % 16) (w1.toNat / 2 ^ 32))
  else
    let (r, theirs, mine) := matchUp (step * 1024 + e) w0.toNat 0 m.peerDigests m.ownDigests
    let m := { m with ownDigests := mine, peerDigests := theirs }
    if r = some false then m.mismatch false e step else m

end Sys2Proof.Machine
end

