-- ==== Sys2Proof/Machine/Pnx.lean ====
section
/-!
DEFINITION. Ponyx lanes, links and the fabric chain (R292 to R315): training, framing, retransmission, segments, low power,
loopback, key agreement (R380, R381) and chain numbering.
-/

namespace Sys2Proof.Machine

/-- `a` is at or before `b` in the modulo-65,536 order of LSEQ (R303). -/
def seqLe (a b : Nat) : Bool := (b + 65536 - a) % 65536 < 32768

/-! ## The lanes of a link -/

def Mach.laneState (m : Mach) (n : Nat) : Nat := m.get (F.pnxStat_STATE n)

/-- PNX_LINK, PNX_CHAIN and TNG_STAT show the links' state (R331, R332). -/
def Mach.linkShow (m : Mach) (k : Nat) : Mach :=
  let n := (m.activeLanes k).length
  let m := (m.set (F.pnxLink_LANES k) n).modLink k fun l =>
    { l with emptyAt := if n = 0 then (if l.emptyAt.isSome then l.emptyAt else some m.now) else none }
  let m := m.cond (k = 0) (·.set F.tngStat_TL_ACTIVE n)
  m.set F.pnxChain_PEERS ((List.range 4).foldl (fun a i => if m.linkUp (i + 1) then a + 2 ^ i else a) 0)

/-- Cells of lane `n` that are not acknowledged go to the link's other lanes (R301). -/
def Mach.laneResend (m : Mach) (n : Nat) : Mach :=
  let k := laneLink n
  let others := m.activeLanes k
  let lost := ((m.link k).replay.filter (·.lane = n)).length
  if others.isEmpty || lost = 0 then m
  else
    let m := m.bump (F.pnxLink_RESENT k) lost
    ((m.link k).replay.filter (·.lane = n)).foldl (fun m c =>
      let (j, m) := m.pickLane k
      (m.putCell j c.cell).modLink k fun l => { l with replay := l.replay.map fun d => if d = c then { c with lane := j } else d }) m

/-- A lane leaves its link (R301, R308): a follower with too few twin lanes leaves its pair (R327). -/
def Fx.laneLeaves (x : Fx) (n st : Nat) : Fx :=
  let was := x.m.laneState n = 2
  let x := x.mach fun m =>
    let m := ((m.set (F.pnxStat_STATE n) st).set (F.pnxStat_PWR n) 0).modLane n fun l =>
      { l with own := 0, peer := 0, trains := 0, wakeAt := none, train := none }
    if was then (m.laneResend n).linkShow (laneLink n) else m
  if was && n < 12 && x.m.follower && x.m.get F.tngStat_TL_ACTIVE < clampN 1 12 (x.m.get F.tngCfg_TL_MIN) then x.pairBreak 5
  else x

/-- Failures of the last ms (R301). -/
def Mach.recentFails (m : Mach) (n : Nat) : List Nat := (m.lane n).fails.filter fun t => m.now < t + 1000000

/-- An ACTIVE lane trains again (R301): counted and raised. -/
def Fx.retrain (x : Fx) (n : Nat) : Fx :=
  let x := x.mach fun m =>
    (m.bump (F.pnxCnt_RETRAINS n)).emit 0x12 0x11 n [(5, (n : Int)), (32, ((m.recentFails n).length : Int))]
  (x.mach (·.modLane n fun l => { l with fails := [] })).laneLeaves n 1

/-- A cell passes its CRC (R298): the eighth in a row finds the frame. -/
def Mach.cellPass (m : Mach) (n : Nat) : Mach :=
  let m := m.modLane n fun l => { l with passRun := min 8 (l.passRun + 1), failRun := 0 }
  m.cond ((m.lane n).passRun = 8) (·.setb (F.pnxStat_FRAMED n) true)

/-- A cell that no replay buffer holds leaves on a lane of link `k` (R295, R303): it comes before the others. -/
def Mach.ctlCell (m : Mach) (k typ lseq : Nat) : Mach :=
  let (n, m) := m.pickLane k
  m.putCell n (mkCell typ 0 false false 0 lseq (m.link k).good (n - (linkLanes k).headD 0) [])

/-- Link `k` sends a NAK that names the lowest missing LSEQ (R303). -/
def Mach.sendNak (m : Mach) (k : Nat) : Mach :=
  if m.linkUp k then (m.ctlCell k 6 (m.link k).expect).modLink k fun l => { l with nak := some l.expect } else m

/-- What the TRAIN cells of lane `n` say while it trains (R300, R308). -/
def Mach.trainShow (m : Mach) (n : Nat) : Mach :=
  let k := laneLink n
  m.modLane n fun l =>
    { l with train := if m.laneState n = 1 then
               some { serial := Config.idSerial, pos := if m.on F.pnxChain_VALID then some m.chainPos else none, modB := m.isB, link := k,
                      lane := n - (linkLanes k).headD 0, state := l.own, scrambler := l.tx.scr, loopFar := m.get (F.pnxCtl_LOOP n) = 3 }
             else none }

/-- The receiver of lane `n` loses lock (R299, R301): an ACTIVE lane trains again. -/
def Fx.lockLost (x : Fx) (n : Nat) : Fx :=
  let active := x.m.laneState n = 2
  let x := x.mach fun m =>
    ((m.setb (F.pnxStat_LOCKED n) false).setb (F.pnxStat_FRAMED n) false).modLane n fun l => { l with own := 0, passRun := 0 }
  (if active then x.retrain n else x).mach (·.trainShow n)

/-- A cell fails on lane `n` (R297, R298, R303): counted and, on an ACTIVE lane, asked for again; the eighth in a row loses the frame, and
with it the lock (R299). -/
def Fx.cellFails (x : Fx) (n : Nat) (stuffed : Bool) : Fx :=
  let x := x.mach fun m =>
    let m := (m.bump (F.pnxCnt_CRC_ERR n)).cond stuffed (·.bump (F.pnxCnt_STUFF_ERR n))
    let m := m.modLane n fun l =>
      { l with passRun := 0, failRun := min 8 (l.failRun + 1), fails := (l.fails.filter fun t => m.now < t + 1000000) ++ [m.now] }
    m.cond (m.laneState n = 2) (·.sendNak (laneLink n))
  if (x.m.lane n).failRun = 8 && x.m.on (F.pnxStat_FRAMED n) then x.lockLost n else x

/-- CRC_FAILURE (R297, R298, R303): the bits that lane `n` takes for a cell violate the stuffing, or are no cell with a good CRC. Bits
that pass are no such failure. -/
def crcFailureFx (n : Nat) (bits : List Bool) (x : Fx) : Fx :=
  let r := (x.m.lane n).rx.take bits
  if r.2.1 then (x.mach (·.modLane n fun l => { l with rx := r.2.2 })).cellFails n r.1 else x

/-- A cell that should be of type `t` comes on lane `n`: one whose CRC fails, of a wrong type or with a reserved field set counts as a
CRC failure (R294). -/
def Fx.onCell (x : Fx) (n t : Nat) (c : Cell) (f : Fx → Fx) : Fx :=
  if x.m.laneState n = 0 || x.m.laneState n = 4 then x
  else
    let x := x.mach (·.modLane n fun l => { l with rx := (l.rx.put c).2 })
    if c.crcOk && c.wellTyped t then f (x.mach (·.cellPass n)) else x.cellFails n false

/-! ## Links up and down (R303, R304, R309, R311) -/

/-- Link `k` goes DOWN (R304): buffers and undelivered cells are lost, and its keys (R379). -/
def Mach.linkLost (m : Mach) (k : Nat) : Mach :=
  let m := (m.set (F.pnxLink_STATE k) 0).modLink k fun l => { emptyAt := l.emptyAt, sync := none }
  ((m.set (F.secLink_STATE k) 0).linkShow k).emit 0x12 0x14 k [(3, (k : Int))] |>.reelPick

/-- LINK_DOWN (R304): no ACTIVE lane for 1 ms. -/
def linkDown (k : Nat) (m : Mach) : Mach :=
  match (m.link k).emptyAt with
  | some t =>
    if t + 1000000 ≤ m.now then
      if m.linkUp k then m.linkLost k
      else if m.get (F.pnxLink_STATE k) = 1 then
        (((m.set (F.pnxLink_STATE k) 0).set (F.secLink_STATE k) 0).modLink k fun l => { emptyAt := l.emptyAt }).linkShow k
      else m
    else m
  | none => m

/-- The two ends of link `k` begin to agree keys (R380): 50 ms are allowed (R381). -/
def Mach.agree (m : Mach) (k : Nat) : Mach :=
  ((m.set (F.pnxLink_STATE k) 1).set (F.secLink_STATE k) 1).modLink k fun l => { l with keyDue := some (m.now + 50000000) }

/-- Link `k` agrees new keys (R311, R381): it is DOWN meanwhile. -/
def Mach.rekey (m : Mach) (k : Nat) : Mach :=
  ((m.linkLost k).agree k).emit 0x15 0x17 0 [(3, (k : Int)), (16, (m.get (F.secLink_GEN k) + 1 : Nat))]

/-- A segment counter is about to reach 2^48 (R311). -/
def Mach.rekeyDue (m : Mach) (k : Nat) : Bool :=
  m.linkUp k && (2 ^ 48 ≤ (m.link k).segTx + 1 || 2 ^ 48 ≤ (m.link k).segRx + 1)

/-- An ACK covers cells (R303): they leave the replay buffer, and messages that wait go out. -/
def Mach.acked (m : Mach) (k ack : Nat) : Mach :=
  if m.linkUp k then
    let m := m.modLink k fun l => { l with replay := l.replay.filter fun c => !seqLe c.lseq ack }
    let m := m.linkPump k
    m.cond (m.rekeyDue k) (·.rekey k)
  else m

/-- A verified cell joins the message of its channel (R295); a complete message reaches its unit, whose own command follows. -/
def deliverCell (asm : List (Nat × List Byte)) (c : Cell) : List (Nat × List Byte) :=
  let before := if c.first then [] else ((asm.find? fun x => x.1 = c.ch).map (·.2)).getD []
  let rest := asm.filter fun x => x.1 ≠ c.ch
  if c.last then rest else rest ++ [(c.ch, before ++ c.payload.take c.len)]

/-- The next cell in LSEQ order (R303, R310, R311): a TAG delivers or discards its segment. -/
def Mach.inOrder (m : Mach) (k : Nat) (r : RxCell) : Mach :=
  let m := m.modLink k fun l => { l with expect := (l.expect + 1) % 65536, gapAt := none }
  if r.cell.typ = 1 then m.modLink k fun l => { l with seg := l.seg ++ [r.cell] }
  else
    let l := m.link k
    let first := (l.expect + 65536 - (l.seg.length + 1)) % 65536
    let bad := !r.ok || r.cell.num 0 8 ≠ l.segRx || r.cell.num 8 2 ≠ first || r.cell.num 10 1 ≠ l.seg.length
    if !bad then
      let plain := l.seg.mapIdx fun i c =>
        { c with payload := Config.gcmOpen k (m.get (F.secLink_GEN k)) l.segRx i c.payload }
      m.modLink k fun l =>
        { l with seg := [], segRx := l.segRx + 1, tagFails := 0, good := r.lseq, asm := plain.foldl deliverCell l.asm }
    else
      let m := (m.bump (F.pnxLink_TAG_FAIL k)).emit 0x12 0x15 k [(3, (k : Int)), (32, (l.segRx : Int))]
      let m := (m.modLink k fun l => { l with seg := [], expect := first, early := [], tagFails := l.tagFails + 1 }).sendNak k
      if 3 ≤ (m.link k).tagFails then m.rekey k else m

/-- Cells that waited for a missing LSEQ follow it (R303). -/
def Mach.drainEarly (m : Mach) (k : Nat) : Nat → Mach
  | 0 => m
  | n + 1 =>
    match (m.link k).early.find? fun r => r.lseq = (m.link k).expect with
    | some r => ((m.modLink k fun l => { l with early := l.early.erase r }).inOrder k r).drainEarly k n
    | none => m

/-- A DATA or TAG cell is received (R303): the next one in order, one beyond it, or one seen before. -/
def Mach.received (m : Mach) (k : Nat) (r : RxCell) : Mach :=
  let l := m.link k
  if !m.linkUp k then m
  else if r.lseq = l.expect then
    let m := (m.inOrder k r).drainEarly k l.early.length
    let m := m.cond (!(m.link k).early.isEmpty && (m.link k).gapAt.isNone) (·.modLink k fun l => { l with gapAt := some m.now })
    m.cond (m.rekeyDue k) (·.rekey k)
  else if (r.lseq + 65536 - l.expect) % 65536 < 1024 && !l.early.any (·.lseq = r.lseq) then
    m.modLink k fun l => { l with early := l.early ++ [r], gapAt := if l.gapAt.isSome then l.gapAt else some m.now }
  else m

/-- A DATA or TAG cell of an ACTIVE lane takes its place in its link (R303). -/
def Mach.linkCell (m : Mach) (n : Nat) (c : Cell) (ok : Bool) : Mach :=
  if m.laneState n = 2 then (m.acked (laneLink n) c.ack).received (laneLink n) ⟨c.lseq, c, ok⟩ else m

/-- DATA_CELL (R303): a reserved channel or a LEN outside 1 to 64 makes it no DATA cell (R294, R295). -/
def dataCellFx (n : Nat) (c : Cell) (x : Fx) : Fx :=
  x.onCell n (if c.ch < 6 && 1 ≤ c.len && c.len ≤ 64 then 1 else 16) c (·.mach (·.linkCell n c true))

/-- TAG_CELL (R310): `ok` says whether the GCM tag verifies. -/
def tagCellFx (n : Nat) (c : Cell) (ok : Bool) (x : Fx) : Fx := x.onCell n 2 c (·.mach (·.linkCell n c ok))

/-- IDLE_CELL (R294, R303). -/
def idleCellFx (n : Nat) (c : Cell) (x : Fx) : Fx :=
  x.onCell n 0 c fun x => x.mach fun m => if m.laneState n = 2 then m.acked (laneLink n) c.ack else m

/-- NAK_CELL (R303): every cell from the named LSEQ onward is sent again, unchanged. -/
def nakCellFx (n : Nat) (c : Cell) (x : Fx) : Fx :=
  x.onCell n 6 c fun x => x.mach fun m =>
    let k := laneLink n
    if m.laneState n = 2 && m.linkUp k then
      let m := m.acked k c.ack
      let again := (m.link k).replay.filter fun x => seqLe c.lseq x.lseq
      again.foldl (fun m x => let (j, m) := m.pickLane k; m.putCell j x.cell) (m.bump (F.pnxLink_RESENT k) again.length)
    else m

/-- NAK_TIMEOUT (R303): a later LSEQ has waited 100 ns for a missing one. -/
def nakTimeout (k : Nat) (m : Mach) : Mach :=
  match (m.link k).gapAt with
  | some t =>
    if m.linkUp k && !(m.link k).early.isEmpty && decide (t + 100 ≤ m.now) then
      (m.sendNak k).modLink k fun l => { l with gapAt := some m.now }
    else m
  | none => m

/-! ## Clock recovery and training (R299 to R302) -/

/-- The first transmitter setting outside its limits (R302), as the register's offset from the block's base. -/
def Mach.tapsBad (m : Mach) (n : Nat) : Bool :=
  m.get (F.pnxTx_MAIN n) < 32 || 63 < m.get (F.pnxTx_PRE n) + m.get (F.pnxTx_MAIN n) + m.get (F.pnxTx_POST n)

/-- Lane `n` is enabled (R300, R302, R308): it begins to send TRAIN cells, or its loopback; its scrambler and its pattern begin in
any nonzero state (R296, R307). -/
def Mach.laneOn (m : Mach) (n : Nat) : Mach :=
  if m.tapsBad n then m.emit 0x12 0x18 n [(5, (n : Int)), (32, (R.pnxTx n : Int) - 0x1100000)]
  else
    let loop := m.get (F.pnxCtl_LOOP n)
    let (f, m) := m.free
    let (g, m) := m.free
    let seed := f.setWidth 58
    ((m.set (F.pnxStat_STATE n) (if loop = 1 || loop = 2 then 3 else 1)).modLane n fun _ =>
      { idleAt := m.now, tx := { scr := if seed = 0 then 1 else seed },
        gen := (List.range 31).map fun i => g.getLsbD i || i = 0 }).trainShow n

/-- Lane `n` is disabled at once (R300, R331). -/
def Fx.laneOff (x : Fx) (n : Nat) : Fx :=
  (x.laneLeaves n 0).mach fun m =>
    ((((m.setb (F.pnxStat_LOCKED n) false).setb (F.pnxStat_FRAMED n) false).setb (F.pnxStat_SIGDET n) false).setb
      (F.pnxPrbs_SYNC n) false).modLane n fun _ => {}

/-- CDR_LOCK (R299). -/
def cdrLock (n : Nat) (ppm phase : Word) (m : Mach) : Mach :=
  if m.laneState n = 0 || m.laneState n = 4 then m
  else
    ((((m.setb (F.pnxStat_LOCKED n) true).setb (F.pnxStat_SIGDET n) true).set (F.pnxStat_PPM n) ppm.toNat).set (F.pnxStat_PHASE n)
      phase.toNat).trainShow n

/-- LOSS_OF_LOCK (R299, R301): a signal below 60 mVppd, which SIGDET shows, no transition, or too large a phase error. -/
def lossOfLockFx (n : Nat) (noSignal : Bool) (x : Fx) : Fx :=
  (x.mach fun m => m.cond noSignal (·.setb (F.pnxStat_SIGDET n) false)).lockLost n

/-- LANE_RETRAIN (R301): 16 cells have failed within 1 ms. -/
def laneRetrainFx (n : Nat) (x : Fx) : Fx :=
  if x.m.laneState n = 2 && 16 ≤ (x.m.recentFails n).length then (x.retrain n).mach (·.trainShow n) else x

/-- A peer's link, lane and module index keep the wiring of R293. -/
def Mach.wired (m : Mach) (n : Nat) (t : TrainInfo) : Bool :=
  let own := m.isB.toNat
  let peer := t.modB.toNat
  match laneLink n with
  | 0 => t.link = 0 && t.lane = n
  | 1 => t.link = 3 + own && t.lane = n - 12 && peer = 0
  | 2 => t.link = 3 + own && t.lane = n - 16 && peer = 1
  | 3 => t.link = 1 + own && t.lane = n - 20 && peer = 0
  | _ => t.link = 1 + own && t.lane = n - 24 && peer = 1

/-- A lane becomes ACTIVE (R300): its link begins to agree keys, once SEC can (R309, R374). -/
def Mach.laneUp (m : Mach) (n : Nat) : Mach :=
  let k := laneLink n
  let m := (((m.set (F.pnxStat_STATE n) 2).modLane n fun l => { l with idleAt := m.now }).emit 0x12 0x10 n [(5, (n : Int))]).linkShow k
  if m.get (F.pnxLink_STATE k) = 0 && m.secReady then m.agree k else m

/-- A TRAIN cell on a lane that trains (R300): both ends' states, and 16 cells after both reached 2. -/
def Mach.trainStep (m : Mach) (n : Nat) (t : TrainInfo) : Mach :=
  let locked := m.on (F.pnxStat_LOCKED n) && m.on (F.pnxStat_FRAMED n)
  let own := if !locked then 0 else if 1 ≤ t.state then 2 else 1
  let both := own = 2 && t.state = 2 && (m.lane n).own = 2 && (m.lane n).peer = 2
  let m := m.modLane n fun l => { l with own, peer := t.state, trains := if both then l.trains + 1 else 0 }
  (if 16 ≤ (m.lane n).trains then m.laneUp n else m).trainShow n

/-- TRAIN_CELL (R296, R300, R308): it loads the receiving scrambler. -/
def trainCellFx (n : Nat) (c : Cell) (x : Fx) : Fx :=
  x.onCell n 4 c fun x =>
    let st := x.m.laneState n
    let t := Config.trainOf c.payload
    let x := x.mach fun m => m.modLane n fun l => { l with rx := { l.rx with scr := t.scrambler } }
    if x.m.get (F.pnxCtl_LOOP n) = 3 then
      if t.serial = Config.idSerial then x.mach (·.set (F.pnxStat_STATE n) 3) else x
    else if t.loopFar && x.m.on (F.pnxCtl_FE_ALLOW n) then
      (x.laneLeaves n 3).mach (·.modLane n fun l => { l with loopFar := true })
    else if (x.m.lane n).loopFar then
      x.mach fun m => ((m.set (F.pnxStat_STATE n) 1).modLane n fun l => { l with loopFar := false }).trainStep n t
    else if st = 3 then x
    else if !x.m.wired n t then
      (x.laneLeaves n 4).mach (·.emit 0x12 0x12 n [(5, (n : Int)), (3, (t.link : Int)), (1, (t.modB.toNat : Int))])
    else if st = 1 then x.mach (·.trainStep n t)
    else x

/-! ## Keys, pairing and the chain (R309, R312, R380, R381) -/

/-- A module at position p announces it on a DN link (R312). -/
def Mach.announce (m : Mach) (k : Nat) : Mach :=
  if m.on F.pnxChain_VALID && !m.on F.pnxChain_TOO_LONG then m.linkSend k ⟨1, 1, [m.chainPos], []⟩ else m

/-- The keys of link `k` stand and it is UP, LSEQ from 0 (R304, R380). -/
def Mach.linkKeyed (m : Mach) (k : Nat) : Mach :=
  let m := ((m.set (F.secLink_STATE k) 2).count (F.secLink_GEN k)).emit 0x15 0x13 0 [(3, (k : Int)), (16, (m.get (F.secLink_GEN k) + 1 : Nat))]
  let m := (m.set (F.pnxLink_STATE k) 2).modLink k fun l => { keys := true, emptyAt := l.emptyAt }
  let m := (m.linkShow k).emit 0x12 0x13 k [(3, (k : Int)), (4, ((m.activeLanes k).length : Int))]
  m.cond (3 ≤ k) (·.announce k)

/-- An agreement fails (R381): a fabric link tries again after 100 ms, the twin link refuses pairing. -/
def Mach.agreeFails (m : Mach) (k reason : Nat) : Mach :=
  let m := (((m.set (F.secLink_STATE k) 3).set (F.secLink_LAST_FAIL k) reason).bump (F.secLink_FAILS k)).emit 0x15 0x14 0
    [(3, (k : Int)), (32, (reason : Int))]
  let m := m.modLink k fun l => { l with keyDue := if k = 0 then none else some (m.now + 100000000) }
  m.cond (k = 0 && m.tngIs 1) (·.pairRefused 6)

/-- PAIR_CELL (R318, R380): `peer` is what the twin says of itself. -/
def pairCellFx (n : Nat) (c : Cell) (peer : PeerId) (what : PairStep) (x : Fx) : Fx :=
  x.onCell n 5 c fun x => x.mach fun m =>
    let k := laneLink n
    if m.laneState n != 2 then m
    else
      let m := m.cond (k = 0) fun m =>
        { (m.setb F.tngStat_PEER true).set F.tngPeer_SERIAL peer.serial.toNat with tng := { m.tng with peer := some peer } }
      match what with
      | .hello => if m.linkUp k || !m.secReady || m.get (F.secLink_STATE k) = 1 then m else m.agree k
      | .confirm =>
        if m.linkUp k then m.cond (k = 0 && m.twinPres) (·.pairDecide peer (Config.pairAccepts c.payload))
        else if m.get (F.secLink_STATE k) = 1 then
          (m.linkKeyed k).cond (k = 0 && m.twinPres) (·.pairDecide peer (Config.pairAccepts c.payload))
        else m
      | .fail r => if m.get (F.secLink_STATE k) = 1 then m.agreeFails k r else m

/-- KEY_FAIL (R381): 50 ms pass without completion. -/
def keyFail (k : Nat) (m : Mach) : Mach :=
  match (m.link k).keyDue with
  | some t => if m.get (F.secLink_STATE k) = 1 && decide (t ≤ m.now) then m.agreeFails k 4 else m
  | none => m

/-- KEY_RETRY (R381): a fabric link tries again 100 ms after a failure. -/
def keyRetry (k : Nat) (m : Mach) : Mach :=
  match (m.link k).keyDue with
  | some t => if k != 0 && m.get (F.secLink_STATE k) = 3 && decide (t ≤ m.now) then m.agree k else m
  | none => m

/-- The module takes position `p` (R312). -/
def Mach.takePos (m : Mach) (p : Nat) : Mach :=
  if 32 ≤ p then (m.setb F.pnxChain_TOO_LONG true).emit 0x12 0x17 0 []
  else
    let m := ((m.set F.pnxChain_POS p).setb F.pnxChain_VALID true).emit 0x12 0x16 0 [(5, (p : Int))]
    ((m.announce 3).announce 4).reelPick

/-- CHAIN_WAIT (R312): both UP links are still DOWN CHAIN_WAIT_MS after the keys are ready. -/
def chainWait (m : Mach) : Mach :=
  if m.secReady && !m.on F.pnxChain_VALID && !m.linkUp 1 && !m.linkUp 2
      && decide (m.keysAt + m.get F.pnxCfg_CHAIN_WAIT_MS * 1000000 ≤ m.now) then m.takePos 0
  else m

/-- CHAIN_ANNOUNCE (R312): position `pos` comes on an UP link. -/
def chainAnnounce (k pos : Nat) (m : Mach) : Mach :=
  if (k = 1 || k = 2) && m.linkUp k && !m.on F.pnxChain_VALID && !m.on F.pnxChain_TOO_LONG then m.takePos (pos + 1) else m

/-! ## Sync symbols (R314, R315) -/

/-- SYNC_SEND (R314): an ACTIVE lane in L0 of an UP link, at each 1,000 ns of Reel. How many IDLE cells have filled the lane since
its last cell is open, so the scrambler has gone on by any number of cells (R295, R296; log entry 147). -/
def syncSend (n : Nat) (m : Mach) : Mach :=
  let k := laneLink n
  let prev := ofLe ((m.lane n).syncOut.take 8)
  let seen := (m.lane n).sync.getD (0, 0)
  let word (v : Int) : List Byte := leBytes 8 (v % 2 ^ 64).toNat
  if m.laneState n = 2 && m.get (F.pnxStat_PWR n) = 0 && m.linkUp k
      && ((m.lane n).syncOut.isEmpty || decide ((prev : Int) / 1000 < m.reel / 1000)) then
    let (idle, m) := m.free
    let (f, m) := m.free
    let m := m.modLane n fun l => { l with tx := ⟨scrSkip (608 * idle.toNat) l.tx.scr, f.getLsbD 0, 1 + f.toNat / 2 % 30⟩ }
    let st := m.get F.timReelStat_STATE
    let root := if st = 0 then Config.idSerial.toNat else m.get F.timReelRoot_SERIAL
    let pos := if st = 0 then m.chainPos else m.get F.timReelStat_ROOT_POS
    let hops := if st = 0 then 0 else m.get F.timReelStat_HOPS
    let disc := st = 0 || st = 2
    let body := word m.reel ++ word seen.1 ++ word seen.2 ++ leBytes 8 root ++ leBytes 1 (pos + disc.toNat * 128)
      ++ leBytes 1 hops ++ leBytes 8 (m.lane n).tx.scr.toNat ++ List.replicate 22 0
    let c := mkCell 3 0 false false 0 0 (m.link k).good (n - (linkLanes k).headD 0) body
    m.modLane n fun l => let r := l.tx.put c; { l with tx := r.2, sent := r.1, syncOut := body }
  else m

/-- A delay sample in ps from the four instants of R315. -/
def delaySample (t1 t2 t3 t4 : Int) : Int := (((t4 - t1) - (t3 - t2)) * 500)

/-- SYNC_CELL (R296, R315, R444, R446): the delay is measured, and the source link disciplines Reel. -/
def syncCellFx (n : Nat) (c : Cell) (x : Fx) : Fx :=
  x.onCell n 3 c fun x => x.mach fun m =>
    let k := laneLink n
    if m.laneState n != 2 then m
    else
      let t3 := wrapI 64 (c.num 0 8)
      let t1 := wrapI 64 (c.num 8 8)
      let t2 := wrapI 64 (c.num 16 8)
      let scr := BitVec.ofNat 58 (c.num 34 8)
      let m := m.cond ((m.lane n).rx.scr != scr) (·.bump (F.pnxCnt_SCR_ERR n))
      let m := m.modLane n fun l =>
        { l with rx := { l.rx with scr }, sync := some (t3, m.reel),
                 delays := if t1 = 0 then l.delays else ((delaySample t1 t2 t3 m.reel) :: l.delays).take 1024 }
      let ds := (m.lane n).delays
      let m := m.cond (!ds.isEmpty) (·.seti (F.pnxDelay_DELAY_PS n) (ds.foldl (· + ·) 0 / ds.length))
      let info : SyncInfo := ⟨BitVec.ofNat 64 (c.num 24 8), c.num 32 1 % 32, 128 ≤ c.num 32 1, c.num 33 1, m.now⟩
      let m := (m.modLink k fun l => { l with sync := some info }).reelPick
      if m.get F.timReelStat_STATE != 0 && m.get F.timReelStat_SRC = k && info.disciplined then
        (m.reelShow info.serial info.rootPos (info.hops + 1)).reelCell ((t3 - m.reel) * 1000 + m.get (F.pnxDelay_DELAY_PS n))
      else m

/-! ## Low power and loopback (R306, R307) -/

/-- Lane `n` is held in L2 (R306): by FORCE_L2, or a fabric lane by the second shedding stage. -/
def Mach.laneHeld (m : Mach) (n : Nat) : Bool := m.on (F.pnxCtl_FORCE_L2 n) || (12 ≤ n && 2 ≤ m.get F.pwrStat_STAGE)

/-- Lane `n` goes to L2, or is woken from it, as its causes say (R306). -/
def Mach.laneHold (m : Mach) (n : Nat) : Mach :=
  if m.laneState n != 2 then m
  else if m.laneHeld n then m.set (F.pnxStat_PWR n) 2
  else if m.get (F.pnxStat_PWR n) = 2 then m.modLane n fun l => { l with wakeAt := some m.now } else m

/-- Nothing of the lane's own to send for IDLE_US (R306). -/
def Mach.laneIdle (m : Mach) (n : Nat) : Bool := decide ((m.lane n).idleAt + m.get F.pnxCfg_IDLE_US * 1000 ≤ m.now)

/-- L1_ENTRY (R306): never the link's lowest-numbered ACTIVE lane. -/
def l1Entry (n : Nat) (m : Mach) : Mach :=
  if m.laneState n = 2 && m.on (F.pnxCtl_L1_EN n) && m.get (F.pnxStat_PWR n) = 0 && m.laneIdle n
      && (m.activeLanes (laneLink n)).head? != some n then m.set (F.pnxStat_PWR n) 1
  else m

/-- LANE_WAKE (R306): the exit from L1 or L2 completes. -/
def laneWake (n : Nat) (m : Mach) : Mach :=
  if m.laneState n = 2 && m.get (F.pnxStat_PWR n) != 0 && (m.lane n).wakeAt.isSome then
    (m.set (F.pnxStat_PWR n) 0).modLane n fun l => { l with wakeAt := none, idleAt := m.now }
  else m

/-- L2_RETURN (R306): a held lane that was woken has been idle for IDLE_US. -/
def l2Return (n : Nat) (m : Mach) : Mach :=
  if m.laneState n = 2 && m.laneHeld n && m.get (F.pnxStat_PWR n) = 0 && m.laneIdle n then m.set (F.pnxStat_PWR n) 2 else m

/-- PRBS_CHECKER (R307): `bits` come back to a lane in loopback, newest last. A checker that has synchronised counts those that
differ from its pattern; `sync` says whether it is synchronised after them, by a test the spec leaves open; it then goes on from the
newest bits received. With PATTERN 0x2, whose cells the spec does not lay out, the count is open (log entry 148). -/
def prbsChecker (n : Nat) (sync : Bool) (bits : List Bool) (m : Mach) : Mach :=
  if m.laneState n = 3 then
    let pat := m.get (F.pnxCtl_PATTERN n)
    let was := m.on (F.pnxPrbs_SYNC n)
    let (f, m) := m.free
    let r := prbsCheck pat bits (m.lane n).chk
    let m := m.cond was (·.bump (F.pnxPrbs_ERRORS n) (if pat < 2 then r.1 else f.toNat % (bits.length + 1)))
    (m.modLane n fun l =>
      { l with chk := if was then r.2 else (bits.reverse ++ l.chk).take 31,
               gen := bits.foldl (fun g _ => (prbsNext pat g :: g).take 31) l.gen }).setb (F.pnxPrbs_SYNC n) sync
  else m

end Sys2Proof.Machine
end

