-- ==== Sys2Proof/Machine/Trc.lean ====
section
/-!
DEFINITION. The record ring, checkpoints, freezing, export and replay (R342 to R358).
-/

namespace Sys2Proof.Machine

/-! ## The ring (R343, R344) -/

/-- The ring's first address and its size in bytes. -/
def Mach.ringBase (m : Mach) : Nat := m.get F.trcRecRing_BASE * 0x100000
def Mach.ringSize (m : Mach) : Nat := m.recRingMb * 0x100000

/-- A record's bytes (R344). -/
def Rec.raw (r : Rec) : List Byte :=
  let w0 := r.typ % 256 * 2 ^ 56 + r.job % 64 * 2 ^ 50 + r.unit % 1024 * 2 ^ 40 + r.obs.toNat * 2 ^ 32 + r.body.length % 2 ^ 32
  leBytes 8 w0 ++ leBytes 8 (r.reel % 2 ^ 64).toNat ++ r.body ++ List.replicate ((16 - r.body.length % 16) % 16) 0

/-- TRC's own accesses (R343): R33 gives it no agent, so that they carry an assigned ID that the spec does not state, and it acts
for no job (log entry 67). -/
def trcAcc : Acc := { agent := unitAgent 0x1A 0 }

/-- Bytes go to the ring where it stands, and BYTES counts them. -/
def Fx.ringPut (x : Fx) (b : List Byte) : Fx :=
  let n := x.m.get F.trcRecWptr_BYTES
  let (ok, x) := x.write trcAcc (x.m.ringBase + n % x.m.ringSize) b
  x.mach fun m => (m.cond (!ok) (·.emit 0x1A 0x04 0 [])).set F.trcRecWptr_BYTES (n + b.length)

/-- One record is written; a PAD record first where it would cross the end of the ring (R344). -/
def Fx.ringRec (x : Fx) (r : Rec) : Fx :=
  let n := x.m.get F.trcRecWptr_BYTES % x.m.ringSize
  let x := if x.m.ringSize < n + r.bytes then
      x.ringPut ({ typ := 0x0E, job := 0x3F, unit := 0, obs := false, reel := x.m.reel,
                   body := List.replicate (x.m.ringSize - n - 16) 0 } : Rec).raw else x
  let at_ := x.m.get F.trcRecWptr_BYTES
  let x := x.ringPut r.raw
  x.mach fun m =>
    let held := ((if r.typ = 0x01 then m.recCkpts ++ [at_] else m.recCkpts).filter fun p =>
      decide (m.get F.trcRecWptr_BYTES ≤ p + m.ringSize))
    { m.set F.trcRecCkpt_OLDEST (held.headD 0 % m.ringSize) with recCkpts := held }

/-- Records in order of REEL, then type (R343). -/
def insertRec (r : Rec) : List Rec → List Rec
  | [] => [r]
  | y :: t => if r.reel < y.reel || (r.reel = y.reel && r.typ < y.typ) then r :: y :: t else y :: insertRec r t

/-- The buffer goes to DRAM (R343; log entry 68): when time passes, as long as MEM admits the access (R375). -/
def Fx.recDrain (x : Fx) : Fx :=
  if x.m.recBuf.isEmpty || x.m.ringSize = 0 || x.m.stalls x.m.ringBase then x
  else
    let rs := x.m.recBuf.foldl (fun l r => insertRec r l) []
    rs.foldl (fun x r => x.ringRec r) (x.mach fun m => { m with recBuf := [] })

/-! ## Checkpoints (R347; the layout of the sections is log entry 69) -/

def w8 (n : Nat) : List Byte := leBytes 8 n
def w8i (v : Int) : List Byte := leBytes 8 (v % 2 ^ 64).toNat

/-- `b` padded with zeros to `n` bytes. -/
def padTo (n : Nat) (b : List Byte) : List Byte := b.take n ++ List.replicate (n - b.length) 0

def Mach.ckJob (m : Mach) (j : Nat) : List Byte :=
  padTo 64 (w8 j ++ w8 (m.get (F.schJobCtl_RECIPE j)) ++ w8 (m.get (F.trcJobStep_STEP j)) ++ w8 (m.get (F.trcJobSeed0_SEED j))
    ++ w8 (m.get (F.trcJobSeed1_SEED j)))

def Mach.ckPort (m : Mach) (p : Nat) : List Byte :=
  padTo 64 (w8 p ++ w8 ((m.grsPort p).lines) ++ w8 (m.get (F.grsStatus_BLOCK p))
    ++ w8 ((m.on (F.grsStatus_INBLOCK p)).toNat + 256 * m.get (F.trcRecPort_MODE p)) ++ w8 (m.get (F.grsStatus_LINE p))
    ++ w8i (m.grsPort p).target ++ w8 (m.grsPort p).trigQ.length)

def Mach.ckAxis (m : Mach) (a : Nat) : List Byte :=
  let k := m.trk a
  padTo 64 (w8 a ++ w8i k.p ++ w8i k.te ++ w8 k.period
    ++ w8 (k.still.toNat + 2 * k.back.toNat + 4 * (m.on (F.posStat_REVOK a)).toNat) ++ w8 (m.posAx a).index ++ w8 (m.cmpAx a).seq)

def Mach.ckCx (m : Mach) (c : Nat) : List Byte :=
  padTo 4160 (w8 c ++ w8 (m.cx c).active.seq ++ (commitBody c 0 (m.cx c).active).drop 8)

def Mach.ckEnt (m : Mach) (e : Nat) : List Byte :=
  let h := m.hopEnt e
  let side (s : HopSide) : Nat := match s.detach with
    | some (st, l) => 2 ^ 63 + (st + m.stepBase (m.hopJob e)) % 2 ^ 48 * 16 + l % 16
    | none => 0
  w8 (e + 65536 * m.hopState e) ++ w8 (side h.left) ++ w8 (side h.right) ++ w8 (m.get (F.hopEntStat_END_ROW e))

def Mach.ckInW (m : Mach) (i : Nat) : List Byte := w8 i ++ w8 (m.levelW i).toNat
def Mach.ckInC (m : Mach) (i : Nat) : List Byte :=
  leBytes 4 (32 + i) ++ leBytes 4 (m.get (F.fioIcCount_COUNT i)) ++ leBytes 4 (m.get (F.fioIcFreq_EDGES i))
    ++ leBytes 4 (m.get (F.fioIcFreq_FREQ i))

def Mach.ckJobs (m : Mach) : List Nat := (List.range 64).filter fun j => m.jobState j = 2
def Mach.ckPorts (m : Mach) : List Nat := (List.range 16).filter fun p => m.get (F.trcRecPort_MODE p) != 0
def Mach.ckAxes (m : Mach) : List Nat := (List.range 8).filter fun a => m.posRuns a
def Mach.ckCxs (m : Mach) : List Nat := (m.ckPorts.flatMap m.portCtx).eraseDups
def Mach.ckEnts (m : Mach) : List Nat := (m.hop.filter fun y => y.2.live).map (·.1)
def Mach.ckWs (m : Mach) : List Nat := (List.range 32).filter fun i => m.on (F.fioIwCfg_REC i)
def Mach.ckCs (m : Mach) : List Nat := (List.range 32).filter fun i => m.on (F.fioIcCfg_REC i)

/-- A checkpoint's body (R347). -/
def Mach.ckBody (m : Mach) : List Byte :=
  let counts := [m.ckJobs.length, m.ckPorts.length, m.ckAxes.length, m.ckCxs.length, m.ckEnts.length,
    m.ckWs.length + m.ckCs.length]
  padTo 64 (w8 m.digestNat ++ w8 Config.idSerial.toNat ++ w8 m.ckptN
      ++ leBytes 4 (m.get F.idPart_ARITH_REV) ++ leBytes 2 m.chainPos ++ leBytes 2 (m.get F.tngStat_STATE) ++ counts.flatMap (leBytes 4 ·))
    ++ m.ckJobs.flatMap m.ckJob ++ m.ckPorts.flatMap m.ckPort ++ m.ckAxes.flatMap m.ckAxis ++ m.ckCxs.flatMap m.ckCx
    ++ m.ckEnts.flatMap m.ckEnt ++ m.ckWs.flatMap m.ckInW ++ m.ckCs.flatMap m.ckInC

/-- TRC takes a checkpoint (R347). -/
def Mach.takeCkpt (m : Mach) : Mach :=
  let m := { m with ckptAt := m.now, ckptN := m.ckptN + 1 }
  (m.bump F.trcRecCnt_CKPTS).record ⟨0x01, 0x3F, 0, false, m.reel, m.ckBody⟩

/-- CHECKPOINT (R347): CKPT_MS, 10 at least, after the last. -/
def checkpoint (m : Mach) : Mach :=
  if m.recording && decide (m.ckptAt + max 10 (m.get F.trcRecCtl_CKPT_MS) * 1000000 ≤ m.now) then m.takeCkpt else m

/-! ## Enabling, gaps, freezing -/

/-- TRC_REC_CTL.EN changes (R343, R348): recording begins at offset 0 with a checkpoint, or stops. -/
def Mach.recEnable (m : Mach) (on' : Bool) : Mach :=
  if on' then
    let m := ((m.setb F.trcRecCtl_EN true).setb F.trcRecCtl_FROZEN false).setb F.trcRecCtl_FREEZE false
    let m := (m.set F.trcRecWptr_BYTES 0).set F.trcRecCkpt_OLDEST 0
    let m := { m with recBuf := [], recDropped := 0, recFirst := 0, recFreeze := none, recCkpts := [], ckptN := 0 }
    m.cond m.recording (·.takeCkpt)
  else { m.setb F.trcRecCtl_EN false with recFreeze := none }

/-- REC_GAP (R343): the buffer of a recording TRC has room for the GAP record of the dropped ones. -/
def recGap (m : Mach) : Mach :=
  if m.recording && m.recDropped != 0 && (m.recBuf.foldl (fun a x => a + x.bytes) 0) + 32 ≤ 0x800000 then
    let n := m.recDropped
    let first := m.recFirst
    let m := { m with recDropped := 0, recFirst := 0 }
    ((m.bump F.trcRecCnt_GAPS).record ⟨0x0D, 0x3F, 0, false, m.reel, w8 n ++ w8i first⟩).emit 0x1A 0x40 0
      [(32, (n : Int)), (32, first)]
  else m

/-- Recording stops and the ring keeps its contents (R348). -/
def Fx.freezeNow (x : Fx) (cause : Nat) : Fx :=
  if x.m.on F.trcRecCtl_EN && !x.m.on F.trcRecCtl_FROZEN then
    x.recDrain.mach fun m =>
      { (m.setb F.trcRecCtl_FROZEN true).emit 0x1A 0x41 0 [(32, (cause : Int))] with recFreeze := none, recBuf := [] }
  else x

/-- FREEZE (R348): a write of TRC_REC_CTL.FREEZE = 1. -/
def freezeFx (x : Fx) : Fx := (x.mach (·.setb F.trcRecCtl_FREEZE true)).freezeNow 0

/-- REC_FROZEN (R348): POST_MS after a trigger. -/
def recFrozenFx (x : Fx) : Fx :=
  match x.m.recFreeze with
  | some (t, cause) => if t ≤ x.m.now then x.freezeNow cause else x
  | none => x

/-! ## Reading the ring -/

/-- The record at ring offset `o`: its type, job, unit, body and REEL; none where the ring cannot be read. -/
def Fx.ringRead (x : Fx) (o : Nat) : Option Rec × Fx :=
  let (h, x) := x.read trcAcc (x.m.ringBase + o) 16
  match h with
  | none => (none, x.mach (·.emit 0x1A 0x04 0 []))
  | some h =>
    let w0 := ofLe (h.take 8)
    let len := min (w0 % 2 ^ 32) (x.m.ringSize - o - 16)
    let (b, x) := if len = 0 then (some [], x) else x.read trcAcc (x.m.ringBase + o + 16) len
    let x := if b.isNone then x.mach (·.emit 0x1A 0x04 0 []) else x
    (b.map fun b => { typ := w0 / 2 ^ 56, job := w0 / 2 ^ 50 % 64, unit := w0 / 2 ^ 40 % 1024, obs := w0.testBit 32,
                      reel := wrapI 64 (ofLe (h.drop 8)), body := b }, x)

/-- The offset of the record after one at `o` of `n` bytes. -/
def Mach.ringNext (m : Mach) (o n : Nat) : Nat := if o + n < m.ringSize then o + n else 0

/-- A number in a record's body. -/
def Rec.num (r : Rec) (at_ n : Nat) : Nat := ofLe ((r.body.drop at_).take n)

/-- The sections of a checkpoint (R347): section `i` of kind `k`, as the offset of its first byte. -/
def Rec.section (r : Rec) (k i : Nat) : Nat :=
  let c (n : Nat) : Nat := r.num (32 + 4 * n) 4
  match k with
  | 0 => 64 + 64 * i
  | 1 => 64 + 64 * c 0 + 64 * i
  | 2 => 64 + 64 * (c 0 + c 1) + 64 * i
  | 3 => 64 + 64 * (c 0 + c 1 + c 2) + 4160 * i
  | 4 => 64 + 64 * (c 0 + c 1 + c 2) + 4160 * c 3 + 32 * i
  | _ => 64 + 64 * (c 0 + c 1 + c 2) + 4160 * c 3 + 32 * c 4 + 16 * i

/-- The offsets of the sections of kind `k`. -/
def Rec.sections (r : Rec) (k : Nat) : List Nat := (List.range (r.num (32 + 4 * k) 4)).map (r.section k)

/-- The section of kind `k` whose first number is `id`. -/
def Rec.find (r : Rec) (k id : Nat) : Option Nat := (r.sections k).find? fun o => r.num o 8 = id

/-! ## Export (R349) -/

def Mach.mayExport (m : Mach) (j : Nat) : Bool := (m.rd R.trcRecPerm).getLsbD j

/-- A record may leave (R349). -/
def Mach.exportable (m : Mach) (r : Rec) : Bool :=
  if r.typ = 0x02 then (m.portCtx r.unit).all fun c => m.mayExport (m.cxOwner c)
  else r.job = 0x3F || m.mayExport r.job

/-- A checkpoint without the sections of jobs that have no permission: its bytes, and how many sections are left out. -/
def Mach.ckExport (m : Mach) (r : Rec) : List Byte × Nat :=
  let keep (k o : Nat) : Bool := match k with
    | 0 => m.mayExport (r.num o 8)
    | 1 => (m.portJobs (r.num o 8)).all m.mayExport
    | 3 => m.mayExport (m.cxOwner (r.num o 8))
    | 4 => m.mayExport (m.hopJob (r.num o 8 % 65536))
    | _ => true
  let size (k : Nat) : Nat := match k with | 3 => 4160 | 4 => 32 | 5 => 16 | _ => 64
  let kept := (List.range 6).map fun k => (r.sections k).filter (keep k)
  let counts := kept.flatMap fun l => leBytes 4 l.length
  let body := (r.body.take 32 ++ counts ++ (r.body.drop 56).take 8)
    ++ (List.range 6).flatMap fun k => (kept.getD k []).flatMap fun o => (r.body.drop o).take (size k)
  let all := (List.range 6).foldl (fun a k => a + (r.sections k).length) 0
  (({ r with body } : Rec).raw, all - kept.foldl (fun a l => a + l.length) 0)

/-- The bytes of a range of the ring as exported, the records omitted, and the run of omitted ones in progress. -/
def Fx.exportWalk : Nat → Nat → Nat → Nat → Nat → List Byte → Fx → List Byte × Nat × Fx
  | 0, _, _, run, omitted, out, x => (out ++ gap run x.m.reel, omitted, x)
  | n + 1, o, left, run, omitted, out, x =>
    if left = 0 then (out ++ gap run x.m.reel, omitted, x)
    else
      let (r, x) := x.ringRead o
      match r with
      | none => (out ++ gap run x.m.reel, omitted, x)
      | some r =>
        let left := left - min left r.bytes
        let next := x.m.ringNext o r.bytes
        if r.typ = 0x01 then
          let (b, k) := x.m.ckExport r
          let k' := k.min 1
          Fx.exportWalk n next left 0 (omitted + k) (out ++ gap run x.m.reel ++ b ++ gap k' x.m.reel) x
        else if x.m.exportable r then Fx.exportWalk n next left 0 omitted (out ++ gap run x.m.reel ++ r.raw) x
        else Fx.exportWalk n next left (run + 1) (omitted + 1) out x
where
  /-- The GAP record that takes the place of a run of omitted records. -/
  gap (n : Nat) (reel : Int) : List Byte :=
    if n = 0 then [] else ({ typ := 0x0D, job := 0x3F, unit := 0, obs := false, reel, body := w8 n ++ w8i reel } : Rec).raw

/-- EXPORT (R349): a write of TRC_EXPORT_CTL; GO is ignored unless FROZEN, or while an export is in progress. -/
def exportCmd (val : Word) (m : Mach) : Mach :=
  let m := (m.set F.trcExportCtl_LEN (val.extractLsb' 36 26).toNat).set F.trcExportCtl_FROM (val.extractLsb' 0 36).toNat
  m.cond (val.getLsbD 63 && m.on F.trcRecCtl_FROZEN) (·.setb F.trcExportCtl_BUSY true)

/-- EXPORT_DONE (R349, R436): the range has been written to the host, and EXPORT_VEC is raised. -/
def exportDoneFx (x : Fx) : Fx :=
  if !x.m.on F.trcExportCtl_BUSY then x
  else
    let len := x.m.get F.trcExportCtl_LEN * 1024
    let from' := x.m.get F.trcExportCtl_FROM / 16 * 16
    let (out, omitted, x) := if x.m.ringSize = 0 then ([], 0, x)
      else Fx.exportWalk (len / 16) (from' % x.m.ringSize) len 0 0 [] x
    x.mach fun m =>
      let m := { m.setb F.trcExportCtl_BUSY false with hostOut := out, pcieOut := some (m.get F.trcExportAddr_ADDR, out) }
      let m := (m.emit 0x1A 0x44 0 [(64, (out.length : Int))]).msixRaise (m.get F.mgtIrq_EXPORT_VEC)
      m.cond (omitted != 0) (·.emit 0x1A 0x45 0 [(32, (omitted : Int))])

/-! ## Replay (R350 to R356) -/

/-- The checkpoint that TRC_RPL_FROM names; none when it is not one. -/
def Fx.rplCkpt (x : Fx) : Option Rec × Fx :=
  let o := x.m.get F.trcRplFrom_OFF
  if x.m.ringSize = 0 || o % 16 ≠ 0 || x.m.ringSize ≤ o then (none, x)
  else
    let (r, x) := x.ringRead o
    match r with
    | some r => (if r.typ = 0x01 && 64 ≤ r.body.length then some r else none, x)
    | none => (none, x)

/-- The ports of a job (R213). -/
def Mach.portsOf (m : Mach) (j : Nat) : List Nat := ((m.jobUnits j).filter (·.1 = 1)).map (·.2)

/-- TRC rejects the ring (R350). -/
def Fx.trcBad (x : Fx) (scope : Nat) : Bool × Fx :=
  let (r, x) := x.rplCkpt
  match r with
  | none => (true, x)
  | some r =>
    let m := x.m
    let badPort (p : Nat) : Bool := match r.find 1 p with
      | some o => r.num (o + 24) 8 / 256 ≠ 1
      | none => true
    (r.num 0 8 ≠ m.digestNat || r.num 24 4 ≠ m.get F.idPart_ARITH_REV || !m.on F.trcRecCtl_FROZEN
      || (m.scopeJobs scope).any fun j => (r.find 0 j).isNone || (m.portsOf j).any badPort, x)

/-- B_j (R351): the greatest of ceil(n_p / 64) over the job's ports. -/
def Mach.replayBase (m : Mach) (r : Rec) (j : Nat) : Nat :=
  (m.portsOf j).foldl (fun a p => match r.find 1 p with | some o => max a ((r.num (o + 8) 8 + 63) / 64) | none => a) 0

/-- A slot's generation by R347, for the sequence counter `seq`. -/
def slotGen (seq slot : Nat) : Nat :=
  let q : Int := (seq : Int) - ((seq : Int) - slot) % 4096
  (((q - 1).fdiv 4096 + 1) % 256).toNat

/-- The inputs with REC = 1 start REPLAY from the checkpoint's Input sections (R347, R353). -/
def Mach.replayInputs (m : Mach) (r : Rec) : Mach :=
  (r.sections 5).foldl (fun m o =>
    let i := r.num o 4
    if i < 32 then m.modInW i fun c => { c with told := r.num (o + 8) 1 % 2 = 1 }
    else
      let i := (i - 32) % 32
      ((m.set (F.fioIcCount_COUNT i) (r.num (o + 4) 4)).set (F.fioIcFreq_EDGES i) (r.num (o + 8) 4)).set (F.fioIcFreq_FREQ i)
        (r.num (o + 12) 4)) m

/-- A REPLAY restart loads SEQ and the generations of the axes, the ports' blocks, and the recorded inputs (R352, R353). -/
def Mach.replayLoad (m : Mach) (r : Rec) : Mach :=
  let m := m.replayInputs r
  let bound (a : Nat) : Bool := (List.range 16).any fun p => m.get (F.cmpPort_AXIS p) = a && !(m.portJobs p).isEmpty
  let m := ((r.sections 2).filter fun o => bound (r.num o 8 % 8)).foldl (fun m o =>
    let a := r.num o 8 % 8
    let seq := r.num (o + 48) 8 % 2 ^ 24
    m.modCmp a fun c =>
      { c with seq, gens := (List.range 4096).filterMap fun s => if slotGen seq s = 0 then none else some (s, slotGen seq s) }) m
  (r.sections 1).foldl (fun m o =>
    let p := r.num o 8 % 16
    let inb := r.num (o + 24) 8 % 2 = 1
    let blk := r.num (o + 16) 8
    let m := ((m.set (F.grsStatus_BLOCK p) blk).setb (F.grsStatus_INBLOCK p) inb).set (F.grsStatus_LINE p) (r.num (o + 32) 8)
    let m := { m with rplPre := if inb then (p, blk % 2 ^ 32) :: m.rplPre else m.rplPre }
    m.modGrs p fun g => { g with lines := r.num (o + 8) 8 }) m

/-- The CHOICE records of the ring from offset `o` to `hi`, which TRC can read ahead (R353; log entry 138); the first number bounds the records. -/
def Mach.choicesTo (m : Mach) (v : View) (hi : Nat) : Nat → Nat → List (Nat × Nat × Nat)
  | 0, _ => []
  | n + 1, o =>
    let num (a k : Nat) : Nat := ofLe ((List.range k).map fun i => v.byte (m.ringBase + o + a + i))
    let w0 := num 0 8
    if o = hi then []
    else
      let here := if w0 / 2 ^ 56 = 0x09 then [(w0 / 2 ^ 40 % 1024, num 16 4, num 20 4)] else []
      here ++ m.choicesTo v hi n (m.ringNext o (16 + (w0 % 2 ^ 32 + 15) / 16 * 16))

/-- Replay begins at T_R = `tick` (R351): OFFSET, and delivery from the checkpoint on. -/
def Mach.replayStart (m : Mach) (v : View) (r : Rec) (tick : Int) : Mach :=
  let m := { m with rplChoices := m.choicesTo v (m.get F.trcRplTo_OFF) (m.ringSize / 16) (m.get F.trcRplFrom_OFF) }
  let m := { m with rplPos := m.get F.trcRplFrom_OFF, rplOff := tick - r.reel, rplExp := [], rplCov := [], rplPre := [],
                    rplSeen := [], rplRec := [] }
  ((m.set F.trcRplStat_STATE 1).setb F.trcRplDiv_VALID false).replayLoad r

/-- RESTART_TICK (R213, R351): with MODE = REPLAY the lead takes B_j from the checkpoint; a follower's are open (log entry 70). -/
def restartTickAllFx (x : Fx) : Fx :=
  match x.m.restart with
  | some r =>
    if r.mode = 1 && r.go = some true && !r.started && decide (r.tick ≤ x.m.reel) then
      if x.m.follower || x.m.tngIs 6 then
        let (f, m) := x.m.free
        restartTickFx ((List.range 64).map fun j => (j, (f.extractLsb' 0 16).toNat)) { x with m }
      else
        let (c, x) := x.rplCkpt
        match c with
        | some c => (restartTickFx ((List.range 64).map fun j => (j, x.m.replayBase c j)) x).withView fun v m => m.replayStart v c r.tick
        | none => restartTickFx [] x
    else restartTickFx [] x
  | none => x

/-- RESTART_ARM with TRC's check of the ring (R212, R350). -/
def restartArmFx (val : Word) (x : Fx) : Fx :=
  let (bad, x) := if val.getLsbD 0 && (val.extractLsb' 1 2).toNat = 1 then x.trcBad (2 ^ 64 - 1) else (false, x)
  x.mach (restartArm val bad)

/-- RESTART_REQUEST with TRC's check of the ring (R213, R350). -/
def restartRequestFx (id : Nat) (tick : Int) (scope : Word) (mode origin : Nat) (recipes : List (Nat × Nat)) (x : Fx) : Fx :=
  let (bad, x) := if mode = 1 && !x.m.follower then x.trcBad scope.toNat else (false, x)
  x.mach (restartRequest id tick scope mode origin recipes bad)

/-- `n` values of `d` bits from packed bytes, LSB first (R41). -/
def unpackPixels (d n : Nat) (b : List Byte) : List Nat :=
  let v := ofLe b
  (List.range n).map fun i => v / 2 ^ (d * i) % 2 ^ d

/-- A replayed line of port `p` (R351, R352, R354): before line 64 B_j the port only follows blocks. -/
def Mach.replayLine (m : Mach) (p : Nat) (t : Tag) (exps : List (List Nat)) : Mach :=
  let j := (m.portJobs p).headD 0
  let base := (m.jrt j).base
  let n := (m.grsPort p).lines
  if n < 64 * base then
    let m := (m.set (F.grsStatus_BLOCK p) t.block).setb (F.grsStatus_INBLOCK p) (t.inblock && !t.last)
    let m := m.set (F.grsStatus_LINE p) (if t.inblock && !t.last then min (t.line + 1) 0xFFFF else 0)
    let m := m.modGrs p fun g => { g with lines := g.lines + (if exps.isEmpty then 0 else 1), firstTag := if t.first then t else g.firstTag }
    if t.inblock && t.last then
      let a := m.get (F.cmpPort_AXIS p)
      let m := { m with rplPre := m.rplPre.filter fun x => x ≠ (p, t.block) }
      if m.on (F.cmpPort_EN p) && m.get (F.cmpCtl_STATE a) = 1 then
        let (tag, m) := m.openSlot a p t.block (m.get (F.cmpPort_JOB p)) (m.grsPort p).firstTag.pos t.pos
        (m.modCmp a fun c => { c with slots := c.slots.filter fun s => s.tag ≠ tag }).cmpShow a
      else m
    else if t.inblock && !m.rplPre.contains (p, t.block) then { m with rplPre := (p, t.block) :: m.rplPre }
    else m
  else
    let t := { t with drop := t.drop || m.rplPre.contains (p, t.block) }
    let m := if t.inblock && t.first && m.covered j (n / 64) then { m with rplCov := (p, t.block) :: m.rplCov } else m
    let w := t.words
    m.toldLine p { tag0 := w.getD 0 0, tag1 := w.getD 1 0, tag2 := w.getD 2 0, tag3 := w.getD 3 0, exps, marker := exps.isEmpty }

/-- A LINE record (R342): the exposures of a line come one record each. -/
def Mach.replayExp (m : Mach) (r : Rec) : Mach :=
  let p := r.unit % 16
  let wd (i : Nat) : Word := BitVec.ofNat 64 (r.num (8 * i) 8)
  let t := Tag.ofWords (wd 0) (wd 1) (wd 2) (wd 3)
  let t := { t with reel := t.reel + m.rplOff }
  if r.body.length ≤ 32 then m.replayLine p t []
  else
    let pix := unpackPixels (depthBits (m.get (F.grsFmt_DEPTH p))) (m.get (F.grsFmt_WIDTH p)) (r.body.drop 32)
    let exps := ((m.rplExp.find? (·.1 = p)).map (·.2)).getD [] ++ [pix]
    let rest := m.rplExp.filter (·.1 ≠ p)
    if exps.length < m.get (F.grsFmt_NEXP p) + 1 then { m with rplExp := (p, exps) :: rest }
    else
      let w3 := (wd 3).toNat - 8 * (exps.length - 1)
      let t3 := Tag.ofWords (wd 0) (wd 1) (wd 2) (BitVec.ofNat 64 w3)
      { m with rplExp := rest }.replayLine p { t3 with reel := t.reel } exps

/-- A COMMIT record (R342, R353): the set becomes active at the recorded block. -/
def Mach.replayCommit (m : Mach) (r : Rec) : Mach :=
  let c := r.num 0 4 % 32
  let n := shadowOffs.length
  let regs := (List.range n).map fun i => (shadowOffs.getD i 0, BitVec.ofNat 64 (r.num (8 + 8 * i) 8))
  let tone := (List.range 4).foldl (fun l ch => (List.range 481).foldl (fun l k =>
    spPut toneReset l (ch * 512 + k) (r.num (8 + 8 * n + 2 * (481 * ch + k)) 2)) l) []
  let seq := (m.get (cxf F.mshCxTook_SEQ c) + 1) % 2 ^ 16
  let m := (m.modCx c fun y => { y with active := { regs, tone, seq } }).set (cxf F.mshCxTook_SEQ c) seq
  (m.set (cxf F.mshCxTook_BLOCK c) (r.num 4 4)).emit 0x02 0x10 (m.cxInst c) [(5, (c : Int)), (32, (r.num 4 4 : Int))]

/-- A CONTROL record (R353): a restart with its recipes and seeds, or a job's stop. -/
def Fx.replayControl (x : Fx) (r : Rec) : Fx :=
  if r.num 0 4 = 1 then jobStopFx (r.num 4 4 % 64) x
  else
    let scope := r.num 16 8
    let n := (r.body.length - 24) / 24
    let x := (List.range n).foldl (fun x i =>
      let o := 24 + 24 * i
      let j := r.num o 4 % 64
      x.mach fun m =>
        let m := (m.set (F.schJobCtl_RECIPE j) (r.num (o + 4) 4)).modJob j fun y => { y with recipe := r.num (o + 4) 4 }
        (m.set (F.trcJobSeed0_SEED j) (r.num (o + 8) 8)).set (F.trcJobSeed1_SEED j) (r.num (o + 16) 8)) x
    x.goAhead scope 1 ((x.m.scopeUnits scope).filter x.m.takesPart) [] x.m.reel

/-- A record reaches its unit (R351, R353, R355). -/
def Fx.replayOne (x : Fx) (r : Rec) : Fx :=
  match r.typ with
  | 0x02 => x.mach (·.replayExp r)
  | 0x03 =>
    let e := edgeOfBytes r.body
    x.mach fun m => m.toldRec { e with reel := e.reel + m.rplOff }
  | 0x04 =>
    let c := 32 ≤ r.unit
    x.mach (·.toldInput c (r.unit % 32) (BitVec.ofNat 64 (r.num 0 8)) (BitVec.ofNat 64 (r.num 8 8)))
  | 0x05 => x.replayControl r
  | 0x06 => x.mach (·.replayCommit r)
  | 0x07 =>
    let w (i : Nat) : Word := BitVec.ofNat 64 (r.num (8 * i) 8)
    x.haloArrive (w 0) (w 1) (w 2) (r.body.drop 64)
  | 0x08 =>
    let e := r.num 0 4 % 1024
    x.detachAt e (r.num 4 4 = 1) (r.num 8 8 - x.m.stepBase (x.m.hopJob e)) (r.num 16 8)
  | 0x09 => x.mach (·.applyChoice r.unit (r.num 0 4) (r.num 4 4))
  | 0x0A => x.mach (·.toldOverflow (r.num 0 4 % 16) (r.num 4 4) (r.num 8 4) (r.num 12 4))
  | 0x0B =>
    let e := r.num 0 8
    let step := r.num 8 8
    x.mach fun m => m.cond (m.covered r.job step) (·.recorded 1 e (step * 1024 + e) (r.num 16 8) 0)
  | 0x0C =>
    let w0 := r.num 0 8
    x.mach fun m => m.cond (m.rplCov.contains (r.unit, r.num 8 8 / 2 ^ 32)) (·.recorded 2 0 (w0 / 2 ^ 32) w0 (r.num 8 8))
  | _ => x

/-- REPLAY_RECORD (R351): the next record is delivered when Reel reaches its REEL + OFFSET; PAD and CHECKPOINT records are passed
by. -/
def replayRecordFx (x : Fx) : Fx :=
  if x.m.get F.trcRplStat_STATE ≠ 1 || x.m.rplPos = x.m.get F.trcRplTo_OFF then x
  else
    let (r, x) := x.ringRead x.m.rplPos
    match r with
    | none => x
    | some r =>
      if r.typ = 0x0D then x
      else if r.typ != 0x0E && decide (x.m.reel < r.reel + x.m.rplOff) then x
      else
        let x := x.mach fun m => { m with rplPos := m.ringNext m.rplPos r.bytes }
        x.replayOne r

/-- REPLAY_DONE (R355, R356): TO is reached, or a GAP; recorded items without a counterpart are mismatches with cause 4. -/
def replayDoneFx (x : Fx) : Fx :=
  if x.m.get F.trcRplStat_STATE ≠ 1 then x
  else
    let at_ := x.m.rplPos = x.m.get F.trcRplTo_OFF
    let (r, x) := x.ringRead x.m.rplPos
    let gap : Bool := match r with | some r => r.typ = 0x0D | none => false
    if !at_ && !gap then x
    else
      let x := x.mach fun m =>
        let m := m.rplRec.foldl (fun m y =>
          let k := y.1 / 2
          m.diverged 4 (if y.1 % 2 = 0 then k % 1024 else 0) (if y.1 % 2 = 0 then k / 1024 else k)) m
        let m := { m with rplRec := [], rplSeen := [], rplChoices := [] }.mainsGo
        (m.set F.trcRplStat_STATE (if at_ then 2 else 3)).emit 0x1A 0x42 0 [(32, if at_ then 0 else 1)]
      (List.range 16).foldl (fun x p => if x.m.get (F.grsStatus_STATE p) = 0 then x else (x.mach (·.grsStopped p)).hopPort p) x

end Sys2Proof.Machine
end

