-- ==== Sys2Proof/Machine/Nvm.lean ====
section
/-!
DEFINITION. The NVM (R403): its bytes, CRC-32C, the boot table (R467), the event log ring (R464, R465), and the cellar (R402).
-/

namespace Sys2Proof.Machine

/-! ## Bytes -/

/-- What an erased byte reads as. -/
def nvmDflt : Nat → Byte := fun _ => 0xFF

def Mach.nvmByte (m : Mach) (a : Nat) : Byte := spGet nvmDflt m.nvm a

def Mach.nvmBytes (m : Mach) (a n : Nat) : List Byte := (List.range n).map fun i => m.nvmByte (a + i)

def nvmStore : List (Nat × Byte) → Nat → List Byte → List (Nat × Byte)
  | l, _, [] => l
  | l, a, b :: t => nvmStore (spPut nvmDflt l a b) (a + 1) t

/-- Bytes programmed from `a` on. -/
def Mach.nvmPut (m : Mach) (a : Nat) (b : List Byte) : Mach := { m with nvm := nvmStore m.nvm a b }

/-- The bytes from `lo` to `hi - 1` are erased. -/
def Mach.nvmErase (m : Mach) (lo hi : Nat) : Mach := { m with nvm := m.nvm.filter fun c => !(lo ≤ c.1 && c.1 < hi) }

/-- A range that is not erased throughout. -/
def Mach.nvmUsed (m : Mach) (lo hi : Nat) : Bool := m.nvm.any fun c => lo ≤ c.1 && c.1 < hi

/-- The programmed bytes of a range, by offset. -/
def Mach.nvmPart (m : Mach) (lo hi : Nat) : List (Nat × Byte) :=
  (m.nvm.filter fun c => lo ≤ c.1 && c.1 < hi).map fun (c : Nat × Byte) => (c.1 - lo, c.2)

/-- Words of a byte string's start, little-endian. -/
def numAt (b : List Byte) (at_ n : Nat) : Nat := ofLe ((b.drop at_).take n)

/-! ## The boot table (R467; log entry 8) -/

structure BootTab where
  gen : Nat
  fw : Nat
  trial : Bool
  pkg : Nat
  pref : Nat
  addr : Nat
  gw : Nat
  deriving DecidableEq, Repr

/-- The 24 bytes of a copy: magic, generation, slots and TRIAL, prefix, address, gateway, CRC-32C. -/
def BootTab.bytes (t : BootTab) : List Byte :=
  let b := leBytes 4 0x4254424C ++ leBytes 4 t.gen
    ++ [BitVec.ofNat 8 (t.fw % 2 + 2 * t.trial.toNat), BitVec.ofNat 8 t.pkg, BitVec.ofNat 8 t.pref, 0] ++ leBytes 4 t.addr ++ leBytes 4 t.gw
  b ++ leBytes 4 (crc32c b)

/-- Where copy `i` stands. -/
def bootAt (i : Nat) : Nat := i * 0x80000

/-- Copy `i`, when it is valid. -/
def Mach.bootCopy (m : Mach) (i : Nat) : Option BootTab :=
  let b := m.nvmBytes (bootAt i) 24
  if numAt b 0 4 = 0x4254424C && numAt b 20 4 = crc32c (b.take 20) then
    some { gen := numAt b 4 4, fw := numAt b 8 1 % 2, trial := (numAt b 8 1).testBit 1, pkg := numAt b 9 1 % 2, pref := numAt b 10 1,
           addr := numAt b 12 4, gw := numAt b 16 4 }
  else none

/-- The values of an erased table (R428). -/
def bootDefault : BootTab := { gen := 0, fw := 0, trial := false, pkg := 0, pref := 24, addr := 0xC0A85E10, gw := 0 }

/-- The later of two 32-bit sequence numbers (R10). -/
def later (a b : Nat) : Bool := decide (0 < wrapI 32 ((a : Int) - b))

/-- The table in use: the valid copy of the greater generation. -/
def Mach.boot (m : Mach) : BootTab :=
  match m.bootCopy 0, m.bootCopy 1 with
  | some a, some b => if later b.gen a.gen then b else a
  | some a, none => a
  | none, some b => b
  | none, none => bootDefault

/-- The table is rewritten with the next generation, the copy of the lower generation first (R468 steps 4 and 5). -/
def Mach.bootWrite (m : Mach) (f : BootTab → BootTab) : Mach :=
  let t := f m.boot
  let t := { t with gen := (m.boot.gen + 1) % 2 ^ 32 }
  let put (m : Mach) (i : Nat) : Mach := (m.nvmErase (bootAt i) (bootAt i + 0x80000)).nvmPut (bootAt i) t.bytes
  let first := match m.bootCopy 0, m.bootCopy 1 with
    | some a, some b => if later b.gen a.gen then 0 else 1
    | some _, none => 1
    | _, _ => 0
  put (put m first) (1 - first)

/-! ## The slots -/

def fwBase (s : Nat) : Nat := 0x100000 + s * 0x800000
def pkgBase (s : Nat) : Nat := 0x1100000 + s * 0x7000000
/-- The size of a package slot (R403). -/
def pkgSize : Nat := 0x7000000
def calBase (s : Nat) : Nat := 0xF100000 + s * 0x300000
def dumpBase : Nat := 0xFB00000

/-! ## The event log (R464 to R466) -/

def logBase : Nat := 0xF700000

/-- The 60 bytes of an entry before its CRC, and the entry (R464). -/
def entryBody (seq : Nat) (e : Ev) : List Byte :=
  leBytes 4 seq ++ leBytes 2 (e.blk * 256 + e.loc) ++ leBytes 2 e.inst ++ leBytes 8 (e.reel % 2 ^ 64).toNat
    ++ leBytes 8 (e.wall % 2 ^ 64).toNat ++ leBytes 32 e.args ++ leBytes 4 0
def entryBytes (seq : Nat) (e : Ev) : List Byte := let b := entryBody seq e; b ++ leBytes 4 (crc32c b)

/-- The event that an entry's bytes spell. -/
def evOfBytes (b : List Byte) : Ev :=
  { blk := numAt b 5 1, loc := numAt b 4 1, inst := numAt b 6 2, args := numAt b 24 32, reel := wrapI 64 (numAt b 8 8),
    wall := wrapI 64 (numAt b 16 8) }

/-- An entry's bytes are valid (R465). -/
def entryGood (b : List Byte) : Bool := numAt b 60 4 = crc32c (b.take 60)

def Mach.logSlot (m : Mach) (i : Nat) : List Byte := m.nvmBytes (logBase + 64 * i) 64

/-- LOG_STAT shows the entries held (R464). -/
def Mach.logShow (m : Mach) : Mach :=
  let held := m.log.held
  (m.set F.logStat_OLDEST (match held with | x :: _ => x.2 | [] => 1)).set F.logStat_NEWEST (match held.getLast? with | some x => x.2 | none => 0)

/-- The write point enters slot `i` (R464): with the first entry of a sector, the sector after it is erased. -/
def Mach.logEnter (m : Mach) (i : Nat) : Mach :=
  if i % 1024 = 0 then
    let s := (i / 1024 + 1) % 64
    let m := m.nvmErase (logBase + s * 0x10000) (logBase + (s + 1) * 0x10000)
    { m with log := { m.log with held := m.log.held.filter fun x => x.1 / 1024 ≠ s } }
  else m

/-- The next sequence number (R464). -/
def Mach.logNext (m : Mach) : Nat := match m.log.held.getLast? with | some x => (x.2 + 1) % 2 ^ 32 | none => 1

/-- An entry is programmed at the write point. -/
def Mach.logProgram (m : Mach) (e : Ev) : Mach :=
  let i := m.log.pos
  let m := m.logEnter i
  let seq := m.logNext
  let m := m.nvmPut (logBase + 64 * i) (entryBytes seq e)
  { m with log := { m.log with held := m.log.held ++ [(i, seq)], pos := (i + 1) % 65536 } }.logShow

/-- A failed program spoils the slot at the write point: what it leaves there is open (log entry 9). -/
def Mach.logSpoil (m : Mach) : Mach :=
  let i := m.log.pos
  let m := m.logEnter i
  let junk := (List.range 8).flatMap fun k => leBytes 8 (Config.freeWord (m.fresh + k)).toNat
  let m := { m with fresh := m.fresh + 8 }.nvmPut (logBase + 64 * i) junk
  { m with log := { m.log with pos := (i + 1) % 65536 } }.logShow

/-- Lost entries are reported once the buffer has room (R465). -/
def Mach.logLostEntry (m : Mach) : Mach :=
  if m.logLost = 0 then m
  else
    { m with logLost := 0
             logBuf := m.logBuf ++ [⟨0x18, 0x14, 0, packArgs [(32, (m.logLost : Int))], m.reel, m.wall⟩] }

/-- LOG_WRITE (R465): the oldest buffered entry goes to NVM, but not in a power-fail stop (R394 step 6); `fails` of its program attempts fail. -/
def logWrite (fails : Nat) (m : Mach) : Mach :=
  match m.logBuf with
  | [] => m
  | e :: t =>
    if m.on F.pwrStat_PWRFAIL then m
    else
    let m := { m with logBuf := t }
    match fails with
    | 0 => (m.logProgram e).logLostEntry
    | 1 => (m.logSpoil.logProgram e).logLostEntry
    | _ =>
      let s := m.log.pos / 1024
      let m := m.logSpoil.logSpoil
      let m := { m with logBuf := e :: t, log := { m.log with pos := (s + 1) % 64 * 1024 } }
      m.emit 0x18 0x15 0 [(32, (s : Int))]

/-- Entries flushed to NVM one after the other. -/
def Mach.logFlush (m : Mach) (n : Nat) : Mach :=
  let m := m.forward
  let m := (m.logBuf.take n).foldl (fun m e => m.logProgram e) m
  { m with logBuf := m.logBuf.drop n }

/-- Slots of the ring that are not erased, in slot order. -/
def Mach.logSlots (m : Mach) : List Nat :=
  (((m.nvm.filter fun c => logBase ≤ c.1 && c.1 < logBase + 0x400000).map fun c => (c.1 - logBase) / 64)).eraseDups

/-- Insertion by sequence number (R10). -/
def insertSeq (x : Nat × Nat) : List (Nat × Nat) → List (Nat × Nat)
  | [] => [x]
  | y :: t => if later y.2 x.2 then x :: y :: t else y :: insertSeq x t

/-- The log finds its entries at a start (R465): torn ones are counted, the write point follows the newest. -/
def Mach.logStart (m : Mach) : Mach :=
  let slots := m.logSlots
  let good := slots.filter fun i => entryGood (m.logSlot i)
  let held := good.foldl (fun l i => insertSeq (i, numAt (m.logSlot i) 0 4) l) []
  let torn := slots.filter fun i => !good.contains i
  let newest := match held.getLast? with | some x => some x.1 | none => none
  let from' := match newest with | some i => (i + 1) % 65536 | none => 0
  let pos := torn.foldl (fun p _ => if torn.contains p then (p + 1) % 65536 else p) from'
  (({ m with log := { m.log with held, pos } }).bump F.logCnt_TORN torn.length).logShow

/-- Log entry `n`'s bytes, when it is held (R466). -/
def Mach.logEntry (m : Mach) (n : Nat) : Option (List Byte) := (m.log.held.find? fun x => x.2 = n).map fun x => m.logSlot x.1

/-! ## The cellar (R401, R402) -/

def cellar : Nat := 0x1A00000000

/-- The management controller as a requester of data memory (R32). -/
def mgtAcc : Acc := { agent := 0x001 }

/-- The cellar header of a generation (R402): CRC-32C at byte 8, taken as 0 in its own computation. -/
def cellarHeader (gen : Nat) : List Byte :=
  let b := leBytes 4 0x43454C31 ++ leBytes 4 gen
  let z := List.replicate 48 (0 : Byte)
  b ++ leBytes 4 (crc32c (b ++ leBytes 4 0 ++ z)) ++ z ++ leBytes 4 0

/-- The header's CRC matches (R401). -/
def cellarGood (h : List Byte) : Bool :=
  numAt h 0 4 = 0x43454C31 && numAt h 8 4 = crc32c (h.take 8 ++ leBytes 4 0 ++ (h.drop 12).take 48)

/-- Bytes into the cellar. -/
def Fx.celPut (x : Fx) (o : Nat) (b : List Byte) : Fx := (x.write mgtAcc (cellar + o) b).2

/-- Bytes of the cellar; zeros where they cannot be read. -/
def Fx.celGet (x : Fx) (o n : Nat) : List Byte × Fx :=
  let (b, x) := x.read mgtAcc (cellar + o) n
  (b.getD (List.replicate n 0), x)

/-- Buffered log entries that do not reach NVM go to the log tail (R394, R402, R465): the newest 128, and the count of the older ones. -/
def Fx.logTail (x : Fx) : Fx :=
  let x := x.mach (·.forward)
  let l := x.m.logBuf
  let old := l.length - 128
  let x := x.celPut 0x400 (((l.drop old).flatMap fun e => entryBytes 0 e) ++ List.replicate (8192 - 64 * (l.drop old).length) 0)
  (x.celPut 0x2400 (leBytes 8 (old + x.m.logLost))).mach fun m => { m with logBuf := [], logLost := 0 }

/-- At a start the tail's entries enter the log in their order, then the tail is cleared (R402, R465). -/
def Fx.logTailBack (x : Fx) : Fx :=
  let (b, x) := x.celGet 0x400 8192
  let (c, x) := x.celGet 0x2400 8
  let es := ((List.range 128).map fun i => (b.drop (64 * i)).take 64).filter fun e => numAt e 4 2 != 0 && entryGood e
  let x := x.mach fun m => { m with logBuf := es.map evOfBytes ++ m.logBuf, logLost := m.logLost + ofLe c }.logLostEntry
  (x.celPut 0x400 (List.replicate 8192 0)).celPut 0x2400 (leBytes 8 0)

end Sys2Proof.Machine
end

