-- ==== Sys2Proof/Machine/Record.lean ====
section
/-!
DEFINITION. Records of the NVM (R409 to R413, R419): their framing, SHA-384, the CBOR subset, and what a package's header, manifest
and records are checked for.
-/

namespace Sys2Proof.Machine

/-! ## SHA-384 (R410, R411; FIPS 180-4) -/

def shaK0 : List (BitVec 64) :=
  [0x428A2F98D728AE22, 0x7137449123EF65CD, 0xB5C0FBCFEC4D3B2F, 0xE9B5DBA58189DBBC, 0x3956C25BF348B538, 0x59F111F1B605D019,
   0x923F82A4AF194F9B, 0xAB1C5ED5DA6D8118, 0xD807AA98A3030242, 0x12835B0145706FBE, 0x243185BE4EE4B28C, 0x550C7DC3D5FFB4E2,
   0x72BE5D74F27B896F, 0x80DEB1FE3B1696B1, 0x9BDC06A725C71235, 0xC19BF174CF692694, 0xE49B69C19EF14AD2, 0xEFBE4786384F25E3,
   0x0FC19DC68B8CD5B5, 0x240CA1CC77AC9C65]
def shaK1 : List (BitVec 64) :=
  [0x2DE92C6F592B0275, 0x4A7484AA6EA6E483, 0x5CB0A9DCBD41FBD4, 0x76F988DA831153B5, 0x983E5152EE66DFAB, 0xA831C66D2DB43210,
   0xB00327C898FB213F, 0xBF597FC7BEEF0EE4, 0xC6E00BF33DA88FC2, 0xD5A79147930AA725, 0x06CA6351E003826F, 0x142929670A0E6E70,
   0x27B70A8546D22FFC, 0x2E1B21385C26C926, 0x4D2C6DFC5AC42AED, 0x53380D139D95B3DF, 0x650A73548BAF63DE, 0x766A0ABB3C77B2A8,
   0x81C2C92E47EDAEE6, 0x92722C851482353B]
def shaK2 : List (BitVec 64) :=
  [0xA2BFE8A14CF10364, 0xA81A664BBC423001, 0xC24B8B70D0F89791, 0xC76C51A30654BE30, 0xD192E819D6EF5218, 0xD69906245565A910,
   0xF40E35855771202A, 0x106AA07032BBD1B8, 0x19A4C116B8D2D0C8, 0x1E376C085141AB53, 0x2748774CDF8EEB99, 0x34B0BCB5E19B48A8,
   0x391C0CB3C5C95A63, 0x4ED8AA4AE3418ACB, 0x5B9CCA4F7763E373, 0x682E6FF3D6B2B8A3, 0x748F82EE5DEFB2FC, 0x78A5636F43172F60,
   0x84C87814A1F0AB72, 0x8CC702081A6439EC]
def shaK3 : List (BitVec 64) :=
  [0x90BEFFFA23631E28, 0xA4506CEBDE82BDE9, 0xBEF9A3F7B2C67915, 0xC67178F2E372532B, 0xCA273ECEEA26619C, 0xD186B8C721C0C207,
   0xEADA7DD6CDE0EB1E, 0xF57D4F7FEE6ED178, 0x06F067AA72176FBA, 0x0A637DC5A2C898A6, 0x113F9804BEF90DAE, 0x1B710B35131C471B,
   0x28DB77F523047D84, 0x32CAAB7B40C72493, 0x3C9EBE0A15C9BEBC, 0x431D67C49C100D4C, 0x4CC5D4BECB3E42B6, 0x597F299CFC657E2A,
   0x5FCB6FAB3AD6FAEC, 0x6C44198C4A475817]
def shaInit : List (BitVec 64) :=
  [0xCBBB9D5DC1059ED8, 0x629A292A367CD507, 0x9159015A3070DD17, 0x152FECD8F70E5939, 0x67332667FFC00B31, 0x8EB44A8768581511,
   0xDB0C2E0D64F98FA7, 0x47B5481DBEFA4FA4]

/-- The big-endian number that bytes spell. -/
def ofBe (l : List Byte) : Nat := l.foldl (fun n b => n * 256 + b.toNat) 0

/-- The low `n` bytes of a number, big-endian. -/
def beBytes (n v : Nat) : List Byte := (leBytes n v).reverse

/-- A message with its padding and its length in bits. -/
def shaPad (b : List Byte) : List Byte :=
  b ++ 0x80 :: List.replicate ((239 - b.length % 128) % 128) 0 ++ beBytes 16 (8 * b.length)

/-- One round: the eight working variables and the next sixteen words of the schedule. -/
def shaRound (s w : List (BitVec 64)) (k : BitVec 64) : List (BitVec 64) × List (BitVec 64) :=
  let v (i : Nat) := s.getD i 0
  let u (i : Nat) := w.getD i 0
  let t1 := v 7 + ((v 4).rotateRight 14 ^^^ (v 4).rotateRight 18 ^^^ (v 4).rotateRight 41) + ((v 4 &&& v 5) ^^^ (~~~(v 4) &&& v 6)) + k + u 0
  let t2 := ((v 0).rotateRight 28 ^^^ (v 0).rotateRight 34 ^^^ (v 0).rotateRight 39) + ((v 0 &&& v 1) ^^^ (v 0 &&& v 2) ^^^ (v 1 &&& v 2))
  let n := ((u 14).rotateRight 19 ^^^ (u 14).rotateRight 61 ^^^ (u 14 >>> 6)) + u 9
    + ((u 1).rotateRight 1 ^^^ (u 1).rotateRight 8 ^^^ (u 1 >>> 7)) + u 0
  ([t1 + t2, v 0, v 1, v 2, v 3 + t1, v 4, v 5, v 6], w.tail ++ [n])

/-- A block of 128 bytes enters the hash. -/
def shaBlock (h : List (BitVec 64)) (b : List Byte) : List (BitVec 64) :=
  let w := (List.range 16).map fun i => BitVec.ofNat 64 (ofBe ((b.drop (8 * i)).take 8))
  let r := (shaK0 ++ shaK1 ++ shaK2 ++ shaK3).foldl (fun x k => shaRound x.1 x.2 k) (h, w)
  List.zipWith (· + ·) h r.1

/-- The blocks of a padded message. -/
def shaBlocks : Nat → List (BitVec 64) → List Byte → List (BitVec 64)
  | 0, h, _ => h
  | n + 1, h, b => shaBlocks n (shaBlock h (b.take 128)) (b.drop 128)

/-- SHA-384 of bytes. -/
def sha384 (b : List Byte) : List Byte :=
  let p := shaPad b
  ((shaBlocks (p.length / 128) shaInit p).take 6).flatMap fun w => beBytes 8 w.toNat

/-! ## The CBOR subset (R412) -/

/-- An item's head: its major type, its argument, and how many bytes it takes; none outside the subset: an indefinite length, a tag,
or a value of major type 7 other than false, true, null and single- and double-precision. -/
def cborHead (l : List Byte) : Option (Nat × Nat × Nat) :=
  match l with
  | [] => none
  | b :: t =>
    let major := b.toNat / 32
    let info := b.toNat % 32
    let n := if info < 24 then 0 else 2 ^ (info - 24)
    if 28 ≤ info || t.length < n || major = 6 || (major = 7 && !(info = 20 || info = 21 || info = 22 || info = 26 || info = 27)) then none
    else some (major, if info < 24 then info else ofBe (t.take n), 1 + n)

/-- A container that is open: the items still to come, the keys of a map so far, and whether the next item is a key. -/
structure CborOpen where
  left : Nat
  map : Bool := false
  key : Bool := false
  keys : List Nat := []
  deriving DecidableEq, Repr

/-- The next item of an open container has come. -/
def CborOpen.next (c : CborOpen) (k : Nat) : CborOpen :=
  { c with left := c.left - 1, key := c.map && !c.key, keys := if c.map && c.key then k :: c.keys else c.keys }

/-- The offset of the first item outside the subset, from offset `at_` on; none when the bytes are one valid item. The first number
bounds the items. Items nest 16 deep; a map's keys are unsigned integers, each once. -/
def cborBad : Nat → List CborOpen → Nat → List Byte → Option Nat
  | 0, _, at_, _ => some at_
  | n + 1, st, at_, l =>
    match st with
    | [] => if l.isEmpty then none else some at_
    | c :: rest =>
      if c.left = 0 then cborBad n rest at_ l
      else if 16 < st.length then some at_
      else
        match cborHead l with
        | none => some at_
        | some (major, v, k) =>
          let st := c.next v :: rest
          let body := if major = 2 || major = 3 then v else 0
          if c.map && c.key && (major ≠ 0 || c.keys.contains v) then some at_
          else if (l.drop k).length < body then some at_
          else
            let st := if major = 4 then { left := v } :: st else if major = 5 then { left := 2 * v, map := true, key := true } :: st else st
            cborBad n st (at_ + k + body) (l.drop (k + body))

/-- The offset in a record's body of its first item outside the subset (R412, R413). -/
def bodyBad (b : List Byte) : Option Nat := cborBad (2 * b.length + 4) [{ left := 1 }] 0 b

/-- An unsigned integer of a body, and the bytes after it. -/
def cborNum (l : List Byte) : Option (Nat × List Byte) :=
  match cborHead l with
  | some (0, v, k) => some (v, l.drop k)
  | _ => none

/-! ## Framing (R409) -/

/-- A record found in the NVM: its type, its body's length, and whether its framing and its CRC hold. -/
structure NvRec where
  typ : Nat
  len : Nat
  body : List Byte
  good : Bool
  deriving DecidableEq, Repr

/-- The record that bytes begin with (R409). -/
def recOfBytes (b : List Byte) : NvRec :=
  let len := numAt b 4 4
  let body := (b.drop 16).take len
  { typ := numAt b 2 2, len, body,
    good := decide (16 + len ≤ b.length) && numAt b 0 2 = 0x4752 && numAt b 12 4 = 0 && numAt b 8 4 = crc32c (b.take 8 ++ body) }

/-- The record at NVM address `a`, in a region that ends at `hi`. -/
def Mach.nvRec (m : Mach) (a hi : Nat) : NvRec :=
  let len := numAt (m.nvmBytes a 16) 4 4
  recOfBytes (m.nvmBytes a (16 + if a + 16 + len ≤ hi then len else 0))

/-- The bytes that a record with a body of `len` bytes takes (R409). -/
def recSpan (len : Nat) : Nat := 16 + (len + 7) / 8 * 8

/-! ## Packages (R410, R411, R413) -/

/-- An entry of the manifest (R410). -/
structure ManEntry where
  typ : Nat
  off : Nat
  len : Nat
  must : Bool
  digest : List Byte
  deriving DecidableEq, Repr

/-- One entry: an array of five items. -/
def manEntry (l : List Byte) : Option (ManEntry × List Byte) :=
  match cborHead l with
  | some (4, 5, k) =>
    match cborNum (l.drop k) with
    | some (typ, l) =>
      match cborNum l with
      | some (off, l) =>
        match cborNum l with
        | some (len, l) =>
          match cborNum l with
          | some (flags, l) =>
            match cborHead l with
            | some (2, 48, k) => some (⟨typ, off, len, flags % 2 = 1, (l.drop k).take 48⟩, l.drop (k + 48))
            | _ => none
          | none => none
        | none => none
      | none => none
    | none => none
  | _ => none

/-- `n` entries. -/
def manEntries : Nat → List Byte → Option (List ManEntry)
  | 0, l => if l.isEmpty then some [] else none
  | n + 1, l =>
    match manEntry l with
    | some (e, t) => (manEntries n t).map (e :: ·)
    | none => none

/-- The manifest's entries; none where its body is not an array of them. -/
def manifest (b : List Byte) : Option (List ManEntry) :=
  if (bodyBad b).isSome then none
  else match cborHead b with
    | some (4, n, k) => if b.length < n then none else manEntries n (b.drop k)
    | _ => none

/-- Types whose records a package must hold, marked mandatory (R410). -/
def mustTypes : List Nat := [0x10, 0x11, 0x12, 0x13, 0x14, 0x15]

/-- Types the device knows besides (R410). -/
def mayTypes : List Nat := [0x20, 0x21, 0x22, 0x23]

/-- Manifest entries that overlap one another or what ends at `lo`, or leave the slot (R410). -/
def entriesBad (lo : Nat) : List ManEntry → Bool
  | [] => false
  | e :: t => e.off < lo || pkgSize < e.off + recSpan e.len || (t.any fun f => e.off < f.off + recSpan f.len && f.off < e.off + recSpan e.len)
      || entriesBad lo t

/-- What the check of a package slot finds (R410, R411, R413): the failed start's reason or 0; its digest; the damaged records, each
with its type, byte offset and whether it is mandatory; the ranges of the slot that a skipped record takes. -/
structure PkgCheck where
  reason : Nat := 0
  digest : List Byte := []
  damaged : List (Nat × Nat × Bool) := []
  skipped : List (Nat × Nat) := []
  deriving DecidableEq, Repr

/-- A record of the manifest is checked (R413): the reason of a start that it fails were it mandatory, and the offset it is reported
with; none when it is sound. -/
def Mach.entryBad (m : Mach) (base : Nat) (e : ManEntry) : Option (Nat × Nat) :=
  let r := m.nvRec (base + e.off) (base + pkgSize)
  if e.off % 8 ≠ 0 || !r.good || r.typ ≠ e.typ || r.len ≠ e.len || sha384 r.body ≠ e.digest then some (6, e.off)
  else (bodyBad r.body).map fun o => (7, e.off + 16 + o)

/-- The records are checked in manifest order (R413): a damaged optional one is skipped, the first damaged mandatory one ends it. -/
def Mach.entriesCheck (m : Mach) (base : Nat) : List ManEntry → PkgCheck → PkgCheck
  | [], c => c
  | e :: t, c =>
    match m.entryBad base e with
    | none => m.entriesCheck base t c
    | some (why, o) =>
      let c := { c with damaged := c.damaged ++ [(e.typ, o, e.must)] }
      if e.must then { c with reason := why }
      else m.entriesCheck base t { c with skipped := c.skipped ++ [(e.off, e.off + recSpan e.len)] }

/-- A package slot is checked (R410, R411, R413); whether its signature verifies is `signed`. -/
def Mach.pkgCheck (m : Mach) (slot : Nat) (signed : Bool) : PkgCheck :=
  let base := pkgBase slot
  let hi := base + pkgSize
  let hdr := m.nvRec base hi
  let man := m.nvRec (base + recSpan hdr.len) hi
  let so := recSpan hdr.len + recSpan man.len
  let sig := m.nvRec (base + so) hi
  if !hdr.good || hdr.typ ≠ 1 || (bodyBad hdr.body).isSome || !man.good || man.typ ≠ 2 then { reason := 4 }
  else
    match manifest man.body with
    | none => { reason := 4 }
    | some es =>
      let digest := sha384 (m.nvmBytes base (16 + hdr.len) ++ man.body)
      if (mustTypes.any fun t => !es.any fun e => e.typ = t && e.must) || entriesBad (so + recSpan sig.len) es
          || (es.any fun e => e.must && !mustTypes.contains e.typ && !mayTypes.contains e.typ) then { reason := 4, digest }
      else if !sig.good || sig.typ ≠ 3 || (bodyBad sig.body).isSome || !signed then { reason := 5, digest }
      else m.entriesCheck base es { digest }

/-- A calibration record is valid (R409, R412, R419): type 0x0030, its CRC and its body. -/
def calGood (r : NvRec) : Bool := r.good && r.typ = 0x30 && (bodyBad r.body).isNone

end Sys2Proof.Machine
end

