-- ==== Sys2Proof/Decode.lean ====
section
/-!
DEFINITION. Decoding. The opcode table gives no row any bits, so no word of the table spells a command. The floor cores' 32-bit
instruction words (R149) do spell commands: `coreDecode` reads one, `coreWord` writes it.
-/

namespace Sys2Proof

/-- The command a table word spells: the table gives no row bits, so none. -/
def decodeTableWord (_nbits _w : Nat) : Option Instr := none

/-- An R-form word (R149). -/
def wordR (op d a b func : Nat) : BitVec 32 := BitVec.ofNat 32 (op * 2 ^ 26 + d * 2 ^ 21 + a * 2 ^ 16 + b * 2 ^ 11 + func)

/-- An I-form word (R149); `imm` is the 16-bit field. -/
def wordI (op d a imm : Nat) : BitVec 32 := BitVec.ofNat 32 (op * 2 ^ 26 + d * 2 ^ 21 + a * 2 ^ 16 + imm)

/-- A JAL word (R149); `imm` is the 21-bit field. -/
def wordJ (op d imm : Nat) : BitVec 32 := BitVec.ofNat 32 (op * 2 ^ 26 + d * 2 ^ 21 + imm)

/-- The instruction word of a floor core's command (R149); none for every other command. -/
def coreWord (i : Instr) : Option (BitVec 32) :=
  match i with
  | .add _ _ d a b => some (wordR 0x01 d a b 0x0)
  | .sub _ _ d a b => some (wordR 0x01 d a b 0x1)
  | .and _ _ d a b => some (wordR 0x01 d a b 0x2)
  | .or _ _ d a b => some (wordR 0x01 d a b 0x3)
  | .xor _ _ d a b => some (wordR 0x01 d a b 0x4)
  | .sll _ _ d a b => some (wordR 0x01 d a b 0x5)
  | .srl _ _ d a b => some (wordR 0x01 d a b 0x6)
  | .sra _ _ d a b => some (wordR 0x01 d a b 0x7)
  | .mul _ _ d a b => some (wordR 0x01 d a b 0x8)
  | .mulh _ _ d a b => some (wordR 0x01 d a b 0x9)
  | .div _ _ d a b => some (wordR 0x01 d a b 0xA)
  | .rem _ _ d a b => some (wordR 0x01 d a b 0xB)
  | .slt _ _ d a b => some (wordR 0x01 d a b 0xC)
  | .sltu _ _ d a b => some (wordR 0x01 d a b 0xD)
  | .addi _ _ d a imm => some (wordI 0x02 d a imm)
  | .lui _ _ d a imm => some (wordI 0x03 d a imm)
  | .ld64 _ _ d a imm => some (wordI 0x08 d a imm)
  | .ld32 _ _ d a imm => some (wordI 0x09 d a imm)
  | .ld16 _ _ d a imm => some (wordI 0x0A d a imm)
  | .ld8 _ _ d a imm => some (wordI 0x0B d a imm)
  | .st64 _ _ d a imm => some (wordI 0x0C d a imm)
  | .st32 _ _ d a imm => some (wordI 0x0D d a imm)
  | .st16 _ _ d a imm => some (wordI 0x0E d a imm)
  | .st8 _ _ d a imm => some (wordI 0x0F d a imm)
  | .beq _ _ d a imm => some (wordI 0x10 d a imm)
  | .bne _ _ d a imm => some (wordI 0x11 d a imm)
  | .blt _ _ d a imm => some (wordI 0x12 d a imm)
  | .bge _ _ d a imm => some (wordI 0x13 d a imm)
  | .jal _ _ d imm => some (wordJ 0x14 d imm)
  | .jr _ _ d a imm => some (wordI 0x15 d a imm)
  | .vld _ _ d a imm => some (wordI 0x18 d a imm)
  | .vst _ _ d a imm => some (wordI 0x19 d a imm)
  | .vld64 _ _ d a imm => some (wordI 0x1A d a imm)
  | .vst64 _ _ d a imm => some (wordI 0x1B d a imm)
  | .vop _ _ d a b func => some (wordR 0x20 d a b func)
  | .fadd _ _ d a b => some (wordR 0x20 d a b 0x10)
  | .fmul _ _ d a b => some (wordR 0x20 d a b 0x11)
  | .fma _ _ d a b => some (wordR 0x20 d a b 0x12)
  | .fmax _ _ d a b => some (wordR 0x20 d a b 0x13)
  | .fmin _ _ d a b => some (wordR 0x20 d a b 0x14)
  | .vdot8 _ _ d a b => some (wordR 0x20 d a b 0x20)
  | .vdotf8 _ _ d a b => some (wordR 0x20 d a b 0x21)
  | .vfmabf _ _ d a b => some (wordR 0x20 d a b 0x22)
  | .vcvt _ _ d a b func => some (wordR 0x21 d a b func)
  | .vperm _ _ d a b => some (wordR 0x22 d a b 0x0)
  | .vbcast _ _ d a b => some (wordR 0x22 d a b 0x1)
  | .dma _ _ d a imm => some (wordI 0x28 d a imm)
  | .dmawait _ _ d a imm => some (wordI 0x29 d a imm)
  | .signal _ _ d a imm => some (wordI 0x30 d a imm)
  | .arm _ _ d a b => some (wordR 0x31 d a b 0x0)
  | .wait _ _ d a imm => some (wordI 0x32 d a imm)
  | .fence _ _ => some (wordR 0x33 0 0 0 0x0)
  | .rdspec _ _ d a imm => some (wordI 0x34 d a imm)
  | .halt _ _ => some (wordR 0x35 0 0 0 0x0)
  | .mbxsend _ _ d a b func => some (wordR 0x36 d a b func)
  | .mbxrecv _ _ d a b func => some (wordR 0x37 d a b func)
  | _ => none

/-- FUNC of a VCVT (R149, R109, R117): a format of R109 in bits 3:0, stochastic rounding only for FP8, MX and BF16, no bit above 5. -/
def cvtFunc (func : Nat) : Bool :=
  decide (func < 64) && decide (func % 16 < 14) && (func / 16 % 2 = 0 || (3 ≤ func % 16 && func % 16 ≤ 10))

/-- The ALU instruction of a FUNC (R149). -/
def decodeAlu (dt k d a b func : Nat) : Option Instr :=
  match func with
  | 0x0 => some (.add dt k d a b)
  | 0x1 => some (.sub dt k d a b)
  | 0x2 => some (.and dt k d a b)
  | 0x3 => some (.or dt k d a b)
  | 0x4 => some (.xor dt k d a b)
  | 0x5 => some (.sll dt k d a b)
  | 0x6 => some (.srl dt k d a b)
  | 0x7 => some (.sra dt k d a b)
  | 0x8 => some (.mul dt k d a b)
  | 0x9 => some (.mulh dt k d a b)
  | 0xA => some (.div dt k d a b)
  | 0xB => some (.rem dt k d a b)
  | 0xC => some (.slt dt k d a b)
  | 0xD => some (.sltu dt k d a b)
  | _ => none

/-- The vector instruction of a FUNC of OP 0x20 (R149). -/
def decodeVop (dt k d a b func : Nat) : Option Instr :=
  if func < 0xE then some (.vop dt k d a b func)
  else
    match func with
    | 0x10 => some (.fadd dt k d a b)
    | 0x11 => some (.fmul dt k d a b)
    | 0x12 => some (.fma dt k d a b)
    | 0x13 => some (.fmax dt k d a b)
    | 0x14 => some (.fmin dt k d a b)
    | 0x20 => some (.vdot8 dt k d a b)
    | 0x21 => some (.vdotf8 dt k d a b)
    | 0x22 => some (.vfmabf dt k d a b)
    | _ => none

/-- The instruction of the fields of a word (R149); VLD64 and VST64 name two registers, so D is at most 30. -/
def decodeFields (dt k op d a b func imm imm21 : Nat) : Option Instr :=
  match op with
  | 0x01 => decodeAlu dt k d a b func
  | 0x02 => some (.addi dt k d a imm)
  | 0x03 => some (.lui dt k d a imm)
  | 0x08 => some (.ld64 dt k d a imm)
  | 0x09 => some (.ld32 dt k d a imm)
  | 0x0A => some (.ld16 dt k d a imm)
  | 0x0B => some (.ld8 dt k d a imm)
  | 0x0C => some (.st64 dt k d a imm)
  | 0x0D => some (.st32 dt k d a imm)
  | 0x0E => some (.st16 dt k d a imm)
  | 0x0F => some (.st8 dt k d a imm)
  | 0x10 => some (.beq dt k d a imm)
  | 0x11 => some (.bne dt k d a imm)
  | 0x12 => some (.blt dt k d a imm)
  | 0x13 => some (.bge dt k d a imm)
  | 0x14 => some (.jal dt k d imm21)
  | 0x15 => some (.jr dt k d a imm)
  | 0x18 => some (.vld dt k d a imm)
  | 0x19 => some (.vst dt k d a imm)
  | 0x1A => if d < 31 then some (.vld64 dt k d a imm) else none
  | 0x1B => if d < 31 then some (.vst64 dt k d a imm) else none
  | 0x20 => decodeVop dt k d a b func
  | 0x21 => if cvtFunc func then some (.vcvt dt k d a b func) else none
  | 0x22 => if func = 0 then some (.vperm dt k d a b) else if func = 1 then some (.vbcast dt k d a b) else none
  | 0x28 => some (.dma dt k d a imm)
  | 0x29 => some (.dmawait dt k d a imm)
  | 0x30 => if 1 ≤ imm ∧ imm ≤ 255 then some (.signal dt k d a imm) else none
  | 0x31 => if func = 0 then some (.arm dt k d a b) else none
  | 0x32 => some (.wait dt k d a imm)
  | 0x33 => if func = 0 then some (.fence dt k) else none
  | 0x34 => if imm < 4 then some (.rdspec dt k d a imm) else none
  | 0x35 => if func = 0 then some (.halt dt k) else none
  | 0x36 => if func < 2 then some (.mbxsend dt k d a b func) else none
  | 0x37 => if func = 0 ∨ func = 2 then some (.mbxrecv dt k d a b func) else none
  | _ => none

/-- The instruction that core `k` reads from a word (R149); none is an illegal instruction. -/
def coreDecode (dt k : Nat) (w : BitVec 32) : Option Instr :=
  let n := w.toNat
  decodeFields dt k (n / 2 ^ 26) (n / 2 ^ 21 % 32) (n / 2 ^ 16 % 32) (n / 2 ^ 11 % 32) (n % 2 ^ 11) (n % 2 ^ 16) (n % 2 ^ 21)

end Sys2Proof
end

