-- ==== Sys2Proof/Machine/Floor.lean ====
section
/-!
DEFINITION. The floor cores (R146 to R152): scalar, memory, branch and vector instructions, DMA, synchronisation, mailboxes, traps.
-/

namespace Sys2Proof.Machine

/-- How an instruction fails to complete: a trap with its cause and address (R152), or the core waits. -/
inductive CStop where
  | trap (cause addr : Nat)
  | wait
  deriving DecidableEq, Repr

/-- An instruction at work. -/
abbrev CM := ExceptT CStop (StateM Fx)

/-- The core's registers change by `f`. -/
def onCore (k : Nat) (f : FCore → FCore) : CM Unit := modify fun x => x.mach (·.modCore k f)

/-- The next instruction follows. -/
def FCore.next (c : FCore) : FCore := { c with pc := (c.pc + 4) % 2 ^ 64 }

/-- An address is 40 bits of a + IMM (R148). -/
def ea (c : FCore) (a imm : Nat) : Nat := (c.sreg a + (BitVec.ofNat 16 imm).signExtend 64).toNat % 2 ^ 40

/-! ## Scalar instructions (R149, R150) -/

/-- d = f(a, b). -/
def scalarOp (f : Word → Word → Word) (k d a b : Nat) : CM Unit :=
  onCore k fun c => (c.setS d (f (c.sreg a) (c.sreg b))).next

/-- A shift; an amount of the width or more has no stated result (log entry 10). -/
def shiftBy {n : Nat} (tag : Nat) (f : BitVec n → Nat → BitVec n) (x y : BitVec n) : BitVec n :=
  if y.toNat < n then f x y.toNat else BitVec.ofNat n (Config.unstated tag [n, x.toNat, y.toNat])

/-- The high half of a signed product. -/
def mulHigh {n : Nat} (x y : BitVec n) : BitVec n := BitVec.ofInt n ((x.toInt * y.toInt).fdiv (2 ^ n))

/-- Signed quotient and remainder (R150): by zero, all ones and the dividend. -/
def quot {n : Nat} (x y : BitVec n) : BitVec n := if y = 0 then BitVec.allOnes n else x.sdiv y
def remn {n : Nat} (x y : BitVec n) : BitVec n := if y = 0 then x else x.srem y

/-- The ALU's FUNC (R149), at the scalar width or a lane's. -/
def alu {n : Nat} (func : Nat) (x y : BitVec n) : BitVec n :=
  match func with
  | 0x0 => x + y
  | 0x1 => x - y
  | 0x2 => x &&& y
  | 0x3 => x ||| y
  | 0x4 => x ^^^ y
  | 0x5 => shiftBy 0x50 (· <<< ·) x y
  | 0x6 => shiftBy 0x51 (· >>> ·) x y
  | 0x7 => shiftBy 0x52 BitVec.sshiftRight x y
  | 0x8 => x * y
  | 0x9 => mulHigh x y
  | 0xA => quot x y
  | 0xB => remn x y
  | 0xC => if x.slt y then 1 else 0
  | _ => if x.ult y then 1 else 0

def coreAdd (k d a b : Nat) : CM Unit := scalarOp (alu 0x0) k d a b
def coreSub (k d a b : Nat) : CM Unit := scalarOp (alu 0x1) k d a b
def coreAnd (k d a b : Nat) : CM Unit := scalarOp (alu 0x2) k d a b
def coreOr (k d a b : Nat) : CM Unit := scalarOp (alu 0x3) k d a b
def coreXor (k d a b : Nat) : CM Unit := scalarOp (alu 0x4) k d a b
def coreSll (k d a b : Nat) : CM Unit := scalarOp (alu 0x5) k d a b
def coreSrl (k d a b : Nat) : CM Unit := scalarOp (alu 0x6) k d a b
def coreSra (k d a b : Nat) : CM Unit := scalarOp (alu 0x7) k d a b
def coreMul (k d a b : Nat) : CM Unit := scalarOp (alu 0x8) k d a b
def coreMulh (k d a b : Nat) : CM Unit := scalarOp (alu 0x9) k d a b
def coreDiv (k d a b : Nat) : CM Unit := scalarOp (alu 0xA) k d a b
def coreRem (k d a b : Nat) : CM Unit := scalarOp (alu 0xB) k d a b
def coreSlt (k d a b : Nat) : CM Unit := scalarOp (alu 0xC) k d a b
def coreSltu (k d a b : Nat) : CM Unit := scalarOp (alu 0xD) k d a b

/-- ADDI and LUI (R149). -/
def coreAddi (k d a imm : Nat) : CM Unit :=
  onCore k fun c => (c.setS d (c.sreg a + (BitVec.ofNat 16 imm).signExtend 64)).next
def coreLui (k d _a imm : Nat) : CM Unit :=
  onCore k fun c => (c.setS d ((BitVec.ofNat 16 imm).signExtend 64 <<< 16)).next

/-- The instruction at a signed word offset from this one (R149). -/
def FCore.jump (c : FCore) (off : Word) : FCore := { c with pc := (BitVec.ofNat 64 c.pc + off * 4).toNat }

/-- A branch compares d with a (R149). -/
def branch (test : Word → Word → Bool) (k d a imm : Nat) : CM Unit :=
  onCore k fun c => if test (c.sreg d) (c.sreg a) then c.jump ((BitVec.ofNat 16 imm).signExtend 64) else c.next

def coreBeq (k d a imm : Nat) : CM Unit := branch (· == ·) k d a imm
def coreBne (k d a imm : Nat) : CM Unit := branch (· != ·) k d a imm
def coreBlt (k d a imm : Nat) : CM Unit := branch BitVec.slt k d a imm
def coreBge (k d a imm : Nat) : CM Unit := branch (fun x y => !x.slt y) k d a imm

def coreJal (k d imm : Nat) : CM Unit :=
  onCore k fun c => (c.setS d (BitVec.ofNat 64 (c.pc + 4))).jump ((BitVec.ofNat 21 imm).signExtend 64)
def coreJr (k d a _imm : Nat) : CM Unit :=
  onCore k fun c => { c.setS d (BitVec.ofNat 64 (c.pc + 4)) with pc := (c.sreg a).toNat }

/-! ## Loads and stores (R148, R149) -/

/-- The accesses of core `k` are its job's (R371). -/
def Mach.coreAcc (m : Mach) (k : Nat) : Acc := { agent := m.coreAgent k, job := m.coreJob k }

/-- A load from a unit's data port: random bits (R376) and the times (R443), 8 bytes each; nothing else is there. -/
def portLoad (a len : Nat) : CM (List Byte) := do
  let x ← get
  if a = 0x1801400000 ∧ len = 8 then
    if x.m.get F.secStat_STATE = 0 then throw .wait
    else if x.m.secReady then
      let (w, m) := x.m.rngTake
      set { x with m }
      pure (leBytes 8 w.toNat)
    else throw (.trap 3 a)
  else if a = 0x1801800000 ∧ len = 8 then pure (leBytes 8 (x.m.coarse x.m.reel % 2 ^ 64).toNat)
  else if a = 0x1801800008 ∧ len = 8 then pure (leBytes 8 (x.m.coarse x.m.wall % 2 ^ 64).toNat)
  else throw (.trap 3 a)

/-- A load of `len` bytes (R148, R152): misaligned and refused ones trap; DRAM without keys waits (R375). -/
def coreRead (k a len : Nat) : CM (List Byte) := do
  let x ← get
  if a % len ≠ 0 then throw (.trap 2 a)
  else if rangeRegion a len = .port then portLoad a len
  else if x.m.stalls a then throw .wait
  else
    match x.read (x.m.coreAcc k) a len with
    | (some b, x) => set x; pure b
    | (none, x) => set x; throw (.trap 3 a)

/-- A store to a unit's data port: an engine's queue (R120), a submission page (R202), a verdict page (R244). -/
def portStore (k a : Nat) (b : List Byte) : CM Unit := do
  let x ← get
  let m := x.m
  match m.coreJob k with
  | none => throw (.trap 3 a)
  | some j =>
    let ag := m.coreAgent k
    if (cmdPort a).isSome then
      let (ok, m) := m.cmdPush ag (some j) a b
      if ok then set { x with m } else throw .wait
    else if 0x1800B00000 ≤ a ∧ a < 0x1800B40000 then
      let (ok, m) := m.submit ag (some j) a (pageWords 64 b)
      if ok then set { x with m } else throw .wait
    else if 0x1800B40000 ≤ a ∧ a < 0x1800B80000 then set { x with m := m.verdictPage j ag a (pageWords 32 b) }
    else throw (.trap 3 a)

/-- A store of bytes (R148, R152). -/
def coreWrite (k a : Nat) (b : List Byte) : CM Unit := do
  let x ← get
  if a % b.length ≠ 0 then throw (.trap 2 a)
  else if rangeRegion a b.length = .port then portStore k a b
  else if x.m.stalls a then throw .wait
  else
    match x.write (x.m.coreAcc k) a b with
    | (true, x) => set x
    | (false, x) => set x; throw (.trap 3 a)

def coreOf (k : Nat) : CM FCore := do pure ((← get).m.core k)

/-- A sign-extending load of `len` bytes into a scalar register (R149). -/
def scalarLoad (len k d a imm : Nat) : CM Unit := do
  let c ← coreOf k
  let b ← coreRead k (ea c a imm) len
  onCore k fun c => (c.setS d ((BitVec.ofNat (8 * len) (ofLe b)).signExtend 64)).next

/-- A store of the low `len` bytes of d (R149). -/
def scalarStore (len k d a imm : Nat) : CM Unit := do
  let c ← coreOf k
  coreWrite k (ea c a imm) (leBytes len (c.sreg d).toNat)
  onCore k FCore.next

def coreLd64 (k d a imm : Nat) : CM Unit := scalarLoad 8 k d a imm
def coreLd32 (k d a imm : Nat) : CM Unit := scalarLoad 4 k d a imm
def coreLd16 (k d a imm : Nat) : CM Unit := scalarLoad 2 k d a imm
def coreLd8 (k d a imm : Nat) : CM Unit := scalarLoad 1 k d a imm
def coreSt64 (k d a imm : Nat) : CM Unit := scalarStore 8 k d a imm
def coreSt32 (k d a imm : Nat) : CM Unit := scalarStore 4 k d a imm
def coreSt16 (k d a imm : Nat) : CM Unit := scalarStore 2 k d a imm
def coreSt8 (k d a imm : Nat) : CM Unit := scalarStore 1 k d a imm

def coreVld (k d a imm : Nat) : CM Unit := do
  let c ← coreOf k
  let b ← coreRead k (ea c a imm) 32
  onCore k fun c => (c.setV d (BitVec.ofNat 256 (ofLe b))).next

def coreVst (k d a imm : Nat) : CM Unit := do
  let c ← coreOf k
  coreWrite k (ea c a imm) (leBytes 32 (c.vreg d).toNat)
  onCore k FCore.next

def coreVld64 (k d a imm : Nat) : CM Unit := do
  let c ← coreOf k
  let b ← coreRead k (ea c a imm) 64
  onCore k fun c => ((c.setV d (BitVec.ofNat 256 (ofLe (b.take 32)))).setV (d + 1) (BitVec.ofNat 256 (ofLe (b.drop 32)))).next

def coreVst64 (k d a imm : Nat) : CM Unit := do
  let c ← coreOf k
  coreWrite k (ea c a imm) (leBytes 32 (c.vreg d).toNat ++ leBytes 32 (c.vreg (d + 1)).toNat)
  onCore k FCore.next

/-! ## Vector instructions (R149, R150) -/

/-- Lane `i` of a vector register, and a vector of eight lanes. -/
def laneOf (v : BitVec 256) (i : Nat) : BitVec 32 := v.extractLsb' (32 * i) 32
def ofLanes (f : Nat → BitVec 32) : BitVec 256 :=
  BitVec.ofNat 256 ((List.range 8).foldl (fun n i => n + (f i).toNat * 2 ^ (32 * i)) 0)

/-- d = f(d, a, b) lane by lane. -/
def laneOp (f : BitVec 32 → BitVec 32 → BitVec 32 → BitVec 32) (k d a b : Nat) : CM Unit :=
  onCore k fun c => (c.setV d (ofLanes fun i => f (laneOf (c.vreg d) i) (laneOf (c.vreg a) i) (laneOf (c.vreg b) i))).next

/-- A lane read and written as FP32 (R110). -/
def laneF (x : BitVec 32) : FVal := elemVal 0xB x.toNat
def ofF (v : FVal) : BitVec 32 := BitVec.ofNat 32 (fp32.bits v)

def coreVop (k d a b func : Nat) : CM Unit := laneOp (fun _ x y => alu func x y) k d a b
def coreFadd (k d a b : Nat) : CM Unit := laneOp (fun _ x y => ofF ((laneF x).add (laneF y))) k d a b
def coreFmul (k d a b : Nat) : CM Unit := laneOp (fun _ x y => ofF ((laneF x).mul (laneF y))) k d a b
def coreFma (k d a b : Nat) : CM Unit := laneOp (fun z x y => ofF (((laneF x).mul (laneF y)).add (laneF z))) k d a b
def coreFmax (k d a b : Nat) : CM Unit := laneOp (fun _ x y => ofF ((laneF x).max' (laneF y))) k d a b
def coreFmin (k d a b : Nat) : CM Unit := laneOp (fun _ x y => ofF ((laneF x).min' (laneF y))) k d a b

/-- The exact sum of the products of the `n` parts of `w` bits of two lanes in a format. -/
def dotExact (fmt n w : Nat) (x y : BitVec 32) : FVal :=
  (List.range n).foldl (fun s i =>
    s.add ((elemVal fmt (x.toNat / 2 ^ (w * i) % 2 ^ w)).mul (elemVal fmt (y.toNat / 2 ^ (w * i) % 2 ^ w)))) .zero

/-- VDOT8 (R150): the exact sum of four INT8 products. -/
def dot8 (x y : BitVec 32) : Int :=
  (List.range 4).foldl (fun (s : Int) i => s + (x.extractLsb' (8 * i) 8).toInt * (y.extractLsb' (8 * i) 8).toInt) 0

def coreVdot8 (k d a b : Nat) : CM Unit := laneOp (fun z x y => z + BitVec.ofInt 32 (dot8 x y)) k d a b
def coreVdotf8 (k d a b : Nat) : CM Unit :=
  laneOp (fun z x y => ofF ((laneF z).add (dotExact (if Config.dotE5 then 0x4 else 0x3) 4 8 x y).r32)) k d a b
def coreVfmabf (k d a b : Nat) : CM Unit :=
  laneOp (fun z x y => ofF ((laneF z).add (dotExact 0xA 2 16 x y).r32)) k d a b

/-- One lane of a VCVT (R116, R149): the format's bits stand at the lane's low end; what a narrower format leaves above them, and an MX
element's result without a block scale, is not stated (log entry 10). -/
def cvtLane (func : Nat) (v : BitVec 32) (r : Rnd) : BitVec 32 :=
  let fmt := func % 16
  let open32 := Config.unstated 0x60 [func, v.toNat]
  if isMx fmt then BitVec.ofNat 32 open32
  else
    let n := elemBits fmt
    let (w, _) := convElem fmt (func / 32 % 2 = 1) (laneF v) r
    BitVec.ofNat 32 (w % 2 ^ n + open32 / 2 ^ n * 2 ^ n)

/-- VCVT (R149, R339): the lanes of vector register a; with stochastic rounding the keys come from scalar registers a and b. -/
def coreVcvt (k d a b func : Nat) : CM Unit := do
  let x ← get
  let seed := match x.m.coreJob k with | some j => x.m.rd (R.trcJobSeed1 j) | none => 0
  onCore k fun c =>
    let sa := c.sreg a
    let rnd (i : Nat) : Rnd :=
      if func / 16 % 2 = 1 then
        .stochastic (drawR seed (c.sreg b) (sa.extractLsb' 52 12).toNat ((sa.extractLsb' 0 52).toNat + i))
      else .rne
    (c.setV d (ofLanes fun i => cvtLane func (laneOf (c.vreg a) i) (rnd i))).next

/-- VPERM (R149): lane i of d is lane (b >> 3i) & 7 of its prior value. -/
def coreVperm (k d _a b : Nat) : CM Unit :=
  onCore k fun c => (c.setV d (ofLanes fun i => laneOf (c.vreg d) ((c.sreg b).toNat / 2 ^ (3 * i) % 8))).next

/-- VBCAST (R149): every lane of d is lane b & 7 of its prior value (log entry 64). -/
def coreVbcast (k d _a b : Nat) : CM Unit :=
  onCore k fun c => (c.setV d (ofLanes fun _ => laneOf (c.vreg d) ((c.sreg b).toNat % 8))).next

/-! ## DMA (R151) -/

def FCore.dmaBusy (c : FCore) (ch : Nat) : Bool := c.dma.any (·.1 = ch)

/-- DMA (R151): the descriptor at a starts on channel IMM & 1; a busy channel makes the core wait. -/
def coreDma (k _d a imm : Nat) : CM Unit := do
  let c ← coreOf k
  let at_ := (c.sreg a).toNat % 2 ^ 40
  let ch := imm % 2
  let full := (← get).m.flightFull
  if c.dmaBusy ch || full then throw .wait
  else if at_ % 8 ≠ 0 then throw (.trap 2 at_)
  else
    let x ← get
    if x.m.stalls at_ then throw .wait
    else
      match x.read (x.m.coreAcc k) at_ 32 with
      | (none, x) => set x; throw (.trap 5 at_)
      | (some b, x) =>
        set x
        onCore k fun c => { c with dma := c.dma ++ [(ch, wordsOfBytes 4 b)] }.next

/-- The rows of a transfer: source address, destination address and bytes of each; none where the descriptor is outside R151's limits. -/
def dmaRows (d : List Word) : Option (List (Nat × Nat) × Nat) :=
  let w (i : Nat) : Nat := (d.getD i 0).toNat
  let bytes := w 2 % 2 ^ 21
  let rows := w 2 / 2 ^ 21 % 2 ^ 16
  if bytes % 8 ≠ 0 ∨ 1048576 < bytes ∨ rows = 0 then none
  else some ((List.range rows).map fun r =>
    ((w 0 % 2 ^ 40 + r * (w 3 % 2 ^ 32)) % 2 ^ 40, (w 1 % 2 ^ 40 + r * (w 3 / 2 ^ 32)) % 2 ^ 40), bytes)

/-- What a core's access to a data port does, for a DMA channel: a trap is a DMA fault (R152). -/
def asDma {α : Type} (a : Nat) (op : CM α) : CM α :=
  ExceptT.adapt (fun e => match e with | .trap _ _ => .trap 5 a | .wait => .wait) op

/-- The 8-byte loads of a range of a data port. -/
def portLoads (a : Nat) : Nat → CM (List Byte)
  | 0 => pure []
  | n + 1 => do
    let b ← portLoad a 8
    let t ← portLoads (a + 8) n
    pure (b ++ t)

/-- One read of a transfer, in any mapped region of R32 (R151); it stalls while DRAM has no keys (R375). -/
def dmaRead (k a n : Nat) : CM (List Byte) := do
  let x ← get
  if x.m.stalls a then throw .wait
  else if partRegion a = .port then asDma a (portLoads a (n / 8))
  else
    match x.read (x.m.coreAcc k) a n with
    | (some b, x) => set x; pure b
    | (none, x) => set x; throw (.trap 5 a)

/-- One write of a transfer. -/
def dmaWrite (k a : Nat) (b : List Byte) : CM Unit := do
  let x ← get
  if x.m.stalls a then throw .wait
  else if partRegion a = .port then asDma a (portStore k a b)
  else
    match x.write (x.m.coreAcc k) a b with
    | (true, x) => set x
    | (false, x) => set x; throw (.trap 5 a)

/-- The reads of a row, line by line (R143). -/
def dmaReads (k : Nat) : List (Nat × Nat) → CM (List Byte)
  | [] => pure []
  | (a, n) :: t => do
    let b ← dmaRead k a n
    let r ← dmaReads k t
    pure (b ++ r)

/-- The writes of a row. -/
def dmaWrites (k : Nat) : List (Nat × Nat) → List Byte → CM Unit
  | [], _ => pure ()
  | (a, n) :: t, b => do
    dmaWrite k a (b.take n)
    dmaWrites k t (b.drop n)

/-- A transfer, row by row (R151). -/
def dmaRun (k bytes : Nat) : List (Nat × Nat) → CM Unit
  | [] => pure ()
  | (s, d) :: t => do
    let b ← dmaReads k (lineCuts s bytes)
    dmaWrites k (lineCuts d bytes) b
    dmaRun k bytes t

/-- Channel `ch` of core `k` runs its transfer. -/
def dmaGo (k ch : Nat) (d : List Word) : CM Unit := do
  match dmaRows d with
  | none => throw (.trap 5 ((d.getD 0 0).toNat % 2 ^ 40))
  | some (rows, bytes) =>
    dmaRun k bytes rows
    onCore k fun c => { c with dma := c.dma.filter fun y => y.1 ≠ ch }

/-- DMA_COMPLETE (R151): the transfer of a channel is complete and its channel idle; one that faults is CORE_TRAP's. -/
def dmaCompleteFx (k ch : Nat) (x : Fx) : Fx :=
  match (x.m.core k).dma.find? (·.1 = ch) with
  | none => x
  | some d =>
    match (dmaGo k ch d.2).run x with
    | (.ok (), x) => x
    | (.error _, _) => x

/-- DMAWAIT and FENCE (R148, R149). -/
def coreDmawait (k _d _a imm : Nat) : CM Unit := do
  let c ← coreOf k
  if c.dmaBusy (imm % 2) then throw .wait else onCore k FCore.next
def coreFence (k : Nat) : CM Unit := do
  let c ← coreOf k
  if c.dma.isEmpty then onCore k FCore.next else throw .wait

/-! ## Synchronisation and mailboxes (R216 to R221) -/

/-- The object or mailbox that a register names, if the core's job may use it: else the trap of R218 and R221. -/
def mayUse (ok : Bool) : CM Unit := if ok then pure () else throw (.trap 3 0)

def coreSignal (k _d a imm : Nat) : CM Unit := do
  let x ← get
  let n := ((x.m.core k).sreg a).toNat
  mayUse (decide (n < 16384) && (match x.m.coreJob k with | some j => x.m.synOwns j n | none => false))
  modify fun x => x.mach fun m => (m.synAdd n imm).modCore k FCore.next

def coreArm (k d a b : Nat) : CM Unit := do
  let x ← get
  let c := x.m.core k
  let n := (c.sreg a).toNat
  let thr := (c.sreg b).toNat % 2 ^ 32
  mayUse (decide (n < 16384) && (match x.m.coreJob k with | some j => x.m.synOwns j n | none => false))
  modify fun x => x.mach fun m =>
    (m.modPort (k * 4 + d % 4) fun _ => { armed := true, obj := n, thr, sat := satisfied (m.get (F.synObj_VALUE n)) thr }).modCore k FCore.next

def coreWait (k _d _a imm : Nat) : CM Unit := do
  let x ← get
  let ps := (((List.range 4).filter fun i => imm.testBit i).map fun i => x.m.port (k * 4 + i)).filter (·.armed)
  if ps.isEmpty || (if imm.testBit 4 then ps.all (·.sat) else ps.any (·.sat)) then onCore k FCore.next else throw .wait

/-- RDSPEC (R149, R338, R382). -/
def coreRdspec (k d _a imm : Nat) : CM Unit := do
  let x ← get
  let m := x.m
  let j := (m.coreJob k).getD 0
  let w : Word := match imm with
    | 0 => BitVec.ofNat 64 (m.core k).plan
    | 1 => BitVec.ofNat 64 j
    | 2 => m.rd (R.trcJobStep j)
    | _ => BitVec.ofInt 64 (m.coarse m.reel)
  onCore k fun c => (c.setS d w).next

/-- HALT (R147, R202). -/
def coreHalt (k : Nat) : CM Unit := modify fun x => x.mach (·.taskEnd k)

/-- MBXSEND (R220): a full mailbox makes the core wait its turn, or fail with 0. -/
def coreMbxsend (k d a b func : Nat) : CM Unit := do
  let x ← get
  let m := x.m
  let c := m.core k
  let n := (c.sreg a).toNat
  let mine : Bool := match m.coreJob k with | some j => m.mbxOwns j n | none => false
  if n < 512 && !mine then modify fun x => x.mach (·.mbxRefuse (m.coreAgent k) n 2)
  mayUse (decide (n < 512) && mine)
  if m.on (F.mbxSide_FULL n) then
    if func % 2 = 1 then
      modify fun x => x.mach (·.mbxRefuse (m.coreAgent k) n 1)
      onCore k fun c => (c.setS d 0).next
    else modify fun x => x.mach fun m =>
      { m with mbxWait := m.mbxWait ++ [({ mbx := n, core := k, agent := m.coreAgent k, val := c.sreg b, d } : MbxWait)] }
  else modify fun x => x.mach fun m => (m.mbxPut n (m.coreAgent k) (c.sreg b)).modCore k fun c => (c.setS d 1).next

/-- MBXRECV (R221): takes the value, waiting for it, or reads the side field. -/
def coreMbxrecv (k d a _b func : Nat) : CM Unit := do
  let x ← get
  let m := x.m
  let n := ((m.core k).sreg a).toNat
  mayUse (decide (n < 512) && (match m.coreJob k with | some j => m.mbxOwns j n | none => false))
  if func / 2 % 2 = 1 then onCore k fun c => (c.setS d (m.rd (R.mbxSide n))).next
  else if m.on (F.mbxSide_FULL n) then
    modify fun x => x.mach fun m => (m.modCore k fun c => (c.setS d (m.rd (R.mbxTake n))).next).mbxPop n
  else throw .wait

/-! ## Running an instruction -/

/-- What the instruction of a floor core's command does. -/
def coreOp (i : Instr) : CM Unit :=
  match i with
  | .add _ k d a b => coreAdd k d a b
  | .sub _ k d a b => coreSub k d a b
  | .and _ k d a b => coreAnd k d a b
  | .or _ k d a b => coreOr k d a b
  | .xor _ k d a b => coreXor k d a b
  | .sll _ k d a b => coreSll k d a b
  | .srl _ k d a b => coreSrl k d a b
  | .sra _ k d a b => coreSra k d a b
  | .mul _ k d a b => coreMul k d a b
  | .mulh _ k d a b => coreMulh k d a b
  | .div _ k d a b => coreDiv k d a b
  | .rem _ k d a b => coreRem k d a b
  | .slt _ k d a b => coreSlt k d a b
  | .sltu _ k d a b => coreSltu k d a b
  | .addi _ k d a imm => coreAddi k d a imm
  | .lui _ k d a imm => coreLui k d a imm
  | .ld64 _ k d a imm => coreLd64 k d a imm
  | .ld32 _ k d a imm => coreLd32 k d a imm
  | .ld16 _ k d a imm => coreLd16 k d a imm
  | .ld8 _ k d a imm => coreLd8 k d a imm
  | .st64 _ k d a imm => coreSt64 k d a imm
  | .st32 _ k d a imm => coreSt32 k d a imm
  | .st16 _ k d a imm => coreSt16 k d a imm
  | .st8 _ k d a imm => coreSt8 k d a imm
  | .beq _ k d a imm => coreBeq k d a imm
  | .bne _ k d a imm => coreBne k d a imm
  | .blt _ k d a imm => coreBlt k d a imm
  | .bge _ k d a imm => coreBge k d a imm
  | .jal _ k d imm => coreJal k d imm
  | .jr _ k d a imm => coreJr k d a imm
  | .vld _ k d a imm => coreVld k d a imm
  | .vst _ k d a imm => coreVst k d a imm
  | .vld64 _ k d a imm => coreVld64 k d a imm
  | .vst64 _ k d a imm => coreVst64 k d a imm
  | .vop _ k d a b func => coreVop k d a b func
  | .fadd _ k d a b => coreFadd k d a b
  | .fmul _ k d a b => coreFmul k d a b
  | .fma _ k d a b => coreFma k d a b
  | .fmax _ k d a b => coreFmax k d a b
  | .fmin _ k d a b => coreFmin k d a b
  | .vdot8 _ k d a b => coreVdot8 k d a b
  | .vdotf8 _ k d a b => coreVdotf8 k d a b
  | .vfmabf _ k d a b => coreVfmabf k d a b
  | .vcvt _ k d a b func => coreVcvt k d a b func
  | .vperm _ k d a b => coreVperm k d a b
  | .vbcast _ k d a b => coreVbcast k d a b
  | .dma _ k d a imm => coreDma k d a imm
  | .dmawait _ k d a imm => coreDmawait k d a imm
  | .signal _ k d a imm => coreSignal k d a imm
  | .arm _ k d a b => coreArm k d a b
  | .wait _ k d a imm => coreWait k d a imm
  | .fence _ k => coreFence k
  | .rdspec _ k d a imm => coreRdspec k d a imm
  | .halt _ k => coreHalt k
  | .mbxsend _ k d a b func => coreMbxsend k d a b func
  | .mbxrecv _ k d a b func => coreMbxrecv k d a b func
  | _ => pure ()

/-- Words of the floor image on core `k`'s cluster (R147, R152). -/
def Mach.imageLen (m : Mach) (k : Nat) : Nat :=
  match m.coreJob k with
  | some j => match m.pkgJob j with | some p => min 8192 p.image.length | none => 0
  | none => 0

/-- The core runs and does not wait its turn at a mailbox. -/
def Mach.coreRuns (m : Mach) (k : Nat) : Bool := (m.core k).running && !m.mbxWait.any (·.core = k)

/-- The word that core `k` executes next, or the trap that fetching it meets (R149, R152). -/
def Mach.coreFetch (m : Mach) (k : Nat) : Except CStop (BitVec 32) :=
  let pc := (m.core k).pc
  if pc % 4 ≠ 0 then .error (.trap 2 (pc % 2 ^ 40))
  else if m.imageLen k ≤ pc / 4 then .error (.trap 4 0)
  else .ok (spGet (fun _ => 0) m.istore (k / 64 * 8192 + pc / 4))

/-- Core `k` runs and has the word `w` before it. -/
def Mach.atWord (m : Mach) (k : Nat) (w : BitVec 32) : Bool :=
  m.coreRuns k && (match m.coreFetch k with | .ok v => v = w | .error _ => false)

/-- An instruction issued (R454, R455). -/
def Mach.issued (m : Mach) (k : Nat) : Mach :=
  (m.profAdd (R.flrCntIssue (k / 64)) 1).profAdd (R.trcJobIssue ((m.coreJob k).getD 0)) 1

/-- A command of core `k` whose word is `w`: what the instruction does, when that is the word the core has before it and it neither
waits nor traps (R148, R152). -/
def coreRow (k : Nat) (w : BitVec 32) (op : CM Unit) (x : Fx) : Fx :=
  if x.m.atWord k w then
    match op.run (x.mach (·.issued k)) with
    | (.ok (), x) => x
    | (.error _, _) => x
  else x

/-- The word that core `k` has before it, with its D, A and B fields cleared where the instruction has none (FENCE, HALT). -/
def Mach.bareWord (m : Mach) (k : Nat) : BitVec 32 :=
  match m.coreFetch k with
  | .ok v => v &&& 0xFC0007FF
  | .error _ => 0

/-- A command of core `k` whose word has no operand fields. -/
def coreRowBare (k : Nat) (w : BitVec 32) (op : CM Unit) (x : Fx) : Fx :=
  if x.m.coreRuns k ∧ x.m.bareWord k = w then
    match op.run (x.mach (·.issued k)) with
    | (.ok (), x) => x
    | (.error _, _) => x
  else x

/-- The core traps (R152, R195): recorded first, raised, its job faulted. -/
def Fx.coreTrapAt (x : Fx) (k cause addr : Nat) : Fx :=
  let c := k / 64
  let j := (x.m.coreJob k).getD 0
  let x := x.mach fun m =>
    let core := m.core k
    let m := if m.on (F.flrTrap_VALID c) then m
      else
        let m := ((((m.setb (F.flrTrap_VALID c) true).set (F.flrTrap_CAUSE c) cause).set (F.flrTrap_JOB c) j).set (F.flrTrap_CORE c)
          (k % 64)).set (F.flrTrap_AGENT c) (m.coreAgent k)
        (m.set (F.flrTrap_PC c) core.pc).set (F.flrTrapAddr_ADDR c) (if cause = 1 ∨ cause = 4 then 0 else addr)
    let m := m.emit 0x09 0x10 c [(7, (c : Int)), (6, (k % 64 : Int)), (4, (cause : Int)), (6, (j : Int))]
    m.cond (cause = 3 || cause = 5) (·.emit 0x09 0x04 c [])
  (x.jobFault j 0x0910).mach fun m => (m.coreStop k).flrShow c

/-- The fault of a DMA channel of core `k`, if one has any; the channel ends. -/
def Fx.dmaTrapOf (x : Fx) (k : Nat) : Option (Nat × Nat × Fx) :=
  if (x.m.coreJob k).isNone then none else
  (x.m.core k).dma.findSome? fun d =>
    match (dmaGo k d.1 d.2).run x with
    | (.error (.trap c a), y) => some (c, a, y.mach (·.modCore k fun c => { c with dma := c.dma.filter fun e => e.1 ≠ d.1 }))
    | _ => none

/-- The trap of core `k`, if it has one: of a DMA channel, which may outlive the core's program, and while the core runs of the fetch,
of the word, or of the instruction; with the state it leaves. -/
def Fx.coreTrapOf (x : Fx) (k : Nat) : Option (Nat × Nat × Fx) :=
  match x.dmaTrapOf k with
  | some t => some t
  | none =>
    if !x.m.coreRuns k then none
    else
    match x.m.coreFetch k with
    | .error (.trap c a) => some (c, a, x)
    | .error .wait => none
    | .ok w =>
      match coreDecode 0 k w with
      | none => some (1, 0, x)
      | some i =>
        match (coreOp i).run x with
        | (.error (.trap c a), y) => some (c, a, y)
        | _ => none

/-- CORE_TRAP (R152). -/
def coreTrapFx (k : Nat) (x : Fx) : Fx :=
  match x.coreTrapOf k with
  | some (c, a, y) => y.coreTrapAt k c a
  | none => x

end Sys2Proof.Machine
end

