-- ==== Sys2Proof/Machine/Prof.lean ====
section
/-!
DEFINITION. What passes with time: the cycle counters of engines and floor (R451 to R455), and then the base counter.
How a busy engine's cycles fall among BUSY and the stalls that only the wiring knows (R452) is open: the shares are free values
(log entry 72).
-/

namespace Sys2Proof.Machine

/-- The quadrant of engine `e` (R19). -/
def engQuad (e : Nat) : Nat :=
  match engBlk e with
  | 3 => engInst e / 2
  | 6 => 2 * engInst e + 1
  | 7 => 0
  | _ => engInst e

/-- Cycles of island `i` in the next `dt` ns (R496). -/
def Mach.cycles (m : Mach) (i dt : Nat) : Nat :=
  let f := m.get (F.kilnIsl_MHZ i)
  (m.now + dt) * f / 1000 - m.now * f / 1000

/-- A free number up to `n`. -/
def Mach.upTo (m : Mach) (n : Nat) : Nat × Mach :=
  let (x, m) := m.free
  (x.toNat % (n + 1), m)

/-- Stall cycles of engine `e` under reason `r`, and of the job they belong to (R452, R455). -/
def Mach.stallAdd (m : Mach) (e r j n : Nat) : Mach :=
  (m.profAdd (R.engCntStall (engBlk e) (engInst e) r) n).profAdd (R.trcJobStall j r) n

/-- `c` cycles split among input wait, output wait, bank conflict and translation miss (R452). -/
def Mach.stallSplit (m : Mach) (e j c : Nat) : Mach :=
  let (a, m) := m.upTo c
  let (b, m) := m.upTo (c - a)
  let (d, m) := m.upTo (c - a - b)
  (((m.stallAdd e 4 j a).stallAdd e 3 j b).stallAdd e 0 j d).stallAdd e 1 j (c - a - b - d)

/-- The type under which a command's BUSY cycles count (R453): ATTN does both MACs and special functions. -/
def Mach.busyType (m : Mach) (c : Cmd) : Option Nat × Mach :=
  match c.opcode with
  | 0x10 | 0x20 | 0x61 => (some 0, m)
  | 0x30 => let (t, m) := m.upTo 1; (some t, m)
  | 0x40 => (some 1, m)
  | 0x43 => (if 0x11 ≤ c.f 4 0 8 && c.f 4 0 8 ≤ 0x15 then some 1 else none, m)
  | 0x44 | 0x50 | 0x51 | 0x52 | 0x60 => (some 2, m)
  | _ => (none, m)

/-- Engine `e` counts its cycles of the next `dt` ns (R452, R453). -/
def Mach.engTick (m : Mach) (dt e : Nat) : Mach :=
  let c := m.cycles (24 + engQuad e) dt
  let x := m.engine e
  let b := engBlk e
  let n := engInst e
  if c = 0 then m
  else
    match x.run with
    | some (_, cmd) =>
      let (busy, m) := m.upTo c
      let m := (m.profAdd (R.engCntBusy b n) busy).profAdd (R.trcJobBusy cmd.job) busy
      let (t, m) := m.busyType cmd
      let m := match t with
        | some t => m.cond (m.profiles cmd) (·.profAdd (R.engBusyT b n t) busy)
        | none => m
      let m := m.modEng e fun y => { y with cmdBusy := y.cmdBusy + busy, cmdStall := y.cmdStall + (c - busy) }
      m.stallSplit e cmd.job (c - busy)
    | none =>
      let heads := x.q0.take 1 ++ x.q1.take 1 ++ x.q2.take 1
      match heads with
      | [] => m.profAdd (R.engCntIdle b n) c
      | h :: _ =>
        if heads.any m.ready then m.stallSplit e h.job c
        else if m.on (F.schJobStat_PREEMPTED h.job) || m.on (F.schJobStat_PAUSED h.job) then m.stallAdd e 5 h.job c
        else m.stallAdd e 2 h.job c

/-- Core `k` stands before a WAIT (R454). -/
def Mach.atWait (m : Mach) (k : Nat) : Bool :=
  match m.coreFetch k with
  | .ok w => match coreDecode 0 k w with | some (.wait _ _ _ _ _) => true | _ => false
  | .error _ => false

/-- Cluster `cl` counts the core-cycles of `c` cycles (R454). -/
def Mach.flrTick (m : Mach) (c cl : Nat) : Mach :=
  let busy := ((List.range 64).map (64 * cl + ·)).filter fun k => (m.core k).running
  let m := m.profAdd (R.flrCntIdle cl) (c * (64 - busy.length))
  busy.foldl (fun m k =>
    if m.atWait k then m.profAdd (R.flrCntWait cl) c
    else let (s, m) := m.upTo c; m.profAdd (R.flrCntStall cl) s) m

/-- `dt` ns pass: the cycle counters, then the base counter and the event queues. -/
def Mach.tick (m : Mach) (dt : Nat) : Mach :=
  if dt = 0 then m
  else
    let m := (List.range 23).foldl (fun m e => m.engTick dt e) m
    let c := m.cycles 0 dt
    let m := if c = 0 then m else partClusters.foldl (fun m cl => m.flrTick c cl) m
    m.advance dt

end Sys2Proof.Machine
end

