-- ==== Sys2Proof/Machine/Look.lean ====
section
/-!
DEFINITION. What the registers show (R13, R14): the stored word, and for the registers that follow the machine what they show of it
now. Looking changes nothing; what a read does besides is in Machine/Ctl.lean.
-/

namespace Sys2Proof.Machine

/-! ## The status outputs -/

/-- Intervals of the flash pattern (R418): pause, pulses of the high digit, pause, pulses of the low digit. -/
def flashLen (c : Nat) : Nat := 2 + 2 * (c / 16 + 1) + 2 * (c % 16 + 1)

/-- The length of interval `i` in ms, and whether FAULT is active in it. -/
def flashPart (c i : Nat) : Nat × Bool :=
  let hi := 2 * (c / 16 + 1)
  if i = 0 then (1500, false)
  else if i ≤ hi then (200, i % 2 = 1)
  else if i = hi + 1 then (800, false)
  else (200, (i - hi - 1) % 2 = 1)

/-- The FAULT output (R3, R407, R418). -/
def Mach.faultPin (m : Mach) : Bool :=
  if m.on F.rstStat_MINIMAL then (flashPart (m.get F.rstFault_CODE) m.rst.flash).2 else m.faultActive

/-- The READY output (R407): STANDBY is not ready. -/
def Mach.readyPin (m : Mach) : Bool :=
  m.get F.rstStat_PHASE = 7 && !m.on F.rstStat_MINIMAL && !m.on F.pwrStat_PWRFAIL && !m.tngIs 5

/-! ## Composed words -/

/-- MGT_STAT (R471). -/
def Mach.mgtStatNat (m : Mach) : Nat :=
  let b (x : Bool) (i : Nat) : Nat := x.toNat * 2 ^ i
  m.chainPos * 2 ^ 59 + m.get F.rstFault_SRC * 2 ^ 52 + b (m.on F.mgtSpiStat_ERR) 31 + m.get F.rstStat_REASON * 2 ^ 23
    + m.get F.rstStat_PHASE * 2 ^ 19 + m.get F.pwrStat_STAGE * 2 ^ 16 + b (m.get F.secStat_STATE = 0) 15
    + b (m.on F.timWallStat_HOLDOVER) 14 + b (m.get F.timReelStat_STATE != 1) 13 + b (m.on F.fioStat_SAFE) 12
    + b (m.on F.rstStat_MINIMAL) 11 + b m.faultPin 10 + b m.readyPin 9
    + (if m.on F.rstStat_MINIMAL then 3 else m.get F.schStat_MODE) * 2 ^ 7 + m.get F.tngStat_STATE * 2 ^ 4

/-- Word `n` of a PTP stamp FIFO (R472): stamps and identity of its head, then its header fields. -/
def ptpWord (q : List Stamp) (n : Nat) : Nat :=
  match q with
  | [] => 0
  | s :: _ =>
    match n with
    | 0 => (s.wall % 2 ^ 64).toNat
    | 1 => (s.base % 2 ^ 64).toNat
    | 2 => s.clock.toNat
    | _ => 2 ^ 63 + q.length % 128 * 2 ^ 56 + s.typ % 16 * 2 ^ 52 + s.domain % 256 * 2 ^ 44 + s.port % 65536 * 2 ^ 28 + s.seq % 65536

/-- Word `n` of the selected log entry (R466, R475). -/
def Mach.logWord (m : Mach) (n : Nat) : Nat :=
  match m.logEntry (m.get F.logRdSeq_SEQ) with
  | some b => numAt b (8 * n) 8
  | none => if n = 7 then 2 ^ 31 else 0

/-- Control offset `o` is a per-job cycle counter (R382, R455). -/
def jobCounter (o : Nat) : Bool := 0x190A000 ≤ o && o < 0x190B000

/-- A counter's value as a read returns it (R382). -/
def Mach.counted (m : Mach) (o : Nat) (w : Word) : Word :=
  if jobCounter o && !m.on F.secStat_SERVICE then w &&& ~~~(0x3FF : Word) else w

/-- First registers of the arrays that have shadows. -/
def snapBases : List Nat :=
  [R.grsCntLines 0, R.grsCntErr 0, R.grsCntTrg 0, R.grsUartStat 0, R.mshCnt 0, R.mshCxCnt 0 0, R.strmStat 0 0 0, R.flrEcc 0, R.tunEcc 0,
   R.hopCnt, R.hopCntHalo, R.hopEntStep 0, R.schAccWait 0, R.schAccWmax 0, R.schAccCnt 0, R.schAccVerd 0, R.schAccVerd2 0, R.schAccHist 0 0,
   R.schJobWm 0, R.synStat, R.mbxStat, R.posPos 0, R.posEdgeReel 0, R.posCnt 0, R.cmpCnt 0, R.cmpCnt2 0, R.fioChCnt 0, R.fioGrpCnt 0,
   R.fioIwStat 0, R.fioIcCount 0, R.fioIcFreq 0, R.pnxCnt 0, R.pnxLink 0, R.tngCnt, R.memEccStat, R.secIsoCnt, R.pwrCnt, R.timBase,
   R.timReel, R.timWall, R.trcRecCnt, R.trcJobStep 0, R.trcJobBusy 0, R.trcJobStall 0 0, R.trcJobIssue 0, R.flrCntIssue 0, R.flrCntStall 0,
   R.flrCntWait 0, R.flrCntIdle 0]

/-- The register at control offset `o` has a shadow (R456): one of the arrays above, or an engine's counter (R474). -/
def snapReg (o : Nat) : Bool :=
  match regAt o with
  | some (r, _) => snapBases.contains r.base || (0x200000 ≤ o && o < 0x800000 && 0x100 ≤ o % 0x10000)
  | none => false

/-- The shadow of the register at TRC_SNAP_SEL.ADDR (R457), if it has one: one that was at its reset value is not listed. -/
def Mach.snapWord (m : Mach) : Option Word :=
  let o := m.get F.trcSnapSel_ADDR * 8
  if m.snap.id = 0 || !snapReg o then none
  else some (m.counted o (match m.snap.shadows.find? fun s => s.1 = o with | some s => s.2 | none => regReset o))

/-- `old` with the bits of `mask` from `n`, a number placed there. -/
def showing (old : Word) (mask n : Nat) : Word := (old &&& ~~~(BitVec.ofNat 64 mask)) ||| (BitVec.ofNat 64 n &&& BitVec.ofNat 64 mask)

/-- The word of the register at control offset `o` (R13): WO bits read 0; an unmapped offset reads 0. -/
def Mach.lookRaw (m : Mach) (o : Nat) : Word :=
  match regAt o with
  | none => 0
  | some (r, ix) =>
    let w := m.rd o &&& ~~~(BitVec.ofNat 64 r.wo)
    let i := ix.headD 0
    let num (n : Nat) : Word := BitVec.ofNat 64 n
    let all : Nat := 2 ^ 64 - 1
    if r.base = R.mgtStat then num m.mgtStatNat
    else if r.base = R.mgtWdog then num ((m.mgt.kickAt + m.mgt.wdMs * 1000000 - m.now) / 1000000)
    else if r.base = R.rstStat then showing w (2 ^ 46) (m.readyPin.toNat * 2 ^ 46)
    else if r.base = R.timBase then num m.now
    else if r.base = R.timReel then BitVec.ofInt 64 m.reel
    else if r.base = R.timWall then BitVec.ofInt 64 m.wall
    else if r.base = R.timPtpRx 0 then num (ptpWord m.tim.rx i)
    else if r.base = R.timPtpTx 0 then num (ptpWord m.tim.tx i)
    else if r.base = R.logCnt then showing w (all - 0xFFFF0000) (m.log.lost * 2 ^ 32 + m.logBuf.length)
    else if r.base = R.logRdW 0 then num (m.logWord i)
    else if r.base = R.kilnStat then
      showing w (0x1FFFF * 2 ^ 15) (match m.kiln.boost with | some (_, e) => (e - m.now) / 1000000 % 2 ^ 17 * 2 ^ 15 | none => 0)
    else if r.base = R.secCert then (if m.get F.secCertSel_INDEX < m.get F.secCertSel_LEN then Config.certWord (m.get F.secCertSel_INDEX) else 0)
    else if r.base = R.grsLinAcc 0 then
      showing w 0xFFFF (spGet linReset (m.grsPort i).lin (m.get (F.grsLinAcc_EXP i) * 4096 + m.get (F.grsLinAcc_INDEX i)))
    else if r.base = R.grsFfAcc 0 then showing w 0xFFFFFFFF (spGet ffReset (m.grsPort i).ff (m.get (F.grsFfAcc_INDEX i)))
    else if r.base = R.mshCxToneAcc 0 0 then
      let c := i + 16 * ix.getD 1 0
      let n := m.get (cxf F.mshCxToneAcc_INDEX c)
      showing w 0xFFFF (if n ≤ 480 then spGet toneReset (m.cx c).tone (m.get (cxf F.mshCxToneAcc_CH c) * 512 + n) else 0)
    else if r.base = R.grsUartRx 0 then m.uartRxWord i
    else if r.base = R.cmpEntryW 0 0 then entryWord (m.entry i (m.get (F.cmpEntrySel_INDEX i))) (ix.getD 1 0)
    else if r.base = R.synStat then showing w 0xFFFFFFFF m.synWaiting
    else if r.base = R.fioInW then
      showing w 0xFFFFFFFF ((List.range 32).foldl (fun n i => n + (m.levelW i).toNat * 2 ^ i) 0)
    else if r.base = R.fioStat then showing w 4 (m.twinPres.toNat * 4)
    else if r.base = R.pnxChain then showing w 0x3000 (m.isB.toNat * 0x2000 + m.twinPres.toNat * 0x1000)
    else if r.base = R.trcTraceWidx then num m.tracer.widx
    else if r.base = R.trcTraceCnt then num (m.tracer.dropped * 2 ^ 32 + m.tracer.stallUs)
    else if r.base = R.trcSnapData then (m.snapWord).getD 0
    else w ||| spGet (fun _ => 0) m.prof o

/-- The word as a read returns it, per-job counters coarsened (R382). -/
def Mach.look (m : Mach) (o : Nat) : Word := m.counted o (m.lookRaw o)

end Sys2Proof.Machine
end

