-- ==== Sys2Proof/Machine/Reset.lean ====
section
/-!
DEFINITION. Resets (R397 to R400, R405, R406): what each reach resets, how sources are asserted, wait and are released; failed starts and
MINIMAL (R414 to R418); the host link (R437); the watchdog's expiry and the dump (R425, R463).
-/

namespace Sys2Proof.Machine

/-! ## The host link (R434, R437) -/

/-- The HOST-path slots of context `c` are discarded and counted (R106). -/
def Mach.hostDrop (m : Mach) (c : Nat) : Mach :=
  let q := (m.cx c).queue
  let n := q.countP (·.host)
  if n = 0 then m
  else ((m.bump (cxf F.mshCxCnt_ASSIST_DROPPED c) n).modCx c fun y => { y with queue := q.filter fun s => !s.host }).assistShow c q.length

/-- The host port can no longer be reached or write (R437): HOST-path blocks are discarded; an export ends without EXPORT_DONE. -/
def Mach.hostDown (m : Mach) : Mach :=
  let m := (((m.setb F.mgtPcieStat_UP false).set F.mgtPcieStat_WIDTH 0).set F.mgtPcieStat_SPEED 0).setb F.trcExportCtl_BUSY false
  (m.cxs.map (·.1)).foldl (fun m c => m.hostDrop c) m

/-- The host link goes down (R437). -/
def Mach.pcieDown (m : Mach) : Mach :=
  if m.on F.mgtPcieStat_UP then m.hostDown.emit 0x18 0x1A 0 [(4, 0), (3, 0)] else m

/-! ## What a reach resets (R28, R397) -/

/-- The 1 MB windows of the compute die's blocks: engines, floor, Tun, HOP, SCH, SYN, MBX, TRC. -/
def computeWin (w : Nat) : Bool := (2 ≤ w && w ≤ 13) || w = 25

/-- Those of the I/O die's blocks: GRS, MSH, POS, CMP, FIO, PNX, TNG, MEM, SEC. -/
def iodWin (w : Nat) : Bool := w ≤ 1 || (14 ≤ w && w ≤ 20)

/-- Registers and runs of the windows that `f` selects return to reset. -/
def Mach.dropWin (m : Mach) (f : Nat → Bool) : Mach :=
  { m with regs := m.regs.filter fun r => !f (r.1 / 0x100000)
           runs := m.runs.filter fun r => !f (r.blk - 1)
           evDropped := m.evDropped.filter fun d => !f (d.1 / 0x10000 - 1) }

/-- The compute die returns to its reset state (R397): floor, engines, HOP, SCH, SYN, MBX, TRC. -/
def Mach.computeDown (m : Mach) : Mach :=
  let m := m.forward.dropWin computeWin
  { m with
      mon := [], verdQ := [], loadAt := 0, bucketAt := 0, started := false, ownVerdicts := [], peerVerdicts := [], ownDigests := [],
      peerDigests := [], recBuf := [], recDropped := 0, recFirst := 0, recFreeze := none, eng := [], cores := [], istore := [],
      ports := [], mbxWait := [], jobs := [], clJob := [], asms := [], clq := [], running := [], tileSeq := 0, clIdle := [],
      jobRt := [], switching := none, restart := none, hop := [], pages := [], widx := [], tbuf := [], lastMode := 1, rplSeen := [],
      rplRec := [], recCkpts := [], ckptAt := 0, ckptN := 0, rplPos := 0, rplOff := 0, rplExp := [], rplCov := [], rplChoices := [], rplPre := [],
      tracer := {}, prof := [], snap := {} }

/-- The I/O die returns to its reset state (R397), DRAM controller and keys with it; FIO stays when `keepFio`. -/
def Mach.iodDown (m : Mach) (keepFio : Bool) : Mach :=
  let m := m.forward.pcieDown.dropWin fun w => iodWin w && !(keepFio && w = 16)
  let m := { m with
      pos := [], cmp := [], pulses := [], lateUntil := 0, grs := [], pipes := [], cxs := [], lanes := [], links := [], tng := {},
      msix := [], pba := 0, spg := none, drbgAt := 0, drbgN := 0, healthRun := 0, keysAt := 0, dramKeys := false, chain := [],
      pkgDigest := 0 }
  let m := if keepFio then m else { m with fioCh := [], swActs := [], fioW := [], fioC := [] }
  m.reelPick

/-- Backup registers (R397, R401). -/
def backupReg (o : Nat) : Bool := 0x1C00100 ≤ o && o < 0x1C00200

/-- A cold reset (R397, R441): everything but the NVM, the backup registers, the straps, and what RST itself carries over. -/
def Mach.coldDown (m : Mach) : Mach :=
  { Mach.reset with
      nvm := m.nvm, fresh := m.fresh, twinPres := m.twinPres, twinB := m.twinB, hostOut := m.hostOut, pcieOut := m.pcieOut
      regs := m.regs.filter fun r => backupReg r.1
      rst := { low := m.rst.low, latched := m.rst.latched, pkgSlot := m.rst.pkgSlot, fwSlot := m.rst.fwSlot, fallback := m.rst.fallback } }

/-- Every CMP axis stops by R258 when the compute die is reset (R404); RUN keeps its value. -/
def Mach.cmpHalt (m : Mach) (a : Nat) : Mach :=
  let st := m.get (F.cmpCtl_STATE a)
  if st = 0 then m else (m.set (F.cmpCtl_STATE a) 0).cond (st = 1) (·.cmpDiscard a 6)

/-- What breaks the guarantee outside SCH breaks it again once SCH is reset (R199). -/
def Mach.guarAgain (m : Mach) : Mach :=
  (m.cond (m.get F.pwrStat_STAGE != 0) (·.setb F.schGuar_SUPPLY true)).cond (m.get F.kilnStat_LEVEL = 3 && m.class0Works) (·.setb F.schGuar_CLOCK true)

/-- The parts that a reach resets, in reset. -/
def Fx.dieReset (x : Fx) (reach : Nat) : Fx :=
  match reach with
  | 0 => (x.mach (·.coldDown)).put [.clear 0 0x1106000000]
  | 1 =>
    let x := x.mach fun m => (m.computeDown.iodDown false).guarAgain.jobFaultLine
    (x.mach fun m => (((m.setFaultSrc 1 false).setFaultSrc 3 false).cond (m.on F.rstStat_MINIMAL) (·.safeCause 3))).put [.clear 0 0x1106000000]
  | _ =>
    let x := x.mach fun m => ((List.range 8).foldl (fun m a => m.cmpHalt a) m).computeDown.guarAgain.jobFaultLine
    x.put [.clear 0x1000000000 0x1106000000]

/-! ## Sources (R398 to R400) -/

/-- An NVM write or erase is in progress, of which a pulse may be running (R400). -/
def Mach.nvmBusy (m : Mach) : Bool :=
  m.on F.celCalCtl_BUSY || m.get F.mgtUpdStat_STATE = 1 || m.get F.mgtDump_STATE = 3 || m.on F.mgtNetCtl_BUSY || !m.logBuf.isEmpty

/-- A calibration store is abandoned (R395, R421): the header of its slot is absent, and the slot is erased or torn, whichever of
them being open (log entry 78). -/
def Mach.calLeft (m : Mach) : Mach :=
  let m := m.set F.celCalCtl_RESULT 3
  match m.mgt.cal with
  | some (slot, b) =>
    let (f, m) := m.free
    let m := m.nvmErase (calBase slot) (calBase slot + 0x300000)
    let m := m.cond (f.getLsbD 0) (·.nvmPut (calBase slot + 64) b)
    m.set (if slot = 0 then F.celCalStat_SEQ0 else F.celCalStat_SEQ1) 0
  | none => m

/-- NVM stores in progress are abandoned (R395, R421, R468). -/
def Mach.storesDrop (m : Mach) : Mach :=
  let m := m.cond (m.on F.celCalCtl_BUSY) fun m => (m.setb F.celCalCtl_BUSY false).calLeft
  let m := m.setb F.mgtNetCtl_BUSY false
  let m := m.cond m.mgt.upd.isSome (·.wr R.mgtUpdStat 0)
  { m with mgt := { m.mgt with upd := none, cal := none } }

/-- The release sequence of a reach (R399, R404): a start follows cold and warm, the compute die alone is loaded again after compute;
MINIMAL is left only by cold (R417). -/
def Mach.released (m : Mach) (reach : Nat) : Mach :=
  let ph := m.get F.rstStat_PHASE
  let m := { m with rst := { m.rst with asserted := none } }
  if reach = 0 then { m.set F.rstStat_PHASE 0 with rst := { m.rst with startAt := m.now, part := false } }
  else if m.on F.rstStat_MINIMAL then m
  else if reach = 1 then
    { m.set F.rstStat_PHASE 1 with rst := { m.rst with startAt := m.now, part := false, failedAt := none, tries := 0, autoAt := none } }
  else
    { m.set F.rstStat_PHASE (min ph 4) with
        rst := { m.rst with part := ph = 7, startAt := if ph = 7 then m.now else m.rst.startAt, tries := 0, autoAt := none } }

/-- A reset of sources `srcs` and reach `reach` takes effect (R398, R399, R416, R465); nRESET_IN low holds it. -/
def Fx.resetNow (x : Fx) (srcs reach : Nat) (deferred : Bool) : Fx :=
  let commanded := srcs.testBit 0 || srcs.testBit 1 || srcs.testBit 3 || srcs.testBit 4
  let old := x.m.rd R.rstCause
  let tail := reach = 0 && !srcs.testBit 7 && (srcs.testBit 1 || srcs.testBit 3 || srcs.testBit 6)
  let x := x.mach fun m => { m with rst := { m.rst with waits := false } }
  let x := if tail then x.logTail else x
  let x := if reach ≤ 1 then x.mach (·.storesDrop) else x
  let x := x.dieReset reach
  x.mach fun m =>
    let m := (m.set F.celBkp0_CAUSE (old.extractLsb' 0 8).toNat).set F.celBkp0_REACH (old.extractLsb' 8 2).toNat
    let m := m.cond commanded (·.set F.celBkp0_FAILS 0)
    let m := m.set F.rstStat_FAILS (m.get F.celBkp0_FAILS)
    let m := ((m.set F.rstCause_SRC srcs).set F.rstCause_REACH reach).setb F.rstCause_DEFERRED deferred
    let m := m.emit 0x17 0x10 0 [(8, (srcs : Int)), (2, (reach : Int))]
    if m.rst.low then { m with rst := { m.rst with asserted := some (srcs, reach) } } else m.released reach

/-- A source is asserted (R395, R399, R400): held in a power-fail stop; joined with those that wait or hold; deferred by an NVM pulse,
whether one runs just now being open (log entry 9). -/
def Fx.assertReset (x : Fx) (src reach : Nat) : Fx :=
  if x.m.on F.pwrStat_PWRFAIL then
    x.mach fun m => { m with supply := { m.supply with held := m.supply.held ||| 2 ^ src } }
  else
    match x.m.rst.asserted with
    | some (s, r) =>
      if x.m.rst.waits then x.mach fun m => { m with rst := { m.rst with asserted := some (s ||| 2 ^ src, min r reach) } }
      else
        x.mach fun m => { m.set F.rstCause_SRC (s ||| 2 ^ src) with rst := { m.rst with asserted := some (s ||| 2 ^ src, min r reach) } }
    | none =>
      if x.m.nvmBusy then
        let (f, m) := x.m.free
        if f.getLsbD 0 then { x with m := { m with rst := { m.rst with asserted := some (2 ^ src, reach), waits := true } } }
        else { x with m }.resetNow (2 ^ src) reach false
      else x.resetNow (2 ^ src) reach false

/-- Parts of the module are in reset, or its clocks are stopped (R398, R425): commands of other units do not occur. -/
def Mach.halted (m : Mach) : Bool := m.rst.frozen || (m.rst.asserted.isSome && !m.rst.waits)

/-- NRESET_IN (R398): the pin has been low for 10 samples. -/
def nresetInFx (x : Fx) : Fx :=
  if x.m.rst.low then x else (x.mach fun m => { m with rst := { m.rst with low := true } }).assertReset 1 0

/-- RESET_RELEASE (R399): the pin is high again; the reset it held ends unless it still waits. -/
def resetRelease (m : Mach) : Mach :=
  if !m.rst.low then m
  else
    let m := { m with rst := { m.rst with low := false } }
    match m.rst.asserted with
    | some (_, r) => if m.rst.waits then m else m.released r
    | none => m

/-- DEFERRED_RESET (R400): the pulse has ended. -/
def deferredResetFx (x : Fx) : Fx :=
  match x.m.rst.asserted with
  | some (s, r) => if x.m.rst.waits then x.resetNow s r true else x
  | none => x

/-- POWER_ON (R398): the supply has risen; nothing but what VBAT and the NVM keep is left. -/
def powerOnFx (x : Fx) : Fx :=
  let x := x.mach fun m =>
    { m with rst := { m.rst with asserted := none, low := false, waits := false, frozen := false, pkgSlot := none, fwSlot := none, fallback := false }
             logBuf := [], logLost := 0, evq := [] }
  let x := x.mach fun m => m.setb F.pwrStat_PWRFAIL false
  x.resetNow 1 0 false

/-- PWRFAIL_RECOVER (R396, R501): 17.2 V or above in every sample for 100 ms after the stop's end, and 60 s after a thermal trip. -/
def pwrfailRecoverFx (x : Fx) : Fx :=
  match x.m.supply.failAt with
  | some t =>
    if (match x.m.supply.good with | some g => decide (g + 100000000 ≤ x.m.now) | none => false) && (!x.m.supply.trip || t + 60000000000 ≤ x.m.now) then
      let held := x.m.supply.held
      (x.mach (·.setb F.pwrStat_PWRFAIL false)).resetNow (0x80 ||| held) 0 false
    else x
  | none => x

/-- RETENTION_LOSS (R401, R492): the always-on detector latches. -/
def retentionLoss (m : Mach) : Mach := { m with rst := { m.rst with latched := true } }

/-! ## Failed starts and MINIMAL (R414 to R418) -/

/-- MINIMAL mode is entered (R417). -/
def Fx.minimal (x : Fx) (reason : Nat) : Fx :=
  let x := x.mach fun m =>
    let m := ((m.setb F.rstStat_MINIMAL true).set F.rstFault_CODE reason).setFaultSrc 6 true
    let m := { (m.computeDown.iodDown true).safeCause 3 with rst := { m.rst with flash := 0, flashAt := m.now } }
    m.emit 0x17 0x15 0 [(8, (reason : Int))]
  x.put [.clear 0 0x1106000000]

/-- A start is under way (R404, R414). -/
def Mach.starting (m : Mach) : Bool :=
  m.get F.rstStat_PHASE != 7 && !m.on F.rstStat_MINIMAL && m.rst.failedAt.isNone && !m.on F.pwrStat_PWRFAIL && !m.halted

/-- START_FAILED (R416): the reason is recorded and raised, FAILS counts, FAULT is active; the third goes to MINIMAL. -/
def startFailedFx (reason : Nat) (x : Fx) : Fx :=
  if !x.m.starting then x
  else
    let fails := x.m.get F.celBkp0_FAILS
    let x := x.mach fun m =>
      let m := (m.set F.celBkp1_REASONS (m.get F.celBkp1_REASONS * 256 + reason % 256)).set F.rstStat_REASON reason
      let m := m.emit 0x17 0x14 0 [(8, (reason : Int)), (8, (fails : Int))]
      let m := (m.bump F.celBkp0_FAILS).set F.rstStat_FAILS (min 15 (fails + 1))
      { m.setFaultSrc 5 true with rst := { m.rst with failedAt := some m.now } }
    if fails + 1 = 3 then x.minimal reason else x

/-- START_TIMEOUT (R414). -/
def startTimeoutFx (x : Fx) : Fx :=
  if decide (x.m.rst.startAt + x.m.pkg.startTmoS * 1000000000 ≤ x.m.now) then startFailedFx 0x12 x else x

/-- START_RETRY (R416, R469): 100 ms of FAULT after a failed start, a cold reset; a start with TRIAL set goes back to the other firmware
slot, else the other package slot is used when its HEADER, MANIFEST and signature verify; `signed` stands for the last. -/
def startRetryFx (signed : Bool) (x : Fx) : Fx :=
  match x.m.rst.failedAt with
  | some t =>
    if !x.m.on F.rstStat_MINIMAL && decide (t + 100000000 ≤ x.m.now) then
      let trial := x.m.boot.trial
      let fw := x.m.get F.rstStat_FW_SLOT
      let pk := x.m.get F.rstStat_PKG_SLOT
      let c := x.m.pkgCheck (1 - pk) signed
      let otherOk := signed && c.reason ≠ 4 && c.reason ≠ 5
      let x := x.mach fun m =>
        let m := m.cond trial (·.bootWrite fun t => { t with fw := 1 - fw, trial := false })
        { m with rst := { m.rst with fwSlot := if trial then some (1 - fw) else m.rst.fwSlot, pkgSlot := some (if otherOk then 1 - pk else pk),
                                     fallback := trial || otherOk } }
      x.assertReset 6 0
    else x
  | none => x

/-- FAULT_FLASH (R418): the interval of the pattern ends and the next begins. -/
def faultFlash (m : Mach) : Mach :=
  let c := m.get F.rstFault_CODE
  let d := (flashPart c m.rst.flash).1 * 1000000
  if m.on F.rstStat_MINIMAL && decide (m.rst.flashAt + d ≤ m.now) then
    { m with rst := { m.rst with flash := (m.rst.flash + 1) % flashLen c, flashAt := m.rst.flashAt + d } }
  else m

/-! ## The watchdog and the dump (R425, R463) -/

/-- A number goes into a rising list. -/
def insertNat (x : Nat) : List Nat → List Nat
  | [] => [x]
  | y :: t => if x ≤ y then x :: y :: t else y :: insertNat x t

/-- The offsets of a row's registers from its base. -/
def dimOffs : List (Nat × Nat) → List Nat
  | [] => [0]
  | (n, st) :: ds => (List.range n).flatMap fun i => (dimOffs ds).map (i * st + ·)

/-- The registers of a block that are not write-only (R463), as control offsets; those of LOG and ID, and of CEL, which raise no events
of their own, stand with MGT's and RST's (log entry 73). -/
def blockRegs (blk : Nat) : List Nat :=
  (regRows (blockBase blk / 0x100000) ++ (if blk = 0x18 then regRows 26 ++ regRows 31 else if blk = 0x17 then regRows 28 else [])).flatMap fun r => if r.wo = 2 ^ 64 - 1 then [] else (dimOffs r.dims).map (r.base + ·)

/-- The instances of a block (R29). -/
def blockInsts (blk : Nat) : List Nat :=
  match blk with
  | 0x01 => List.range 16
  | 0x02 => List.range 16
  | 0x03 => List.range 4
  | 0x04 => List.range 8
  | 0x05 => List.range 4
  | 0x06 => List.range 4
  | 0x07 => List.range 2
  | 0x08 => [0]
  | 0x09 => partClusters
  | 0x0A => List.range 4
  | 0x0F => List.range 8
  | 0x10 => List.range 8
  | 0x12 => List.range 28
  | _ => []

/-- The control offsets of a unit's registers (R29), first and after the last. -/
def unitSpan (blk inst : Nat) : Nat × Nat :=
  let b := blockBase blk
  match blk with
  | 0x09 => (b + inst * 0x1000, b + inst * 0x1000 + 0x1000)
  | 0x0F => (b + inst * 0x1000, b + inst * 0x1000 + 0x1000)
  | 0x10 => (b + inst * 0x1000, b + inst * 0x1000 + 0x1000)
  | 0x12 => (b + inst * 0x1000, b + inst * 0x1000 + 0x1000)
  | _ => (b + inst * 0x10000, b + inst * 0x10000 + 0x10000)

/-- A section: a 16-byte header and its body (R463). -/
def dumpSection (kind blk inst : Nat) (body : List Byte) : List Byte :=
  leBytes 1 blk ++ leBytes 1 kind ++ leBytes 2 inst ++ leBytes 4 body.length ++ leBytes 4 (crc32c body) ++ leBytes 4 0 ++ body

/-- A register section (R463): the registers at the offsets, ascending, each as its offset and the word it shows. -/
def Mach.regSection (m : Mach) (blk inst : Nat) (offs : List Nat) : List Byte :=
  dumpSection 1 blk inst ((offs.foldl (fun l o => insertNat o l) []).flatMap fun o => leBytes 4 o ++ leBytes 4 0 ++ leBytes 8 (m.lookRaw o).toNat)

/-- The register sections of a block: its instances, then what belongs to none. -/
def Mach.blockSections (m : Mach) (blk : Nat) : List (List Byte) :=
  let all := blockRegs blk
  let inOf (i : Nat) (o : Nat) : Bool := let s := unitSpan blk i; s.1 ≤ o && o < s.2
  let rest := all.filter fun o => !(blockInsts blk).any fun i => inOf i o
  ((blockInsts blk).map fun i => m.regSection blk i (all.filter (inOf i))) ++ (if rest.isEmpty then [] else [m.regSection blk 0xFFFF rest])

/-- The management domain's blocks, by event block code (R17, R28), and the others. -/
def mgtBlocks : List Nat := [0x16, 0x17, 0x18, 0x19, 0x1B]
def otherBlocks : List Nat := (List.range 0x15).map (· + 1) ++ [0x1A]

/-- A core's state in a dump (R463): PC, a state word that the spec does not lay out, s1 to s31. -/
def Mach.coreDump (m : Mach) (k : Nat) : List Byte :=
  let c := m.core k
  leBytes 4 c.pc ++ leBytes 4 (Config.unstated 0x7302 [c.running.toNat, c.plan, c.tile])
    ++ (List.range 31).flatMap fun i => leBytes 8 (c.sreg (i + 1)).toNat

/-- The dump's sections by kind, then block, then instance (R463; log entry 73). -/
def Mach.dumpSections (m : Mach) : List (List Byte) :=
  let evs (blk inst : Nat) := (m.evq.filter fun e => e.blk = blk && e.inst = inst).flatMap fun e => entryBytes 0 e
  let units := (m.evq.map fun e => unitKey e.blk e.inst).foldl (fun l k => if l.contains k then l else insertNat k l) []
  let slots (q : List Cmd) := (q.flatMap fun c => c.words.flatMap fun w => leBytes 8 w.toNat) ++ List.replicate (4096 - 64 * q.length) 0
  (mgtBlocks.flatMap m.blockSections) ++ (otherBlocks.flatMap m.blockSections)
    ++ (units.map fun k => dumpSection 2 (k / 0x10000) (k % 0x10000) (evs (k / 0x10000) (k % 0x10000)))
    ++ ((List.range 23).map fun e => let x := m.engine e; dumpSection 3 (engBlk e + 1) (engInst e) (slots x.q0 ++ slots x.q1 ++ slots x.q2))
    ++ (partClusters.map fun c => dumpSection 4 0x09 c ((List.range 64).flatMap fun i => m.coreDump (64 * c + i)))
    ++ [dumpSection 5 0x18 0 (m.logBuf.flatMap fun e => entryBytes 0 e)]

/-- The leading sections that fit 4 MB less the header, and whether one was left out. -/
def fitSections (room : Nat) : List (List Byte) → List (List Byte) × Bool
  | [] => ([], false)
  | s :: t => if s.length ≤ room then let (l, c) := fitSections (room - s.length) t; (s :: l, c) else ([], true)

/-- The dump is written, or skipped because one is held (R463). -/
def Mach.dump (m : Mach) (cause job : Nat) : Mach :=
  if m.get F.mgtDump_STATE != 0 then m.emit 0x18 0x13 0 []
  else
    let seq := (m.get F.celBkp2_DUMP_SEQ + 1) % 2 ^ 32
    let (secs, trunc) := fitSections (0x400000 - 256) m.dumpSections
    let body := secs.flatten
    let len := 256 + body.length
    let h := leBytes 4 0x444D5031 ++ leBytes 4 1 ++ leBytes 4 len ++ leBytes 4 seq ++ leBytes 4 cause ++ leBytes 4 job
      ++ leBytes 8 (m.reel % 2 ^ 64).toNat ++ leBytes 8 (m.wall % 2 ^ 64).toNat ++ leBytes 8 m.now ++ leBytes 8 (m.rd R.idSerial).toNat
      ++ leBytes 8 m.pkgDigest.toNat ++ leBytes 8 (m.get F.rstStat_FW_SLOT)
      ++ [R.celBkp0, R.celBkp1, R.celBkp2, R.celBkp3].flatMap (fun o => leBytes 8 (m.rd o).toNat)
      ++ leBytes 4 trunc.toNat ++ leBytes 4 secs.length
    let h := h ++ List.replicate (252 - h.length) 0
    let m := (m.nvmPut (dumpBase + 256) body).nvmPut dumpBase (h ++ leBytes 4 (crc32c h))
    let m := (((m.set F.celBkp2_DUMP_SEQ seq).set F.celBkp2_DUMP_PTR dumpBase).set F.mgtDump_STATE 1).set F.mgtDump_SEQ seq
    m.emit 0x18 0x12 0 [(32, (seq : Int)), (32, (len : Int)), (1, (trunc.toNat : Int))]

/-- The watchdog expires with a cause (R414, R425): before READY a failed start; after READY the safe state, the freeze, the dump, the
flush of the log, and the cold reset. -/
def Fx.wdogExpire (x : Fx) (cause job : Nat) : Fx :=
  if x.m.on F.rstStat_MINIMAL || x.m.on F.pwrStat_PWRFAIL || x.m.halted then x
  else if x.m.get F.rstStat_PHASE != 7 then startFailedFx 0x10 x
  else
    let x := x.mach fun m =>
      let m := ((m.safeCause 4).setFaultSrc 4 true).emit 0x18 0x10 0 [(3, (cause : Int))]
      let m := { m with rst := { m.rst with frozen := true } }
      let m := m.cond (m.on F.mgtWdogCfg_DUMP_EN) (·.dump cause job)
      let m := m.forward
      m.logFlush m.logBuf.length
    x.assertReset 2 0

/-- WDOG_EXPIRED (R425): not kicked for WD_MS ms, or the lockstep cores disagree; the other causes have their own rows. -/
def wdogExpiredFx (cause : Nat) (x : Fx) : Fx :=
  if cause = 1 then
    if decide (x.m.mgt.kickAt + x.m.mgt.wdMs * 1000000 ≤ x.m.now) then x.wdogExpire 1 0 else x
  else if cause = 2 then x.wdogExpire 2 0
  else x

/-- FORCE (R425): a write of MGT_DUMP.FORCE. -/
def forceFx (x : Fx) : Fx := x.wdogExpire 4 0

/-- WDOG_KICK (R425): a write of MGT_WDOG, which counts from agent 0x001 with the key alone; WD_MS applies from now on. -/
def wdogKick (agent : Nat) (val : Word) (m : Mach) : Mach :=
  if agent = 1 && (val.extractLsb' 48 16).toNat = 0x4B49 then
    { m with mgt := { m.mgt with kickAt := m.now, wdMs := clampN 10 60000 (m.get F.mgtWdogCfg_WD_MS) } }
  else m

/-- DUMP_CLEAR (R463): a write of MGT_DUMP.CLEAR; the region's erase starts. -/
def dumpClear (m : Mach) : Mach := if m.get F.mgtDump_STATE = 1 then m.set F.mgtDump_STATE 3 else m

/-- DUMP_ERASED (R463). -/
def dumpErased (m : Mach) : Mach :=
  if m.get F.mgtDump_STATE = 3 then
    ((m.nvmErase dumpBase (dumpBase + 0x400000)).set F.mgtDump_STATE 0).set F.mgtDump_SEQ 0
  else m

/-- Job `j` holds a queued or running tile or engine command (R462). -/
def Mach.jobHolds (m : Mach) (j : Nat) : Bool :=
  (m.running.any fun t => t.tile.job = j) || ((m.clq.flatMap (·.2)).any fun t => t.job = j) || !(m.jrt j).waiting.isEmpty
    || m.eng.any fun y => ((y.2.q0 ++ y.2.q1 ++ y.2.q2).any fun c => c.job = j) || (match y.2.run with | some (_, c) => c.job = j | none => false)

/-- JOB_HANG (R462): no progress for HANG_MS ms; once a hang, and with ACT the watchdog expires. -/
def jobHangFx (j : Nat) (x : Fx) : Fx :=
  let m := x.m
  let r := m.jrt j
  let ms := m.get (F.mgtHang_HANG_MS j)
  let told := match r.hung with | some t => decide (r.progressAt ≤ t) | none => false
  if j < 64 && ms != 0 && m.jobState j = 2 && !m.on (F.schJobStat_PREEMPTED j) && !m.on (F.schJobStat_PAUSED j) && m.jobHolds j
      && decide (r.progressAt + ms * 1000000 ≤ m.now) && !told then
    let act := m.on (F.mgtHang_ACT j)
    let x := x.mach fun m => (m.modJob j fun r => { r with hung := some m.now }).emit 0x18 0x11 0 [(6, (j : Int)), (1, (act.toNat : Int))]
    if act then x.wdogExpire 3 j else x
  else x

/-! ## RST_CMD and block resets (R398, R405, R406) -/

/-- The engine of event block `blk` and instance `inst`. -/
def engOf (blk inst : Nat) : Option Nat := (List.range 23).find? fun e => engBlk e = blk - 1 && engInst e = inst

/-- The unit may be reset by a block reset (R405). -/
def blockOk (blk inst : Nat) : Bool :=
  match blk with
  | 0x01 => inst < 16
  | 0x02 => inst < 16
  | 0x09 => inst < 96 && clusterExists inst
  | 0x0F => inst < 8
  | 0x10 => inst < 8
  | 0x12 => inst < 28
  | _ => (engOf blk inst).isSome

/-- A package register's configuration and shadow bits are stored (R405, R410). -/
def Mach.reloadReg (m : Mach) (r : Nat × Word) : Mach :=
  match regAt r.1 with
  | some (row, _) =>
    let k : Word := BitVec.ofNat 64 (row.cfg ||| row.shadow)
    m.wr r.1 ((m.rd r.1 &&& ~~~k) ||| (r.2 &&& k))
  | none => m

/-- Linearisation, flat-field and tone tables of the package (R410), and with them the active sets of the contexts (R87), for the ports and contexts that `gp` and `mc` select. -/
def Mach.loadTables (m : Mach) (gp mc : Nat → Bool) : Mach :=
  let m := (m.pkg.lin.filter fun t => gp t.1).foldl (fun m t =>
    m.modGrs t.1 fun g => { g with lin := spPut linReset g.lin (t.2.1 * 4096 + t.2.2.1) t.2.2.2 }) m
  let m := (m.pkg.ff.filter fun t => gp t.1).foldl (fun m t =>
    m.modGrs t.1 fun g => { g with ff := spPut ffReset g.ff t.2.1 (t.2.2.1 * 2 ^ 16 + t.2.2.2) }) m
  let m := (m.pkg.tone.filter fun t => mc t.1).foldl (fun m t =>
    m.modCx t.1 fun c => { c with tone := spPut toneReset c.tone (t.2.1 * 512 + t.2.2.1) t.2.2.2 }) m
  ((List.range 32).filter mc).foldl (fun m c => m.modCx c fun y => { y with active := m.shadow c 0 }) m

/-- Items of a unit that a block reset loses (R406): queued and running commands, tiles, and writes on their way. -/
def Mach.blockItems (m : Mach) (blk inst : Nat) : Nat :=
  match blk with
  | 0x02 => (m.pipe inst).out.length
  | 0x09 => (m.clQueue inst).length + (m.running.filter fun t => t.cluster = inst).length
  | _ =>
    match engOf blk inst with
    | some e => let x := m.engine e; x.q0.length + x.q1.length + x.q2.length + x.run.isSome.toNat
    | none => 0

/-- What the unit holds behind its registers, in reset. -/
def Mach.blockDrop (m : Mach) (blk inst : Nat) : Mach :=
  match blk with
  | 0x01 => m.modGrs inst fun _ => {}
  | 0x02 =>
    let m := m.modPipe inst fun _ => {}
    { m with cxs := m.cxs.filter fun c => c.1 % 16 ≠ inst }
  | 0x09 =>
    let m := (List.range 64).foldl (fun m i => (m.coreStop (64 * inst + i)).modCore (64 * inst + i) fun _ => {}) m
    { m.setClq inst [] with running := m.running.filter fun t => t.cluster ≠ inst, ports := m.ports.filter fun p => p.1 / 256 ≠ inst }
  | 0x0F => m.modPos inst fun _ => {}
  | 0x10 => (m.cmpSafeStop inst).modCmp inst fun _ => {}
  | _ =>
    match engOf blk inst with
    | some e => m.modEng e fun _ => {}
    | none => m

/-- BLOCK_RESET (R405, R406): one unit instance returns to reset, its configuration is loaded again, its function stays STOPPED. -/
def Fx.blockReset (x : Fx) (blk inst : Nat) : Fx :=
  if x.m.on F.pwrStat_PWRFAIL then x.mach fun m => { m with supply := { m.supply with held := m.supply.held ||| 0x20 } }
  else
    let x := if blk = 0x12 then x.laneOff inst else x
    x.mach fun m =>
      let n := m.blockItems blk inst
      let (lo, hi) := unitSpan blk inst
      let old := m.rd R.rstCause
      let m := (m.runsEnd fun r => r.blk = blk && r.inst = inst).blockDrop blk inst
      let m := { m with regs := m.regs.filter fun r => !(lo ≤ r.1 && r.1 < hi), prof := m.prof.filter fun r => !(lo ≤ r.1 && r.1 < hi) }
      let m := (m.pkg.regs.filter fun r => lo ≤ r.1 && r.1 < hi).foldl (fun m r => m.reloadReg r) m
      let m := m.loadTables (fun p => blk = 1 && p = inst) (fun c => blk = 2 && c % 16 = inst)
      let m := m.cond (blk = 9) fun m => (match m.clusterJob inst with | some j => m.set (F.flrStat_JOB inst) j | none => m).setIdle inst
      let m := (m.set F.celBkp0_CAUSE (old.extractLsb' 0 8).toNat).set F.celBkp0_REACH (old.extractLsb' 8 2).toNat
      let m := ((m.set F.rstCause_SRC 0x20).set F.rstCause_REACH 3).setb F.rstCause_DEFERRED false
      (m.bump F.rstBlk_LOST n).emit 0x17 0x11 0 [(8, (blk : Int)), (16, (inst : Int)), (32, (n : Int))]

/-- A write of RST_CMD (R398): GLOBAL_WARM_RESET, GLOBAL_COLD_RESET, COMPUTE_RESET and BLOCK_RESET by KIND; a wrong key, kind or block
raises CMD_REFUSED. -/
def rstCmdFx (val : Word) (x : Fx) : Fx :=
  let kind := (val.extractLsb' 0 3).toNat
  let blk := (val.extractLsb' 40 8).toNat
  let inst := (val.extractLsb' 30 10).toNat
  let refused := x.mach (·.emit 0x17 0x12 0 [(3, (kind : Int)), (8, (blk : Int))])
  if (val.extractLsb' 48 16).toNat ≠ 0x5A17 then refused
  else
    match kind with
    | 1 => x.assertReset 3 1
    | 2 => x.assertReset 3 0
    | 3 => x.assertReset 4 2
    | 4 => if blockOk blk inst then x.blockReset blk inst else refused
    | _ => refused

end Sys2Proof.Machine
end

