-- ==== Sys2Proof/Machine/Power.lean ====
section
/-!
DEFINITION. The logic supply and its shedding (R389 to R395), and Kiln (R496 to R502): sensors, boost, thermal levels.
-/

namespace Sys2Proof.Machine

/-! ## Boost (R496 to R498) -/

/-- The compute-die islands run at `mhz` (R496). -/
def Mach.islands (m : Mach) (mhz : Nat) : Mach :=
  (List.range 29).foldl (fun m i => if m.get (F.kilnIsl_STATE i) = 0 then m else m.set (F.kilnIsl_MHZ i) mhz) m

/-- Boost ends with a reason (R498); a cool-down of 60 s starts. -/
def Mach.boostEnd (m : Mach) (reason : Nat) : Mach :=
  match m.kiln.boost with
  | none => m
  | some _ =>
    let m := { m.islands 1500 with kiln := { m.kiln with boost := none, cool := some (m.now + 60000000000) } }
    ((m.setb F.kilnStat_BOOST false).setb F.kilnStat_COOLDOWN true).emit 0x1B 0x11 0 [(3, (reason : Int))]

/-- The first condition of R497 that fails; 0 when boost may start. -/
def Mach.boostBar (m : Mach) : Nat :=
  if !m.on F.kilnCfg_BOOST_EN then 1
  else if m.on F.kilnStat_COOLDOWN then 2
  else if 640 < m.geti F.kilnStat_TCP then 3
  else if m.get F.kilnStat_LEVEL != 0 then 4
  else if 3 ≤ m.get F.pwrStat_STAGE then 5
  else 0

/-- A boost request for `s` seconds (R497). -/
def Mach.boost (m : Mach) (s : Nat) : Mach :=
  let s := min s 120
  if s = 0 then m
  else
    match m.kiln.boost with
    | some (since, _) => { m with kiln := { m.kiln with boost := some (since, min (m.now + s * 1000000000) (since + 120000000000)) } }
    | none =>
      let why := m.boostBar
      if why ≠ 0 then (m.bump F.kilnCnt_REFUSED).emit 0x1B 0x12 0 [(3, (why : Int))]
      else
        let m := { m.islands 1650 with kiln := { m.kiln with boost := some (m.now, m.now + s * 1000000000) } }
        ((m.setb F.kilnStat_BOOST true).bump F.kilnCnt_BOOSTS).emit 0x1B 0x10 0 [(7, (s : Int))]

/-- BOOST_S (R497, R498): a write of KILN_CTL; an END bit acts before the request. -/
def boostS (val : Word) (m : Mach) : Mach := (m.cond (val.getLsbD 63) (·.boostEnd 2)).boost (val.extractLsb' 0 7).toNat

/-- END (R498): a write of KILN_CTL.END. -/
def endBoost (m : Mach) : Mach := m.boostEnd 2

/-- BOOST_TIMEOUT (R498). -/
def boostTimeout (m : Mach) : Mach :=
  match m.kiln.boost with
  | some (_, e) => if decide (e ≤ m.now) then m.boostEnd 1 else m
  | none => m

/-- COOLDOWN_END (R498). -/
def cooldownEnd (m : Mach) : Mach :=
  match m.kiln.cool with
  | some t => if decide (t ≤ m.now) then { m.setb F.kilnStat_COOLDOWN false with kiln := { m.kiln with cool := none } } else m
  | none => m

/-! ## Shedding (R391 to R393) -/

/-- Every fabric lane follows its causes of L2 (R306, R393). -/
def Mach.fabricHold (m : Mach) : Mach := (List.range 16).foldl (fun m i => m.laneHold (12 + i)) m

/-- Records that stalled producers hold are dropped and counted (R460). -/
def Mach.traceShed (m : Mach) : Mach :=
  let us := m.tracer.held.foldl (fun a h => a + (m.now - h.1) / 1000) 0
  let m := m.tracer.held.foldl (fun m _ => m.traceDrop) m
  { m with tracer := { m.tracer with held := [], stallUs := min (m.tracer.stallUs + us) (2 ^ 32 - 1) } }

/-- Stage `k` is entered (R391, R393). -/
def Mach.stageEnter (m : Mach) (k : Nat) : Mach :=
  let v := m.get F.pwrStat_VIN
  let m := (m.set F.pwrStat_STAGE k).setb F.pwrStat_NOTICE true
  let m := { m with supply := { m.supply with stages := (k, true, m.reel) :: m.supply.stages } }
  let m := m.emit 0x16 0x10 0 [(3, (k : Int)), (16, (v : Int))]
  match k with
  | 1 => { (m.bump F.pwrCnt_ST1).guarBreak F.schGuar_SUPPLY with shed := m.shed ||| 4 }.traceShed
  | 2 => { m.bump F.pwrCnt_ST2 with shed := m.shed ||| 2 }.fabricHold
  | 3 => (m.bump F.pwrCnt_ST3).boostEnd 5
  | _ => m

/-- Stage `k` is left (R391, R393). -/
def Mach.stageExit (m : Mach) (k : Nat) : Mach :=
  let v := m.get F.pwrStat_VIN
  let m := { m.set F.pwrStat_STAGE (k - 1) with supply := { m.supply with stages := (k, false, m.reel) :: m.supply.stages } }
  let m := m.emit 0x16 0x11 0 [(3, (k : Int)), (16, (v : Int))]
  match k with
  | 1 => { m.setb F.schGuar_SUPPLY false with shed := m.shed &&& (0xFF - 4) }
  | 2 => { m with shed := m.shed &&& (0xFF - 2) }.fabricHold
  | _ => m

/-- Stages 1 to 3 with the V below which they are entered and from which they are left, in 10 mV (R391). -/
def stageTable : List (Nat × Nat × Nat) := [(1, 2040, 2080), (2, 1920, 1960), (3, 1800, 1840)]

/-- Stages are entered in ascending and left in descending order (R392). -/
def Mach.stages (m : Mach) (v : Nat) : Mach :=
  let m := stageTable.foldl (fun m s => if m.get F.pwrStat_STAGE + 1 = s.1 && v < s.2.1 then m.stageEnter s.1 else m) m
  stageTable.reverse.foldl (fun m s => if m.get F.pwrStat_STAGE = s.1 && s.2.2 ≤ v then m.stageExit s.1 else m) m

/-- SUPPLY_SAMPLE (R389 to R392, R394, R396): V is the mean of the samples of the last 100 µs. -/
def supplySample (s : Nat) (m : Mach) : Mach :=
  let l := (s :: m.supply.samples).take 10
  let v := l.foldl (· + ·) 0 / l.length
  let after := match m.supply.failAt with | some t => m.on F.pwrStat_PWRFAIL && decide (t + 8000000 ≤ m.now) | none => false
  let m := { m with supply := { m.supply with
    samples := l
    hist := (v :: m.supply.hist).take 100
    low := if s < 1680 then (if m.supply.low.isSome then m.supply.low else some m.now) else none
    good := if after && 1720 ≤ s then (if m.supply.good.isSome then m.supply.good else some m.now) else none } }
  let m := ((m.set F.pwrStat_VIN v).set F.pwrMinmax_VMAX (max v (m.get F.pwrMinmax_VMAX))).set F.pwrMinmax_VMIN (min v (m.get F.pwrMinmax_VMIN))
  let m := if 3250 < v && !m.supply.high then { m with supply := { m.supply with high := true } }.emit 0x16 0x13 0 [(16, (v : Int))]
    else if v ≤ 3200 then { m with supply := { m.supply with high := false } } else m
  if m.on F.pwrStat_PWRFAIL then m else m.stages v

/-! ## The power-fail stop (R394, R395) -/

/-- The power-fail record of the cellar (R402; log entry 74): t_D, the last 100 values of V, the stage history, the step reached, CRC. -/
def Mach.pfRecord (m : Mach) : List Byte :=
  let v := (m.supply.hist ++ List.replicate (100 - m.supply.hist.length) 0).flatMap fun x => leBytes 2 x
  let st := (m.supply.stages.take 46).flatMap fun s => leBytes 8 (s.1 + 16 * s.2.1.toNat) ++ w8i s.2.2
  let b := padTo 948 (w8i m.reel ++ v ++ st)
  let b := b ++ leBytes 8 7
  b ++ leBytes 4 (crc32c b)

/-- The stop from t_D on (R394): every stage, the safe state, FAULT, no job and no verdict any more, the dies and lanes off, the log
flushed, the entry of a thermal trip with it (R501), and its rest kept in the cellar, the DRAM keys destroyed, the record closed. -/
def Fx.powerFailStop (x : Fx) (trip : Bool) : Fx :=
  let x := x.mach fun m =>
    let m := [1, 2, 3, 4].foldl (fun m k => if m.get F.pwrStat_STAGE < k then m.stageEnter k else m) m
    let m := ((m.setb F.pwrStat_PWRFAIL true).safeCause 2).setFaultSrc 2 true
    m.emit 0x16 0x12 0 [(32, m.reel)]
  let x := x.stopAll
  let x := x.mach fun m =>
    let held := match m.rst.asserted with | some (s, _) => s | none => 0
    let m := { (m.computeDown.iodDown true).storesDrop with
        supply := { m.supply with failAt := some m.now, trip, good := none, held }, rst := { m.rst with asserted := none, waits := false } }
    let m := (List.range 40).foldl (fun m i => m.wr (R.kilnIsl i) 0) m
    let m := (m.wr R.celBkp3 (BitVec.ofInt 64 m.reel)).count F.celBkp0_PWRFAILS
    let m := m.forward
    let upTo := if trip then m.logBuf.length - (m.logBuf.reverse.takeWhile fun e => !(e.blk = 0x1B && e.loc = 0x14)).length else 0
    let least := min (max 40 upTo) m.logBuf.length
    let (more, m) := m.upTo (m.logBuf.length - least)
    m.logFlush (least + more)
  let rec' := x.m.pfRecord
  (x.logTail.celPut 0x40 rec').put [.clear 0 0x1106000000]

/-- POWER_FAIL (R394, R489): every sample below 16.8 V for 1 ms, or the hold-up store at its reserve. -/
def powerFailFx (reserve : Bool) (x : Fx) : Fx :=
  let low := match x.m.supply.low with | some t => decide (t + 1000000 ≤ x.m.now) | none => false
  if !x.m.on F.pwrStat_PWRFAIL && (reserve || low) then x.powerFailStop false else x

/-! ## Sensors and thermal levels (R424, R499 to R502) -/

/-- Thermal levels 1 to 3 with the TJ from which they are entered and below which they are left, in 1/16 °C (R499). -/
def levelTable : List (Nat × Int × Int) := [(1, 1600, 1520), (2, 1760, 1680), (3, 1888, 1808)]

/-- Level `k` is entered (R499). -/
def Mach.levelEnter (m : Mach) (k : Nat) (tj : Int) : Mach :=
  let m := (m.set F.kilnStat_LEVEL k).emit 0x1B 0x13 0 [(2, (k : Int)), (16, tj)]
  match k with
  | 1 => m.boostEnd 4
  | 2 => { m.bump F.kilnCnt_LEVEL2 with shed := m.shed ||| 0x60 }
  | _ => ((m.bump F.kilnCnt_LEVEL3).islands 1200).clockShow

/-- Level `k` is left (R499). -/
def Mach.levelExit (m : Mach) (k : Nat) (tj : Int) : Mach :=
  let m := (m.set F.kilnStat_LEVEL (k - 1)).emit 0x1B 0x13 0 [(2, (k - 1 : Int)), (16, tj)]
  match k with
  | 2 => { m with shed := m.shed &&& (0xFF - 0x60) }
  | 3 => (m.islands 1500).clockShow
  | _ => m

/-- Failed die sensors (R500). -/
def Mach.sensFailed (m : Mach) (k : Nat) : Bool := (m.get F.kilnSensFail_FAILED).testBit k

/-- Levels follow TJ in the order of R392 (R499); with more than 4 failed sensors level 3 is held (R500). -/
def Mach.levels (m : Mach) (tj : Int) : Mach :=
  let forced := 4 < (List.range 24).countP m.sensFailed
  let m := levelTable.foldl (fun m s => if m.get F.kilnStat_LEVEL + 1 = s.1 && (forced || decide (s.2.1 ≤ tj)) then m.levelEnter s.1 tj else m) m
  levelTable.reverse.foldl (fun m s => if m.get F.kilnStat_LEVEL = s.1 && !forced && decide (tj < s.2.2) then m.levelExit s.1 tj else m) m

/-- Die sensor `k` as its register shows it. -/
def tempFld (k : Nat) : Fld := ⟨R.mgtSensTemp (k / 4), 16 * (k % 4), 16⟩

/-- The hottest die sensor that has not failed, the lowest-numbered of equals (R478, R500). -/
def Mach.hottest (m : Mach) : Option (Nat × Int) :=
  (List.range 24).foldl (fun (a : Option (Nat × Int)) k =>
    if m.sensFailed k then a
    else
      let t := m.geti (tempFld k)
      match a with
      | some (_, u) => if u < t then some (k, t) else a
      | none => some (k, t)) none

/-- Sums of the readings of a window: input power and current, die powers, rail currents. -/
def addSums : List Nat → List Nat → List Nat
  | a :: s, b :: t => (a + b) :: addSums s t
  | [], t => t
  | s, [] => s

/-- The means of a window that is complete (R383): power in W and current in 0.05 A, or 0.01 W and 0.001 A in service mode. -/
def Mach.publish (m : Mach) : Mach :=
  let n := m.supply.winN
  if n = 0 then m
  else
    let service := m.on F.secStat_SERVICE
    let mean (i unit : Nat) : Nat := (divRound (m.supply.winSum.getD i 0) ((n * (if service then 1 else unit) : Nat) : Int)).toNat
    let m := (m.set F.pwrIn_POWER (min 65535 (mean 0 100))).set F.pwrIn_CURRENT (min 65535 (mean 1 50))
    let m := (m.set F.kilnPower_COMPUTE (min 65535 (mean 2 100))).set F.kilnPower_IOD (min 65535 (mean 3 100))
    (List.range 12).foldl (fun m k => m.set (F.mgtSensRail_CURRENT k) (mean (4 + k) 50)) m

/-- The sample joins its window; one that begins a new window publishes the last (R383; log entry 75). -/
def Mach.windowAdd (m : Mach) (l : List Nat) : Mach :=
  let w := m.reel.fdiv (if m.on F.secStat_SERVICE then 1000000 else 100000000)
  if w = m.supply.win then { m with supply := { m.supply with winN := m.supply.winN + 1, winSum := addSums m.supply.winSum l } }
  else
    let m := m.publish
    { m with supply := { m.supply with win := w, winN := 1, winSum := l } }

/-- Die readings are stored; a sensor without one keeps its register and is timed (R424, R500). -/
def Mach.dieReads (m : Mach) (dies : List (Option Int)) : Mach :=
  (List.range 24).foldl (fun m k =>
    match dies.getD k none with
    | some t => { m.seti (tempFld k) t with kiln := { m.kiln with missing := m.kiln.missing.filter fun x => x.1 ≠ k } }
    | none =>
      if m.kiln.missing.any fun x => x.1 = k then m
      else { m with kiln := { m.kiln with missing := m.kiln.missing ++ [(k, m.now)] } }) m

/-- SENSOR_SAMPLE (R424, R496): readings, the power windows, the cold-plate mark, boost, thermal levels, the trip. -/
def sensorSampleFx (dies : List (Option Int)) (tcp : Int) (rails : List (Nat × Nat)) (inPower inCurrent pCompute pIod : Nat) (x : Fx) : Fx :=
  let x := x.mach fun m =>
    let m := (m.dieReads dies).seti F.mgtSensCold_T tcp
    let m := (List.range 12).foldl (fun m k => m.set (F.mgtSensRail_VOLT k) (rails.getD k (0, 0)).1) m
    let m := m.windowAdd ([inPower, inCurrent, pCompute, pIod] ++ (List.range 12).map fun k => (rails.getD k (0, 0)).2)
    let m := m.seti F.kilnStat_TCP tcp
    let m := match m.hottest with | some (_, t) => m.seti F.kilnStat_TJ t | none => m
    let mark := m.geti F.kilnCfg_COLD_MARK
    if decide (mark < tcp) && !m.kiln.cold then { m with kiln := { m.kiln with cold := true } }.emit 0x1B 0x15 0 [(16, tcp)]
    else if decide (tcp ≤ mark - 32) then { m with kiln := { m.kiln with cold := false } } else m
  if x.m.on F.pwrStat_PWRFAIL then x
  else
    let x := x.mach fun m => m.cond (decide (640 < tcp)) (·.boostEnd 3)
    let x := x.mach fun m => m.levels (m.geti F.kilnStat_TJ)
    match x.m.hottest with
    | some (k, t) =>
      if decide (2000 ≤ t) then
        (x.mach fun m => (m.emit 0x1B 0x14 0 [(5, (k : Int)), (16, t)]).boostEnd 6).powerFailStop true
      else x
    | none => x

/-- SENSOR_FAIL (R500): no reading for 10 ms. -/
def sensorFail (k : Nat) (m : Mach) : Mach :=
  let due := m.kiln.missing.any fun x => x.1 = k && decide (x.2 + 10000000 ≤ m.now)
  if k < 24 && due && !m.sensFailed k then
    let m := (m.set F.kilnSensFail_FAILED (m.get F.kilnSensFail_FAILED + 2 ^ k)).emit 0x1B 0x16 0 [(5, (k : Int))]
    let m := match m.hottest with | some (_, t) => m.seti F.kilnStat_TJ t | none => m
    m.cond (!m.on F.pwrStat_PWRFAIL) fun m => m.levels (m.geti F.kilnStat_TJ)
  else m

end Sys2Proof.Machine
end

