-- ==== Sys2Proof/Machine/Tim.lean ====
section
/-!
DEFINITION. Wall time and PTP (R443, R448 to R450), snapshots (R456, R457), and the trace ring's consumer side (R458 to R460).
-/

namespace Sys2Proof.Machine

/-! ## Wall time -/

/-- LATCH (R443): a write of TIM_LATCH. -/
def latch (m : Mach) : Mach :=
  ((m.wr R.timLatchB (BitVec.ofNat 64 m.now)).wr R.timLatchR (BitVec.ofInt 64 m.reel)).wr R.timLatchW (BitVec.ofInt 64 m.wall)

/-- HOLDOVER clears at the first write of RATE or ADJ after a Sync of the master (R450). -/
def Mach.wallWritten (m : Mach) : Mach :=
  (m.cond (m.on F.timWallStat_SEEN) (·.setb F.timWallStat_HOLDOVER false)).setb F.timWallStat_SEEN false

/-- WALL_RATE (R442, R448): a write of TIM_WALL_RATE. -/
def wallRateCmd (val : Word) (m : Mach) : Mach :=
  let r := (val.extractLsb' 0 48).toNat
  ((m.set F.timWallRate_RATE r).setWallRate r).wallWritten

/-- WALL_ADJ (R448): a write of TIM_WALL_ADJ. -/
def wallAdj (val : Word) (m : Mach) : Mach := (m.stepWall val.toInt).wallWritten

/-- Wall time at base count `b`, in whole ns (R442). -/
def Mach.wallAt (m : Mach) (b : Int) : Int := (m.wallT + (b - m.wallB) * m.wallRate).fdiv (2 ^ 40)

/-- HOLDOVER sets (R450). -/
def Mach.holdover (m : Mach) (why : Nat) : Mach :=
  if m.on F.timWallStat_HOLDOVER then m else (m.setb F.timWallStat_HOLDOVER true).emit 0x19 0x15 0 [(2, (why : Int))]

/-- The identity adopted as master (R450). -/
def Mach.isMaster (m : Mach) (clock : Word) (port : Nat) : Bool :=
  m.rd (R.timPtpMaster 0) = clock && (m.get (F.timPtpMaster_ID 1)) % 65536 = port

/-- PTP_EVENT_MESSAGE (R449, R450): messages of types 0 to 3 are stamped into their FIFO; a received Sync tells of its master. -/
def ptpEventMessage (rx : Bool) (typ domain : Nat) (clock : Word) (port seq : Nat) (m : Mach) : Mach :=
  if !m.on F.timPtpCfg_EN || 3 < typ then m
  else
    let base : Int := if rx then (m.now : Int) - m.get F.timPtpLat_RX_LAT else (m.now : Int) + m.get F.timPtpLat_TX_LAT
    let s : Stamp := { wall := m.wallAt base, base, clock, typ, domain, port, seq }
    let m :=
      if rx then
        if m.tim.rx.length < 64 then { m with tim := { m.tim with rx := m.tim.rx ++ [s] } } else m.bump F.timWallStat_RX_DROP
      else if m.tim.tx.length < 16 then { m with tim := { m.tim with tx := m.tim.tx ++ [s] } }
      else m.bump F.timWallStat_TX_DROP
    if rx && typ = 0 && domain = m.get F.timPtpCfg_DOMAIN then
      if m.isMaster clock port then { m.setb F.timWallStat_SEEN true with tim := { m.tim with syncAt := m.now } }
      else (m.emit 0x19 0x16 0 [(32, ((clock.extractLsb' 0 32).toNat : Int))]).holdover 2
    else m

/-- WALL_HOLDOVER (R450): no Sync of the master for SYNC_TMO_MS. -/
def wallHoldover (m : Mach) : Mach :=
  m.cond (m.on F.timPtpCfg_EN && decide (m.tim.syncAt + m.get F.timPtpCfg_SYNC_TMO_MS * 1000000 ≤ m.now)) (·.holdover 1)

/-- PTP_STAMP_READ (R449, R472): the read of SEQID removes the head entry. -/
def ptpStampRead (rx : Bool) (m : Mach) : Mach :=
  { m with tim := if rx then { m.tim with rx := m.tim.rx.tail } else { m.tim with tx := m.tim.tx.tail } }

/-! ## Snapshots (R456, R457) -/

/-- Units with shadows on this part (R456; log entry 76). -/
def snapUnits : Nat :=
  ([0x01, 0x02, 0x03, 0x04, 0x05, 0x06, 0x07, 0x08, 0x09, 0x0A, 0x0F, 0x10, 0x12].map fun b => (blockInsts b).length).foldl (· + ·) 11

/-- The snapshot is armed for a tick (R456). -/
def Mach.snapArmed (m : Mach) (id : Nat) (tick : Int) (late : Bool) : Mach :=
  { m.set F.trcSnapCtl_STATE (if late then 3 else 1) with snap := { m.snap with armed := some (id, tick, late) } }

/-- SNAP_ARM (R456): a write of TRC_SNAP_CTL; with CHAIN the command goes to every position. -/
def snapArm (val : Word) (m : Mach) : Mach :=
  let id := (val.extractLsb' 0 16).toNat
  let m := (m.setb F.trcSnapCtl_CHAIN (val.getLsbD 62)).set F.trcSnapCtl_ID id
  if !val.getLsbD 63 then m
  else
    let tick := m.get F.trcSnapTick_TICK
    let ahead := wrapI 64 ((tick : Int) - m.reel)
    if m.snap.armed.isSome || id = 0 || decide (ahead < 20000) || decide (10000000000 < ahead) then m.set F.trcSnapCtl_STATE 4
    else (m.snapArmed id (m.reel + ahead) false).cond (val.getLsbD 62) (·.tellAll 6 [id, tick])

/-- SNAP_COMMAND (R456): a chain position receives the command, too late when less than 20 µs before the tick. -/
def snapCommand (id : Nat) (tick : Int) (m : Mach) : Mach := m.snapArmed id tick (decide (tick < m.reel + 20000))

/-- SNAPSHOT (R456): at the tick every listed register is copied. -/
def snapshot (m : Mach) : Mach :=
  match m.snap.armed with
  | some (id, tick, late) =>
    if m.reel < tick then m
    else if late then
      { (m.set F.trcSnapCtl_MISSED snapUnits).emit 0x1A 0x12 0 [(16, (id : Int)), (16, (snapUnits : Int))] with
          snap := { m.snap with armed := none } }
    else
      let offs := ((m.regs.map (·.1) ++ m.prof.map (·.1)).filter snapReg).eraseDups ++ [R.timBase, R.timReel, R.timWall, R.synStat]
      { ((m.set F.trcSnapCtl_STATE 2).set F.trcSnapCtl_MISSED 0).emit 0x1A 0x11 0 [(16, (id : Int))] with
          snap := { armed := none, id, shadows := offs.map fun o => (o, m.lookRaw o) } }
  | none => m

/-- A read of TRC_SNAP_DATA (R457): SHADOW_ID names the shadow returned. -/
def Mach.snapRead (m : Mach) : Mach := m.set F.trcSnapSel_SHADOW_ID (if m.snapWord.isSome then m.snap.id else 0)

/-! ## The trace ring's consumer (R458 to R460) -/

/-- Held records enter the ring while it has room; the time they were held counts in STALL_US (R460). -/
def Mach.traceFlow : List (Nat × TRec) → Mach → Mach
  | [], m => { m with tracer := { m.tracer with held := [] } }
  | h :: t, m =>
    if m.traceFull || m.traceCap = 0 then { m with tracer := { m.tracer with held := h :: t } }
    else
      let us := min (m.tracer.stallUs + (m.now - h.1) / 1000) (2 ^ 32 - 1)
      Mach.traceFlow t { m.tracePut h.2 with tracer := { (m.tracePut h.2).tracer with stallUs := us } }

/-- RIDX_WRITE (R458, R460): a write of TRC_TRACE_RIDX. -/
def ridxWrite (val : Word) (m : Mach) : Mach :=
  let m := m.wr R.trcTraceRidx val
  Mach.traceFlow m.tracer.held m

/-- A write of TRC_TRACE_CTL (R199, R458, R509): a run of drops ends with capped mode, lossless breaks the guarantee; leaving it ends the stalls, their records going by the new mode. -/
def Mach.traceMode (m : Mach) (val : Word) : Mach :=
  let held := m.tracer.held
  let mode := (val.extractLsb' 0 2).toNat
  let m := (m.set F.trcTraceCtl_MODE mode).set F.trcTraceCtl_SRC (val.extractLsb' 8 7).toNat
  let m := m.cond (mode ≠ 1) (·.runEnd 0x1A 0x10 0 0)
  if mode = 2 then m.guarBreak F.schGuar_TRACE
  else
    let m := { m with tracer := { m.tracer with held := [] } }.setb F.schGuar_TRACE false
    if mode = 1 && m.traceCap != 0 then held.foldl (fun m h => m.tracePut h.2) m else m

/-- LOST (R459): the bucket has a token again; a record holding the dropped count is written and the run of drops is raised. -/
def lostCmd (m : Mach) : Mach :=
  let m := m.traceGain
  let t := m.tracer
  if m.get F.trcTraceCtl_MODE = 1 && t.lost != 0 && 1000 ≤ t.tok && m.traceCap != 0 then
    let r : TRec := { typ := 0x0B, job := Config.unstated 0x7102 [t.lost], agent := unitAgent 0x1A 0, layer := 0, operator := 0, sub := 0,
                      reel := m.coarse m.reel, arg0 := t.lost, arg1 := 0 }
    ({ m with tracer := { t with lost := 0, tok := t.tok - 1000 } }.tracePut r).runEnd 0x1A 0x10 0 0
  else m

end Sys2Proof.Machine
end

