-- ==== Sys2Proof/Machine/Upd.lean ====
section
/-!
DEFINITION. What writes the NVM on command: the update path (R467, R468), the network settings (R467), the calibration store
(R419 to R421).
-/

namespace Sys2Proof.Machine

/-! ## Update path (R468) -/

/-- The step's NCP status (R430) goes to RESULT (R471). -/
def Mach.updResult (m : Mach) (st : Nat) : Nat × Mach := (st, m.set F.mgtUpdStat_RESULT st)

/-- An update step is in progress: erasing or verifying (R430). -/
def Mach.updBusy (m : Mach) : Bool := m.get F.mgtUpdStat_STATE = 1 || m.get F.mgtUpdStat_STATE = 3

/-- Where a slot of a kind stands in the NVM, and its size (R403). -/
def slotSpan (kind slot : Nat) : Nat × Nat := if kind = 0 then (fwBase slot, 0x800000) else (pkgBase slot, pkgSize)

/-- BEGIN (R468): the slot of the kind that is not active is erased; a length outside the slot's is a LENGTH (log entry 77). -/
def Mach.updBegin (m : Mach) (kind len : Nat) : Nat × Mach :=
  if m.mgt.upd.isSome then m.updResult 6
  else
    let slot := 1 - (if kind = 0 then m.boot.fw else m.boot.pkg)
    let (at_, size) := slotSpan kind slot
    if len = 0 || size < len || len % 8 != 0 then m.updResult 4
    else
      let m := (m.nvmErase at_ (at_ + size)).set F.mgtUpdStat_STATE 1
      let m := { m.set F.mgtUpdStat_WPTR 0 with mgt := { m.mgt with upd := some { kind, slot, len, wptr := 0 } } }
      m.updResult 0

/-- UPD_ERASE_DONE (R468). -/
def updEraseDone (m : Mach) : Mach := m.cond (m.get F.mgtUpdStat_STATE = 1) (·.set F.mgtUpdStat_STATE 2)

/-- DATA (R468): words at the write pointer are programmed; others are a RANGE. -/
def Mach.updData (m : Mach) (off : Nat) (ws : List Word) : Nat × Mach :=
  match m.mgt.upd with
  | none => m.updResult 8
  | some u =>
    if m.updBusy then m.updResult 6
    else if off ≠ u.wptr || u.len < off + 8 * ws.length then m.updResult 8
    else
      let m := m.nvmPut ((slotSpan u.kind u.slot).1 + off) (wordBytes ws)
      let w := off + 8 * ws.length
      let m := { m.set F.mgtUpdStat_WPTR w with mgt := { m.mgt with upd := some { u with wptr := w } } }
      m.updResult 0

/-- COMMIT (R468): once the whole length is written the slot is read back; before that a LENGTH (log entry 77). -/
def Mach.updCommit (m : Mach) : Nat × Mach :=
  match m.mgt.upd with
  | none => m.updResult 8
  | some u =>
    if m.updBusy then m.updResult 6
    else if u.wptr ≠ u.len then m.updResult 4
    else (m.set F.mgtUpdStat_STATE 3).updResult 0

/-- What COMMIT reads back verifies (R468): firmware by its signature, which `signed` stands for; a package by R410 and R411. -/
def Mach.updGood (m : Mach) (u : Update) (signed : Bool) : Bool :=
  if u.kind = 0 then signed else let c := m.pkgCheck u.slot signed; c.reason ≠ 4 && c.reason ≠ 5

/-- UPDATE_DONE (R468): the slot verifies and the boot table names it, firmware with TRIAL; or it does not. -/
def updateDone (signed : Bool) (m : Mach) : Mach :=
  match m.mgt.upd with
  | none => m
  | some u =>
    if m.get F.mgtUpdStat_STATE ≠ 3 then m
    else
      let m := { m with mgt := { m.mgt with upd := none } }
      if m.updGood u signed then
        let m := m.bootWrite fun t => if u.kind = 0 then { t with fw := u.slot, trial := true } else { t with pkg := u.slot }
        ((m.set F.mgtUpdStat_STATE 4).set F.mgtUpdStat_RESULT 0).emit 0x18 0x16 0 [(1, (u.kind : Int)), (1, (u.slot : Int))]
      else ((m.set F.mgtUpdStat_STATE 5).set F.mgtUpdStat_RESULT 7).emit 0x18 0x17 0 [(1, (u.kind : Int)), (8, 7)]

/-- ABORT (R468): the slot stays partly written, the boot table unchanged. -/
def Mach.updAbort (m : Mach) : Nat × Mach :=
  ({ m.set F.mgtUpdStat_STATE 0 with mgt := { m.mgt with upd := none } } : Mach).updResult 0

/-- A write of MGT_UPD_CTL (R471): KIND and LEN, then the first of BEGIN, COMMIT and ABORT that is set. -/
def Mach.updCtl (m : Mach) (val : Word) : Mach :=
  let kind := (val.extractLsb' 32 1).toNat
  let len := (val.extractLsb' 0 32).toNat
  let m := (m.set F.mgtUpdCtl_KIND kind).set F.mgtUpdCtl_LEN len
  if val.getLsbD 63 then (m.updBegin kind len).2
  else if val.getLsbD 62 then m.updCommit.2
  else if val.getLsbD 61 then m.updAbort.2
  else m

/-- A write of MGT_UPD_DATA (R471): the next 8 bytes at WPTR. -/
def Mach.updWord (m : Mach) (val : Word) : Mach := (m.updData (m.get F.mgtUpdStat_WPTR) [val]).2

/-! ## Network settings (R467) -/

/-- NET_STORE: a write of MGT_NET_CTL.STORE. -/
def netStore (m : Mach) : Mach := m.setb F.mgtNetCtl_BUSY true

/-- NET_STORE_DONE: the boot table holds MGT_NET and MGT_NET_GW. -/
def netStoreDone (m : Mach) : Mach :=
  if m.on F.mgtNetCtl_BUSY then
    let a := m.get F.mgtNet_ADDR
    let p := m.get F.mgtNet_PREFIX
    let g := m.get F.mgtNetGw_GW
    (m.bootWrite fun t => { t with addr := a, pref := p, gw := g }).setb F.mgtNetCtl_BUSY false
  else m

/-! ## Calibration slots (R419 to R421) -/

/-- The 64-byte header of a slot whose record, framed by R409, takes `len` bytes with checksum `crc` (R419; log entry 78). -/
def calHeader (seq len crc : Nat) : List Byte :=
  let b := leBytes 4 0x43414C31 ++ leBytes 4 seq ++ leBytes 4 (len - 16) ++ leBytes 4 crc ++ List.replicate 44 0
  b ++ leBytes 4 (crc32c b)

/-- The SEQ of calibration slot `i` when the slot is valid (R419). -/
def Mach.calSeq (m : Mach) (i : Nat) : Option Nat :=
  let h := m.nvmBytes (calBase i) 64
  let len := numAt h 8 4 + 16
  let rec' := m.nvmBytes (calBase i + 64) (if len ≤ 0x300000 - 64 then len else 0)
  let r := m.nvRec (calBase i + 64) (calBase i + 0x300000)
  if numAt h 0 4 = 0x43414C31 && numAt h 60 4 = crc32c (h.take 60) && len ≤ 0x300000 - 64 && numAt h 12 4 = crc32c rec'
      && r.len + 16 = len && calGood r then some (numAt h 4 4)
  else none

/-- The valid slot of greater SEQ (R420). -/
def Mach.calBest (m : Mach) : Option (Nat × Nat) :=
  match m.calSeq 0, m.calSeq 1 with
  | some a, some b => if later b a then some (1, b) else some (0, a)
  | some a, none => some (0, a)
  | none, some b => some (1, b)
  | none, none => none

/-- CEL_CAL_STAT shows the slots (R423). -/
def Mach.calShow (m : Mach) : Mach := (m.set F.celCalStat_SEQ0 ((m.calSeq 0).getD 0)).set F.celCalStat_SEQ1 ((m.calSeq 1).getD 0)

/-- CAL_STORE (R421): a write of CEL_CAL_CTL; the record is read from DRAM, STORE being ignored while BUSY. -/
def calStoreFx (val : Word) (x : Fx) : Fx :=
  let x := x.mach (·.set F.celCalCtl_LEN (val.extractLsb' 0 22).toNat)
  if !val.getLsbD 63 || x.m.on F.celCalCtl_BUSY then x
  else
    let len := min 3145664 (x.m.get F.celCalCtl_LEN)
    let (b, x) := x.read mgtAcc (x.m.get F.celCalSrc_ADDR / 64 * 64) len
    x.mach fun m =>
      let slot := match m.calBest with | some (s, _) => 1 - s | none => 0
      { m.setb F.celCalCtl_BUSY true with mgt := { m.mgt with cal := some (slot, b.getD []) } }

/-- CAL_STORED (R421): the store ends: abandoned where `result` is 3; else the slot is written, header last, or the record was
invalid. -/
def calStored (result : Nat) (m : Mach) : Mach :=
  match m.mgt.cal with
  | some (slot, b) =>
    if !m.on F.celCalCtl_BUSY then m
    else
      let left := m.calLeft
      let done (m : Mach) : Mach := { m.setb F.celCalCtl_BUSY false with mgt := { m.mgt with cal := none } }
      let m := done m
      match (if result = 3 then 3 else if calGood (recOfBytes b) then 1 else 2) with
      | 1 =>
        let seq := match m.calBest with | some (_, q) => (q + 1) % 2 ^ 32 | none => 1
        let m := m.nvmErase (calBase slot) (calBase slot + 0x300000)
        let m := (m.nvmPut (calBase slot + 64) b).nvmPut (calBase slot) (calHeader seq b.length (crc32c b))
        let m := m.set (if slot = 0 then F.celCalStat_SEQ0 else F.celCalStat_SEQ1) seq
        (m.set F.celCalCtl_RESULT 1).emit 0x17 0x1D 0 [(1, (slot : Int)), (32, (seq : Int))]
      | 2 => m.set F.celCalCtl_RESULT 2
      | _ => done left
  | none => m

end Sys2Proof.Machine
end

