-- ==== Sys2Proof/Machine/Ctl.lean ====
section
/-!
DEFINITION. The control space (R11 to R16, R25, R29, R508): what a write and a read of any control offset do. A register with a
command of its own acts by that command's operation.
-/

namespace Sys2Proof.Machine

/-! ## Offsets -/

/-- The event block code under which window `w` of the control space raises its events (R17, R29). -/
def winBlock (w : Nat) : Option Nat :=
  if w ≤ 25 then some (w + 1)
  else if w = 26 then some 0x18
  else if w = 27 then some 0x1B
  else if w = 28 then some 0x17
  else none

/-- The instance that an event about control offset `o` names (R29, R508). -/
def winInst (o : Nat) : Nat :=
  let r := o % 0x100000
  let strided (st n : Nat) : Nat := if r < st * n then r / st else 0xFFFF
  match o / 0x100000 with
  | 0 => r / 0x10000
  | 1 => r / 0x10000
  | 2 => strided 0x10000 4
  | 3 => strided 0x10000 8
  | 4 => strided 0x10000 4
  | 5 => strided 0x10000 4
  | 6 => strided 0x10000 2
  | 7 => strided 0x10000 1
  | 8 => if clusterExists (r / 0x1000) then strided 0x1000 96 else 0xFFFF
  | 9 => strided 0x10000 4
  | 14 => strided 0x1000 8
  | 15 => strided 0x1000 8
  | 17 => strided 0x1000 28
  | _ => 0

/-- A register occupies control offset `o` on this part (R13, R20). -/
def regMapped (o : Nat) : Bool :=
  (regAt o).isSome && (o / 0x100000 ≠ 8 || clusterExists (o % 0x100000 / 0x1000))

/-- Offsets of the MSI-X table and of the Pending Bit Array (R435). -/
def msixTable (o : Nat) : Bool := 0x1780000 ≤ o && o < 0x1780400 && o % 8 = 0
def msixPba : Nat := 0x1781000

/-- An access to `o` meets a register, the MSI-X table or the PBA (R13). -/
def ctlMapped (o : Nat) : Bool := msixTable o || o = msixPba || regMapped o

/-- An access reached an unmapped offset (R13, R34). -/
def Mach.accessError (m : Mach) (o : Nat) : Mach :=
  match winBlock (o / 0x100000) with
  | some b => m.emit b 0x01 (winInst o) []
  | none => m

/-! ## Configuration fields -/

/-- The function to which a register of lock kind `l` belongs is not STOPPED (R25 and the rule that opens each register section). -/
def Mach.fnRuns (m : Mach) (l : Lock) (o : Nat) (ix : List Nat) : Bool :=
  let i := ix.headD 0
  match l with
  | .never => false
  | .port => m.get (F.grsStatus_STATE i) != 0
  | .pipe => m.get (F.mshCtl_STATE i) != 0
  | .ctx => match m.cxBinding (i + 16 * ix.getD 1 0) with | some (pl, _) => m.get (F.mshCtl_STATE pl) != 0 | none => false
  | .entry => m.jobLocked (m.hopJob i)
  | .job => m.jobLocked i
  | .anyJob => (List.range 64).any fun j => m.jobLocked j
  | .owner => m.jobLocked (m.get (F.mbxCfg_OWNER i))
  | .posAxis =>
    m.on (F.posCtl_RUN i) || (List.range 8).any (fun a => a = i && m.get (F.cmpCtl_STATE a) != 0)
      || (List.range 16).any fun p => m.get (F.grsStatus_STATE p) != 0 && m.on (F.grsTrg_AXIS_VALID p) && m.get (F.grsTrg_AXIS p) = i
  | .cmpStopped => (List.range 8).any fun a => m.get (F.cmpCtl_STATE a) != 0
  | .fioSafe => !m.on F.fioStat_SAFE
  | .laneOff => m.on (F.pnxCtl_EN i)
  | .stoppedMode => m.get F.schStat_MODE != 0
  | .window =>
    let w := o / 16 * 16
    (List.range 64).any (fun j => (m.rd (w + 8)).getLsbD j && m.jobLocked j) || ((m.rd w).getLsbD 3 && m.on F.mgtPcieStat_UP)
  | .stoppedOrMinimal => m.get F.schStat_MODE != 0 && !m.on F.rstStat_MINIMAL
  | .ptpOff => m.on F.timPtpCfg_EN
  | .recOff => m.on F.trcRecCtl_EN
  | .traceOff => m.get F.trcTraceCtl_MODE = 1 || m.get F.trcTraceCtl_MODE = 2

/-- The register's unit has answered a restart check (R213): an instance's or a Hopper entry's own, else any of the block's. -/
def Mach.regFrozen (m : Mach) (o : Nat) (ix : List Nat) : Bool :=
  match winBlock (o / 0x100000) with
  | none => false
  | some b =>
    if b = 0x0B then m.unitFrozen b fun e => 0x10000 ≤ o % 0x100000 → e = ix.headD 0
    else
      let n := winInst o
      m.unitFrozen b fun i => n = 0xFFFF || n = i || !(List.contains [1, 2, 15, 16, 18] b)

/-- A word written to a register (R14, R25, R89): RW fields take it, W1C bits clear, W1S bits set; a configuration field of a running
function keeps its value and, when it would change, CFG_LOCKED is raised once; a shadow field keeps its value while a commit is
pending, and SHADOW_BUSY is raised. -/
def Mach.store (m : Mach) (o : Nat) (r : RegRow) (ix : List Nat) (val : Word) : Mach :=
  let mask (n : Nat) : Word := BitVec.ofNat 64 n
  let old := m.rd o
  let c := ix.headD 0 + 16 * ix.getD 1 0
  let bar : Bool := r.cfg != 0 && (m.fnRuns r.lock o ix || m.regFrozen o ix)
  let busy : Bool := r.shadow != 0 && m.on (cxf F.mshCxTook_PENDING c)
  let keep := mask (r.run ||| (if bar then 0 else r.cfg) ||| (if busy then 0 else r.shadow))
  let m := m.wr o ((((old &&& ~~~keep) ||| (val &&& keep)) &&& ~~~(mask r.w1c &&& val)) ||| (mask r.w1s &&& val))
  let m := m.cond (bar && (old ^^^ val) &&& mask r.cfg != 0) (·.emit ((winBlock (o / 0x100000)).getD 0) 0x02 (winInst o) [])
  m.cond busy (·.shadowBusy c (o - cxBase c))

/-! ## Registers that act when written -/

/-- What a write does besides or in place of storing; `o`, `r`, `ix` name the register. -/
structure RegWrite where
  agent : Nat
  o : Nat
  r : RegRow
  ix : List Nat
  val : Word

/-- The write of a register without a command of its own. -/
def RegWrite.plain (w : RegWrite) (m : Mach) : Mach := m.store w.o w.r w.ix w.val

/-- The write stored, then a command of the register. -/
def RegWrite.thenM (w : RegWrite) (f : Mach → Mach) (x : Fx) : Fx := x.mach fun m => f (w.plain m)

def RegWrite.bit (w : RegWrite) (n : Nat) : Bool := w.val.getLsbD n
def RegWrite.num (w : RegWrite) (lo n : Nat) : Nat := (w.val.extractLsb' lo n).toNat

/-- PORT_STOP (R67): a write of GRS_CTL clears RUN; Hopper's entries of a port that stops end (R164). -/
def portStopFx (p : Nat) (part : Option (LineIn × Nat)) (x : Fx) : Fx := (x.mach (portStop p part)).hopPort p

/-- Camera ports (R67, R68, R74). -/
def RegWrite.grs (w : RegWrite) (x : Fx) : Fx :=
  let p := w.ix.headD 0
  if w.r.base = R.grsCtl 0 then if w.bit 0 then x.mach w.plain else portStopFx p none (x.mach w.plain)
  else if w.r.base = R.grsUartTx 0 then x.mach (uartTx p w.val)
  else if w.r.base = R.grsLinAcc 0 then
    x.mach (if w.bit 63 then linStore p (w.num 48 2) (w.num 32 12) (w.num 0 16) else linSelect p (w.num 48 2) (w.num 32 12))
  else if w.r.base = R.grsFfAcc 0 then
    x.mach (if w.bit 63 then ffStore p (w.num 32 15) (w.num 16 16) (w.num 0 16) else ffSelect p (w.num 32 15))
  else x.mach w.plain

/-- Pipelines and contexts (R88, R106, R107, R108). -/
def RegWrite.msh (w : RegWrite) (x : Fx) : Fx :=
  let pl := w.ix.headD 0
  let c := pl + 16 * w.ix.getD 1 0
  if w.r.base = R.mshCtl 0 then w.thenM (fun m => m.cond (!w.bit 0) (pipelineStop pl)) x
  else if w.r.base = R.mshCxCommit 0 0 then x.mach (commit c w.val)
  else if w.r.base = R.mshCxToneAcc 0 0 then
    x.mach (if w.bit 63 then toneStore c (w.num 48 2) (w.num 32 9) (w.num 0 16) else toneSelect c (w.num 48 2) (w.num 32 9))
  else if w.r.base = R.mshCxAssistDone 0 0 then (x.mach (assistDone c w.val)).hopAfter
  else x.mach w.plain

/-- Hopper (R176, R192): the pool's counts follow its configuration. -/
def RegWrite.hop (w : RegWrite) (x : Fx) : Fx :=
  if w.r.base = R.hopPool || w.r.base = R.hopPoolCfg || w.r.base = R.hopSpill then w.thenM (·.poolShow) x else x.mach w.plain

/-- SCH_JOB_CTL (R193, R225): RECIPE, then STOP and CLEAR. -/
def jobCtlFx (w : RegWrite) (x : Fx) : Fx :=
  let j := w.ix.headD 0
  let x := x.mach w.plain
  let x := if w.bit 0 then jobStopFx j x else x
  if w.bit 1 then x.mach (jobClear j) else x

/-- Scheduler, sync objects and mailboxes (R193, R212, R216, R220). -/
def RegWrite.sch (w : RegWrite) (x : Fx) : Fx :=
  if w.r.base = R.schJobCtl 0 then jobCtlFx w x
  else if w.r.base = R.schRestartCtl then restartArmFx w.val x
  else if w.r.base = R.synAdd then (x.mach (synAddCmd w.val)).hopAfter
  else if w.r.base = R.synObj 0 then (x.mach (synObjCmd (w.ix.headD 0) w.val)).hopAfter
  else if w.r.base = R.mbxSend 0 then x.mach (mbxSendCmd w.agent (w.ix.headD 0) w.val)
  else x.mach w.plain

/-- Position and compare (R229, R256, R258). -/
def RegWrite.cmp (w : RegWrite) (x : Fx) : Fx :=
  let a := w.ix.headD 0
  if w.r.base = R.posCtl 0 then w.thenM (fun m => m.cond (!w.bit 0) (posStop a)) x
  else if w.r.base = R.cmpCtl 0 then w.thenM (fun m => m.cond (!w.bit 0) (axisStop a)) x
  else if w.r.base = R.cmpLate then w.thenM (·.latePin) x
  else x.mach w.plain

/-- FIO_IN_C shows the level of class-C input `i` (R286). -/
def Mach.showC (m : Mach) (i : Nat) : Mach :=
  m.set F.fioInC_LEVEL (putBit (m.get F.fioInC_LEVEL) i ((m.inC i).level != m.on (F.fioIcCfg_INV i)))

/-- FIO_CH_STAT (R272, R273): W1C of BOTHON and of OVL_LATCH. -/
def chStatW1c (q : Nat) (val : Word) (m : Mach) : Mach :=
  (m.cond (val.getLsbD 63) (bothonClear q)).cond (val.getLsbD 62) (ovlLatchClear q)

/-- FIO_SAFE (R279): ENTER with RELEASE acts as ENTER alone. -/
def fioSafeWrite (val : Word) (m : Mach) : Mach := if val.getLsbD 63 then enter m else m.cond (val.getLsbD 62) release

/-- Field I/O (R264 to R291). -/
def RegWrite.fio (w : RegWrite) (x : Fx) : Fx :=
  let i := w.ix.headD 0
  if w.r.base = R.fioSafe then x.mach (fioSafeWrite w.val)
  else if w.r.base = R.fioOutLo then x.mach (outLevelWrite false w.val)
  else if w.r.base = R.fioOutHi then x.mach (outLevelWrite true w.val)
  else if w.r.base = R.fioChCmd 0 then x.mach (rawWrite i w.val)
  else if w.r.base = R.fioChStat 0 then x.mach (chStatW1c i w.val)
  else if w.r.base = R.fioChCfg 0 then w.thenM (·.chRefresh ((List.range 4).map (i / 4 * 4 + ·))) x
  else if w.r.base = R.fioIcCfg 0 then w.thenM (·.showC i) x
  else if w.r.base = R.fioIcCount 0 then x.mach (countWrite i w.val)
  else x.mach w.plain

/-- FORCE_L2 (R306): the lane is held in L2 or released. -/
def forceL2 (n : Nat) (on' : Bool) (m : Mach) : Mach := (m.setb (F.pnxCtl_FORCE_L2 n) on').laneHold n

/-- LANE_ENABLE (R300, R306, R308): a write of PNX_CTL. -/
def pnxCtlFx (w : RegWrite) (x : Fx) : Fx :=
  let n := w.ix.headD 0
  let was := x.m.on (F.pnxCtl_EN n)
  let x := w.thenM (forceL2 n (w.bit 2)) x
  if w.bit 0 && !was then x.mach (·.laneOn n) else if !w.bit 0 && was then x.laneOff n else x

/-- Lanes, links and twins (R300, R318, R329). -/
def RegWrite.pnx (w : RegWrite) (x : Fx) : Fx :=
  if w.r.base = R.pnxCtl 0 then pnxCtlFx w x
  else if w.r.base = R.tngCtl then x.mach fun m => (m.cond (w.bit 0) soloCmd).cond (w.bit 1) joinCmd
  else x.mach w.plain

/-- MEM_SPG_CTL (R366, R367): STOP ends the pass, GO starts one. -/
def spgCtlFx (val : Word) (x : Fx) : Fx :=
  let x := if val.getLsbD 62 then { x with m := spgStop x.v x.m } else x
  if val.getLsbD 63 then x.mach spgGo else x

/-- Memory and security (R366 to R368). -/
def RegWrite.mem (w : RegWrite) (x : Fx) : Fx :=
  if w.r.base = R.memSpgCtl then spgCtlFx w.val x
  else if w.r.base = R.memFlipCtl then x.mach (flipArm w.val)
  else x.mach w.plain

/-- MGT_DUMP (R425, R463): CLEAR, then FORCE. -/
def mgtDumpFx (val : Word) (x : Fx) : Fx :=
  let x := if val.getLsbD 63 then x.mach dumpClear else x
  if val.getLsbD 62 then forceFx x else x

/-- Reset, management, Kiln, calibration (R398, R421, R425, R467, R468, R497). -/
def RegWrite.mgt (w : RegWrite) (x : Fx) : Fx :=
  if w.r.base = R.rstCmd then rstCmdFx w.val x
  else if w.r.base = R.mgtWdog then x.mach (wdogKick w.agent w.val)
  else if w.r.base = R.mgtNetCtl then x.mach fun m => m.cond (w.bit 63) netStore
  else if w.r.base = R.mgtDump then mgtDumpFx w.val x
  else if w.r.base = R.mgtUpdCtl then x.mach (·.updCtl w.val)
  else if w.r.base = R.mgtUpdData then x.mach (·.updWord w.val)
  else if w.r.base = R.kilnCtl then x.mach (boostS w.val)
  else if w.r.base = R.celCalCtl then calStoreFx w.val x
  else x.mach w.plain

/-- TIM_PTP_CFG (R449, R450): the Sync timeout counts from the enable. -/
def ptpCfgFx (w : RegWrite) (x : Fx) : Fx :=
  let was := x.m.on F.timPtpCfg_EN
  w.thenM (fun m => if w.bit 0 && !was then { m with tim := { m.tim with syncAt := m.now } } else m) x

/-- TIM_PTP_MASTER (R450): another identity has sent no Sync yet. -/
def ptpMasterFx (w : RegWrite) (x : Fx) : Fx :=
  let moved := x.m.rd w.o != w.val
  w.thenM (fun m => m.cond moved (·.setb F.timWallStat_SEEN false)) x

/-- Time (R443, R448, R450). -/
def RegWrite.tim (w : RegWrite) (x : Fx) : Fx :=
  if w.r.base = R.timLatch then x.mach fun m => m.cond (w.bit 0) latch
  else if w.r.base = R.timWallRate then x.mach (wallRateCmd w.val)
  else if w.r.base = R.timWallAdj then x.mach (wallAdj w.val)
  else if w.r.base = R.timPtpCfg then ptpCfgFx w x
  else if w.r.base = R.timPtpMaster 0 then ptpMasterFx w x
  else x.mach w.plain

/-- RECORD_ENABLE and FREEZE (R343, R348): a write of TRC_REC_CTL. -/
def recCtlFx (w : RegWrite) (x : Fx) : Fx :=
  let was := x.m.on F.trcRecCtl_EN
  let x := x.mach fun m => (w.plain m).setb F.trcRecCtl_EN was
  let x := if w.bit 0 && !was then x.mach (·.recEnable true)
    else if !w.bit 0 && was then x.recDrain.mach (·.recEnable false)
    else x
  if w.bit 63 then freezeFx x else x

/-- Recording, trace and snapshots (R343 to R349, R456 to R460). -/
def RegWrite.trc (w : RegWrite) (x : Fx) : Fx :=
  if w.r.base = R.trcRecCtl then recCtlFx w x
  else if w.r.base = R.trcExportCtl then x.mach (exportCmd w.val)
  else if w.r.base = R.trcTraceCtl then x.mach (·.traceMode w.val)
  else if w.r.base = R.trcTraceRidx then x.mach (ridxWrite w.val)
  else if w.r.base = R.trcSnapCtl then x.mach (snapArm w.val)
  else x.mach w.plain

/-! ## Any control offset -/

/-- The MSI-X table's entries come masked (R434, R435). -/
def msixReset (k : Nat) : Word := if k % 2 = 1 then 2 ^ 32 else 0

/-- A word of the MSI-X table is written; an entry unmasked with its vector pending sends it (R435). -/
def Mach.msixWrite (m : Mach) (o : Nat) (val : Word) : Mach :=
  let k := (o - 0x1780000) / 8
  let m := { m with msix := spPut msixReset m.msix k (if k % 2 = 1 then val &&& 0x1FFFFFFFF else val &&& 0xFFFFFFFFFFFFFFFC) }
  let sent := k % 2 = 1 && !val.getLsbD 32 && m.on F.mgtPcieStat_UP && m.pba.getLsbD (k / 2)
  if sent then { m with pba := m.pba &&& ~~~((1 : Word) <<< (k / 2)) } else m

/-- A write of `val` to control offset `o` by `agent` (R13, R14, R25). -/
def Fx.ctlWrite (x : Fx) (agent o : Nat) (val : Word) : Fx :=
  if msixTable o then x.mach (·.msixWrite o val)
  else if o = msixPba then x
  else if !regMapped o then x.mach (·.accessError o)
  else
    match regAt o with
    | none => x
    | some (r, ix) =>
      let w : RegWrite := ⟨agent, o, r, ix, val⟩
      match o / 0x100000 with
      | 0 => w.grs x
      | 1 => w.msh x
      | 10 => w.hop x
      | 11 => w.sch x
      | 12 => w.sch x
      | 13 => w.sch x
      | 14 => w.cmp x
      | 15 => w.cmp x
      | 16 => w.fio x
      | 17 => w.pnx x
      | 18 => w.pnx x
      | 19 => w.mem x
      | 20 => w.mem x
      | 22 => w.mgt x
      | 23 => w.mgt x
      | 24 => w.tim x
      | 25 => w.trc x
      | 27 => w.mgt x
      | 28 => w.mgt x
      | _ => x.mach w.plain

/-! ## Reading -/

/-- RC bits return to their reset value when they have been read (R14). -/
def Mach.rcClear (m : Mach) (o : Nat) (r : RegRow) : Mach :=
  let k : Word := BitVec.ofNat 64 r.rc
  m.wr o ((m.rd o &&& ~~~k) ||| (regReset o &&& k))

/-- What the read of the register at `o` brings about (R14, R68, R221, R449, R457). -/
def Mach.readTakes (m : Mach) (o : Nat) (r : RegRow) (ix : List Nat) : Mach :=
  if r.base = R.grsUartRx 0 then uartRxRead (ix.headD 0) m
  else if r.base = R.mbxTake 0 then mbxTakeCmd (ix.headD 0) m
  else if r.base = R.timPtpRx 0 then m.cond (ix.headD 0 = 3) (ptpStampRead true)
  else if r.base = R.timPtpTx 0 then m.cond (ix.headD 0 = 3) (ptpStampRead false)
  else if r.base = R.secRng then m
  else if r.base = R.trcSnapData then m.snapRead
  else if r.base = R.logCnt then { m.rcClear o r with log := { m.log with lost := 0 } }
  else if r.base = R.trcTraceCnt then { m with tracer := { m.tracer with dropped := 0, stallUs := 0 } }
  else if r.rc = 0 then m
  else m.rcClear o r

/-- Fields that show a measurement no command brings read as free values (log entry 79). -/
def Mach.measured (m : Mach) (r : RegRow) (w : Word) : Word × Mach :=
  if r.base = R.fioChStat 0 then
    let (f, m) := m.free
    ((w &&& ~~~(0xFFFF00000000 : Word)) ||| ((f &&& 0xFFFF) <<< 32), m)
  else if r.base = R.fioGrpStat 0 then
    let (f, m) := m.free
    ((w &&& ~~~(0xFFFF : Word)) ||| (f &&& 0xFFFF), m)
  else if r.base = R.fioIwStat 0 then
    let (f, m) := m.free
    ((w &&& ~~~(0xFF : Word)) ||| (f &&& 0xFF), m)
  else if r.base = R.celStat then
    let (f, m) := m.free
    ((w &&& ~~~(0x4000000000000000 : Word)) ||| ((f &&& 1) <<< 62), m)
  else (w, m)

/-- A read of control offset `o` (R13, R14): the word returned, and the machine after it. -/
def Mach.ctlRead (m : Mach) (o : Nat) : Word × Mach :=
  if msixTable o then (spGet msixReset m.msix ((o - 0x1780000) / 8), m)
  else if o = msixPba then (m.pba, m)
  else if !regMapped o then (0, m.accessError o)
  else
    match regAt o with
    | none => (0, m)
    | some (r, ix) =>
      let m := m.cond (r.base = R.secRng) rngRead
      let (w, m) := m.measured r (m.look o)
      (w, m.readTakes o r ix)

/-- REGISTER_WRITE (R25, R435): a write of the host that is not aligned to 8 bytes is discarded and counted. -/
def registerWriteFx (agent off : Nat) (val : Word) (x : Fx) : Fx :=
  if agent = 2 && off % 8 ≠ 0 then x.mach (·.bump F.mgtPcieStat_BADSIZE) else x.ctlWrite agent off val

end Sys2Proof.Machine
end

