-- ==== Sys2Proof/Machine/Start.lean ====
section
/-!
DEFINITION. The start (R404): what each phase does and finds, the package (R409 to R413), calibration (R420), admission (R198), and
the autorun (R408).
-/

namespace Sys2Proof.Machine

/-- A start that meets a reason of R415 fails; else the phase ends and `next` begins. -/
def Fx.phaseEnd (x : Fx) (reason next : Nat) : Fx :=
  if reason ≠ 0 then startFailedFx reason x else x.mach (·.set F.rstStat_PHASE next)

/-! ## BOOT -/

/-- The backup is valid, or is cleared (R401); the header of this start is written. -/
def Fx.backup (x : Fx) : Fx :=
  let (h, x) := x.celGet 0 64
  let good := !x.m.rst.latched && cellarGood h
  let x := if good then x.mach fun m => (m.setb F.celStat_VALID true).setb F.celStat_LOST false
    else (x.put [.clear cellar (cellar + 0x10000)]).mach fun m =>
      let m := { m with regs := m.regs.filter fun r => !backupReg r.1 }
      ((m.setb F.celStat_VALID false).setb F.celStat_LOST true).emit 0x17 0x1E 0 []
  let x := x.celPut 0 (cellarHeader (if good then (numAt h 4 4 + 1) % 2 ^ 32 else 1))
  x.mach fun m => { m with rst := { m.rst with latched := false } }

/-- SECDED errors met in the cellar (R401): offset, and 1 corrected or 2 uncorrectable. -/
def Mach.cellarErr (m : Mach) (e : Nat × Nat) : Mach :=
  (m.bump (if e.2 = 1 then F.celStat_CE else F.celStat_UE)).emit 0x17 0x1F 0 [(32, (e.1 : Int)), (32, (e.2 : Int))]

/-- Both copies of the boot table are damaged (R415): neither is valid and they are not erased. -/
def Mach.bootBad (m : Mach) : Bool := (m.bootCopy 0).isNone && (m.bootCopy 1).isNone && m.nvmUsed 0 0x100000

/-- The dump that the NVM holds (R463, R471). -/
def Mach.dumpShow (m : Mach) : Mach :=
  let h := m.nvmBytes dumpBase 256
  if numAt h 0 4 = 0x444D5031 && numAt h 252 4 = crc32c (h.take 252) then
    (m.set F.mgtDump_STATE 1).set F.mgtDump_SEQ (numAt h 12 4)
  else m.set F.mgtDump_STATE 0

/-- The boot table's settings apply, and a fallback of the retry is raised (R416, R428, R467, R469). -/
def Mach.bootApply (m : Mach) : Mach :=
  let t := m.boot
  let m := { ((m.set F.mgtNet_PREFIX t.pref).set F.mgtNet_ADDR t.addr).set F.mgtNetGw_GW t.gw with mgt := { m.mgt with ip := t.addr } }
  let pk := m.rst.pkgSlot.getD t.pkg
  let m := (m.set F.rstStat_FW_SLOT (m.rst.fwSlot.getD t.fw)).set F.rstStat_PKG_SLOT pk
  m.cond m.rst.fallback (·.emit 0x17 0x1A 0 [(1, (pk : Int))])

/-- Phase BOOT ends (R401, R404, R428, R463, R465). -/
def Fx.bootPhase (f : PhaseFacts) (x : Fx) : Fx :=
  let x := x.backup.mach fun m => (f.cellarEcc.foldl Mach.cellarErr m)
  let x := (x.mach fun m => m.bootApply.dumpShow.calShow.logStart).logTailBack
  let x := x.mach fun m =>
    let fails := m.get F.celBkp0_FAILS
    let m := (m.set F.rstStat_FAILS fails).cond (fails != 0) (·.set F.rstStat_REASON (m.get F.celBkp1_REASONS % 256))
    { m with mgt := { m.mgt with kickAt := m.now } }
  x.phaseEnd (if f.reason ≠ 0 then f.reason else if x.m.bootBad then 2 else 0) 1

/-! ## NVM -/

/-- A package record's event with its type and a byte offset or a count (R412, R413). -/
def Mach.recordEvent (loc : Nat) (m : Mach) (e : Nat × Nat) : Mach := m.emit 0x17 loc 0 [(16, (e.1 : Int)), (32, (e.2 : Int))]

/-- Phase NVM ends: the package is read and verified (R403, R409 to R413). -/
def Fx.nvmPhase (f : PhaseFacts) (x : Fx) : Fx :=
  let x := x.mach fun m =>
    let m := m.cond f.nvmSingle fun m => (m.setb F.rstStat_NVM_SINGLE true).emit 0x17 0x19 0 []
    f.unknown.foldl (Mach.recordEvent 0x18) m
  let s := x.m.get F.rstStat_PKG_SLOT
  let used (s : Nat) : Bool := x.m.nvmUsed (pkgBase s) (pkgBase s + pkgSize)
  let c := x.m.pkgCheck s (f.reason ≠ 5)
  let bytes := (x.m.nvmPart (pkgBase s) (pkgBase s + pkgSize)).filter fun b => !c.skipped.any fun r => r.1 ≤ b.1 && b.1 < r.2
  let p := { Config.packageOf bytes with digest := BitVec.ofNat 64 (ofLe (c.digest.take 8)) }
  let away := f.reason ≠ 0 && f.reason ≠ 5
  let x := if away then x else x.mach fun m =>
    c.damaged.foldl (fun m d => m.recordEvent (if d.2.2 then 0x17 else 0x16) (d.1, d.2.1)) m
  let reason :=
    if away then f.reason
    else if !used 0 && !used 1 then 0x11
    else if c.reason ≠ 0 then c.reason
    else if p.arithRev ≠ x.m.get F.idPart_ARITH_REV then 8
    else 0
  (x.mach fun m => if reason = 0 then { m with pkg := p } else m).phaseEnd reason 2

/-! ## POWERUP, ENTROPY -/

/-- Phase POWERUP ends: the dies' islands run, the compute die's at 1.5 GHz (R404, R496). -/
def Mach.islandsOn (m : Mach) : Mach :=
  (List.range 40).foldl (fun m i =>
    (m.set (F.kilnIsl_STATE i) 2).set (F.kilnIsl_MHZ i) (if i < 29 then 1500 else Config.unstated 0x9600 [i])) m

/-- Phase ENTROPY ends once SEC is READY; a FAILED source fails the start (R374, R404, R415). -/
def Fx.entropyPhase (f : PhaseFacts) (x : Fx) : Fx :=
  if x.m.get F.secStat_STATE = 2 then x.phaseEnd 0xD 4
  else if f.reason ≠ 0 || x.m.secReady then x.phaseEnd f.reason 4
  else x

/-! ## LOAD -/

/-- The calibration in force (R420): the valid slot of greater SEQ over the package's values, or the production record's coupler
delays; torn slots are raised. -/
def Mach.calChoose (m : Mach) : Mach :=
  let torn (m : Mach) (i : Nat) : Mach :=
    m.cond ((m.calSeq i).isNone && m.nvmUsed (calBase i) (calBase i + 0x300000)) (·.emit 0x17 0x1B 0 [(1, (i : Int))])
  let m := torn (torn m 0) 1
  match m.calBest with
  | some (s, _) =>
    let v := Config.calOf (m.nvmPart (calBase s + 64) (calBase s + 0x300000))
    let m := (m.set F.rstStat_CAL_SLOT s).setb F.rstStat_CAL_VALID true
    { m with pkg := { m.pkg with regs := m.pkg.regs ++ v.regs, ff := m.pkg.ff ++ v.ff } }
  | none =>
    let l := (List.range 96).map fun q => (R.cmpCpl q, Config.prodCpl q)
    { m with pkg := { m.pkg with regs := m.pkg.regs ++ l } }.emit 0x17 0x1C 0 []

/-- The registers of a list are written by the management controller: configuration first, so that no order of the list meets a
function that an earlier write enabled, then whole words. -/
def Fx.loadRegs (x : Fx) (l : List (Nat × Word)) : Fx :=
  let x := x.mach fun m => l.foldl (fun m r => m.reloadReg r) m
  l.foldl (fun x r => x.ctlWrite 0x001 r.1 r.2) x

/-- The images go to memory (R404). -/
def Fx.loadImages (x : Fx) (l : List (Nat × List Byte)) : Fx := l.foldl (fun x i => (x.write mgtAcc i.1 i.2).2) x

/-- A job of the package is LOADED (R193, R338, R341, R349, R410). -/
def Mach.loadJob (m : Mach) (p : PkgJob) : Mach :=
  let s := p.seeds.getD (m.get (F.schJobCtl_RECIPE p.job)) (0, 0)
  let m := (m.set (F.schJobStat_CLASS p.job) p.cls).jobGo p.job 1
  let m := (m.wr (R.trcJobSeed0 p.job) s.1).wr (R.trcJobSeed1 p.job) s.2
  let m := m.modJob p.job fun j => { j with recipe := m.get (F.schJobCtl_RECIPE p.job) }
  m.cond p.permit fun m => m.wr R.trcRecPerm (m.rd R.trcRecPerm ||| ((1 : Word) <<< p.job))

/-- The jobs of the package (R410, R411, R313) and their entries are LOADED (R192, R193). -/
def Mach.loadJobs (m : Mach) : Mach :=
  let p := m.pkg
  let js := p.jobs.filter fun j => j.job < 64
  let m := js.foldl Mach.loadJob { m with jobs := js.map fun j => (j.job, j) }
  let m := ((List.range 1024).filter fun e => m.hopState e != 0 && !m.on (F.hopEntCfg_VALID e)).foldl (fun m e => m.hopGo e 0) m
  let m := js.foldl (fun m j => (m.jobEntries j.job).foldl (fun m e => m.hopGo e 1) m) m
  { m with chain := p.parts.map (fun (q : Nat × List (Nat × Word)) => (q.1, p.pairs.contains q.1)), pkgDigest := p.digest }.poolShow

/-- The units that the package configures check it (R404, R415): the first lagging ones' events; whether any rejected. -/
def Mach.loadCheck (m : Mach) : Bool × Mach :=
  let js := m.jobs.map (·.1)
  let us := ((js.flatMap m.jobUnits) ++ (js.flatMap fun j => (m.jobEntries j).map fun e => (0x0B, e)) ++ [(0x11, 0)]).eraseDups
  let bad := us.filterMap fun u => if u.1 = 0x19 then none else (m.unitBad us u).map fun o => (u, o)
  (!bad.isEmpty, bad.foldl (fun m b => m.cfgInvalid b.1 b.2) m)

/-- A valid service record lists this module (R384). -/
def Mach.serviceMode (m : Mach) : Mach :=
  m.cond (m.pkg.service.contains Config.idSerial) fun m => (m.setb F.secStat_SERVICE true).emit 0x15 0x16 0 []

/-- Phase LOAD ends (R404, R410, R420). -/
def Fx.loadPhase (f : PhaseFacts) (x : Fx) : Fx :=
  if f.reason ≠ 0 then x.phaseEnd f.reason 5
  else
    let x := x.mach (·.calChoose)
    let x := x.loadRegs x.m.pkg.regs
    let x := (x.mach (·.loadTables (fun _ => true) (fun _ => true))).loadImages x.m.pkg.images
    let (bad, m) := (x.m.loadJobs.serviceMode).loadCheck
    { x with m }.phaseEnd (if bad then 0xB else 0) 5

/-! ## CHECK -/

/-- The class-0 jobs of the package. -/
def Mach.jobsOf (m : Mach) (c : Nat → Bool) : List Nat := (m.jobs.map (·.1)).filter fun j => c (m.jobClass j)

def sum (l : List Nat) : Nat := l.foldl (· + ·) 0

/-- Check 0x1 of R198; the job that breaks it, or none. -/
def Mach.admitClusters (m : Mach) : Option Nat :=
  let c0 := m.jobsOf (· = 0)
  let rest := m.jobsOf (· ≠ 0)
  let n (j : Nat) : Nat := m.get (F.schJobRsv_C0_CLUSTERS j)
  let lo (j : Nat) : Nat := m.get (F.schJobRsv_C0_FIRST j)
  let all := m.get F.idHarvest_CLUSTERS
  let used := sum (c0.map n)
  let cores (j : Nat) : Nat := match m.pkgJob j with | some p => p.cores | none => 0
  if all - (if rest.isEmpty then 0 else 1) < used then some (c0.headD 0)
  else if anyPair (fun a b => overlaps (lo a, lo a + n a) (lo b, lo b + n b)) c0 then some (c0.headD 0)
  else
    match c0.find? fun j => all < lo j + n j || 64 * n j < cores j with
    | some j => some j
    | none => rest.find? fun j => 64 * min (all - used) (m.clMax j) < cores j

/-- 64 bits of memory as the images left them. -/
def View.word (v : View) (a : Nat) : Nat := ofLe ((List.range 8).map fun i => v.byte (a + i))

/-- The data addresses of the mapped pages of Hopper entry `e` (R169, R173). -/
def Mach.mappedPages (m : Mach) (v : View) (e : Nat) : List Nat :=
  let root := m.get (F.hopEntPt_ROOT e) * 512
  (List.range (m.layers e * 256)).filterMap fun vp =>
    let a := v.word (root + vp / 64 * 8)
    let b := v.word (a / 512 % 2 ^ 31 * 512 + vp % 64 * 8)
    if a % 2 = 1 ∧ b % 2 = 1 then some (b / 2 ^ 14 % 2 ^ 26 * 2 ^ 14) else none

/-- The Tun buffers of job `p` (R197): what its tensors without translation span in Tun (R119), as first and last address. -/
def Mach.buffersOf (v : View) (p : PkgJob) : List (Nat × Nat) :=
  (List.range p.tensorCount).filterMap fun i =>
    let d := descOf ((List.range 4).map fun k => BitVec.ofNat 64 (v.word (p.tensorBase + 32 * i + 8 * k))) 0
    let rows := if d.ring = 0 then d.d2 else d.ring
    let hi := d.base + (d.d1 - 1) * d.s1 + (rows - 1) * d.s2 + (if d.zc then d.s1 else d.rowBytes) - 1
    match region d.base with
    | .tun _ => if d.virt then none else some (d.base, hi)
    | _ => none

/-- Check 0x3 of R198 (log entry 80). -/
def Mach.admitPool (m : Mach) (v : View) : Bool :=
  let lo := m.get F.schC0Pool_OFF * 0x4000
  let n := m.get F.schC0Pool_PAGES
  let hop := m.get F.hopPool_BASE * 0x4000
  let from' := 0x1000000000 + lo
  let upTo' := from' + n * 0x4000
  n ≤ 10240 && lo + n * 0x4000 ≤ 0xC000000 && !overlaps (from', upTo') (hop, hop + m.get F.hopPool_NPAGES * 0x4000)
    && (m.jobsOf (· = 0)).all fun j =>
      ((m.jobEntries j).all fun e => (m.mappedPages v e).all fun a => from' ≤ a && a + 0x4000 ≤ upTo')
        && (match m.pkgJob j with
          | some p => (Mach.buffersOf v p).all fun b => from' ≤ b.1 && b.2 < upTo'
          | none => true)

/-- The first admission check that fails (R198), as its job and resource code. -/
def Mach.admission (m : Mach) (v : View) : Option (Nat × Nat) :=
  let c0 := m.jobsOf (· = 0)
  match m.admitClusters with
  | some j => some (j, 1)
  | none =>
    if (List.range 23).any fun e => 56 < m.get (F.schSlot_C0 e) || 64 < m.get (F.schSlot_C0 e) + m.get (F.schSlot_C2_MIN e) then some (c0.headD 0, 2)
    else if !m.admitPool v then some (c0.headD 0, 3)
    else if 60 < m.get F.schShare_C0_DRAM + m.get F.schShare_C1_DRAM then some (c0.headD 0, 4)
    else if 1000 < sum (c0.map fun j => m.get (F.schJobDl_RATE j)) then some (c0.headD 0, 5)
    else
      (c0.find? fun j =>
        let s := m.get (F.schJobDl_SWITCH_US j)
        s < 40 || 119 < s || 40 < m.get (F.schJobDl_RSV_US j) || s < m.get (F.schJobDl_MAIN_US j)).map (·, 6)

/-- The floor images' ranges, for the window check (R372). -/
def Mach.imageRanges (m : Mach) : List (Nat × Nat) := (m.pkg.images.map fun i => (i.1, i.1 + i.2.length)).filter fun r => r.1 < 0x1000000000

/-- Phase CHECK ends (R198, R372); a twin seeks its partner from then on (R318). -/
def Fx.checkPhase (f : PhaseFacts) (x : Fx) : Fx :=
  match x.m.admission x.v with
  | some (j, r) => (x.mach (·.emit 0x0C 0x12 0 [(6, (j : Int)), (32, (r : Int))])).phaseEnd 9 6
  | none =>
    if f.reason ≠ 0 then x.phaseEnd f.reason 6
    else if !x.m.windowsGood x.m.imageRanges then x.phaseEnd 0xA 6
    else
      (x.mach fun m => m.cond m.twinPres fun m => { m.tngGo 1 with tng := { m.tng with startAt := m.now } }).phaseEnd 0 6

/-! ## LINKS, READY -/

/-- The start reaches READY (R404, R408, R416, R469). -/
def Mach.readyNow (m : Mach) : Mach :=
  let t := m.boot
  let fw := m.get F.rstStat_FW_SLOT
  let pk := m.get F.rstStat_PKG_SLOT
  let m := m.cond (t.trial || t.fw ≠ fw || t.pkg ≠ pk) (·.bootWrite fun t => { t with fw, pkg := pk, trial := false })
  let m := ((m.set F.celBkp0_FAILS 0).set F.rstStat_FAILS 0).set F.rstStat_PHASE 7
  let auto := m.pkg.autorun && m.chainPos = 0 && !m.isB
  let m := { m with rst := { m.rst with part := false, pkgSlot := none, fwSlot := none, fallback := false, tries := 0,
                                        autoAt := if auto then some (m.now + m.pkg.autorunMs * 1000000) else none } }
  m.emit 0x17 0x13 0 [(32, ((m.now - m.rst.startAt) / 1000000 : Int))]

/-- Phase LINKS ends once the chain is numbered and pairing has run (R312, R313, R318); the position's part is applied. -/
def Fx.linksPhase (f : PhaseFacts) (x : Fx) : Fx :=
  if f.reason ≠ 0 then x.phaseEnd f.reason 7
  else if x.m.on F.pnxChain_TOO_LONG then x.phaseEnd 0xE 7
  else if !x.m.on F.pnxChain_VALID || x.m.tngIs 1 then x
  else
    match x.m.pkg.parts.find? fun p => p.1 = x.m.chainPos with
    | none => x.phaseEnd 0xF 7
    | some p =>
      let x := x.loadRegs p.2
      let (bad, m) := x.m.loadCheck
      if bad then { x with m }.phaseEnd 0xB 7
      else { x with m := { m with pkg := { m.pkg with regs := m.pkg.regs ++ p.2 } }.readyNow }

/-- Phase LOAD of a compute reset (R404): the compute die's registers, images and jobs, from the package in DRAM. -/
def Fx.partPhase (f : PhaseFacts) (x : Fx) : Fx :=
  if f.reason ≠ 0 then x.phaseEnd f.reason 7
  else
    let x := x.loadRegs (x.m.pkg.regs.filter fun r => computeWin (r.1 / 0x100000))
    let x := x.loadImages (x.m.pkg.images.filter fun i => 0x1000000000 ≤ i.1)
    let (bad, m) := x.m.loadJobs.loadCheck
    if bad then { x with m }.phaseEnd 0xB 7 else { x with m := m.readyNow }

/-- START_PHASE (R404): the phase in progress ends. -/
def startPhaseFx (f : PhaseFacts) (x : Fx) : Fx :=
  if !x.m.starting then x
  else
    match x.m.get F.rstStat_PHASE with
    | 0 => x.bootPhase f
    | 1 => x.nvmPhase f
    | 2 => (if f.reason = 0 then x.mach (·.islandsOn) else x).phaseEnd f.reason 3
    | 3 => x.entropyPhase f
    | 4 => if x.m.rst.part then x.partPhase f else x.loadPhase f
    | 5 => x.checkPhase f
    | _ => x.linksPhase f

/-! ## Autorun -/

/-- AUTORUN (R408): a global restart is armed with MODE = RUN for 200 ms later. -/
def autorunFx (x : Fx) : Fx :=
  match x.m.rst.autoAt with
  | some t =>
    if x.m.now < t then x
    else
      let x := x.mach fun m =>
        let m := { m with rst := { m.rst with autoAt := none, tries := m.rst.tries + 1 } }
        (m.wr R.schRestartScope (BitVec.allOnes 64)).wr R.schRestartAt (BitVec.ofInt 64 (m.reel + 200000000))
      let x := restartArmFx 1 x
      x.mach fun m => m.cond (m.get F.schRestartCtl_STATUS = 4) (·.autoAgain)
  | none => x

end Sys2Proof.Machine
end

