-- ==== Sys2Proof/Machine/Mgt.lean ====
section
/-!
DEFINITION. The management interfaces: NCP (R428 to R433), the line-controller SPI port (R438 to R440), the PCIe host port (R434 to
R437), the Ethernet MAC's own answers (R428), and the queues' and runs' own events (R35, R509).
-/

namespace Sys2Proof.Machine

/-! ## Barred accesses (R433) -/

/-- Windows of the management domain: PWR, RST, MGT, TIM, LOG, KILN, CEL, ID. -/
def mgtWin (w : Nat) : Bool := [21, 22, 23, 24, 26, 27, 28, 31].contains w

/-- In MINIMAL mode and in phases before LOAD an access to window `w` of the control space is barred (R433). -/
def Mach.winBarred (m : Mach) (w : Nat) : Bool := (m.on F.rstStat_MINIMAL || m.get F.rstStat_PHASE < 4) && !mgtWin w

/-- An access to control offset `o` is barred (R433). -/
def Mach.barred (m : Mach) (o : Nat) : Bool := m.winBarred (o / 0x100000)

/-- The host port runs (R417, R437). -/
def Mach.hostUp (m : Mach) : Bool := m.on F.mgtPcieStat_UP && !m.mgt.d3

/-- An access of agent `a` reaches window `w` (R417, R433, R437): the management firmware's always does, that of another interface
unless it is barred, and the host's only while its port runs. -/
def Mach.lets (m : Mach) (a w : Nat) : Bool := a = 1 || (!m.winBarred w && (a ≠ 2 || m.hostUp))

/-! ## NCP -/

/-- The source is not allowed (R428). -/
def Mach.ncpFiltered (m : Mach) (ip : Nat) : Bool :=
  (List.range 4).any (fun k => m.on (F.mgtNcpAllow_EN k))
    && !(List.range 4).any fun k => m.on (F.mgtNcpAllow_EN k) && m.get (F.mgtNcpAllow_ADDR k) = ip

/-- The datagram is malformed (R429). -/
def ncpBad (h : NcpHdr) : Bool := h.magic ≠ 0x4E43 || h.version ≠ 1 || h.kind ≠ 1 || !h.lengthOk || h.nops = 0 || 88 < h.nops

/-- The kept response of the datagram's source and SEQ (R432). -/
def Mach.ncpKept (m : Mach) (h : NcpHdr) : Option NcpResp := m.mgt.ncp.find? fun r => r.ip = h.srcIp && r.port = h.srcPort && r.seq = h.seq

/-- The response of a source becomes its kept one, the four newest sources' being kept (R432). -/
def Mach.ncpKeep (m : Mach) (r : NcpResp) : Mach :=
  { m with mgt := { m.mgt with ncp := (r :: m.mgt.ncp.filter fun o => !(o.ip = r.ip && o.port = r.port)).take 4 } }

/-- What becomes of a datagram's operation (R428 to R432): dropped, answered again, refused for the response's length, or to be
executed with the response so far. -/
inductive NcpGo where
  | filtered
  | bad
  | resend
  | done
  | long
  | run (r : NcpResp)

def Mach.ncpSort (m : Mach) (h : NcpHdr) : NcpGo :=
  let fresh : NcpResp := { ip := h.srcIp, port := h.srcPort, seq := h.seq, sent := m.now, nops := h.nops, status := 0, ops := [] }
  if m.ncpFiltered h.srcIp then .filtered
  else if ncpBad h then .bad
  else if h.index = 0 then
    match m.ncpKept h with
    | some r => if r.ops.length = r.nops && m.now ≤ r.sent + 2000000000 then .resend else if 1472 < h.respLen then .long else .run fresh
    | none => if 1472 < h.respLen then .long else .run fresh
  else
    match m.ncpKept h with
    | some r => if r.ops.length = h.index && h.index < r.nops then .run r else .done
    | none => .done

/-- One operation of a datagram: its status, its data words, and the machine after it. -/
abbrev NcpOp := Fx → (Nat × List Word) × Fx

/-- An operation of a well-formed request runs unless an earlier one failed, and its result joins the response, which leaves with the
last (R431). -/
def Fx.ncpRun (x : Fx) (h : NcpHdr) (r : NcpResp) (op : NcpOp) : Fx :=
  let (res, x) := if r.status ≠ 0 then ((0x0F, []), x) else op x
  let r := { r with ops := r.ops ++ [res], status := if r.status ≠ 0 then r.status else res.1, sent := x.m.now }
  x.mach fun m => (m.ncpKeep r).cond (h.index + 1 = h.nops) (·.count F.mgtNcpStat_REQUESTS)

/-- An NCP operation as it arrives (R428 to R432). -/
def ncpFx (h : NcpHdr) (op : NcpOp) (x : Fx) : Fx :=
  let first := h.index = 0
  match x.m.ncpSort h with
  | .filtered => x.mach fun m => m.cond first (·.bump F.mgtNcpStat_FILTERED)
  | .bad => x.mach fun m => m.cond first fun m => (m.bump F.mgtNcpStat_BAD_FRAME).runHit false 0x18 0x18 0 0 [(32, (h.srcIp : Int))]
  | .resend => x.mach fun m => (m.bump F.mgtNcpStat_RESENT).runEnd 0x18 0x18 0 0
  | .done => x
  | .long =>
    x.mach fun m => (m.runEnd 0x18 0x18 0 0).ncpKeep
      { ip := h.srcIp, port := h.srcPort, seq := h.seq, sent := m.now, nops := h.nops, status := 4, ops := List.replicate h.nops (4, []) }
  | .run r => (x.mach fun m => m.cond first (·.runEnd 0x18 0x18 0 0)).ncpRun h r op

/-- READ and READ_N (R430): words from `addr` upward. -/
def ncpReadWords (addr : Nat) : Nat → Mach → List Word × Bool × Mach
  | 0, m => ([], true, m)
  | n + 1, m =>
    let ok := ctlMapped addr
    let (w, m) := m.ctlRead addr
    let (l, g, m) := ncpReadWords (addr + 8) n m
    (w :: l, ok && g, m)

def ncpReadOp (addr n : Nat) : NcpOp := fun x =>
  if n = 0 || 64 < n then ((4, []), x)
  else if addr % 8 ≠ 0 then ((3, []), x)
  else if (List.range n).any fun i => x.m.barred (addr + 8 * i) then ((5, []), x)
  else
    let (l, ok, m) := ncpReadWords addr n x.m
    ((if ok then 0 else 1, l), { x with m })

/-- WRITE (R430). -/
def ncpWriteOp (addr : Nat) (val : Word) : NcpOp := fun x =>
  if addr % 8 ≠ 0 then ((3, []), x)
  else if x.m.barred addr || addr = R.mgtWdog then ((5, []), x)
  else ((if ctlMapped addr then 0 else 1, []), x.ctlWrite 0x003 addr val)

/-- STATUS (R430). -/
def ncpStatusOp : NcpOp := fun x => ((0, [BitVec.ofNat 64 x.m.mgtStatNat]), x)

/-- LOG_READ (R430, R466): `n` log entries from sequence number `first` upward. -/
def ncpLogOp (first n : Nat) : NcpOp := fun x =>
  if n = 0 || 16 < n then ((4, []), x)
  else
    match (List.range n).mapM fun i => x.m.logEntry ((first + i) % 2 ^ 32) with
    | some l => ((0, l.flatMap fun b => wordsOfBytes 8 b), x)
    | none => ((8, []), x)

/-- An update operation (R430, R468). -/
def updOp (f : Mach → Nat × Mach) : NcpOp := fun x =>
  let (st, m) := f x.m
  ((st, []), { x with m })

def updBeginOp (val : Word) : NcpOp := updOp fun m => m.updBegin (val.extractLsb' 32 1).toNat (val.extractLsb' 0 32).toNat
def updDataOp (addr : Nat) (ws : List Word) : NcpOp :=
  updOp fun m => if ws.length = 0 || 128 < ws.length then m.updResult 4 else m.updData addr ws

/-! ## SPI -/

/-- SPI_ERROR with its kind (R439, R440, R470). -/
def Mach.spiError (m : Mach) (kind : Nat) : Mach := (m.setb F.mgtSpiStat_ERR true).emit 0x18 0x19 0 [(32, (kind : Int))]

/-- A sequence in progress ends unfinished (R439, R440). -/
def Mach.spiDrop (m : Mach) : Mach :=
  match m.mgt.spiOpen with
  | some _ => ({ (m.bump F.mgtSpiStat_ABANDONED) with mgt := { m.mgt with spiOpen := none } } : Mach).spiError 4
  | none => m

/-- SPI_ABANDONED (R439): the next frame has not begun within 100 µs. -/
def spiAbandoned (m : Mach) : Mach :=
  match m.mgt.spiOpen with
  | some t => m.cond (decide (t + 100000 < m.now)) (·.spiDrop)
  | none => m

/-- What MISO returns in a frame that is no response frame (R439). -/
def Mach.spiStatus (m : Mach) : BitVec 32 := BitVec.ofNat 32 m.mgtStatNat

/-- A complete frame with command `cmd` arrives as a command frame; one that comes in time for a sequence is no command (R439). -/
def Mach.spiCmd (m : Mach) (cmd : Nat) (frame : BitVec 32) : Option Mach :=
  let m := spiAbandoned m
  if m.mgt.spiOpen.isSome || (frame.extractLsb' 28 4).toNat ≠ cmd then none
  else some { m with mgt := { m.mgt with miso := [m.spiStatus] } }

/-- The control offset that a command frame names (R439). -/
def spiOff (frame : BitVec 32) : Nat := (frame.extractLsb' 0 22).toNat * 8

/-- SPI_NOP (R439, R440): a frame with more than 32 edges keeps its first 32 bits. -/
def spiNop (frame : BitVec 32) (long : Bool) (m : Mach) : Mach :=
  match m.spiCmd 0 frame with
  | some m => m.cond long fun m => (m.bump F.mgtSpiStat_LONG).spiError 2
  | none => m

/-- SPI_READ (R13, R433, R439; log entry 120): the register is read; the response frames that came in time return it, or 0 when they came too early. -/
def spiRead (frame : BitVec 32) (frames : Nat) (early : Bool) (m : Mach) : Mach :=
  match m.spiCmd 1 frame with
  | none => m
  | some m =>
    let o := spiOff frame
    let m := m.cond (m.barred o || !ctlMapped o) (·.setb F.mgtSpiStat_ERR true)
    let (w, m) := if m.barred o then ((0 : Word), m) else m.ctlRead o
    let early := early && frames ≠ 0
    let m := m.cond early fun m => (m.bump F.mgtSpiStat_EARLY).spiError 5
    let w := if early then 0 else w
    let out := ([w.extractLsb' 32 32, w.extractLsb' 0 32] : List (BitVec 32)).take frames
    { m with mgt := { m.mgt with miso := m.mgt.miso ++ out, spiOpen := if frames < 2 then some m.now else none } }

/-- SPI_WRITE (R13, R433, R439; log entry 120): the word is written whole after the second data frame. -/
def spiWriteFx (frame : BitVec 32) (data : List (BitVec 32)) (x : Fx) : Fx :=
  match x.m.spiCmd 2 frame with
  | none => x
  | some m =>
    let x := { x with m := { m with mgt := { m.mgt with miso := m.mgt.miso ++ (data.take 2).map fun _ => m.spiStatus } } }
    match data with
    | hi :: lo :: _ =>
      let o := spiOff frame
      let x := x.mach fun m => m.cond (m.barred o || !ctlMapped o) (·.setb F.mgtSpiStat_ERR true)
      if x.m.barred o then x else x.ctlWrite 0x004 o (hi ++ lo)
    | _ => x.mach fun m => { m with mgt := { m.mgt with spiOpen := some m.now } }

/-- SPI_INVALID (R439). -/
def spiInvalid (frame : BitVec 32) (m : Mach) : Mach :=
  let c := (frame.extractLsb' 28 4).toNat
  if c < 3 then m
  else
    match m.spiCmd c frame with
    | some m => (m.bump F.mgtSpiStat_BADCMD).spiError 3
    | none => m

/-- SPI_PARTIAL (R440): a frame of fewer than 32 edges is discarded and abandons a sequence. -/
def spiPartial (edges : Nat) (m : Mach) : Mach :=
  if 32 ≤ edges then m
  else
    let m := (spiAbandoned m).spiDrop
    { ((m.bump F.mgtSpiStat_PARTIAL).spiError 1) with mgt := { m.mgt with miso := [m.spiStatus] } }

/-! ## The host port -/

/-- PCIE_LINK (R434, R435, R437): each change of the link state is raised; PERST# and FLR reset the port's own state; D3hot disables it. -/
def pcieLink (ev : PcieEvent) (m : Mach) : Mach :=
  let fresh (m : Mach) : Mach := { m with msix := [], pba := 0 }
  let awake (m : Mach) : Mach := { m with mgt := { m.mgt with d3 := false } }
  match ev with
  | .up width speed =>
    if m.on F.rstStat_MINIMAL || m.on F.pwrStat_PWRFAIL then m
    else if m.on F.mgtPcieStat_UP && m.get F.mgtPcieStat_WIDTH = width && m.get F.mgtPcieStat_SPEED = speed then awake m
    else
      (((awake m |>.setb F.mgtPcieStat_UP true).set F.mgtPcieStat_WIDTH width).set F.mgtPcieStat_SPEED speed).emit 0x18 0x1A 0
        [(4, (width : Int)), (3, (speed : Int))]
  | .down => awake m.pcieDown
  | .perst => awake (fresh m.pcieDown)
  | .flr => awake (fresh m)
  | .d3hot => if m.on F.mgtPcieStat_UP then { m with mgt := { m.mgt with d3 := true } } else m

/-- The host as a requester of DRAM through the DMA window (R371, R435). -/
def hostAcc : Acc := { agent := 0x002, host := true }

/-- An access through BAR2 reaches the DRAM controller (R375, R435): the port runs, the range lies in the window, DRAM has its keys. -/
def Mach.hostReach (m : Mach) (off len : Nat) : Bool := m.hostUp && m.dramKeys && len != 0 && decide (off + len ≤ 0x1000000000)

/-- HOST_DMA_WRITE (R365, R435): a write that is refused, or that meets an uncorrectable word, is discarded. -/
def hostDmaWriteFx (off : Nat) (bytes : List Byte) (x : Fx) : Fx :=
  if x.m.hostReach off bytes.length then (x.write hostAcc off bytes).2 else x

/-- HOST_DMA_READ (R31, R365, R435): the bytes read, or none, the error response. -/
def hostDmaReadFx (off len : Nat) (x : Fx) : Fx :=
  if x.m.hostReach off len then
    let (b, x) := x.read hostAcc off len
    x.mach fun m => { m with hostIn := b }
  else x.mach fun m => { m with hostIn := none }

/-! ## Ethernet (R428) -/

/-- NET_LINK. -/
def netLink (up : Bool) (m : Mach) : Mach :=
  if m.mgt.netUp = up then m else ({ m with mgt := { m.mgt with netUp := up } } : Mach).emit 0x18 0x1B 0 [(1, (up.toNat : Int))]

/-- ARP (RFC 826): a request for the address in use is answered to its sender. -/
def arp (targetIp senderMac senderIp : Nat) (m : Mach) : Mach :=
  if targetIp = m.mgt.ip then { m with mgt := { m.mgt with arp := some (senderMac, senderIp) } } else m

/-- ICMP_ECHO (RFC 792): the reply carries the request's identifier, sequence number and data. -/
def icmpEcho (srcIp ident seq : Nat) (data : List Byte) (m : Mach) : Mach :=
  { m with mgt := { m.mgt with echo := some (srcIp, ident, seq, data) } }

/-! ## Event queues and runs -/

/-- EVENTS_LOST (R35): the queue has room again. -/
def eventsLost (blk inst : Nat) (m : Mach) : Mach :=
  let k := unitKey blk inst
  let n := spGet (fun _ => 0) m.evDropped k
  if n != 0 && m.evLevel blk inst < 64 then
    ({ m with evDropped := spPut (fun _ => 0) m.evDropped k 0 } : Mach).emit blk 0x03 inst [(32, (n : Int))]
  else m

/-- RUN_TIMEOUT (R509): a run whose event carries the count has lasted 10 ms. -/
def runTimeout (blk loc inst unit : Nat) (m : Mach) : Mach :=
  match m.runs.find? (·.is blk loc inst unit) with
  | some r => m.cond (r.counted && decide (r.start + 10000000 ≤ m.now)) (·.runEnd blk loc inst unit)
  | none => m

end Sys2Proof.Machine
end

