-- ==== Sys2Proof/WellFormed.lean ====
section
/-!
DEFINITION. Well-formed commands: every operand that names an instance, an entry or an instruction field is one that the spec gives
the machine (R5, R29, R149). A command that is not well formed cannot occur on a part; the machine lets its time pass and does
nothing else (log entry 3).
-/

namespace Sys2Proof

/-- A control master (R32, R33): the management controller, the PCIe host, the NCP master or the line-controller SPI master. -/
def isAgent (a : Nat) : Bool := decide (1 ≤ a) && decide (a ≤ 4)

/-- An agent that writes to unit data ports (R32, R120, R202): the management controller, Hopper, SCH or a floor core. -/
def isWriter (a : Nat) : Bool := a == 0x001 || a == 0x060 || a == 0x061 || (decide (0x100 ≤ a) && decide (a < 0x1000))

/-- One of the 16 camera ports. -/
def isPort (p : Nat) : Bool := decide (p < 16)

/-- An engine instance by the numbering of SCH_SLOT (R225). -/
def isEngine (e : Nat) : Bool := decide (e < 23)

/-- A core of one of the 96 logical cluster numbers (R29, R146). -/
def isCore (k : Nat) : Bool := decide (k < 6144)

/-- A lane of the 28 (R292). -/
def isLane (n : Nat) : Bool := decide (n < 28)

/-- A cell has a 64-byte payload (R294). -/
def isCell (c : Cell) : Bool := c.payload.length == 64

/-- Register numbers of an instruction (R149). -/
def regs3 (d a b : Nat) : Bool := decide (d < 32) && decide (a < 32) && decide (b < 32)

/-- The operands of a command are ones that the spec gives. -/
def Instr.wf (i : Instr) : Bool :=
  match i with
  -- general
  | .registerWrite _ agent _ _ => isAgent agent
  | .eventsLost _ _ _ => true
  | .runTimeout _ _ _ _ _ => true
  | .logWrite _ _ => true
  -- camera ports
  | .portLocked _ p _ _ => isPort p
  | .portRetrain _ p _ _ => isPort p
  | .line _ p _ => isPort p
  | .concealTimeout _ p => isPort p
  | .triggerFire _ p => isPort p
  | .timerTrigger _ p => isPort p
  | .trgPulseEnd _ p => isPort p
  | .clkLoss _ p _ => isPort p
  | .portStop _ agent p _ => isAgent agent && isPort p
  | .stopExposureTimeout _ p => isPort p
  | .uartTx _ agent p _ => isAgent agent && isPort p
  | .uartTxByte _ p => isPort p
  | .uartRxByte _ p _ _ => isPort p
  | .uartRxRead _ agent p => isAgent agent && isPort p
  | .linStore _ agent p e index data => isAgent agent && isPort p && decide (e < 4) && decide (index < 4096) && decide (data < 65536)
  | .linSelect _ agent p e index => isAgent agent && isPort p && decide (e < 4) && decide (index < 4096)
  | .ffStore _ agent p index gain offset => isAgent agent && isPort p && decide (index < 32768) && decide (gain < 65536) && decide (offset < 65536)
  | .ffSelect _ agent p index => isAgent agent && isPort p && decide (index < 32768)
  -- image pipelines and contexts
  | .toneStore _ agent c ch index knot => isAgent agent && decide (c < 64) && decide (ch < 4) && decide (index < 512) && decide (knot < 65536)
  | .toneSelect _ agent c ch index => isAgent agent && decide (c < 64) && decide (ch < 4) && decide (index < 512)
  | .commit _ agent c _ => isAgent agent && decide (c < 64)
  | .commitComplete _ c => decide (c < 64)
  | .pipelineLine _ pl => decide (pl < 16)
  | .streamLineWritten _ pl => decide (pl < 16)
  | .statsRecordWritten _ c => decide (c < 64)
  | .assistSlotCopy _ c => decide (c < 64)
  | .assistDone _ agent c _ => isAgent agent && decide (c < 64)
  | .pipelineStop _ agent pl => isAgent agent && decide (pl < 16)
  -- engines
  | .commandWrite _ agent job addr _ => isWriter agent && decide (job < 64) && decide (addr < 2 ^ 40)
  | .sync _ e => isEngine e
  | .conv _ e => isEngine e
  | .gemm _ e => isEngine e
  | .attn _ e => isEngine e
  | .norm _ e => isEngine e
  | .reduce _ e => isEngine e
  | .pool _ e => isEngine e
  | .eltwise _ e => isEngine e
  | .copy _ e => isEngine e
  | .zcomp _ e => isEngine e
  | .zdecomp _ e => isEngine e
  | .audit _ e => isEngine e
  | .assemble _ e => isEngine e
  | .head _ e => isEngine e
  | .commandComplete _ e => isEngine e
  | .cmdFault _ e => isEngine e
  | .preempted _ e => isEngine e
  | .translationMiss _ e ent _ _ => isEngine e && decide (ent < 1024)
  -- floor cores
  | .add _ k d a b => isCore k && regs3 d a b
  | .sub _ k d a b => isCore k && regs3 d a b
  | .and _ k d a b => isCore k && regs3 d a b
  | .or _ k d a b => isCore k && regs3 d a b
  | .xor _ k d a b => isCore k && regs3 d a b
  | .sll _ k d a b => isCore k && regs3 d a b
  | .srl _ k d a b => isCore k && regs3 d a b
  | .sra _ k d a b => isCore k && regs3 d a b
  | .mul _ k d a b => isCore k && regs3 d a b
  | .mulh _ k d a b => isCore k && regs3 d a b
  | .div _ k d a b => isCore k && regs3 d a b
  | .rem _ k d a b => isCore k && regs3 d a b
  | .slt _ k d a b => isCore k && regs3 d a b
  | .sltu _ k d a b => isCore k && regs3 d a b
  | .addi _ k d a imm => isCore k && regs3 d a 0 && decide (imm < 65536)
  | .lui _ k d a imm => isCore k && regs3 d a 0 && decide (imm < 65536)
  | .ld64 _ k d a imm => isCore k && regs3 d a 0 && decide (imm < 65536)
  | .ld32 _ k d a imm => isCore k && regs3 d a 0 && decide (imm < 65536)
  | .ld16 _ k d a imm => isCore k && regs3 d a 0 && decide (imm < 65536)
  | .ld8 _ k d a imm => isCore k && regs3 d a 0 && decide (imm < 65536)
  | .st64 _ k d a imm => isCore k && regs3 d a 0 && decide (imm < 65536)
  | .st32 _ k d a imm => isCore k && regs3 d a 0 && decide (imm < 65536)
  | .st16 _ k d a imm => isCore k && regs3 d a 0 && decide (imm < 65536)
  | .st8 _ k d a imm => isCore k && regs3 d a 0 && decide (imm < 65536)
  | .beq _ k d a imm => isCore k && regs3 d a 0 && decide (imm < 65536)
  | .bne _ k d a imm => isCore k && regs3 d a 0 && decide (imm < 65536)
  | .blt _ k d a imm => isCore k && regs3 d a 0 && decide (imm < 65536)
  | .bge _ k d a imm => isCore k && regs3 d a 0 && decide (imm < 65536)
  | .jal _ k d imm => isCore k && regs3 d 0 0 && decide (imm < 2 ^ 21)
  | .jr _ k d a imm => isCore k && regs3 d a 0 && decide (imm < 65536)
  | .vld _ k d a imm => isCore k && regs3 d a 0 && decide (imm < 65536)
  | .vst _ k d a imm => isCore k && regs3 d a 0 && decide (imm < 65536)
  | .vld64 _ k d a imm => isCore k && regs3 d a 0 && decide (imm < 65536) && decide (d < 31)
  | .vst64 _ k d a imm => isCore k && regs3 d a 0 && decide (imm < 65536) && decide (d < 31)
  | .vop _ k d a b func => isCore k && regs3 d a b && decide (func < 0xE)
  | .fadd _ k d a b => isCore k && regs3 d a b
  | .fmul _ k d a b => isCore k && regs3 d a b
  | .fma _ k d a b => isCore k && regs3 d a b
  | .fmax _ k d a b => isCore k && regs3 d a b
  | .fmin _ k d a b => isCore k && regs3 d a b
  | .vdot8 _ k d a b => isCore k && regs3 d a b
  | .vdotf8 _ k d a b => isCore k && regs3 d a b
  | .vfmabf _ k d a b => isCore k && regs3 d a b
  | .vcvt _ k d a b func => isCore k && regs3 d a b && cvtFunc func
  | .vperm _ k d a b => isCore k && regs3 d a b
  | .vbcast _ k d a b => isCore k && regs3 d a b
  | .dma _ k d a imm => isCore k && regs3 d a 0 && decide (imm < 65536)
  | .dmaComplete _ k ch => isCore k && decide (ch < 4)
  | .dmawait _ k d a imm => isCore k && regs3 d a 0 && decide (imm < 65536)
  | .signal _ k d a imm => isCore k && regs3 d a 0 && decide (1 ≤ imm) && decide (imm ≤ 255)
  | .arm _ k d a b => isCore k && regs3 d a b
  | .wait _ k d a imm => isCore k && regs3 d a 0 && decide (imm < 65536)
  | .fence _ k => isCore k
  | .rdspec _ k d a imm => isCore k && regs3 d a 0 && decide (imm < 4)
  | .halt _ k => isCore k
  | .mbxsend _ k d a b func => isCore k && regs3 d a b && decide (func < 2)
  | .mbxrecv _ k d a b func => isCore k && regs3 d a b && (func == 0 || func == 2)
  | .coreTrap _ k => isCore k
  -- Hopper
  | .stepIssue _ e => decide (e < 1024)
  | .haloSend _ e side => decide (e < 1024) && decide (side < 2)
  | .haloCopyDone _ e side => decide (e < 1024) && decide (side < 2)
  | .haloMessage _ _ _ _ _ => true
  | .haloLate _ e side => decide (e < 1024) && decide (side < 2)
  | .haloDetached _ e side => decide (e < 1024) && decide (side < 2)
  | .endNotice _ _ _ _ => true
  | .pageSpill _ e _ => decide (e < 1024)
  | .pageFetch _ e _ => decide (e < 1024)
  | .fetchLead _ e => decide (e < 1024)
  -- jobs and scheduling
  | .jobStop _ agent j => isAgent agent && decide (j < 64)
  | .jobClear _ agent j => isAgent agent && decide (j < 64)
  | .jobStopped _ j => decide (j < 64)
  | .stopTimeout _ j => decide (j < 64)
  | .taskWrite _ agent job addr _ => isWriter agent && decide (job < 64) && decide (addr < 2 ^ 40)
  | .tileStart _ cl => decide (cl < 96)
  | .steal _ cl => decide (cl < 96)
  | .clusterParked _ cl => decide (cl < 96)
  | .clusterWoken _ cl => decide (cl < 96)
  | .preempt _ j incoming => decide (j < 64) && decide (incoming < 64)
  | .jobResumed _ j => decide (j < 64)
  | .bucketRefill _ => true
  | .guaranteeHeld _ => true
  | .frameStart _ e => isEngine e
  | .verdictStore _ k addr _ => isCore k && decide (addr < 2 ^ 40)
  | .switchPoint _ port _ => isPort port
  | .restartArm _ agent _ => isAgent agent
  | .restartRequest _ _ _ _ _ _ _ => true
  | .restartReport _ pos _ _ => decide (pos < 32)
  | .restartDecision _ => true
  | .restartDecisionMsg _ _ _ => true
  | .restartAck _ pos _ => decide (pos < 32)
  | .restartTick _ => true
  | .restartIncomplete _ => true
  | .synAdd _ agent _ => isAgent agent
  | .synObj _ agent n _ => isAgent agent && decide (n < 16384)
  | .mbxSend _ agent m _ => isAgent agent && decide (m < 512)
  | .mbxTake _ agent m => isAgent agent && decide (m < 512)
  -- position, tracking, ejection
  | .encoderEdge _ ax _ _ _ => decide (ax < 8)
  | .zEdge _ ax _ => decide (ax < 8)
  | .lineFault _ ax _ => decide (ax < 8)
  | .still _ ax => decide (ax < 8)
  | .posStop _ agent ax => isAgent agent && decide (ax < 8)
  | .verdictRecord _ ax => decide (ax < 8)
  | .slotClosePoint _ ax slot => decide (ax < 8) && decide (slot < 4096)
  | .edgeHandoff _ ax index _ => decide (ax < 8) && decide (index < 4096)
  | .lastFeasibleFirePoint _ ax index => decide (ax < 8) && decide (index < 4096)
  | .edgeFire _ ax index _ => decide (ax < 8) && decide (index < 4096)
  | .maxOnClamp _ v => decide (v < 96)
  | .lateHoldEnd _ => true
  | .axisStop _ agent ax => isAgent agent && decide (ax < 8)
  -- field I/O
  | .outLevelWrite _ agent _ _ => isAgent agent
  | .rawWrite _ agent q _ => isAgent agent && decide (q < 96)
  | .bothonClear _ agent q => isAgent agent && decide (q < 96)
  | .overload _ q => decide (q < 96)
  | .overloadRetry _ q => decide (q < 96)
  | .ovlLatchClear _ agent q => isAgent agent && decide (q < 96)
  | .openOut _ q => decide (q < 96)
  | .openOutClear _ q => decide (q < 96)
  | .overtemp _ q => decide (q < 96)
  | .overtempClear _ q => decide (q < 96)
  | .grpWarn _ g _ => decide (g < 12)
  | .grpLow _ g _ => decide (g < 12)
  | .grpOk _ g _ => decide (g < 12)
  | .grpOv _ g _ => decide (g < 12)
  | .enter _ agent => isAgent agent
  | .release _ agent => isAgent agent
  | .couplerTimeout _ q => decide (q < 96)
  | .inputChange _ i _ _ => decide (i < 32)
  | .inOpen _ i _ _ => decide (i < 32)
  | .inWireOk _ i _ _ => decide (i < 32)
  | .countedEdge _ i _ _ => decide (i < 32)
  | .gateEnd _ i => decide (i < 32)
  | .countWrite _ agent i _ => isAgent agent && decide (i < 32)
  -- Ponyx lanes and links
  | .laneEnable _ agent n _ => isAgent agent && isLane n
  | .forceL2 _ agent n _ => isAgent agent && isLane n
  | .idleCell _ n c => isLane n && isCell c
  | .dataCell _ n c => isLane n && isCell c
  | .tagCell _ n c _ => isLane n && isCell c
  | .syncCell _ n c => isLane n && isCell c
  | .trainCell _ n c => isLane n && isCell c
  | .pairCell _ n c _ _ => isLane n && isCell c
  | .nakCell _ n c => isLane n && isCell c
  | .nakTimeout _ k => decide (k < 5)
  | .cdrLock _ n _ _ => isLane n
  | .lossOfLock _ n _ => isLane n
  | .laneRetrain _ n => isLane n
  | .linkDown _ k => decide (k < 5)
  | .syncSend _ n => isLane n
  | .l1Entry _ n => isLane n
  | .laneWake _ n => isLane n
  | .chainWait _ => true
  | .chainAnnounce _ k pos => decide (k < 5) && decide (pos < 32)
  | .keyFail _ k => decide (k < 5)
  | .keyRetry _ k => decide (k < 5)
  -- twin pairs
  | .pairWait _ => true
  | .heartbeatSend _ _ => true
  | .heartbeat _ _ _ _ => true
  | .heartbeatAck _ _ => true
  | .heartbeatMissed _ => true
  | .followerLost _ => true
  | .autoSolo _ => true
  | .leadWatchdog _ => true
  | .solo _ agent => isAgent agent
  | .join _ agent => isAgent agent
  | .forwardedLine _ p _ _ => isPort p
  | .forwardedEdge _ _ => true
  | .forwardedInput _ _ i _ _ => decide (i < 32)
  | .forwardedChoice _ port _ _ => isPort port
  | .forwardedDetach _ e side _ _ => decide (e < 1024) && decide (side < 2)
  | .forwardedEndRow _ e _ => decide (e < 1024)
  | .digest _ _ _ _ _ _ => true
  | .followerStandby _ _ => true
  -- record and replay
  | .recordEnable _ agent _ => isAgent agent
  | .recGap _ => true
  | .checkpoint _ => true
  | .freeze _ agent => isAgent agent
  | .recFrozen _ => true
  | .exportGo _ agent _ => isAgent agent
  | .exportDone _ => true
  | .replayRecord _ => true
  | .replayDone _ => true
  -- memory integrity and security
  | .spgGo _ agent => isAgent agent
  | .spgStop _ agent => isAgent agent
  | .spargeDone _ => true
  | .flipArm _ agent _ => isAgent agent
  | .entropyReady _ => true
  | .healthFail _ test => (test == 1 || test == 2)
  | .reseed _ => true
  | .rngRead _ agent => isAgent agent
  -- power, reset, start
  | .supplySample _ _ => true
  | .powerFail _ _ => true
  | .pwrfailRecover _ => true
  | .powerOn _ => true
  | .nresetIn _ => true
  | .resetRelease _ => true
  | .deferredReset _ => true
  | .globalWarmReset _ agent val => isAgent agent && val.extractLsb' 0 3 == 1#3
  | .globalColdReset _ agent val => isAgent agent && val.extractLsb' 0 3 == 2#3
  | .computeReset _ agent val => isAgent agent && val.extractLsb' 0 3 == 3#3
  | .blockReset _ agent val => isAgent agent && (val.extractLsb' 0 3 == 0#3 || val.getLsbD 2)
  | .startPhase _ _ => true
  | .startTimeout _ => true
  | .startFailed _ _ => true
  | .startRetry _ _ => true
  | .faultFlash _ => true
  | .autorun _ => true
  | .calStore _ agent _ => isAgent agent
  | .calStored _ _ => true
  | .wdogKick _ agent _ => isAgent agent
  | .wdogExpired _ cause => decide (cause < 16)
  | .force _ agent => isAgent agent
  | .dumpClear _ agent => isAgent agent
  | .dumpErased _ => true
  | .jobHang _ j => decide (j < 64)
  -- management interfaces
  | .ncpRead _ _ _ => true
  | .ncpWrite _ _ _ _ => true
  | .ncpReadN _ _ _ n => decide (n < 65536)
  | .ncpStatus _ _ => true
  | .ncpLogRead _ _ _ n => decide (n < 65536)
  | .updBegin _ _ _ => true
  | .updEraseDone _ => true
  | .updData _ _ _ _ => true
  | .updCommit _ _ => true
  | .updateDone _ _ => true
  | .updAbort _ _ => true
  | .netStore _ agent => isAgent agent
  | .spiNop _ _ _ => true
  | .spiRead _ _ frames _ => decide (frames ≤ 2)
  | .spiWrite _ _ data => decide (data.length ≤ 2)
  | .spiInvalid _ _ => true
  | .spiPartial _ edges => decide (edges < 32)
  | .spiAbandoned _ => true
  | .pcieLink _ _ => true
  | .netLink _ _ => true
  | .latch _ agent => isAgent agent
  | .wallRate _ agent _ => isAgent agent
  | .wallAdj _ agent _ => isAgent agent
  | .reelHoldover _ => true
  | .ptpEventMessage _ _ _ _ _ _ _ => true
  | .wallHoldover _ => true
  | .ptpStampRead _ agent _ => isAgent agent
  | .snapArm _ agent _ => isAgent agent
  | .snapCommand _ _ _ => true
  | .snapshot _ => true
  | .ridxWrite _ agent _ => isAgent agent
  | .lost _ => true
  | .sensorSample _ _ _ _ _ _ _ _ => true
  | .sensorFail _ _ => true
  | .boostS _ agent _ => isAgent agent
  | .endBoost _ agent => isAgent agent
  | .boostTimeout _ => true
  | .cooldownEnd _ => true
  | .clkReturn _ p => isPort p
  | .grpWarnClear _ g _ => decide (g < 12)
  | .grpOvClear _ g _ => decide (g < 12)
  | .l2Return _ n => isLane n
  | .crcFailure _ n _ => isLane n
  | .prbsChecker _ n _ _ => isLane n
  | .hostDmaWrite _ _ _ => true
  | .hostDmaRead _ _ _ => true
  | .arp _ _ _ _ => true
  | .icmpEcho _ _ _ _ _ => true
  | .netStoreDone _ => true
  | .retentionLoss _ => true

/-- How many ns of the base counter passed since the command before. -/
def Instr.dt (i : Instr) : Nat :=
  match i with
  | .registerWrite dt _ _ _ => dt
  | .eventsLost dt _ _ => dt
  | .runTimeout dt _ _ _ _ => dt
  | .logWrite dt _ => dt
  | .portLocked dt _ _ _ => dt
  | .portRetrain dt _ _ _ => dt
  | .line dt _ _ => dt
  | .concealTimeout dt _ => dt
  | .triggerFire dt _ => dt
  | .timerTrigger dt _ => dt
  | .trgPulseEnd dt _ => dt
  | .clkLoss dt _ _ => dt
  | .portStop dt _ _ _ => dt
  | .stopExposureTimeout dt _ => dt
  | .uartTx dt _ _ _ => dt
  | .uartTxByte dt _ => dt
  | .uartRxByte dt _ _ _ => dt
  | .uartRxRead dt _ _ => dt
  | .linStore dt _ _ _ _ _ => dt
  | .linSelect dt _ _ _ _ => dt
  | .ffStore dt _ _ _ _ _ => dt
  | .ffSelect dt _ _ _ => dt
  | .toneStore dt _ _ _ _ _ => dt
  | .toneSelect dt _ _ _ _ => dt
  | .commit dt _ _ _ => dt
  | .commitComplete dt _ => dt
  | .pipelineLine dt _ => dt
  | .streamLineWritten dt _ => dt
  | .statsRecordWritten dt _ => dt
  | .assistSlotCopy dt _ => dt
  | .assistDone dt _ _ _ => dt
  | .pipelineStop dt _ _ => dt
  | .commandWrite dt _ _ _ _ => dt
  | .sync dt _ => dt
  | .conv dt _ => dt
  | .gemm dt _ => dt
  | .attn dt _ => dt
  | .norm dt _ => dt
  | .reduce dt _ => dt
  | .pool dt _ => dt
  | .eltwise dt _ => dt
  | .copy dt _ => dt
  | .zcomp dt _ => dt
  | .zdecomp dt _ => dt
  | .audit dt _ => dt
  | .assemble dt _ => dt
  | .head dt _ => dt
  | .commandComplete dt _ => dt
  | .cmdFault dt _ => dt
  | .preempted dt _ => dt
  | .translationMiss dt _ _ _ _ => dt
  | .add dt _ _ _ _ => dt
  | .sub dt _ _ _ _ => dt
  | .and dt _ _ _ _ => dt
  | .or dt _ _ _ _ => dt
  | .xor dt _ _ _ _ => dt
  | .sll dt _ _ _ _ => dt
  | .srl dt _ _ _ _ => dt
  | .sra dt _ _ _ _ => dt
  | .mul dt _ _ _ _ => dt
  | .mulh dt _ _ _ _ => dt
  | .div dt _ _ _ _ => dt
  | .rem dt _ _ _ _ => dt
  | .slt dt _ _ _ _ => dt
  | .sltu dt _ _ _ _ => dt
  | .addi dt _ _ _ _ => dt
  | .lui dt _ _ _ _ => dt
  | .ld64 dt _ _ _ _ => dt
  | .ld32 dt _ _ _ _ => dt
  | .ld16 dt _ _ _ _ => dt
  | .ld8 dt _ _ _ _ => dt
  | .st64 dt _ _ _ _ => dt
  | .st32 dt _ _ _ _ => dt
  | .st16 dt _ _ _ _ => dt
  | .st8 dt _ _ _ _ => dt
  | .beq dt _ _ _ _ => dt
  | .bne dt _ _ _ _ => dt
  | .blt dt _ _ _ _ => dt
  | .bge dt _ _ _ _ => dt
  | .jal dt _ _ _ => dt
  | .jr dt _ _ _ _ => dt
  | .vld dt _ _ _ _ => dt
  | .vst dt _ _ _ _ => dt
  | .vld64 dt _ _ _ _ => dt
  | .vst64 dt _ _ _ _ => dt
  | .vop dt _ _ _ _ _ => dt
  | .fadd dt _ _ _ _ => dt
  | .fmul dt _ _ _ _ => dt
  | .fma dt _ _ _ _ => dt
  | .fmax dt _ _ _ _ => dt
  | .fmin dt _ _ _ _ => dt
  | .vdot8 dt _ _ _ _ => dt
  | .vdotf8 dt _ _ _ _ => dt
  | .vfmabf dt _ _ _ _ => dt
  | .vcvt dt _ _ _ _ _ => dt
  | .vperm dt _ _ _ _ => dt
  | .vbcast dt _ _ _ _ => dt
  | .dma dt _ _ _ _ => dt
  | .dmaComplete dt _ _ => dt
  | .dmawait dt _ _ _ _ => dt
  | .signal dt _ _ _ _ => dt
  | .arm dt _ _ _ _ => dt
  | .wait dt _ _ _ _ => dt
  | .fence dt _ => dt
  | .rdspec dt _ _ _ _ => dt
  | .halt dt _ => dt
  | .mbxsend dt _ _ _ _ _ => dt
  | .mbxrecv dt _ _ _ _ _ => dt
  | .coreTrap dt _ => dt
  | .stepIssue dt _ => dt
  | .haloSend dt _ _ => dt
  | .haloCopyDone dt _ _ => dt
  | .haloMessage dt _ _ _ _ => dt
  | .haloLate dt _ _ => dt
  | .haloDetached dt _ _ => dt
  | .endNotice dt _ _ _ => dt
  | .pageSpill dt _ _ => dt
  | .pageFetch dt _ _ => dt
  | .fetchLead dt _ => dt
  | .jobStop dt _ _ => dt
  | .jobClear dt _ _ => dt
  | .jobStopped dt _ => dt
  | .stopTimeout dt _ => dt
  | .taskWrite dt _ _ _ _ => dt
  | .tileStart dt _ => dt
  | .steal dt _ => dt
  | .clusterParked dt _ => dt
  | .clusterWoken dt _ => dt
  | .preempt dt _ _ => dt
  | .jobResumed dt _ => dt
  | .bucketRefill dt => dt
  | .guaranteeHeld dt => dt
  | .frameStart dt _ => dt
  | .verdictStore dt _ _ _ => dt
  | .switchPoint dt _ _ => dt
  | .restartArm dt _ _ => dt
  | .restartRequest dt _ _ _ _ _ _ => dt
  | .restartReport dt _ _ _ => dt
  | .restartDecision dt => dt
  | .restartDecisionMsg dt _ _ => dt
  | .restartAck dt _ _ => dt
  | .restartTick dt => dt
  | .restartIncomplete dt => dt
  | .synAdd dt _ _ => dt
  | .synObj dt _ _ _ => dt
  | .mbxSend dt _ _ _ => dt
  | .mbxTake dt _ _ => dt
  | .encoderEdge dt _ _ _ _ => dt
  | .zEdge dt _ _ => dt
  | .lineFault dt _ _ => dt
  | .still dt _ => dt
  | .posStop dt _ _ => dt
  | .verdictRecord dt _ => dt
  | .slotClosePoint dt _ _ => dt
  | .edgeHandoff dt _ _ _ => dt
  | .lastFeasibleFirePoint dt _ _ => dt
  | .edgeFire dt _ _ _ => dt
  | .maxOnClamp dt _ => dt
  | .lateHoldEnd dt => dt
  | .axisStop dt _ _ => dt
  | .outLevelWrite dt _ _ _ => dt
  | .rawWrite dt _ _ _ => dt
  | .bothonClear dt _ _ => dt
  | .overload dt _ => dt
  | .overloadRetry dt _ => dt
  | .ovlLatchClear dt _ _ => dt
  | .openOut dt _ => dt
  | .openOutClear dt _ => dt
  | .overtemp dt _ => dt
  | .overtempClear dt _ => dt
  | .grpWarn dt _ _ => dt
  | .grpLow dt _ _ => dt
  | .grpOk dt _ _ => dt
  | .grpOv dt _ _ => dt
  | .enter dt _ => dt
  | .release dt _ => dt
  | .couplerTimeout dt _ => dt
  | .inputChange dt _ _ _ => dt
  | .inOpen dt _ _ _ => dt
  | .inWireOk dt _ _ _ => dt
  | .countedEdge dt _ _ _ => dt
  | .gateEnd dt _ => dt
  | .countWrite dt _ _ _ => dt
  | .laneEnable dt _ _ _ => dt
  | .forceL2 dt _ _ _ => dt
  | .idleCell dt _ _ => dt
  | .dataCell dt _ _ => dt
  | .tagCell dt _ _ _ => dt
  | .syncCell dt _ _ => dt
  | .trainCell dt _ _ => dt
  | .pairCell dt _ _ _ _ => dt
  | .nakCell dt _ _ => dt
  | .nakTimeout dt _ => dt
  | .cdrLock dt _ _ _ => dt
  | .lossOfLock dt _ _ => dt
  | .laneRetrain dt _ => dt
  | .linkDown dt _ => dt
  | .syncSend dt _ => dt
  | .l1Entry dt _ => dt
  | .laneWake dt _ => dt
  | .chainWait dt => dt
  | .chainAnnounce dt _ _ => dt
  | .keyFail dt _ => dt
  | .keyRetry dt _ => dt
  | .pairWait dt => dt
  | .heartbeatSend dt _ => dt
  | .heartbeat dt _ _ _ => dt
  | .heartbeatAck dt _ => dt
  | .heartbeatMissed dt => dt
  | .followerLost dt => dt
  | .autoSolo dt => dt
  | .leadWatchdog dt => dt
  | .solo dt _ => dt
  | .join dt _ => dt
  | .forwardedLine dt _ _ _ => dt
  | .forwardedEdge dt _ => dt
  | .forwardedInput dt _ _ _ _ => dt
  | .forwardedChoice dt _ _ _ => dt
  | .forwardedDetach dt _ _ _ _ => dt
  | .forwardedEndRow dt _ _ => dt
  | .digest dt _ _ _ _ _ => dt
  | .followerStandby dt _ => dt
  | .recordEnable dt _ _ => dt
  | .recGap dt => dt
  | .checkpoint dt => dt
  | .freeze dt _ => dt
  | .recFrozen dt => dt
  | .exportGo dt _ _ => dt
  | .exportDone dt => dt
  | .replayRecord dt => dt
  | .replayDone dt => dt
  | .spgGo dt _ => dt
  | .spgStop dt _ => dt
  | .spargeDone dt => dt
  | .flipArm dt _ _ => dt
  | .entropyReady dt => dt
  | .healthFail dt _ => dt
  | .reseed dt => dt
  | .rngRead dt _ => dt
  | .supplySample dt _ => dt
  | .powerFail dt _ => dt
  | .pwrfailRecover dt => dt
  | .powerOn dt => dt
  | .nresetIn dt => dt
  | .resetRelease dt => dt
  | .deferredReset dt => dt
  | .globalWarmReset dt _ _ => dt
  | .globalColdReset dt _ _ => dt
  | .computeReset dt _ _ => dt
  | .blockReset dt _ _ => dt
  | .startPhase dt _ => dt
  | .startTimeout dt => dt
  | .startFailed dt _ => dt
  | .startRetry dt _ => dt
  | .faultFlash dt => dt
  | .autorun dt => dt
  | .calStore dt _ _ => dt
  | .calStored dt _ => dt
  | .wdogKick dt _ _ => dt
  | .wdogExpired dt _ => dt
  | .force dt _ => dt
  | .dumpClear dt _ => dt
  | .dumpErased dt => dt
  | .jobHang dt _ => dt
  | .ncpRead dt _ _ => dt
  | .ncpWrite dt _ _ _ => dt
  | .ncpReadN dt _ _ _ => dt
  | .ncpStatus dt _ => dt
  | .ncpLogRead dt _ _ _ => dt
  | .updBegin dt _ _ => dt
  | .updEraseDone dt => dt
  | .updData dt _ _ _ => dt
  | .updCommit dt _ => dt
  | .updateDone dt _ => dt
  | .updAbort dt _ => dt
  | .netStore dt _ => dt
  | .spiNop dt _ _ => dt
  | .spiRead dt _ _ _ => dt
  | .spiWrite dt _ _ => dt
  | .spiInvalid dt _ => dt
  | .spiPartial dt _ => dt
  | .spiAbandoned dt => dt
  | .pcieLink dt _ => dt
  | .netLink dt _ => dt
  | .latch dt _ => dt
  | .wallRate dt _ _ => dt
  | .wallAdj dt _ _ => dt
  | .reelHoldover dt => dt
  | .ptpEventMessage dt _ _ _ _ _ _ => dt
  | .wallHoldover dt => dt
  | .ptpStampRead dt _ _ => dt
  | .snapArm dt _ _ => dt
  | .snapCommand dt _ _ => dt
  | .snapshot dt => dt
  | .ridxWrite dt _ _ => dt
  | .lost dt => dt
  | .sensorSample dt _ _ _ _ _ _ _ => dt
  | .sensorFail dt _ => dt
  | .boostS dt _ _ => dt
  | .endBoost dt _ => dt
  | .boostTimeout dt => dt
  | .cooldownEnd dt => dt
  | .clkReturn dt _ => dt
  | .grpWarnClear dt _ _ => dt
  | .grpOvClear dt _ _ => dt
  | .l2Return dt _ => dt
  | .crcFailure dt _ _ => dt
  | .prbsChecker dt _ _ _ => dt
  | .hostDmaWrite dt _ _ => dt
  | .hostDmaRead dt _ _ => dt
  | .arp dt _ _ _ => dt
  | .icmpEcho dt _ _ _ _ => dt
  | .netStoreDone dt => dt
  | .retentionLoss dt => dt

end Sys2Proof
end

