-- ==== Sys2Proof/Machine/Operands.lean ====
section
/-!
DEFINITION. How a command reaches its meaning: its `dt` passes first (R10, R441; log entry 1), then, when its operands are ones that
the spec gives (WellFormed) and the machine is not held in reset, its effect happens on what time has left.
-/

namespace Sys2Proof.Machine

/-- The state as a command at work on memory sees it. -/
def State.fx (s : State) : Fx := { v := ⟨s.mem, s.flips⟩, m := s.m, ws := [] }

/-- The state after a command at work on memory: its machine, and its writes applied one by one. -/
def State.after (s : State) (x : Fx) : State :=
  let v := x.ws.foldl (fun v w => w.apply v) ⟨s.mem, s.flips⟩
  { s with mem := v.mem, flips := v.flips, m := x.m }

/-- Trace records reach their places in the ring (R458; log entry 71), as long as MEM admits the access (R375). -/
def Fx.traceFlush (x : Fx) : Fx :=
  if x.m.tracer.out.isEmpty || x.m.stalls 0 then x
  else
    let out := x.m.tracer.out
    out.foldl (fun x r => (x.write trcAcc r.1 r.2).2) (x.mach fun m => { m with tracer := { m.tracer with out := [] } })

/-- `dt` ns pass (R441): the recorder's buffer and the trace records in flight reach DRAM, the cycle counters count, the base counter
advances and the event queues empty into the log's buffer. -/
def State.pass (s : State) (dt : Nat) : State :=
  if dt = 0 then s else s.after ((s.fx.recDrain.traceFlush).mach fun m => (m.tick dt).swFlush)

/-- A command of agent `a` on window `w` reaches its register once `dt` has passed (R433; log entry 150). -/
def State.lets (s : State) (dt a w : Nat) : Bool := (s.pass dt).m.lets a w

/-- A command whose meaning acts even while the machine is held in reset: the resets themselves (R398 to R401). -/
def State.actAlways (s : State) (dt : Nat) (ok : Bool) (f : Fx → Fx) : Host.Outcome State Fault Refusal :=
  let t := s.pass dt
  .next (if ok then t.after (f t.fx) else t)

/-- A command that works on memory and machine. -/
def State.actFx (s : State) (dt : Nat) (ok : Bool) (f : Fx → Fx) : Host.Outcome State Fault Refusal :=
  s.actAlways dt (ok && !(s.pass dt).m.halted) f

/-- A command that changes the machine alone. -/
def State.act (s : State) (dt : Nat) (ok : Bool) (f : Mach → Mach) : Host.Outcome State Fault Refusal :=
  let t := s.pass dt
  .next (if ok && !t.m.halted then { t with m := f t.m } else t)

/-- A command that changes the machine by what it finds in memory. -/
def State.actView (s : State) (dt : Nat) (ok : Bool) (f : View → Mach → Mach) : Host.Outcome State Fault Refusal :=
  let t := s.pass dt
  .next (if ok && !t.m.halted then { t with m := f ⟨t.mem, t.flips⟩ t.m } else t)

/-- The body of a command that lists its writes, as one that works on memory. -/
def listing (f : View → Mach → Mach × List Wr) (x : Fx) : Fx :=
  let (m, ws) := f x.v x.m
  { x with m }.put ws

end Sys2Proof.Machine
end

