-- ==== Sys2Proof/Machine/RowsEngine.lean ====
section
/-!
DEFINITION. The meanings of the commands of the engines: one definition per row of the table, over the operations of this folder.
-/

namespace Sys2Proof.Machine

/-- COMMAND_WRITE (R120): An aligned 64-byte write enters a command into an engine queue, stalling while the queue is full. -/
def execCommandWrite (dt agent job addr : Nat) (bytes : List Byte) (s : State) : Host.Outcome State Fault Refusal :=
  s.act dt (isWriter agent && decide (job < 64) && decide (addr < 2 ^ 40)) (commandWrite agent job addr bytes)

/-- SYNC (R124): Engine opcode 0x00 waits and signals only. -/
def execSync (dt e : Nat) (s : State) : Host.Outcome State Fault Refusal :=
  s.actFx dt (isEngine e) (engineStart 0x00 e)

/-- CONV (R126): The Window Engine computes a convolution. -/
def execConv (dt e : Nat) (s : State) : Host.Outcome State Fault Refusal :=
  s.actFx dt (isEngine e) (engineStart 0x10 e)

/-- GEMM (R129): The Matrix Engine computes a matrix product. -/
def execGemm (dt e : Nat) (s : State) : Host.Outcome State Fault Refusal :=
  s.actFx dt (isEngine e) (engineStart 0x20 e)

/-- ATTN (R133): The Attention Engine computes attention over masked keys. -/
def execAttn (dt e : Nat) (s : State) : Host.Outcome State Fault Refusal :=
  s.actFx dt (isEngine e) (engineStart 0x30 e)

/-- NORM (R134): The Norm Engine normalises rows. -/
def execNorm (dt e : Nat) (s : State) : Host.Outcome State Fault Refusal :=
  s.actFx dt (isEngine e) (engineStart 0x40 e)

/-- REDUCE (R134): The Norm Engine reduces along an axis. -/
def execReduce (dt e : Nat) (s : State) : Host.Outcome State Fault Refusal :=
  s.actFx dt (isEngine e) (engineStart 0x41 e)

/-- POOL (R134): The Norm Engine pools over windows. -/
def execPool (dt e : Nat) (s : State) : Host.Outcome State Fault Refusal :=
  s.actFx dt (isEngine e) (engineStart 0x42 e)

/-- ELTWISE (R134): The Norm Engine applies an elementwise function. -/
def execEltwise (dt e : Nat) (s : State) : Host.Outcome State Fault Refusal :=
  s.actFx dt (isEngine e) (engineStart 0x43 e)

/-- COPY (R134): The Norm Engine converts IN0 to OUT's format. -/
def execCopy (dt e : Nat) (s : State) : Host.Outcome State Fault Refusal :=
  s.actFx dt (isEngine e) (engineStart 0x44 e)

/-- ZCOMP (R135): The Codec Engine zero-compresses a tensor. -/
def execZcomp (dt e : Nat) (s : State) : Host.Outcome State Fault Refusal :=
  s.actFx dt (isEngine e) (engineStart 0x50 e)

/-- ZDECOMP (R135): The Codec Engine decompresses a tensor. -/
def execZdecomp (dt e : Nat) (s : State) : Host.Outcome State Fault Refusal :=
  s.actFx dt (isEngine e) (engineStart 0x51 e)

/-- AUDIT (R136): The Codec Engine losslessly compresses lines. -/
def execAudit (dt e : Nat) (s : State) : Host.Outcome State Fault Refusal :=
  s.actFx dt (isEngine e) (engineStart 0x52 e)

/-- ASSEMBLE (R137): The Verdict Engine copies a window of tokens. -/
def execAssemble (dt e : Nat) (s : State) : Host.Outcome State Fault Refusal :=
  s.actFx dt (isEngine e) (engineStart 0x60 e)

/-- HEAD (R137): The Verdict Engine runs a head table and pools logits. -/
def execHead (dt e : Nat) (s : State) : Host.Outcome State Fault Refusal :=
  s.actFx dt (isEngine e) (engineStart 0x61 e)

/-- COMMAND_COMPLETE (R122): An engine command completes with outputs visible and increments SIG_OBJ, waking satisfied waiters. -/
def execCommandComplete (dt e : Nat) (s : State) : Host.Outcome State Fault Refusal :=
  s.actFx dt (isEngine e) fun x => (x.mach (commandComplete e)).hopAfter

/-- CMD_FAULT (R154): An engine command faults (invalid or bus error), stops, discards its job's queued commands and faults the job. -/
def execCmdFault (dt e : Nat) (s : State) : Host.Outcome State Fault Refusal :=
  s.actFx dt (isEngine e) (cmdFaultFx e)

/-- PREEMPTED (R155): An engine running a pre-empted job's command stops at a tile boundary and saves its progress. -/
def execPreempted (dt e : Nat) (s : State) : Host.Outcome State Fault Refusal :=
  s.actFx dt (isEngine e) (preemptedFx e)

/-- TRANSLATION_MISS (R174): A translation-buffer miss completes its page-table walk, faulting, stalling or starting a demand fetch. -/
def execTranslationMiss (dt e ent off : Nat) (wr : Bool) (s : State) : Host.Outcome State Fault Refusal :=
  s.actFx dt (isEngine e && decide (ent < 1024)) (translationMissFx e ent off wr)

end Sys2Proof.Machine
end

