-- ==== Sys2Proof/Machine/RowsField.lean ====
section
/-!
DEFINITION. The meanings of the commands of field I/O: one definition per row of the table, over the operations of this folder.
-/

namespace Sys2Proof.Machine

/-- OUT_LEVEL_WRITE (R266): A write of FIO_OUT_LO or FIO_OUT_HI sets commanded levels of register-sourced channels. -/
def execOutLevelWrite (dt agent : Nat) (hi : Bool) (val : Word) (s : State) : Host.Outcome State Fault Refusal :=
  s.act dt (isAgent agent && s.lets dt agent 16) (outLevelWrite hi val)

/-- RAW_WRITE (R267): A write of FIO_CH_CMD commands RAW switches. -/
def execRawWrite (dt agent q : Nat) (val : Word) (s : State) : Host.Outcome State Fault Refusal :=
  s.act dt (isAgent agent && s.lets dt agent 16 && decide (q < 96)) (rawWrite q val)

/-- BOTHON_CLEAR (R272): Writing 1 to BOTHON lets the channel take the RAW bits again. -/
def execBothonClear (dt agent q : Nat) (s : State) : Host.Outcome State Fault Refusal :=
  s.act dt (isAgent agent && s.lets dt agent 16 && decide (q < 96)) (bothonClear q)

/-- OVERLOAD (R273): A channel trips on overload and turns off. -/
def execOverload (dt q : Nat) (s : State) : Host.Outcome State Fault Refusal :=
  s.act dt (decide (q < 96)) (overload q)

/-- OVERLOAD_RETRY (R273): 100 ms after a trip TRIPPED clears and the channel retries. -/
def execOverloadRetry (dt q : Nat) (s : State) : Host.Outcome State Fault Refusal :=
  s.act dt (decide (q < 96)) (overloadRetry q)

/-- OVL_LATCH_CLEAR (R273): Writing 1 to OVL_LATCH releases a latched channel. -/
def execOvlLatchClear (dt agent q : Nat) (s : State) : Host.Outcome State Fault Refusal :=
  s.act dt (isAgent agent && s.lets dt agent 16 && decide (q < 96)) (ovlLatchClear q)

/-- OPEN_OUT (R274): An open load for 5 ms sets OPEN. -/
def execOpenOut (dt q : Nat) (s : State) : Host.Outcome State Fault Refusal :=
  s.act dt (decide (q < 96)) (openOut q)

/-- OPEN_OUT_CLEAR (R274): The open condition absent for 5 ms clears OPEN. -/
def execOpenOutClear (dt q : Nat) (s : State) : Host.Outcome State Fault Refusal :=
  s.act dt (decide (q < 96)) (openOutClear q)

/-- OVERTEMP (R275): Switch temperature reaches its limit; both switches turn off and OT sets. -/
def execOvertemp (dt q : Nat) (s : State) : Host.Outcome State Fault Refusal :=
  s.act dt (decide (q < 96)) (overtemp q)

/-- OVERTEMP_CLEAR (R275): Temperature falls to 130 °C and OT clears. -/
def execOvertempClear (dt q : Nat) (s : State) : Host.Outcome State Fault Refusal :=
  s.act dt (decide (q < 96)) (overtempClear q)

/-- GRP_WARN (R277): A group's L+ below 19.2 V for 1 ms sets WARN. -/
def execGrpWarn (dt g volt : Nat) (s : State) : Host.Outcome State Fault Refusal :=
  s.act dt (decide (g < 12)) (grpWarn g volt)

/-- GRP_LOW (R277): A group's L+ below 15.0 V for 100 µs sets LOW and forces its channels off. -/
def execGrpLow (dt g volt : Nat) (s : State) : Host.Outcome State Fault Refusal :=
  s.act dt (decide (g < 12)) (grpLow g volt)

/-- GRP_OK (R277): L+ at 16.0 V or more for 10 ms clears LOW. -/
def execGrpOk (dt g volt : Nat) (s : State) : Host.Outcome State Fault Refusal :=
  s.act dt (decide (g < 12)) (grpOk g volt)

/-- GRP_OV (R277): L+ above 31.0 V for 100 µs sets OV. -/
def execGrpOv (dt g volt : Nat) (s : State) : Host.Outcome State Fault Refusal :=
  s.act dt (decide (g < 12)) (grpOv g volt)

/-- ENTER (R279): A write of FIO_SAFE.ENTER sets cause CMD. -/
def execEnter (dt agent : Nat) (s : State) : Host.Outcome State Fault Refusal :=
  s.act dt (isAgent agent && s.lets dt agent 16) enter

/-- RELEASE (R279): A write of FIO_SAFE.RELEASE clears cause CMD. -/
def execRelease (dt agent : Nat) (s : State) : Host.Outcome State Fault Refusal :=
  s.act dt (isAgent agent && s.lets dt agent 16) release

/-- COUPLER_TIMEOUT (R281): A coupler with no valid signal for 10 µs turns its output off. -/
def execCouplerTimeout (dt q : Nat) (s : State) : Host.Outcome State Fault Refusal :=
  s.act dt (decide (q < 96)) (couplerTimeout q)

/-- INPUT_CHANGE (R284): A class-W level held DEB_US + 1 samples is accepted. -/
def execInputChange (dt i : Nat) (lvl : Bool) (s : State) (samples : Nat := 0) : Host.Outcome State Fault Refusal :=
  s.act dt (decide (i < 32)) (inputChange i lvl samples)

/-- IN_OPEN (R285): A class-W draw below 0.5 mA for WB_MS sets OPEN. -/
def execInOpen (dt i draw : Nat) (s : State) (ms : Nat := 0) : Host.Outcome State Fault Refusal :=
  s.act dt (decide (i < 32)) (inOpen i draw ms)

/-- IN_WIRE_OK (R285): A draw of 0.7 mA or more for WB_MS clears OPEN. -/
def execInWireOk (dt i draw : Nat) (s : State) (ms : Nat := 0) : Host.Outcome State Fault Refusal :=
  s.act dt (decide (i < 32)) (inWireOk i draw ms)

/-- COUNTED_EDGE (R287): A filtered class-C edge is counted and stamped. -/
def execCountedEdge (dt i : Nat) (rise : Bool) (back : Nat) (s : State) : Host.Outcome State Fault Refusal :=
  s.act dt (decide (i < 32)) (countedEdge i rise back)

/-- GATE_END (R288): A frequency gate ends and FREQ and EDGES update. -/
def execGateEnd (dt i : Nat) (s : State) : Host.Outcome State Fault Refusal :=
  s.act dt (decide (i < 32)) (gateEnd i)

/-- COUNT_WRITE (R287): A write of FIO_IC_COUNT sets the counter. -/
def execCountWrite (dt agent i : Nat) (val : Word) (s : State) : Host.Outcome State Fault Refusal :=
  s.act dt (isAgent agent && s.lets dt agent 16 && decide (i < 32)) (countWrite i val)

end Sys2Proof.Machine
end

