-- ==== Sys2Proof/Machine/RowsFloor.lean ====
section
/-!
DEFINITION. The meanings of the commands of the floor cores: one definition per row of the table, over the operations of this folder.
-/

namespace Sys2Proof.Machine

/-- ADD (R149): ALU add. -/
def execAdd (dt k d a b : Nat) (s : State) : Host.Outcome State Fault Refusal :=
  s.actFx dt (isCore k && regs3 d a b) (coreRow k (wordR 0x01 d a b 0x0) (coreAdd k d a b))

/-- SUB (R149): ALU subtract. -/
def execSub (dt k d a b : Nat) (s : State) : Host.Outcome State Fault Refusal :=
  s.actFx dt (isCore k && regs3 d a b) (coreRow k (wordR 0x01 d a b 0x1) (coreSub k d a b))

/-- AND (R149): ALU and. -/
def execAnd (dt k d a b : Nat) (s : State) : Host.Outcome State Fault Refusal :=
  s.actFx dt (isCore k && regs3 d a b) (coreRow k (wordR 0x01 d a b 0x2) (coreAnd k d a b))

/-- OR (R149): ALU or. -/
def execOr (dt k d a b : Nat) (s : State) : Host.Outcome State Fault Refusal :=
  s.actFx dt (isCore k && regs3 d a b) (coreRow k (wordR 0x01 d a b 0x3) (coreOr k d a b))

/-- XOR (R149): ALU xor. -/
def execXor (dt k d a b : Nat) (s : State) : Host.Outcome State Fault Refusal :=
  s.actFx dt (isCore k && regs3 d a b) (coreRow k (wordR 0x01 d a b 0x4) (coreXor k d a b))

/-- SLL (R149): ALU shift left logical. -/
def execSll (dt k d a b : Nat) (s : State) : Host.Outcome State Fault Refusal :=
  s.actFx dt (isCore k && regs3 d a b) (coreRow k (wordR 0x01 d a b 0x5) (coreSll k d a b))

/-- SRL (R149): ALU shift right logical. -/
def execSrl (dt k d a b : Nat) (s : State) : Host.Outcome State Fault Refusal :=
  s.actFx dt (isCore k && regs3 d a b) (coreRow k (wordR 0x01 d a b 0x6) (coreSrl k d a b))

/-- SRA (R149): ALU shift right arithmetic. -/
def execSra (dt k d a b : Nat) (s : State) : Host.Outcome State Fault Refusal :=
  s.actFx dt (isCore k && regs3 d a b) (coreRow k (wordR 0x01 d a b 0x7) (coreSra k d a b))

/-- MUL (R149): ALU multiply. -/
def execMul (dt k d a b : Nat) (s : State) : Host.Outcome State Fault Refusal :=
  s.actFx dt (isCore k && regs3 d a b) (coreRow k (wordR 0x01 d a b 0x8) (coreMul k d a b))

/-- MULH (R149): ALU multiply high. -/
def execMulh (dt k d a b : Nat) (s : State) : Host.Outcome State Fault Refusal :=
  s.actFx dt (isCore k && regs3 d a b) (coreRow k (wordR 0x01 d a b 0x9) (coreMulh k d a b))

/-- DIV (R150): ALU divide, never trapping on zero. -/
def execDiv (dt k d a b : Nat) (s : State) : Host.Outcome State Fault Refusal :=
  s.actFx dt (isCore k && regs3 d a b) (coreRow k (wordR 0x01 d a b 0xA) (coreDiv k d a b))

/-- REM (R150): ALU remainder. -/
def execRem (dt k d a b : Nat) (s : State) : Host.Outcome State Fault Refusal :=
  s.actFx dt (isCore k && regs3 d a b) (coreRow k (wordR 0x01 d a b 0xB) (coreRem k d a b))

/-- SLT (R149): ALU set if less than, signed. -/
def execSlt (dt k d a b : Nat) (s : State) : Host.Outcome State Fault Refusal :=
  s.actFx dt (isCore k && regs3 d a b) (coreRow k (wordR 0x01 d a b 0xC) (coreSlt k d a b))

/-- SLTU (R149): ALU set if less than, unsigned. -/
def execSltu (dt k d a b : Nat) (s : State) : Host.Outcome State Fault Refusal :=
  s.actFx dt (isCore k && regs3 d a b) (coreRow k (wordR 0x01 d a b 0xD) (coreSltu k d a b))

/-- ADDI (R149): Add immediate. -/
def execAddi (dt k d a imm : Nat) (s : State) : Host.Outcome State Fault Refusal :=
  s.actFx dt (isCore k && regs3 d a 0 && decide (imm < 65536)) (coreRow k (wordI 0x02 d a imm) (coreAddi k d a imm))

/-- LUI (R149): Load upper immediate. -/
def execLui (dt k d a imm : Nat) (s : State) : Host.Outcome State Fault Refusal :=
  s.actFx dt (isCore k && regs3 d a 0 && decide (imm < 65536)) (coreRow k (wordI 0x03 d a imm) (coreLui k d a imm))

/-- LD64 (R148): 64-bit load. -/
def execLd64 (dt k d a imm : Nat) (s : State) : Host.Outcome State Fault Refusal :=
  s.actFx dt (isCore k && regs3 d a 0 && decide (imm < 65536)) (coreRow k (wordI 0x08 d a imm) (coreLd64 k d a imm))

/-- LD32 (R149): 32-bit sign-extending load. -/
def execLd32 (dt k d a imm : Nat) (s : State) : Host.Outcome State Fault Refusal :=
  s.actFx dt (isCore k && regs3 d a 0 && decide (imm < 65536)) (coreRow k (wordI 0x09 d a imm) (coreLd32 k d a imm))

/-- LD16 (R149): 16-bit sign-extending load. -/
def execLd16 (dt k d a imm : Nat) (s : State) : Host.Outcome State Fault Refusal :=
  s.actFx dt (isCore k && regs3 d a 0 && decide (imm < 65536)) (coreRow k (wordI 0x0A d a imm) (coreLd16 k d a imm))

/-- LD8 (R149): 8-bit sign-extending load. -/
def execLd8 (dt k d a imm : Nat) (s : State) : Host.Outcome State Fault Refusal :=
  s.actFx dt (isCore k && regs3 d a 0 && decide (imm < 65536)) (coreRow k (wordI 0x0B d a imm) (coreLd8 k d a imm))

/-- ST64 (R149): 64-bit store. -/
def execSt64 (dt k d a imm : Nat) (s : State) : Host.Outcome State Fault Refusal :=
  s.actFx dt (isCore k && regs3 d a 0 && decide (imm < 65536)) (coreRow k (wordI 0x0C d a imm) (coreSt64 k d a imm))

/-- ST32 (R149): 32-bit store. -/
def execSt32 (dt k d a imm : Nat) (s : State) : Host.Outcome State Fault Refusal :=
  s.actFx dt (isCore k && regs3 d a 0 && decide (imm < 65536)) (coreRow k (wordI 0x0D d a imm) (coreSt32 k d a imm))

/-- ST16 (R149): 16-bit store. -/
def execSt16 (dt k d a imm : Nat) (s : State) : Host.Outcome State Fault Refusal :=
  s.actFx dt (isCore k && regs3 d a 0 && decide (imm < 65536)) (coreRow k (wordI 0x0E d a imm) (coreSt16 k d a imm))

/-- ST8 (R149): 8-bit store. -/
def execSt8 (dt k d a imm : Nat) (s : State) : Host.Outcome State Fault Refusal :=
  s.actFx dt (isCore k && regs3 d a 0 && decide (imm < 65536)) (coreRow k (wordI 0x0F d a imm) (coreSt8 k d a imm))

/-- BEQ (R149): Branch if equal. -/
def execBeq (dt k d a imm : Nat) (s : State) : Host.Outcome State Fault Refusal :=
  s.actFx dt (isCore k && regs3 d a 0 && decide (imm < 65536)) (coreRow k (wordI 0x10 d a imm) (coreBeq k d a imm))

/-- BNE (R149): Branch if not equal. -/
def execBne (dt k d a imm : Nat) (s : State) : Host.Outcome State Fault Refusal :=
  s.actFx dt (isCore k && regs3 d a 0 && decide (imm < 65536)) (coreRow k (wordI 0x11 d a imm) (coreBne k d a imm))

/-- BLT (R149): Branch if less than. -/
def execBlt (dt k d a imm : Nat) (s : State) : Host.Outcome State Fault Refusal :=
  s.actFx dt (isCore k && regs3 d a 0 && decide (imm < 65536)) (coreRow k (wordI 0x12 d a imm) (coreBlt k d a imm))

/-- BGE (R149): Branch if greater or equal. -/
def execBge (dt k d a imm : Nat) (s : State) : Host.Outcome State Fault Refusal :=
  s.actFx dt (isCore k && regs3 d a 0 && decide (imm < 65536)) (coreRow k (wordI 0x13 d a imm) (coreBge k d a imm))

/-- JAL (R149): Jump and link. -/
def execJal (dt k d imm : Nat) (s : State) : Host.Outcome State Fault Refusal :=
  s.actFx dt (isCore k && regs3 d 0 0 && decide (imm < 2 ^ 21)) (coreRow k (wordJ 0x14 d imm) (coreJal k d imm))

/-- JR (R149): Jump register. -/
def execJr (dt k d a imm : Nat) (s : State) : Host.Outcome State Fault Refusal :=
  s.actFx dt (isCore k && regs3 d a 0 && decide (imm < 65536)) (coreRow k (wordI 0x15 d a imm) (coreJr k d a imm))

/-- VLD (R149): 32-byte vector load. -/
def execVld (dt k d a imm : Nat) (s : State) : Host.Outcome State Fault Refusal :=
  s.actFx dt (isCore k && regs3 d a 0 && decide (imm < 65536)) (coreRow k (wordI 0x18 d a imm) (coreVld k d a imm))

/-- VST (R149): 32-byte vector store. -/
def execVst (dt k d a imm : Nat) (s : State) : Host.Outcome State Fault Refusal :=
  s.actFx dt (isCore k && regs3 d a 0 && decide (imm < 65536)) (coreRow k (wordI 0x19 d a imm) (coreVst k d a imm))

/-- VLD64 (R149): 64-byte vector load into two registers. -/
def execVld64 (dt k d a imm : Nat) (s : State) : Host.Outcome State Fault Refusal :=
  s.actFx dt (isCore k && regs3 d a 0 && decide (imm < 65536) && decide (d < 31)) (coreRow k (wordI 0x1A d a imm) (coreVld64 k d a imm))

/-- VST64 (R149): 64-byte vector store, which writes an engine command when aimed at a queue. -/
def execVst64 (dt k d a imm : Nat) (s : State) : Host.Outcome State Fault Refusal :=
  s.actFx dt (isCore k && regs3 d a 0 && decide (imm < 65536) && decide (d < 31)) (coreRow k (wordI 0x1B d a imm) (coreVst64 k d a imm))

/-- VOP (R149): Integer lane operation selected by FUNC 0x00 to 0x0F. -/
def execVop (dt k d a b func : Nat) (s : State) : Host.Outcome State Fault Refusal :=
  s.actFx dt (isCore k && regs3 d a b && decide (func < 0xE)) (coreRow k (wordR 0x20 d a b func) (coreVop k d a b func))

/-- FADD (R149): FP32 lane add. -/
def execFadd (dt k d a b : Nat) (s : State) : Host.Outcome State Fault Refusal :=
  s.actFx dt (isCore k && regs3 d a b) (coreRow k (wordR 0x20 d a b 0x10) (coreFadd k d a b))

/-- FMUL (R149): FP32 lane multiply. -/
def execFmul (dt k d a b : Nat) (s : State) : Host.Outcome State Fault Refusal :=
  s.actFx dt (isCore k && regs3 d a b) (coreRow k (wordR 0x20 d a b 0x11) (coreFmul k d a b))

/-- FMA (R150): FP32 lane fused multiply-add. -/
def execFma (dt k d a b : Nat) (s : State) : Host.Outcome State Fault Refusal :=
  s.actFx dt (isCore k && regs3 d a b) (coreRow k (wordR 0x20 d a b 0x12) (coreFma k d a b))

/-- FMAX (R149): FP32 lane maximum. -/
def execFmax (dt k d a b : Nat) (s : State) : Host.Outcome State Fault Refusal :=
  s.actFx dt (isCore k && regs3 d a b) (coreRow k (wordR 0x20 d a b 0x13) (coreFmax k d a b))

/-- FMIN (R149): FP32 lane minimum. -/
def execFmin (dt k d a b : Nat) (s : State) : Host.Outcome State Fault Refusal :=
  s.actFx dt (isCore k && regs3 d a b) (coreRow k (wordR 0x20 d a b 0x14) (coreFmin k d a b))

/-- VDOT8 (R150): Adds the exact sum of four INT8 products to each lane. -/
def execVdot8 (dt k d a b : Nat) (s : State) : Host.Outcome State Fault Refusal :=
  s.actFx dt (isCore k && regs3 d a b) (coreRow k (wordR 0x20 d a b 0x20) (coreVdot8 k d a b))

/-- VDOTF8 (R150): Adds the rounded sum of four FP8 products to each lane. -/
def execVdotf8 (dt k d a b : Nat) (s : State) : Host.Outcome State Fault Refusal :=
  s.actFx dt (isCore k && regs3 d a b) (coreRow k (wordR 0x20 d a b 0x21) (coreVdotf8 k d a b))

/-- VFMABF (R150): Adds two BF16 products to each lane. -/
def execVfmabf (dt k d a b : Nat) (s : State) : Host.Outcome State Fault Refusal :=
  s.actFx dt (isCore k && regs3 d a b) (coreRow k (wordR 0x20 d a b 0x22) (coreVfmabf k d a b))

/-- VCVT (R339): Lane format conversion, optionally stochastic and saturating. -/
def execVcvt (dt k d a b func : Nat) (s : State) : Host.Outcome State Fault Refusal :=
  s.actFx dt (isCore k && regs3 d a b && cvtFunc func) (coreRow k (wordR 0x21 d a b func) (coreVcvt k d a b func))

/-- VPERM (R149): Lane permute. -/
def execVperm (dt k d a b : Nat) (s : State) : Host.Outcome State Fault Refusal :=
  s.actFx dt (isCore k && regs3 d a b) (coreRow k (wordR 0x22 d a b 0x0) (coreVperm k d a b))

/-- VBCAST (R149): Lane broadcast, VPERM with FUNC = 1. -/
def execVbcast (dt k d a b : Nat) (s : State) : Host.Outcome State Fault Refusal :=
  s.actFx dt (isCore k && regs3 d a b) (coreRow k (wordR 0x22 d a b 0x1) (coreVbcast k d a b))

/-- DMA (R151): Starts a DMA descriptor on a channel. -/
def execDma (dt k d a imm : Nat) (s : State) : Host.Outcome State Fault Refusal :=
  s.actFx dt (isCore k && regs3 d a 0 && decide (imm < 65536)) (coreRow k (wordI 0x28 d a imm) (coreDma k d a imm))

/-- DMA_COMPLETE (R151): A DMA transfer completes and its channel becomes idle. -/
def execDmaComplete (dt k ch : Nat) (s : State) : Host.Outcome State Fault Refusal :=
  s.actFx dt (isCore k && decide (ch < 4)) (dmaCompleteFx k ch)

/-- DMAWAIT (R151): Waits for a DMA channel to be idle. -/
def execDmawait (dt k d a imm : Nat) (s : State) : Host.Outcome State Fault Refusal :=
  s.actFx dt (isCore k && regs3 d a 0 && decide (imm < 65536)) (coreRow k (wordI 0x29 d a imm) (coreDmawait k d a imm))

/-- SIGNAL (R216): Adds 1 to 255 to a sync object and wakes satisfied waiters. -/
def execSignal (dt k d a imm : Nat) (s : State) : Host.Outcome State Fault Refusal :=
  s.actFx dt (isCore k && regs3 d a 0 && decide (1 ≤ imm) && decide (imm ≤ 255)) fun x => (coreRow k (wordI 0x30 d a imm) (coreSignal k d a imm) x).hopAfter

/-- ARM (R217): Arms a wait port on an object and threshold. -/
def execArm (dt k d a b : Nat) (s : State) : Host.Outcome State Fault Refusal :=
  s.actFx dt (isCore k && regs3 d a b) (coreRow k (wordR 0x31 d a b 0x0) (coreArm k d a b))

/-- WAIT (R217): Waits on any or all armed ports. -/
def execWait (dt k d a imm : Nat) (s : State) : Host.Outcome State Fault Refusal :=
  s.actFx dt (isCore k && regs3 d a 0 && decide (imm < 65536)) (coreRow k (wordI 0x32 d a imm) (coreWait k d a imm))

/-- FENCE (R148): Waits until earlier stores and DMA writes are visible. -/
def execFence (dt k : Nat) (s : State) : Host.Outcome State Fault Refusal :=
  s.actFx dt (isCore k) (coreRowBare k (wordR 0x33 0 0 0 0x0) (coreFence k))

/-- RDSPEC (R149): Reads plan index, job, step counter or Reel view. -/
def execRdspec (dt k d a imm : Nat) (s : State) : Host.Outcome State Fault Refusal :=
  s.actFx dt (isCore k && regs3 d a 0 && decide (imm < 4)) (coreRow k (wordI 0x34 d a imm) (coreRdspec k d a imm))

/-- HALT (R147): Ends a task, signalling DONE_OBJ when the tile's last task halts. -/
def execHalt (dt k : Nat) (s : State) : Host.Outcome State Fault Refusal :=
  s.actFx dt (isCore k) fun x => (coreRowBare k (wordR 0x35 0 0 0 0x0) (coreHalt k) x).hopAfter

/-- MBXSEND (R220): Sends a word to a mailbox, stalling or failing when full. -/
def execMbxsend (dt k d a b func : Nat) (s : State) : Host.Outcome State Fault Refusal :=
  s.actFx dt (isCore k && regs3 d a b && decide (func < 2)) (coreRow k (wordR 0x36 d a b func) (coreMbxsend k d a b func))

/-- MBXRECV (R221): Receives from a mailbox, or reads its side field. -/
def execMbxrecv (dt k d a b func : Nat) (s : State) : Host.Outcome State Fault Refusal :=
  s.actFx dt (isCore k && regs3 d a b && (func == 0 || func == 2)) (coreRow k (wordR 0x37 d a b func) (coreMbxrecv k d a b func))

/-- CORE_TRAP (R152): A core trap stops the core, records FLR_TRAP and faults the job. -/
def execCoreTrap (dt k : Nat) (s : State) : Host.Outcome State Fault Refusal :=
  s.actFx dt (isCore k) (coreTrapFx k)

end Sys2Proof.Machine
end

