-- ==== Sys2Proof/Machine/RowsGeneral.lean ====
section
/-!
DEFINITION. The meanings of the commands of any register, events and the log: one definition per row of the table, over the operations of this folder.
-/

namespace Sys2Proof.Machine

/-- REGISTER_WRITE (R25): A control-space write to a register that has no row of its own stores the word under the configuration and run-
time field rules. -/
def execRegisterWrite (dt agent off : Nat) (val : Word) (s : State) : Host.Outcome State Fault Refusal :=
  s.actFx dt (isAgent agent && s.lets dt agent (off / 0x100000)) (registerWriteFx agent off val)

/-- EVENTS_LOST (R35): When a full event queue has room again, the unit queues one EVENTS_LOST event carrying the count of dropped events.
-/
def execEventsLost (dt blk inst : Nat) (s : State) : Host.Outcome State Fault Refusal :=
  s.act dt true (eventsLost blk inst)

/-- RUN_TIMEOUT (R509): A run of like occurrences that has lasted 10 ms raises its event with the count so far, and a new run begins. -/
def execRunTimeout (dt blk loc inst unit : Nat) (s : State) : Host.Outcome State Fault Refusal :=
  s.act dt true (runTimeout blk loc inst unit)

/-- LOG_WRITE (R465): A buffered log entry is programmed into the NVM log ring, and the next sector's erase is started when a sector is
entered. -/
def execLogWrite (dt fails : Nat) (s : State) : Host.Outcome State Fault Refusal :=
  s.act dt true (logWrite fails)

end Sys2Proof.Machine
end

