-- ==== Sys2Proof/Machine/RowsHopper.lean ====
section
/-!
DEFINITION. The meanings of the commands of Hopper: one definition per row of the table, over the operations of this folder.
-/

namespace Sys2Proof.Machine

/-- STEP_ISSUE (R167): Hopper issues a step: allocates pages, writes masks, signals absent halos and writes a work item. -/
def execStepIssue (dt e : Nat) (s : State) : Host.Outcome State Fault Refusal :=
  s.actFx dt (decide (e < 1024)) (stepIssueFx e)

/-- HALO_SEND (R183): After EDGE reaches V(s, l), Hopper sends the edge tokens to each local or remote neighbour. -/
def execHaloSend (dt e side : Nat) (s : State) : Host.Outcome State Fault Refusal :=
  s.actFx dt (decide (e < 1024) && decide (side < 2)) (haloSendFx e side)

/-- HALO_COPY_DONE (R183): A local halo copy lands in the neighbour's halo slot and signals its HALO object. -/
def execHaloCopyDone (dt e side : Nat) (s : State) : Host.Outcome State Fault Refusal :=
  s.actFx dt (decide (e < 1024) && decide (side < 2)) (haloCopyDoneFx e side)

/-- HALO_MESSAGE (R185): A remote halo message is accepted into the halo slot and signalled, or discarded. -/
def execHaloMessage (dt : Nat) (w0 w1 w2 : Word) (payload : List Byte) (s : State) : Host.Outcome State Fault Refusal :=
  s.actFx dt true (haloMessageFx w0 w1 w2 payload)

/-- HALO_LATE (R187): A side's halo has not arrived LATE_NS after EDGE; LATE is set and counted. -/
def execHaloLate (dt e side : Nat) (s : State) : Host.Outcome State Fault Refusal :=
  s.act dt (decide (e < 1024) && decide (side < 2)) (haloLate e side)

/-- HALO_DETACHED (R188): A side's halo has not arrived TMO_US after EDGE; the side is detached and its masks rewritten. -/
def execHaloDetached (dt e side : Nat) (s : State) : Host.Outcome State Fault Refusal :=
  s.actFx dt (decide (e < 1024) && decide (side < 2)) (haloDetachedFx e side)

/-- END_NOTICE (R190): An accepted END notice invalidates the side from its step onward. -/
def execEndNotice (dt : Nat) (w0 w1 w2 : Word) (s : State) : Host.Outcome State Fault Refusal :=
  s.actFx dt true (endNoticeFx w0 w1 w2)

/-- PAGE_SPILL (R177): A page copy to the spill area completes and the page entry becomes SPILLED. -/
def execPageSpill (dt e vpage : Nat) (s : State) : Host.Outcome State Fault Refusal :=
  s.actFx dt (decide (e < 1024)) (pageSpillFx e vpage)

/-- PAGE_FETCH (R178): A page fetched back from DRAM becomes RESIDENT. -/
def execPageFetch (dt e vpage : Nat) (s : State) : Host.Outcome State Fault Refusal :=
  s.actFx dt (decide (e < 1024)) (pageFetchFx e vpage)

/-- FETCH_LEAD (R178): LEAD_US before the predicted row, Hopper starts fetching the next step's spilled pages. -/
def execFetchLead (dt e : Nat) (s : State) : Host.Outcome State Fault Refusal :=
  s.actFx dt (decide (e < 1024)) (fetchLeadFx e)

end Sys2Proof.Machine
end

