-- ==== Sys2Proof/Machine/RowsImage.lean ====
section
/-!
DEFINITION. The meanings of the commands of the image pipelines and contexts: one definition per row of the table, over the operations of this folder.
-/

namespace Sys2Proof.Machine

/-- TONE_STORE (R108): MSH_CX_TONE_ACC with WR = 1 stores a shadow tone knot. -/
def execToneStore (dt agent c ch index knot : Nat) (s : State) : Host.Outcome State Fault Refusal :=
  s.act dt (isAgent agent && s.lets dt agent 1 && decide (c < 64) && decide (ch < 4) && decide (index < 512) && decide (knot < 65536)) (toneStore c ch index knot)

/-- TONE_SELECT (R108): MSH_CX_TONE_ACC with WR = 0 selects a knot for read-back. -/
def execToneSelect (dt agent c ch index : Nat) (s : State) : Host.Outcome State Fault Refusal :=
  s.act dt (isAgent agent && s.lets dt agent 1 && decide (c < 64) && decide (ch < 4) && decide (index < 512)) (toneSelect c ch index)

/-- COMMIT (R88): A write of MSH_CX_COMMIT makes a commit pending, or takes it at once when the source port is STOPPED. -/
def execCommit (dt agent c : Nat) (val : Word) (s : State) : Host.Outcome State Fault Refusal :=
  s.act dt (isAgent agent && s.lets dt agent 1 && decide (c < 64)) (commit c val)

/-- COMMIT_COMPLETE (R88): The pending commit completes at edge C, the first CLK edge on which the port registered it. -/
def execCommitComplete (dt c : Nat) (s : State) : Host.Outcome State Fault Refusal :=
  s.act dt (decide (c < 64)) (commitComplete c)

/-- PIPELINE_LINE (R86): A Mash pipeline takes a released line into its input buffer and processes it through stages 4 to 8. -/
def execPipelineLine (dt pl : Nat) (s : State) : Host.Outcome State Fault Refusal :=
  s.actFx dt (decide (pl < 16)) (listing (pipelineLine pl))

/-- STREAM_LINE_WRITTEN (R98): A stream output line and its tag become visible in memory, and the stream's sync object is signalled when
due. -/
def execStreamLineWritten (dt pl : Nat) (s : State) : Host.Outcome State Fault Refusal :=
  s.actFx dt (decide (pl < 16)) fun x => (listing (streamLineWritten pl) x).hopAfter

/-- STATS_RECORD_WRITTEN (R100): A block's statistics record is fully in memory and STATS_WIDX increments. -/
def execStatsRecordWritten (dt c : Nat) (s : State) : Host.Outcome State Fault Refusal :=
  s.actFx dt (decide (c < 64)) (listing (statsRecordWritten c))

/-- ASSIST_SLOT_COPY (R106): A queued HOST-path slot is copied to the host ring by PCIe write, with the MSI-X vector after the block's last
slot. -/
def execAssistSlotCopy (dt c : Nat) (s : State) : Host.Outcome State Fault Refusal :=
  s.act dt (decide (c < 64)) (assistSlotCopy c)

/-- ASSIST_DONE (R106): A write of MSH_CX_ASSIST_DONE returns the output lines of the oldest handed block and releases waiting sync signals.
-/
def execAssistDone (dt agent c : Nat) (val : Word) (s : State) : Host.Outcome State Fault Refusal :=
  s.actFx dt (isAgent agent && s.lets dt agent 1 && decide (c < 64)) fun x => (x.mach (assistDone c val)).hopAfter

/-- PIPELINE_STOP (R108): A write of MSH_CTL.RUN = 0 stops the pipeline at the end of the current line. -/
def execPipelineStop (dt agent pl : Nat) (s : State) : Host.Outcome State Fault Refusal :=
  s.act dt (isAgent agent && s.lets dt agent 1 && decide (pl < 16)) (pipelineStop pl)

end Sys2Proof.Machine
end

