-- ==== Sys2Proof/Machine/RowsJob.lean ====
section
/-!
DEFINITION. The meanings of the commands of jobs, tiles, restarts, sync objects and mailboxes: one definition per row of the table, over the operations of this folder.
-/

namespace Sys2Proof.Machine

/-- JOB_STOP (R194): SCH_JOB_CTL.STOP moves a RUNNING job to STOPPING and stops its units. -/
def execJobStop (dt agent j : Nat) (s : State) : Host.Outcome State Fault Refusal :=
  s.actFx dt (isAgent agent && s.lets dt agent 11 && decide (j < 64)) (jobStopFx j)

/-- JOB_CLEAR (R193): SCH_JOB_CTL.CLEAR moves a FAULTED job to STOPPED. -/
def execJobClear (dt agent j : Nat) (s : State) : Host.Outcome State Fault Refusal :=
  s.act dt (isAgent agent && s.lets dt agent 11 && decide (j < 64)) (jobClear j)

/-- JOB_STOPPED (R193): A STOPPING job with nothing running and no verdict outstanding becomes STOPPED. -/
def execJobStopped (dt j : Nat) (s : State) : Host.Outcome State Fault Refusal :=
  s.actFx dt (decide (j < 64)) (jobStoppedFx j)

/-- STOP_TIMEOUT (R194): A job not STOPPED within STOP_MS is forced STOPPED. -/
def execStopTimeout (dt j : Nat) (s : State) : Host.Outcome State Fault Refusal :=
  s.actFx dt (decide (j < 64)) (stopTimeoutFx j)

/-- TASK_WRITE (R202): A 64-byte task descriptor write to a submission page adds a task to a tile in assembly and places complete tiles. -/
def execTaskWrite (dt agent job addr : Nat) (bytes : List Byte) (s : State) : Host.Outcome State Fault Refusal :=
  s.act dt (isWriter agent && decide (job < 64) && decide (addr < 2 ^ 40)) (taskWrite agent job addr bytes)

/-- TILE_START (R204): A queued tile starts when enough cores of its cluster are idle. -/
def execTileStart (dt cl : Nat) (s : State) : Host.Outcome State Fault Refusal :=
  s.act dt (decide (cl < 96)) (tileStart cl)

/-- STEAL (R205): An idle cluster takes an unstarted tile from another cluster of the same job. -/
def execSteal (dt cl : Nat) (s : State) : Host.Outcome State Fault Refusal :=
  s.act dt (decide (cl < 96)) (steal cl)

/-- CLUSTER_PARKED (R206): An unreserved cluster idle for PARK_US, or without a job, parks. -/
def execClusterParked (dt cl : Nat) (s : State) : Host.Outcome State Fault Refusal :=
  s.actFx dt (decide (cl < 96)) (clusterParkedFx cl)

/-- CLUSTER_WOKEN (R206): A parked cluster completes its wake. -/
def execClusterWoken (dt cl : Nat) (s : State) : Host.Outcome State Fault Refusal :=
  s.act dt (decide (cl < 96)) (clusterWoken cl)

/-- PREEMPT (R207): After PREEMPT_WAIT_US or QUANTUM_MS, SCH pre-empts a job and starts a switch. -/
def execPreempt (dt j incoming : Nat) (s : State) : Host.Outcome State Fault Refusal :=
  s.actFx dt (decide (j < 64) && decide (incoming < 64)) (preemptFx j incoming)

/-- JOB_RESUMED (R208): A switch completes and the incoming job's tiles resume. -/
def execJobResumed (dt j : Nat) (s : State) : Host.Outcome State Fault Refusal :=
  s.actFx dt (decide (j < 64)) (jobResumedFx j)

/-- BUCKET_REFILL (R199): Every 1,000 ns the verdict bucket gains one token up to 196. -/
def execBucketRefill (dt : Nat) (s : State) : Host.Outcome State Fault Refusal :=
  s.act dt true bucketRefill

/-- GUARANTEE_HELD (R200): All guarantee conditions hold again and HELD sets. -/
def execGuaranteeHeld (dt : Nat) (s : State) : Host.Outcome State Fault Refusal :=
  s.act dt true guaranteeHeld

/-- FRAME_START (R201): At each 16 µs Reel boundary an engine begins a new slot frame. -/
def execFrameStart (dt e : Nat) (s : State) : Host.Outcome State Fault Refusal :=
  s.act dt (isEngine e) (frameStart e)

/-- VERDICT_STORE (R244): A job's 32-byte verdict store reaches the deadline monitor, which delivers or discards it. -/
def execVerdictStore (dt k addr : Nat) (bytes : List Byte) (s : State) : Host.Outcome State Fault Refusal :=
  s.act dt (isCore k && decide (addr < 2 ^ 40)) (verdictStore k addr bytes)

/-- SWITCH_POINT (R209): At a block's switch point the monitor delivers the reserve verdict or notes that none is ready. -/
def execSwitchPoint (dt port block : Nat) (s : State) : Host.Outcome State Fault Refusal :=
  s.act dt (isPort port) (switchPoint port block)

/-- RESTART_ARM (R212): SCH_RESTART_CTL.ARM arms a restart or refuses it. -/
def execRestartArm (dt agent : Nat) (val : Word) (s : State) : Host.Outcome State Fault Refusal :=
  s.actFx dt (isAgent agent && s.lets dt agent 11) (restartArmFx val)

/-- RESTART_REQUEST (R213): A module receives a restart and has its units in scope check their configuration. -/
def execRestartRequest (dt id : Nat) (tick : Int) (scope : Word) (mode origin : Nat) (peerRecipes : List (Nat × Nat)) (s : State) : Host.Outcome State Fault Refusal :=
  s.actFx dt true (restartRequestFx id tick scope mode origin peerRecipes)

/-- RESTART_REPORT (R213): The originator receives a module's report of APPLIED or lagging units. -/
def execRestartReport (dt pos : Nat) (follower : Bool) (lags : List Lag) (s : State) : Host.Outcome State Fault Refusal :=
  s.act dt (decide (pos < 32)) (restartReport pos follower lags)

/-- RESTART_DECISION (R213): At T_R − 200 µs the originator decides GO or ABANDON and sends it. -/
def execRestartDecision (dt : Nat) (s : State) : Host.Outcome State Fault Refusal :=
  s.act dt true restartDecision

/-- RESTART_DECISION_MSG (R213): A module receives the restart decision and acknowledges it. -/
def execRestartDecisionMsg (dt id : Nat) (go : Bool) (s : State) : Host.Outcome State Fault Refusal :=
  s.act dt true (restartDecisionMsg id go)

/-- RESTART_ACK (R214): The originator receives a module's acknowledgement. -/
def execRestartAck (dt pos : Nat) (s : State) (fol : Bool := false) : Host.Outcome State Fault Refusal :=
  s.act dt (decide (pos < 32)) (restartAck pos fol)

/-- RESTART_TICK (R213): At T_R units in scope start on GO and jobs go RUNNING. -/
def execRestartTick (dt : Nat) (s : State) : Host.Outcome State Fault Refusal :=
  s.actFx dt true restartTickAllFx

/-- RESTART_INCOMPLETE (R214): At T_R + 50 µs missing acknowledgements mark the restart INCOMPLETE. -/
def execRestartIncomplete (dt : Nat) (s : State) : Host.Outcome State Fault Refusal :=
  s.act dt true restartIncomplete

/-- SYN_ADD (R216): A control-space SYN_ADD adds to a sync object. -/
def execSynAdd (dt agent : Nat) (val : Word) (s : State) : Host.Outcome State Fault Refusal :=
  s.actFx dt (isAgent agent && s.lets dt agent 12) fun x => (x.mach (synAddCmd val)).hopAfter

/-- SYN_OBJ (R216): A write of SYN_OBJ sets a sync object's value and tests waiters. -/
def execSynObj (dt agent n : Nat) (val : Word) (s : State) : Host.Outcome State Fault Refusal :=
  s.actFx dt (isAgent agent && s.lets dt agent 12 && decide (n < 16384)) fun x => (x.mach (synObjCmd n val)).hopAfter

/-- MBX_SEND (R220): A control-space send to a mailbox, discarded when full. -/
def execMbxSend (dt agent m : Nat) (val : Word) (s : State) : Host.Outcome State Fault Refusal :=
  s.act dt (isAgent agent && s.lets dt agent 13 && decide (m < 512)) (mbxSendCmd agent m val)

/-- MBX_TAKE (R221): A read of MBX_TAKE takes the mailbox word and clears FULL. -/
def execMbxTake (dt agent m : Nat) (s : State) : Host.Outcome State Fault Refusal :=
  s.act dt (isAgent agent && s.lets dt agent 13 && decide (m < 512)) (mbxTakeCmd m)

end Sys2Proof.Machine
end

