-- ==== Sys2Proof/Machine/RowsLink.lean ====
section
/-!
DEFINITION. The meanings of the commands of Ponyx lanes and links: one definition per row of the table, over the operations of this folder.
-/

namespace Sys2Proof.Machine

/-- LANE_ENABLE (R300): A write of PNX_CTL.EN starts training or disables the lane. -/
def execLaneEnable (dt agent n : Nat) (val : Word) (s : State) : Host.Outcome State Fault Refusal :=
  s.actFx dt (isAgent agent && s.lets dt agent 17 && isLane n) fun x => x.ctlWrite agent (R.pnxCtl n) val

/-- FORCE_L2 (R306): A write of PNX_CTL.FORCE_L2 holds the lane in L2 or releases it. -/
def execForceL2 (dt agent n : Nat) (on : Bool) (s : State) : Host.Outcome State Fault Refusal :=
  s.act dt (isAgent agent && s.lets dt agent 17 && isLane n) (forceL2 n on)

/-- IDLE_CELL (R294): An IDLE cell is received, carrying only its ACK. -/
def execIdleCell (dt n : Nat) (c : Cell) (s : State) : Host.Outcome State Fault Refusal :=
  s.actFx dt (isLane n && isCell c) (idleCellFx n c)

/-- DATA_CELL (R303): A DATA cell is received into the reorder buffer. -/
def execDataCell (dt n : Nat) (c : Cell) (s : State) : Host.Outcome State Fault Refusal :=
  s.actFx dt (isLane n && isCell c) (dataCellFx n c)

/-- TAG_CELL (R310): A TAG cell closes a segment, which is verified and delivered. -/
def execTagCell (dt n : Nat) (c : Cell) (ok : Bool) (s : State) : Host.Outcome State Fault Refusal :=
  s.actFx dt (isLane n && isCell c) (tagCellFx n c ok)

/-- SYNC_CELL (R444): A SYNC cell updates the delay measurement and disciplines Reel. -/
def execSyncCell (dt n : Nat) (c : Cell) (s : State) : Host.Outcome State Fault Refusal :=
  s.actFx dt (isLane n && isCell c) (syncCellFx n c)

/-- TRAIN_CELL (R300): A TRAIN cell advances the lane's training state and loads the scrambler. -/
def execTrainCell (dt n : Nat) (c : Cell) (s : State) : Host.Outcome State Fault Refusal :=
  s.actFx dt (isLane n && isCell c) (trainCellFx n c)

/-- PAIR_CELL (R380): A PAIR cell carries pairing and key agreement. -/
def execPairCell (dt n : Nat) (c : Cell) (peer : PeerId) (what : PairStep) (s : State) : Host.Outcome State Fault Refusal :=
  s.actFx dt (isLane n && isCell c) (pairCellFx n c peer what)

/-- NAK_CELL (R303): A NAK makes the transmitter resend from the named LSEQ. -/
def execNakCell (dt n : Nat) (c : Cell) (s : State) : Host.Outcome State Fault Refusal :=
  s.actFx dt (isLane n && isCell c) (nakCellFx n c)

/-- NAK_TIMEOUT (R303): A later LSEQ waiting 100 ns for a missing one sends a NAK. -/
def execNakTimeout (dt k : Nat) (s : State) : Host.Outcome State Fault Refusal :=
  s.act dt (decide (k < 5)) (nakTimeout k)

/-- CDR_LOCK (R299): A receiver's CDR locks. -/
def execCdrLock (dt n : Nat) (ppm phase : Word) (s : State) : Host.Outcome State Fault Refusal :=
  s.act dt (isLane n) (cdrLock n ppm phase)

/-- LOSS_OF_LOCK (R299): An ACTIVE lane loses lock and trains again. -/
def execLossOfLock (dt n : Nat) (s : State) (noSignal : Bool := false) : Host.Outcome State Fault Refusal :=
  s.actFx dt (isLane n) (lossOfLockFx n noSignal)

/-- LANE_RETRAIN (R301): 16 CRC failures within 1 ms make an ACTIVE lane retrain. -/
def execLaneRetrain (dt n : Nat) (s : State) : Host.Outcome State Fault Refusal :=
  s.actFx dt (isLane n) (laneRetrainFx n)

/-- LINK_DOWN (R304): A link without ACTIVE lanes for 1 ms goes DOWN and discards its replay buffers. -/
def execLinkDown (dt k : Nat) (s : State) : Host.Outcome State Fault Refusal :=
  s.act dt (decide (k < 5)) (linkDown k)

/-- SYNC_SEND (R314): At each 1,000 ns of Reel an ACTIVE L0 lane sends a SYNC cell. -/
def execSyncSend (dt n : Nat) (s : State) : Host.Outcome State Fault Refusal :=
  s.act dt (isLane n) (syncSend n)

/-- L1_ENTRY (R306): A lane idle for IDLE_US enters L1. -/
def execL1Entry (dt n : Nat) (s : State) : Host.Outcome State Fault Refusal :=
  s.act dt (isLane n) (l1Entry n)

/-- LANE_WAKE (R306): A lane completes its exit from L1 or L2 to L0. -/
def execLaneWake (dt n : Nat) (s : State) : Host.Outcome State Fault Refusal :=
  s.act dt (isLane n) (laneWake n)

/-- CHAIN_WAIT (R312): CHAIN_WAIT_MS passes with both UP links DOWN and the module takes position 0. -/
def execChainWait (dt : Nat) (s : State) : Host.Outcome State Fault Refusal :=
  s.act dt true chainWait

/-- CHAIN_ANNOUNCE (R312): A position announcement on an UP link makes the module take the next position. -/
def execChainAnnounce (dt k pos : Nat) (s : State) : Host.Outcome State Fault Refusal :=
  s.act dt (decide (k < 5) && decide (pos < 32)) (chainAnnounce k pos)

/-- KEY_FAIL (R381): An agreement fails or times out after 50 ms. -/
def execKeyFail (dt k : Nat) (s : State) : Host.Outcome State Fault Refusal :=
  s.act dt (decide (k < 5)) (keyFail k)

/-- KEY_RETRY (R381): A fabric link retries key agreement 100 ms after a failure. -/
def execKeyRetry (dt k : Nat) (s : State) : Host.Outcome State Fault Refusal :=
  s.act dt (decide (k < 5)) (keyRetry k)

end Sys2Proof.Machine
end

