-- ==== Sys2Proof/Machine/RowsManage.lean ====
section
/-!
DEFINITION. The meanings of the commands of the management interfaces, time, sensors and what closes a condition: one definition per row of the table, over the operations of this folder.
-/

namespace Sys2Proof.Machine

/-- READ (R430): NCP READ returns a register. -/
def execNcpRead (dt : Nat) (h : NcpHdr) (addr : Nat) (s : State) : Host.Outcome State Fault Refusal :=
  s.actFx dt true (ncpFx h (ncpReadOp addr 1))

/-- WRITE (R430): NCP WRITE writes a register. -/
def execNcpWrite (dt : Nat) (h : NcpHdr) (addr : Nat) (val : Word) (s : State) : Host.Outcome State Fault Refusal :=
  s.actFx dt true (ncpFx h (ncpWriteOp addr val))

/-- READ_N (R430): NCP READ_N returns N consecutive registers. -/
def execNcpReadN (dt : Nat) (h : NcpHdr) (addr n : Nat) (s : State) : Host.Outcome State Fault Refusal :=
  s.actFx dt (decide (n < 65536)) (ncpFx h (ncpReadOp addr n))

/-- STATUS (R430): NCP STATUS returns MGT_STAT. -/
def execNcpStatus (dt : Nat) (h : NcpHdr) (s : State) : Host.Outcome State Fault Refusal :=
  s.actFx dt true (ncpFx h ncpStatusOp)

/-- LOG_READ (R430): NCP LOG_READ returns log entries. -/
def execNcpLogRead (dt : Nat) (h : NcpHdr) (first n : Nat) (s : State) : Host.Outcome State Fault Refusal :=
  s.actFx dt (decide (n < 65536)) (ncpFx h (ncpLogOp first n))

/-- UPD_BEGIN (R468): An update begins and erases the inactive slot. -/
def execUpdBegin (dt : Nat) (h : NcpHdr) (val : Word) (s : State) : Host.Outcome State Fault Refusal :=
  s.actFx dt true (ncpFx h (updBeginOp val))

/-- UPD_ERASE_DONE (R468): The update slot erase completes and the update is OPEN. -/
def execUpdEraseDone (dt : Nat) (s : State) : Host.Outcome State Fault Refusal :=
  s.act dt true updEraseDone

/-- UPD_DATA (R468): Update data words are programmed at the write pointer. -/
def execUpdData (dt : Nat) (h : NcpHdr) (addr : Nat) (words : List Word) (s : State) : Host.Outcome State Fault Refusal :=
  s.actFx dt true (ncpFx h (updDataOp addr words))

/-- UPD_COMMIT (R468): An update commit starts verification of the written slot. -/
def execUpdCommit (dt : Nat) (h : NcpHdr) (s : State) : Host.Outcome State Fault Refusal :=
  s.actFx dt true (ncpFx h (updOp Mach.updCommit))

/-- UPDATE_DONE (R468): Verification ends and the boot table is rewritten. -/
def execUpdateDone (dt : Nat) (ok : Bool) (s : State) : Host.Outcome State Fault Refusal :=
  s.act dt true (updateDone ok)

/-- UPD_ABORT (R468): An update is abandoned. -/
def execUpdAbort (dt : Nat) (h : NcpHdr) (s : State) : Host.Outcome State Fault Refusal :=
  s.actFx dt true (ncpFx h (updOp Mach.updAbort))

/-- NET_STORE (R467): MGT_NET_CTL.STORE writes the network settings into the boot table. -/
def execNetStore (dt agent : Nat) (s : State) : Host.Outcome State Fault Refusal :=
  s.act dt (isAgent agent && s.lets dt agent 23) netStore

/-- SPI_NOP (R439): SPI NOP frame returns status. -/
def execSpiNop (dt : Nat) (frame : BitVec 32) (long : Bool) (s : State) : Host.Outcome State Fault Refusal :=
  s.act dt true (spiNop frame long)

/-- SPI_READ (R439): SPI READ sequence reads a register over two response frames. -/
def execSpiRead (dt : Nat) (frame : BitVec 32) (frames : Nat) (early : Bool) (s : State) : Host.Outcome State Fault Refusal :=
  s.act dt (decide (frames ≤ 2)) (spiRead frame frames early)

/-- SPI_WRITE (R439): SPI WRITE sequence writes a whole register after two data frames. -/
def execSpiWrite (dt : Nat) (frame : BitVec 32) (data : List (BitVec 32)) (s : State) : Host.Outcome State Fault Refusal :=
  s.actFx dt (decide (data.length ≤ 2)) (spiWriteFx frame data)

/-- SPI_INVALID (R439): An SPI command code 0x3 to 0xF is discarded and counted. -/
def execSpiInvalid (dt : Nat) (frame : BitVec 32) (s : State) : Host.Outcome State Fault Refusal :=
  s.act dt true (spiInvalid frame)

/-- SPI_PARTIAL (R440): A frame with fewer than 32 edges is discarded and abandons its sequence. -/
def execSpiPartial (dt edges : Nat) (s : State) : Host.Outcome State Fault Refusal :=
  s.act dt (decide (edges < 32)) (spiPartial edges)

/-- SPI_ABANDONED (R439): A sequence whose next frame has not begun within 100 µs is abandoned. -/
def execSpiAbandoned (dt : Nat) (s : State) : Host.Outcome State Fault Refusal :=
  s.act dt true spiAbandoned

/-- PCIE_LINK (R437): The host link changes state, or PERST#, FLR or D3hot resets the host port. -/
def execPcieLink (dt : Nat) (ev : PcieEvent) (s : State) : Host.Outcome State Fault Refusal :=
  s.act dt true (pcieLink ev)

/-- NET_LINK (R428): The management Ethernet link changes state. -/
def execNetLink (dt : Nat) (up : Bool) (s : State) : Host.Outcome State Fault Refusal :=
  s.act dt true (netLink up)

/-- LATCH (R443): A write of TIM_LATCH captures base, Reel and wall at one count. -/
def execLatch (dt agent : Nat) (s : State) : Host.Outcome State Fault Refusal :=
  s.act dt (isAgent agent && s.lets dt agent 24) latch

/-- WALL_RATE (R448): A write of TIM_WALL_RATE re-anchors wall time at a new rate. -/
def execWallRate (dt agent : Nat) (val : Word) (s : State) : Host.Outcome State Fault Refusal :=
  s.act dt (isAgent agent && s.lets dt agent 24) (wallRateCmd val)

/-- WALL_ADJ (R448): A write of TIM_WALL_ADJ steps wall time. -/
def execWallAdj (dt agent : Nat) (val : Word) (s : State) : Host.Outcome State Fault Refusal :=
  s.act dt (isAgent agent && s.lets dt agent 24) (wallAdj val)

/-- REEL_HOLDOVER (R445): No SYNC cell for 10 µs puts Reel in HOLDOVER. -/
def execReelHoldover (dt : Nat) (s : State) : Host.Outcome State Fault Refusal :=
  s.act dt true reelHoldover

/-- PTP_EVENT_MESSAGE (R449): A PTP event message is timestamped into its FIFO. -/
def execPtpEventMessage (dt : Nat) (rx : Bool) (msgType domain : Nat) (clockId : Word) (portNum seq : Nat) (s : State) : Host.Outcome State Fault Refusal :=
  s.act dt true (ptpEventMessage rx msgType domain clockId portNum seq)

/-- WALL_HOLDOVER (R450): No Sync from the master for SYNC_TMO_MS sets HOLDOVER. -/
def execWallHoldover (dt : Nat) (s : State) : Host.Outcome State Fault Refusal :=
  s.act dt true wallHoldover

/-- PTP_STAMP_READ (R449): A read of a PTP FIFO's SEQID removes its head entry. -/
def execPtpStampRead (dt agent : Nat) (rx : Bool) (s : State) : Host.Outcome State Fault Refusal :=
  s.act dt (isAgent agent && s.lets dt agent 24) (ptpStampRead rx)

/-- SNAP_ARM (R456): TRC_SNAP_CTL.ARM arms a snapshot or refuses it. -/
def execSnapArm (dt agent : Nat) (val : Word) (s : State) : Host.Outcome State Fault Refusal :=
  s.act dt (isAgent agent && s.lets dt agent 25) (snapArm val)

/-- SNAP_COMMAND (R456): A chain position receives a snapshot command over CTRL. -/
def execSnapCommand (dt id : Nat) (tick : Int) (s : State) : Host.Outcome State Fault Refusal :=
  s.act dt true (snapCommand id tick)

/-- SNAPSHOT (R456): At the tick every unit copies its counters into shadows. -/
def execSnapshot (dt : Nat) (s : State) : Host.Outcome State Fault Refusal :=
  s.act dt true snapshot

/-- RIDX_WRITE (R460): A write of TRC_TRACE_RIDX frees trace ring space and releases stalled producers. -/
def execRidxWrite (dt agent : Nat) (val : Word) (s : State) : Host.Outcome State Fault Refusal :=
  s.act dt (isAgent agent && s.lets dt agent 25) (ridxWrite val)

/-- LOST (R459): When the capped bucket has a token again, a LOST record with the drop count is written. -/
def execLost (dt : Nat) (s : State) : Host.Outcome State Fault Refusal :=
  s.act dt true lostCmd

/-- SENSOR_SAMPLE (R424): Every 1 ms sensors are sampled and Kiln acts on the readings. -/
def execSensorSample (dt : Nat) (dies : List (Option Int)) (tcp : Int) (rails : List (Nat × Nat)) (inPower inCurrent pCompute pIod : Nat) (s : State) : Host.Outcome State Fault Refusal :=
  s.actFx dt true (sensorSampleFx dies tcp rails inPower inCurrent pCompute pIod)

/-- SENSOR_FAIL (R500): A die sensor without a reading for 10 ms is marked failed. -/
def execSensorFail (dt sensor : Nat) (s : State) : Host.Outcome State Fault Refusal :=
  s.act dt true (sensorFail sensor)

/-- BOOST_S (R497): A write of KILN_CTL.BOOST_S requests boost, which starts, extends or is refused. -/
def execBoostS (dt agent : Nat) (val : Word) (s : State) : Host.Outcome State Fault Refusal :=
  s.act dt (isAgent agent && s.lets dt agent 27) (boostS val)

/-- END (R498): A write of KILN_CTL.END ends boost and starts a cool-down. -/
def execEndBoost (dt agent : Nat) (s : State) : Host.Outcome State Fault Refusal :=
  s.act dt (isAgent agent && s.lets dt agent 27) endBoost

/-- BOOST_TIMEOUT (R498): The boost time runs out and boost ends. -/
def execBoostTimeout (dt : Nat) (s : State) : Host.Outcome State Fault Refusal :=
  s.act dt true boostTimeout

/-- COOLDOWN_END (R498): The 60 s cool-down ends. -/
def execCooldownEnd (dt : Nat) (s : State) : Host.Outcome State Fault Refusal :=
  s.act dt true cooldownEnd

/-- CLK_RETURN (R66): The first rising CLK edge after LOSS moves the port from LOSS back to TRAINING. -/
def execClkReturn (dt p : Nat) (s : State) : Host.Outcome State Fault Refusal :=
  s.act dt (isPort p) (clkReturn p)

/-- GRP_WARN_CLEAR (R277): A group's L+ at 19.6 V or more for 1 ms clears WARN. -/
def execGrpWarnClear (dt g volt : Nat) (s : State) : Host.Outcome State Fault Refusal :=
  s.act dt (decide (g < 12)) (grpWarnClear g volt)

/-- GRP_OV_CLEAR (R277): A group's L+ at 30.5 V or less for 1 ms clears OV. -/
def execGrpOvClear (dt g volt : Nat) (s : State) : Host.Outcome State Fault Refusal :=
  s.act dt (decide (g < 12)) (grpOvClear g volt)

/-- L2_RETURN (R306): A lane woken from a held L2 returns to L2 after IDLE_US of idleness. -/
def execL2Return (dt n : Nat) (s : State) : Host.Outcome State Fault Refusal :=
  s.act dt (isLane n) (l2Return n)

/-- CRC_FAILURE (R298): A received cell fails its CRC, or a stuffing violation spoils it; CRC_ERR counts it, a NAK is sent and framing is
judged. -/
def execCrcFailure (dt n : Nat) (bits : List Bool) (s : State) : Host.Outcome State Fault Refusal :=
  s.actFx dt (isLane n) (crcFailureFx n bits)

/-- PRBS_CHECKER (R307): In loopback the checker receives the test pattern, synchronises to it and counts bit errors. -/
def execPrbsChecker (dt n : Nat) (sync : Bool) (bits : List Bool) (s : State) : Host.Outcome State Fault Refusal :=
  s.act dt (isLane n) (prbsChecker n sync bits)

/-- HOST_DMA_WRITE (R435): A PCIe memory write through BAR2 writes DRAM after the isolation check. -/
def execHostDmaWrite (dt off : Nat) (bytes : List Byte) (s : State) : Host.Outcome State Fault Refusal :=
  s.actFx dt true (hostDmaWriteFx off bytes)

/-- HOST_DMA_READ (R435): A PCIe memory read through BAR2 reads DRAM, counts ECC errors and completes or aborts. -/
def execHostDmaRead (dt off len : Nat) (s : State) : Host.Outcome State Fault Refusal :=
  s.actFx dt true (hostDmaReadFx off len)

/-- ARP (R428): The management Ethernet answers an ARP request. -/
def execArp (dt targetIp senderMac senderIp : Nat) (s : State) : Host.Outcome State Fault Refusal :=
  s.act dt true (arp targetIp senderMac senderIp)

/-- ICMP_ECHO (R428): The management Ethernet answers an ICMP echo request. -/
def execIcmpEcho (dt srcIp ident seq : Nat) (data : List Byte) (s : State) : Host.Outcome State Fault Refusal :=
  s.act dt true (icmpEcho srcIp ident seq data)

/-- NET_STORE_DONE (R467): The boot-table write started by MGT_NET_CTL.STORE completes and BUSY clears. -/
def execNetStoreDone (dt : Nat) (s : State) : Host.Outcome State Fault Refusal :=
  s.act dt true netStoreDone

/-- RETENTION_LOSS (R401): The cellar and backup supply falls below the retention level and the always-on detector latches. -/
def execRetentionLoss (dt : Nat) (s : State) : Host.Outcome State Fault Refusal :=
  s.actAlways dt true (·.mach retentionLoss)

end Sys2Proof.Machine
end

