-- ==== Sys2Proof/Machine/RowsPort.lean ====
section
/-!
DEFINITION. The meanings of the commands of the camera ports: one definition per row of the table, over the operations of this folder.
-/

namespace Sys2Proof.Machine

/-- PORT_LOCKED (R39): After 1,024 idle periods of correct pattern the camera port enters LOCKED. -/
def execPortLocked (dt p : Nat) (s : State) (idle : List (Nat × Bool) := []) (eye : List Nat := []) : Host.Outcome State Fault Refusal :=
  s.act dt (isPort p) (portLocked p idle eye)

/-- PORT_RETRAIN (R40): After 16 consecutive wrong idle periods the port leaves LOCKED and trains again. -/
def execPortRetrain (dt p : Nat) (idle : List (Nat × Bool)) (s : State) (eye : List Nat := []) : Host.Outcome State Fault Refusal :=
  s.act dt (isPort p) (portRetrain p idle eye)

/-- LINE (R43): A camera line, one LV-high period with pixels and trailer, is received, checked, tagged and framed into blocks. -/
def execLine (dt p : Nat) (l : LineIn) (s : State) : Host.Outcome State Fault Refusal :=
  s.actFx dt (isPort p) fun x => (x.mach (line p l)).hopPort p

/-- CONCEAL_TIMEOUT (R61): A concealed line whose following good line has not arrived within 100 µs copies the line before and is released.
-/
def execConcealTimeout (dt p : Nat) (s : State) : Host.Outcome State Fault Refusal :=
  s.act dt (isPort p) (concealTimeout p)

/-- TRIGGER_FIRE (R53): The axis position reaches the divider target T moving forward; the trigger fires, is queued and T advances. -/
def execTriggerFire (dt p : Nat) (s : State) : Host.Outcome State Fault Refusal :=
  s.act dt (isPort p) (triggerFire p)

/-- TIMER_TRIGGER (R52): The timer source falls due every TIMER_NS and fires a trigger. -/
def execTimerTrigger (dt p : Nat) (s : State) : Host.Outcome State Fault Refusal :=
  s.act dt (isPort p) (timerTrigger p)

/-- TRG_PULSE_END (R56): TRG falls after WIDTH_NS. -/
def execTrgPulseEnd (dt p : Nat) (s : State) : Host.Outcome State Fault Refusal :=
  s.act dt (isPort p) (trgPulseEnd p)

/-- CLK_LOSS (R66): No rising CLK edge for 200 ns puts the port in LOSS, completes or truncates the open block and sends the end-of-block
marker. -/
def execClkLoss (dt p : Nat) (part : Option LineIn) (s : State) : Host.Outcome State Fault Refusal :=
  s.actFx dt (isPort p) fun x => (x.mach (clkLoss p part)).hopPort p

/-- PORT_STOP (R67): A write of GRS_CTL.RUN = 0 stops the port at the end of the current tagged line. -/
def execPortStop (dt agent p : Nat) (s : State) (part : Option (LineIn × Nat) := none) : Host.Outcome State Fault Refusal :=
  s.actFx dt (isAgent agent && s.lets dt agent 0 && isPort p) (portStopFx p part)

/-- STOP_EXPOSURE_TIMEOUT (R67): When the last exposure of a stopping port's set has not arrived within 100 µs, the set is completed as for
a clock loss. -/
def execStopExposureTimeout (dt p : Nat) (s : State) : Host.Outcome State Fault Refusal :=
  s.actFx dt (isPort p) fun x => (x.mach (stopExposureTimeout p)).hopPort p

/-- UART_TX (R68): A write of GRS_UART_TX appends a byte to the transmit FIFO, or discards it when full. -/
def execUartTx (dt agent p : Nat) (val : Word) (s : State) : Host.Outcome State Fault Refusal :=
  s.act dt (isAgent agent && s.lets dt agent 0 && isPort p) (uartTx p val)

/-- UART_TX_BYTE (R68): The UART finishes sending one byte from the transmit FIFO. -/
def execUartTxByte (dt p : Nat) (s : State) : Host.Outcome State Fault Refusal :=
  s.act dt (isPort p) (uartTxByte p)

/-- UART_RX_BYTE (R68): A byte received on URX enters the receive FIFO, or is discarded when full. -/
def execUartRxByte (dt p : Nat) (b : Byte) (ferr : Bool) (s : State) : Host.Outcome State Fault Refusal :=
  s.act dt (isPort p) (uartRxByte p b ferr)

/-- UART_RX_READ (R68): A read of GRS_UART_RX returns and removes the oldest received byte. -/
def execUartRxRead (dt agent p : Nat) (s : State) : Host.Outcome State Fault Refusal :=
  s.act dt (isAgent agent && s.lets dt agent 0 && isPort p) (uartRxRead p)

/-- LIN_STORE (R74): GRS_LIN_ACC with WR = 1 stores a linearisation entry. -/
def execLinStore (dt agent p e index data : Nat) (s : State) : Host.Outcome State Fault Refusal :=
  s.act dt (isAgent agent && s.lets dt agent 0 && isPort p && decide (e < 4) && decide (index < 4096) && decide (data < 65536)) (linStore p e index data)

/-- LIN_SELECT (R74): GRS_LIN_ACC with WR = 0 selects an entry for read-back. -/
def execLinSelect (dt agent p e index : Nat) (s : State) : Host.Outcome State Fault Refusal :=
  s.act dt (isAgent agent && s.lets dt agent 0 && isPort p && decide (e < 4) && decide (index < 4096)) (linSelect p e index)

/-- FF_STORE (R74): GRS_FF_ACC with WR = 1 stores a flat-field entry. -/
def execFfStore (dt agent p index gain offset : Nat) (s : State) : Host.Outcome State Fault Refusal :=
  s.act dt (isAgent agent && s.lets dt agent 0 && isPort p && decide (index < 32768) && decide (gain < 65536) && decide (offset < 65536)) (ffStore p index gain offset)

/-- FF_SELECT (R74): GRS_FF_ACC with WR = 0 selects a flat-field entry for read-back. -/
def execFfSelect (dt agent p index : Nat) (s : State) : Host.Outcome State Fault Refusal :=
  s.act dt (isAgent agent && s.lets dt agent 0 && isPort p && decide (index < 32768)) (ffSelect p index)

end Sys2Proof.Machine
end

