-- ==== Sys2Proof/Machine/RowsPosition.lean ====
section
/-!
DEFINITION. The meanings of the commands of position, tracking and ejection: one definition per row of the table, over the operations of this folder.
-/

namespace Sys2Proof.Machine

/-- ENCODER_EDGE (R229): A filtered A, B or tooth edge moves the position, writes an edge record, updates PERIOD and makes CMP recompute
instants. -/
def execEncoderEdge (dt ax : Nat) (chgA chgB : Bool) (back : Nat) (s : State) : Host.Outcome State Fault Refusal :=
  s.act dt (decide (ax < 8)) (encoderEdge ax chgA chgB back)

/-- Z_EDGE (R236): A used Z rising edge homes or checks the position. -/
def execZEdge (dt ax back : Nat) (s : State) : Host.Outcome State Fault Refusal :=
  s.act dt (decide (ax < 8)) (zEdge ax back)

/-- LINE_FAULT (R257): A used RS-422 line below 100 mV for 1 µs causes an axis fault. -/
def execLineFault (dt ax lines : Nat) (s : State) : Host.Outcome State Fault Refusal :=
  s.act dt (decide (ax < 8)) (lineFault ax lines)

/-- STILL (R239): No counted edge for STILL_US sets STILL and writes a STILL notice. -/
def execStill (dt ax : Nat) (s : State) : Host.Outcome State Fault Refusal :=
  s.act dt (decide (ax < 8)) (stillSets ax)

/-- POS_STOP (R261): A write of POS_CTL.RUN = 0 stops the axis decoder at once. -/
def execPosStop (dt agent ax : Nat) (s : State) : Host.Outcome State Fault Refusal :=
  s.act dt (isAgent agent && s.lets dt agent 14 && decide (ax < 8)) (posStop ax)

/-- VERDICT_RECORD (R245): A delivered verdict record reaches its CMP axis and is accepted into compare entries or dropped. -/
def execVerdictRecord (dt ax : Nat) (s : State) : Host.Outcome State Fault Refusal :=
  s.act dt (decide (ax < 8)) (verdictRecord ax)

/-- SLOT_CLOSE_POINT (R246): An open slot reaches its close point without a record and closes with a substitute. -/
def execSlotClosePoint (dt ax slot : Nat) (s : State) : Host.Outcome State Fault Refusal :=
  s.act dt (decide (ax < 8) && decide (slot < 4096)) (slotClosePoint ax slot)

/-- EDGE_HANDOFF (R252): At T − 4,000 ns an edge is handed to the output logic. -/
def execEdgeHandoff (dt ax index : Nat) (off : Bool) (s : State) : Host.Outcome State Fault Refusal :=
  s.act dt (decide (ax < 8) && decide (index < 4096)) (edgeHandoff ax index off)

/-- LAST_FEASIBLE_FIRE_POINT (R252): Reel passes the last feasible fire point of an ON edge held back, which is late with cause 0x7. -/
def execLastFeasibleFirePoint (dt ax index : Nat) (s : State) : Host.Outcome State Fault Refusal :=
  s.act dt (decide (ax < 8) && decide (index < 4096)) (lastFeasibleFirePoint ax index)

/-- EDGE_FIRE (R252): A handed-off edge is placed at its instant and the output switches by its mode. -/
def execEdgeFire (dt ax index : Nat) (off : Bool) (s : State) : Host.Outcome State Fault Refusal :=
  s.act dt (decide (ax < 8) && decide (index < 4096)) (edgeFire ax index off)

/-- MAX_ON_CLAMP (R253): An output on for MAX_ON_US is turned off and its pulse's OFF edges cancelled. -/
def execMaxOnClamp (dt v : Nat) (s : State) : Host.Outcome State Fault Refusal :=
  s.act dt (decide (v < 96)) (maxOnClamp v)

/-- LATE_HOLD_END (R256): HOLD_MS after the latest late event in MODE 0, LATE goes inactive. -/
def execLateHoldEnd (dt : Nat) (s : State) : Host.Outcome State Fault Refusal :=
  s.act dt true lateHoldEnd

/-- AXIS_STOP (R258): A write of CMP_CTL.RUN = 0 stops the axis at once, closing slots and discarding entries with cause 0x6. -/
def execAxisStop (dt agent ax : Nat) (s : State) : Host.Outcome State Fault Refusal :=
  s.act dt (isAgent agent && s.lets dt agent 15 && decide (ax < 8)) (axisStop ax)

end Sys2Proof.Machine
end

