-- ==== Sys2Proof/Machine/RowsRecord.lean ====
section
/-!
DEFINITION. The meanings of the commands of record and replay: one definition per row of the table, over the operations of this folder.
-/

namespace Sys2Proof.Machine

/-- RECORD_ENABLE (R343): A write of TRC_REC_CTL.EN starts recording from offset 0 or stops it. -/
def execRecordEnable (dt agent : Nat) (val : Word) (s : State) : Host.Outcome State Fault Refusal :=
  s.actFx dt (isAgent agent && s.lets dt agent 25) fun x => x.ctlWrite agent R.trcRecCtl val

/-- REC_GAP (R343): When the full record buffer has room, a GAP record with the dropped count is written. -/
def execRecGap (dt : Nat) (s : State) : Host.Outcome State Fault Refusal :=
  s.act dt true recGap

/-- CHECKPOINT (R347): Every CKPT_MS a CHECKPOINT record of unit state is written. -/
def execCheckpoint (dt : Nat) (s : State) : Host.Outcome State Fault Refusal :=
  s.act dt true checkpoint

/-- FREEZE (R348): A write of TRC_REC_CTL.FREEZE stops recording at once. -/
def execFreeze (dt agent : Nat) (s : State) : Host.Outcome State Fault Refusal :=
  s.actFx dt (isAgent agent && s.lets dt agent 25) freezeFx

/-- REC_FROZEN (R348): POST_MS after a trigger event, recording stops. -/
def execRecFrozen (dt : Nat) (s : State) : Host.Outcome State Fault Refusal :=
  s.actFx dt true recFrozenFx

/-- EXPORT (R349): TRC_EXPORT_CTL.GO starts exporting a ring range by PCIe writes. -/
def execExportGo (dt agent : Nat) (val : Word) (s : State) : Host.Outcome State Fault Refusal :=
  s.act dt (isAgent agent && s.lets dt agent 25) (exportCmd val)

/-- EXPORT_DONE (R349): An export completes. -/
def execExportDone (dt : Nat) (s : State) : Host.Outcome State Fault Refusal :=
  s.actFx dt true exportDoneFx

/-- REPLAY_RECORD (R351): When Reel reaches a record's shifted REEL, TRC delivers it to its unit. -/
def execReplayRecord (dt : Nat) (s : State) : Host.Outcome State Fault Refusal :=
  s.actFx dt true replayRecordFx

/-- REPLAY_DONE (R356): Replay reaches TO or a GAP; delivery stops, ports stop and entries end. -/
def execReplayDone (dt : Nat) (s : State) : Host.Outcome State Fault Refusal :=
  s.actFx dt true replayDoneFx

end Sys2Proof.Machine
end

