-- ==== Sys2Proof/Machine/RowsSecure.lean ====
section
/-!
DEFINITION. The meanings of the commands of memory integrity and security: one definition per row of the table, over the operations of this folder.
-/

namespace Sys2Proof.Machine

/-- SPG_GO (R366): MEM_SPG_CTL.GO starts a Sparge pass or is refused. -/
def execSpgGo (dt agent : Nat) (s : State) : Host.Outcome State Fault Refusal :=
  s.act dt (isAgent agent && s.lets dt agent 19) spgGo

/-- SPG_STOP (R367): MEM_SPG_CTL.STOP ends the pass at its next word. -/
def execSpgStop (dt agent : Nat) (s : State) : Host.Outcome State Fault Refusal :=
  s.actView dt (isAgent agent && s.lets dt agent 19) spgStop

/-- SPARGE_DONE (R367): A Sparge pass ends and its summary is filled. -/
def execSpargeDone (dt : Nat) (s : State) : Host.Outcome State Fault Refusal :=
  s.actView dt true spargeDone

/-- FLIP_ARM (R368): A write of MEM_FLIP_CTL with ARM arms or replaces a flip mask. -/
def execFlipArm (dt agent : Nat) (val : Word) (s : State) : Host.Outcome State Fault Refusal :=
  s.act dt (isAgent agent && s.lets dt agent 19) (flipArm val)

/-- ENTROPY_READY (R374): Start-up tests pass, the DRBG is seeded and SEC becomes READY. -/
def execEntropyReady (dt : Nat) (s : State) : Host.Outcome State Fault Refusal :=
  s.act dt true entropyReady

/-- HEALTH_FAIL (R377): A run-time health test fails; samples are discarded and collection restarts. -/
def execHealthFail (dt test : Nat) (s : State) : Host.Outcome State Fault Refusal :=
  s.act dt ((test == 1 || test == 2)) (healthFail test)

/-- RESEED (R376): Every 1 s or 2^20 requests the DRBG reseeds. -/
def execReseed (dt : Nat) (s : State) : Host.Outcome State Fault Refusal :=
  s.act dt true reseed

/-- RNG_READ (R376): A read of SEC_RNG takes 32 new random bits. -/
def execRngRead (dt agent : Nat) (s : State) : Host.Outcome State Fault Refusal :=
  s.act dt (isAgent agent && s.lets dt agent 20) rngRead

end Sys2Proof.Machine
end

