-- ==== Sys2Proof/Machine/RowsStart.lean ====
section
/-!
DEFINITION. The meanings of the commands of power, reset and start: one definition per row of the table, over the operations of this folder.
-/

namespace Sys2Proof.Machine

/-- SUPPLY_SAMPLE (R389): Every 10 µs PWR samples the supply, updates V and enters or leaves shedding stages. -/
def execSupplySample (dt mv10 : Nat) (s : State) : Host.Outcome State Fault Refusal :=
  s.act dt true (supplySample mv10)

/-- POWER_FAIL (R394): Samples below 16.8 V for 1 ms, or a thermal trip, start the power-fail stop. -/
def execPowerFail (dt : Nat) (reserve : Bool) (s : State) : Host.Outcome State Fault Refusal :=
  s.actFx dt true (powerFailFx reserve)

/-- PWRFAIL_RECOVER (R396): After the power-fail stop, 100 ms of good supply runs a cold reset. -/
def execPwrfailRecover (dt : Nat) (s : State) : Host.Outcome State Fault Refusal :=
  s.actFx dt true pwrfailRecoverFx

/-- POWER_ON (R398): The supply holds at 18.4 V or more for 10 ms and a cold reset runs. -/
def execPowerOn (dt : Nat) (s : State) : Host.Outcome State Fault Refusal :=
  s.actAlways dt true powerOnFx

/-- NRESET_IN (R398): nRESET_IN low for 10 samples asserts a cold reset after the log copy to the cellar. -/
def execNresetIn (dt : Nat) (s : State) : Host.Outcome State Fault Refusal :=
  s.actAlways dt true nresetInFx

/-- RESET_RELEASE (R399): The last asserted reset source releases and the widest reach's release sequence runs. -/
def execResetRelease (dt : Nat) (s : State) : Host.Outcome State Fault Refusal :=
  s.actAlways dt true (·.mach resetRelease)

/-- DEFERRED_RESET (R400): A reset waiting for an NVM pulse takes effect when the pulse ends. -/
def execDeferredReset (dt : Nat) (s : State) : Host.Outcome State Fault Refusal :=
  s.actAlways dt true deferredResetFx

/-- GLOBAL_WARM_RESET (R398): RST_CMD KIND 0x1 with the key runs a warm reset. -/
def execGlobalWarmReset (dt agent : Nat) (val : Word) (s : State) : Host.Outcome State Fault Refusal :=
  s.actFx dt (isAgent agent && s.lets dt agent 22 && val.extractLsb' 0 3 == 1#3) (rstCmdFx val)

/-- GLOBAL_COLD_RESET (R398): RST_CMD KIND 0x2 with the key runs a cold reset. -/
def execGlobalColdReset (dt agent : Nat) (val : Word) (s : State) : Host.Outcome State Fault Refusal :=
  s.actFx dt (isAgent agent && s.lets dt agent 22 && val.extractLsb' 0 3 == 2#3) (rstCmdFx val)

/-- COMPUTE_RESET (R397): RST_CMD KIND 0x3 resets the compute die. -/
def execComputeReset (dt agent : Nat) (val : Word) (s : State) : Host.Outcome State Fault Refusal :=
  s.actFx dt (isAgent agent && s.lets dt agent 22 && val.extractLsb' 0 3 == 3#3) (rstCmdFx val)

/-- BLOCK_RESET (R405): RST_CMD KIND 0x4 resets one unit instance and reloads its configuration. -/
def execBlockReset (dt agent : Nat) (val : Word) (s : State) : Host.Outcome State Fault Refusal :=
  s.actFx dt (isAgent agent && s.lets dt agent 22 && (val.extractLsb' 0 3 == 0#3 || val.getLsbD 2)) (rstCmdFx val)

/-- START_PHASE (R404): A start phase completes and the next begins, ending in READY. -/
def execStartPhase (dt : Nat) (f : PhaseFacts) (s : State) : Host.Outcome State Fault Refusal :=
  s.actFx dt true (startPhaseFx f)

/-- START_TIMEOUT (R414): START_TMO_S passes before READY and the start fails. -/
def execStartTimeout (dt : Nat) (s : State) : Host.Outcome State Fault Refusal :=
  s.actFx dt true startTimeoutFx

/-- START_FAILED (R416): A failed start records its reason, counts FAILS and holds FAULT, or enters MINIMAL at 3 failures. -/
def execStartFailed (dt reason : Nat) (s : State) : Host.Outcome State Fault Refusal :=
  s.actFx dt true (startFailedFx reason)

/-- START_RETRY (R416): After 100 ms of FAULT a cold reset retries the start. -/
def execStartRetry (dt : Nat) (otherOk : Bool) (s : State) : Host.Outcome State Fault Refusal :=
  s.actFx dt true (startRetryFx otherOk)

/-- FAULT_FLASH (R418): In MINIMAL mode each timed interval of the flash pattern toggles FAULT. -/
def execFaultFlash (dt : Nat) (s : State) : Host.Outcome State Fault Refusal :=
  s.act dt true faultFlash

/-- AUTORUN (R408): AUTORUN_MS after READY the module arms a global restart. -/
def execAutorun (dt : Nat) (s : State) : Host.Outcome State Fault Refusal :=
  s.actFx dt true autorunFx

/-- CAL_STORE (R421): CEL_CAL_CTL.STORE starts writing a calibration slot. -/
def execCalStore (dt agent : Nat) (val : Word) (s : State) : Host.Outcome State Fault Refusal :=
  s.actFx dt (isAgent agent && s.lets dt agent 28) (calStoreFx val)

/-- CAL_STORED (R421): A calibration store completes or is abandoned. -/
def execCalStored (dt result : Nat) (s : State) : Host.Outcome State Fault Refusal :=
  s.act dt true (calStored result)

/-- WDOG_KICK (R425): A write of MGT_WDOG with the key from agent 0x001 restarts the watchdog. -/
def execWdogKick (dt agent : Nat) (val : Word) (s : State) : Host.Outcome State Fault Refusal :=
  s.act dt (isAgent agent && s.lets dt agent 23) (wdogKick agent val)

/-- WDOG_EXPIRED (R425): The management watchdog expires: safe state, freeze, dump, log flush and cold reset. -/
def execWdogExpired (dt cause : Nat) (s : State) : Host.Outcome State Fault Refusal :=
  s.actFx dt (decide (cause < 16)) (wdogExpiredFx cause)

/-- FORCE (R425): A write of MGT_DUMP.FORCE expires the watchdog with cause 0x4. -/
def execForce (dt agent : Nat) (s : State) : Host.Outcome State Fault Refusal :=
  s.actFx dt (isAgent agent && s.lets dt agent 23) forceFx

/-- DUMP_CLEAR (R463): A write of MGT_DUMP.CLEAR starts erasing a held dump. -/
def execDumpClear (dt agent : Nat) (s : State) : Host.Outcome State Fault Refusal :=
  s.act dt (isAgent agent && s.lets dt agent 23) dumpClear

/-- DUMP_ERASED (R463): The dump region erase completes and STATE returns to EMPTY. -/
def execDumpErased (dt : Nat) (s : State) : Host.Outcome State Fault Refusal :=
  s.act dt true dumpErased

/-- JOB_HANG (R462): A job makes no progress for HANG_MS. -/
def execJobHang (dt j : Nat) (s : State) : Host.Outcome State Fault Refusal :=
  s.actFx dt (decide (j < 64)) (jobHangFx j)

end Sys2Proof.Machine
end

