-- ==== Sys2Proof/Machine/RowsTwin.lean ====
section
/-!
DEFINITION. The meanings of the commands of twin pairs: one definition per row of the table, over the operations of this folder.
-/

namespace Sys2Proof.Machine

/-- PAIR_WAIT (R318): No partner within PAIR_WAIT_MS: module A becomes SOLO, module B STANDBY. -/
def execPairWait (dt : Nat) (s : State) : Host.Outcome State Fault Refusal :=
  s.act dt true pairWait

/-- HEARTBEAT_SEND (R321): At each 10,000 ns the lead sends a heartbeat with horizon Z and restarts its output watchdog. -/
def execHeartbeatSend (dt : Nat) (probeOk : Bool) (s : State) : Host.Outcome State Fault Refusal :=
  s.act dt true (heartbeatSend probeOk)

/-- HEARTBEAT (R321): The follower receives a heartbeat, acknowledges it and updates Z_F. -/
def execHeartbeat (dt seq : Nat) (h z : Int) (s : State) : Host.Outcome State Fault Refusal :=
  s.act dt true (heartbeat seq h z)

/-- HEARTBEAT_ACK (R321): The lead receives an acknowledgement and updates Z_A. -/
def execHeartbeatAck (dt seq : Nat) (s : State) : Host.Outcome State Fault Refusal :=
  s.act dt true (heartbeatAck seq)

/-- HEARTBEAT_MISSED (R324): A heartbeat not arrived by H + 13,000 ns counts as missed; the third consecutive miss causes takeover. -/
def execHeartbeatMissed (dt : Nat) (s : State) : Host.Outcome State Fault Refusal :=
  s.actFx dt true heartbeatMissedFx

/-- FOLLOWER_LOST (R327): Three consecutive unacknowledged heartbeats raise FOLLOWER_LOST. -/
def execFollowerLost (dt : Nat) (s : State) : Host.Outcome State Fault Refusal :=
  s.act dt true followerLost

/-- AUTO_SOLO (R327): With AUTO_SOLO = 1, SOLO_US without acknowledgement makes the lead SOLO. -/
def execAutoSolo (dt : Nat) (s : State) : Host.Outcome State Fault Refusal :=
  s.act dt true autoSolo

/-- LEAD_WATCHDOG (R323): The lead's output watchdog not restarted for 25 µs sets FIO cause LEADWD. -/
def execLeadWatchdog (dt : Nat) (s : State) : Host.Outcome State Fault Refusal :=
  s.act dt true leadWatchdog

/-- SOLO (R318): A write of TNG_CTL.SOLO makes a STANDBY or unacknowledged lead module SOLO. -/
def execSolo (dt agent : Nat) (s : State) : Host.Outcome State Fault Refusal :=
  s.act dt (isAgent agent && s.lets dt agent 18) soloCmd

/-- JOIN (R329): A write of TNG_CTL.JOIN accepts a checked partner, which becomes JOINING. -/
def execJoin (dt agent : Nat) (s : State) : Host.Outcome State Fault Refusal :=
  s.act dt (isAgent agent && s.lets dt agent 18) joinCmd

/-- FORWARDED_LINE (R319): The follower takes a line forwarded by the lead in place of its own. -/
def execForwardedLine (dt p : Nat) (l : FwdLine) (lost : Bool) (s : State) : Host.Outcome State Fault Refusal :=
  s.actFx dt (isPort p) (forwardedLineFx p l lost)

/-- FORWARDED_EDGE (R319): The follower takes a forwarded POS edge record. -/
def execForwardedEdge (dt : Nat) (r : EdgeRec) (s : State) : Host.Outcome State Fault Refusal :=
  s.act dt true (forwardedEdge r)

/-- FORWARDED_INPUT (R319): The follower takes a forwarded field-input event. -/
def execForwardedInput (dt : Nat) (classC : Bool) (i : Nat) (w0 w1 : Word) (s : State) : Host.Outcome State Fault Refusal :=
  s.act dt (decide (i < 32)) (forwardedInput classC i w0 w1)

/-- FORWARDED_CHOICE (R210): The follower's monitor applies the lead's verdict choice. -/
def execForwardedChoice (dt port block choice : Nat) (s : State) : Host.Outcome State Fault Refusal :=
  s.act dt (isPort port) (forwardedChoice port block choice)

/-- FORWARDED_DETACH (R189): The follower applies a detach passed by the lead. -/
def execForwardedDetach (dt e side step layer : Nat) (s : State) : Host.Outcome State Fault Refusal :=
  s.actFx dt (decide (e < 1024) && decide (side < 2)) (forwardedDetachFx e side step layer)

/-- FORWARDED_END_ROW (R164): The follower takes END_ROW from the lead. -/
def execForwardedEndRow (dt e row : Nat) (s : State) : Host.Outcome State Fault Refusal :=
  s.actFx dt (decide (e < 1024)) (forwardedEndRowFx e row)

/-- DIGEST (R320): A twin compares a step digest or verdict from its partner. -/
def execDigest (dt : Nat) (verdict : Bool) (e step : Nat) (w0 w1 : Word) (s : State) : Host.Outcome State Fault Refusal :=
  s.act dt true (digestCmd verdict e step w0 w1)

/-- FOLLOWER_STANDBY (R327): The lead is told its follower left FOLLOWER and becomes SOLO at once. -/
def execFollowerStandby (dt reason : Nat) (s : State) : Host.Outcome State Fault Refusal :=
  s.act dt true (followerStandby reason)

end Sys2Proof.Machine
end

