-- ==== Sys2Proof/Machine/Dispatch.lean ====
section
/-!
DEFINITION. One arm per command, in the table's order.
-/

namespace Sys2Proof.Machine

def exec (i : Instr) (s : State) : Host.Outcome State Fault Refusal :=
  match i with
  | .registerWrite dt agent off val => Sys2Proof.Machine.execRegisterWrite dt agent off val s
  | .eventsLost dt blk inst => Sys2Proof.Machine.execEventsLost dt blk inst s
  | .runTimeout dt blk loc inst unit => Sys2Proof.Machine.execRunTimeout dt blk loc inst unit s
  | .logWrite dt fails => Sys2Proof.Machine.execLogWrite dt fails s
  | .portLocked dt p idle eye => Sys2Proof.Machine.execPortLocked dt p s idle eye
  | .portRetrain dt p idle eye => Sys2Proof.Machine.execPortRetrain dt p idle s eye
  | .line dt p l => Sys2Proof.Machine.execLine dt p l s
  | .concealTimeout dt p => Sys2Proof.Machine.execConcealTimeout dt p s
  | .triggerFire dt p => Sys2Proof.Machine.execTriggerFire dt p s
  | .timerTrigger dt p => Sys2Proof.Machine.execTimerTrigger dt p s
  | .trgPulseEnd dt p => Sys2Proof.Machine.execTrgPulseEnd dt p s
  | .clkLoss dt p part => Sys2Proof.Machine.execClkLoss dt p part s
  | .portStop dt agent p part => Sys2Proof.Machine.execPortStop dt agent p s part
  | .stopExposureTimeout dt p => Sys2Proof.Machine.execStopExposureTimeout dt p s
  | .uartTx dt agent p val => Sys2Proof.Machine.execUartTx dt agent p val s
  | .uartTxByte dt p => Sys2Proof.Machine.execUartTxByte dt p s
  | .uartRxByte dt p b ferr => Sys2Proof.Machine.execUartRxByte dt p b ferr s
  | .uartRxRead dt agent p => Sys2Proof.Machine.execUartRxRead dt agent p s
  | .linStore dt agent p e index data => Sys2Proof.Machine.execLinStore dt agent p e index data s
  | .linSelect dt agent p e index => Sys2Proof.Machine.execLinSelect dt agent p e index s
  | .ffStore dt agent p index gain offset => Sys2Proof.Machine.execFfStore dt agent p index gain offset s
  | .ffSelect dt agent p index => Sys2Proof.Machine.execFfSelect dt agent p index s
  | .toneStore dt agent c ch index knot => Sys2Proof.Machine.execToneStore dt agent c ch index knot s
  | .toneSelect dt agent c ch index => Sys2Proof.Machine.execToneSelect dt agent c ch index s
  | .commit dt agent c val => Sys2Proof.Machine.execCommit dt agent c val s
  | .commitComplete dt c => Sys2Proof.Machine.execCommitComplete dt c s
  | .pipelineLine dt pl => Sys2Proof.Machine.execPipelineLine dt pl s
  | .streamLineWritten dt pl => Sys2Proof.Machine.execStreamLineWritten dt pl s
  | .statsRecordWritten dt c => Sys2Proof.Machine.execStatsRecordWritten dt c s
  | .assistSlotCopy dt c => Sys2Proof.Machine.execAssistSlotCopy dt c s
  | .assistDone dt agent c val => Sys2Proof.Machine.execAssistDone dt agent c val s
  | .pipelineStop dt agent pl => Sys2Proof.Machine.execPipelineStop dt agent pl s
  | .commandWrite dt agent job addr bytes => Sys2Proof.Machine.execCommandWrite dt agent job addr bytes s
  | .sync dt e => Sys2Proof.Machine.execSync dt e s
  | .conv dt e => Sys2Proof.Machine.execConv dt e s
  | .gemm dt e => Sys2Proof.Machine.execGemm dt e s
  | .attn dt e => Sys2Proof.Machine.execAttn dt e s
  | .norm dt e => Sys2Proof.Machine.execNorm dt e s
  | .reduce dt e => Sys2Proof.Machine.execReduce dt e s
  | .pool dt e => Sys2Proof.Machine.execPool dt e s
  | .eltwise dt e => Sys2Proof.Machine.execEltwise dt e s
  | .copy dt e => Sys2Proof.Machine.execCopy dt e s
  | .zcomp dt e => Sys2Proof.Machine.execZcomp dt e s
  | .zdecomp dt e => Sys2Proof.Machine.execZdecomp dt e s
  | .audit dt e => Sys2Proof.Machine.execAudit dt e s
  | .assemble dt e => Sys2Proof.Machine.execAssemble dt e s
  | .head dt e => Sys2Proof.Machine.execHead dt e s
  | .commandComplete dt e => Sys2Proof.Machine.execCommandComplete dt e s
  | .cmdFault dt e => Sys2Proof.Machine.execCmdFault dt e s
  | .preempted dt e => Sys2Proof.Machine.execPreempted dt e s
  | .translationMiss dt e ent off wr => Sys2Proof.Machine.execTranslationMiss dt e ent off wr s
  | .add dt k d a b => Sys2Proof.Machine.execAdd dt k d a b s
  | .sub dt k d a b => Sys2Proof.Machine.execSub dt k d a b s
  | .and dt k d a b => Sys2Proof.Machine.execAnd dt k d a b s
  | .or dt k d a b => Sys2Proof.Machine.execOr dt k d a b s
  | .xor dt k d a b => Sys2Proof.Machine.execXor dt k d a b s
  | .sll dt k d a b => Sys2Proof.Machine.execSll dt k d a b s
  | .srl dt k d a b => Sys2Proof.Machine.execSrl dt k d a b s
  | .sra dt k d a b => Sys2Proof.Machine.execSra dt k d a b s
  | .mul dt k d a b => Sys2Proof.Machine.execMul dt k d a b s
  | .mulh dt k d a b => Sys2Proof.Machine.execMulh dt k d a b s
  | .div dt k d a b => Sys2Proof.Machine.execDiv dt k d a b s
  | .rem dt k d a b => Sys2Proof.Machine.execRem dt k d a b s
  | .slt dt k d a b => Sys2Proof.Machine.execSlt dt k d a b s
  | .sltu dt k d a b => Sys2Proof.Machine.execSltu dt k d a b s
  | .addi dt k d a imm => Sys2Proof.Machine.execAddi dt k d a imm s
  | .lui dt k d a imm => Sys2Proof.Machine.execLui dt k d a imm s
  | .ld64 dt k d a imm => Sys2Proof.Machine.execLd64 dt k d a imm s
  | .ld32 dt k d a imm => Sys2Proof.Machine.execLd32 dt k d a imm s
  | .ld16 dt k d a imm => Sys2Proof.Machine.execLd16 dt k d a imm s
  | .ld8 dt k d a imm => Sys2Proof.Machine.execLd8 dt k d a imm s
  | .st64 dt k d a imm => Sys2Proof.Machine.execSt64 dt k d a imm s
  | .st32 dt k d a imm => Sys2Proof.Machine.execSt32 dt k d a imm s
  | .st16 dt k d a imm => Sys2Proof.Machine.execSt16 dt k d a imm s
  | .st8 dt k d a imm => Sys2Proof.Machine.execSt8 dt k d a imm s
  | .beq dt k d a imm => Sys2Proof.Machine.execBeq dt k d a imm s
  | .bne dt k d a imm => Sys2Proof.Machine.execBne dt k d a imm s
  | .blt dt k d a imm => Sys2Proof.Machine.execBlt dt k d a imm s
  | .bge dt k d a imm => Sys2Proof.Machine.execBge dt k d a imm s
  | .jal dt k d imm => Sys2Proof.Machine.execJal dt k d imm s
  | .jr dt k d a imm => Sys2Proof.Machine.execJr dt k d a imm s
  | .vld dt k d a imm => Sys2Proof.Machine.execVld dt k d a imm s
  | .vst dt k d a imm => Sys2Proof.Machine.execVst dt k d a imm s
  | .vld64 dt k d a imm => Sys2Proof.Machine.execVld64 dt k d a imm s
  | .vst64 dt k d a imm => Sys2Proof.Machine.execVst64 dt k d a imm s
  | .vop dt k d a b func => Sys2Proof.Machine.execVop dt k d a b func s
  | .fadd dt k d a b => Sys2Proof.Machine.execFadd dt k d a b s
  | .fmul dt k d a b => Sys2Proof.Machine.execFmul dt k d a b s
  | .fma dt k d a b => Sys2Proof.Machine.execFma dt k d a b s
  | .fmax dt k d a b => Sys2Proof.Machine.execFmax dt k d a b s
  | .fmin dt k d a b => Sys2Proof.Machine.execFmin dt k d a b s
  | .vdot8 dt k d a b => Sys2Proof.Machine.execVdot8 dt k d a b s
  | .vdotf8 dt k d a b => Sys2Proof.Machine.execVdotf8 dt k d a b s
  | .vfmabf dt k d a b => Sys2Proof.Machine.execVfmabf dt k d a b s
  | .vcvt dt k d a b func => Sys2Proof.Machine.execVcvt dt k d a b func s
  | .vperm dt k d a b => Sys2Proof.Machine.execVperm dt k d a b s
  | .vbcast dt k d a b => Sys2Proof.Machine.execVbcast dt k d a b s
  | .dma dt k d a imm => Sys2Proof.Machine.execDma dt k d a imm s
  | .dmaComplete dt k ch => Sys2Proof.Machine.execDmaComplete dt k ch s
  | .dmawait dt k d a imm => Sys2Proof.Machine.execDmawait dt k d a imm s
  | .signal dt k d a imm => Sys2Proof.Machine.execSignal dt k d a imm s
  | .arm dt k d a b => Sys2Proof.Machine.execArm dt k d a b s
  | .wait dt k d a imm => Sys2Proof.Machine.execWait dt k d a imm s
  | .fence dt k => Sys2Proof.Machine.execFence dt k s
  | .rdspec dt k d a imm => Sys2Proof.Machine.execRdspec dt k d a imm s
  | .halt dt k => Sys2Proof.Machine.execHalt dt k s
  | .mbxsend dt k d a b func => Sys2Proof.Machine.execMbxsend dt k d a b func s
  | .mbxrecv dt k d a b func => Sys2Proof.Machine.execMbxrecv dt k d a b func s
  | .coreTrap dt k => Sys2Proof.Machine.execCoreTrap dt k s
  | .stepIssue dt e => Sys2Proof.Machine.execStepIssue dt e s
  | .haloSend dt e side => Sys2Proof.Machine.execHaloSend dt e side s
  | .haloCopyDone dt e side => Sys2Proof.Machine.execHaloCopyDone dt e side s
  | .haloMessage dt w0 w1 w2 payload => Sys2Proof.Machine.execHaloMessage dt w0 w1 w2 payload s
  | .haloLate dt e side => Sys2Proof.Machine.execHaloLate dt e side s
  | .haloDetached dt e side => Sys2Proof.Machine.execHaloDetached dt e side s
  | .endNotice dt w0 w1 w2 => Sys2Proof.Machine.execEndNotice dt w0 w1 w2 s
  | .pageSpill dt e vpage => Sys2Proof.Machine.execPageSpill dt e vpage s
  | .pageFetch dt e vpage => Sys2Proof.Machine.execPageFetch dt e vpage s
  | .fetchLead dt e => Sys2Proof.Machine.execFetchLead dt e s
  | .jobStop dt agent j => Sys2Proof.Machine.execJobStop dt agent j s
  | .jobClear dt agent j => Sys2Proof.Machine.execJobClear dt agent j s
  | .jobStopped dt j => Sys2Proof.Machine.execJobStopped dt j s
  | .stopTimeout dt j => Sys2Proof.Machine.execStopTimeout dt j s
  | .taskWrite dt agent job addr bytes => Sys2Proof.Machine.execTaskWrite dt agent job addr bytes s
  | .tileStart dt cl => Sys2Proof.Machine.execTileStart dt cl s
  | .steal dt cl => Sys2Proof.Machine.execSteal dt cl s
  | .clusterParked dt cl => Sys2Proof.Machine.execClusterParked dt cl s
  | .clusterWoken dt cl => Sys2Proof.Machine.execClusterWoken dt cl s
  | .preempt dt j incoming => Sys2Proof.Machine.execPreempt dt j incoming s
  | .jobResumed dt j => Sys2Proof.Machine.execJobResumed dt j s
  | .bucketRefill dt => Sys2Proof.Machine.execBucketRefill dt s
  | .guaranteeHeld dt => Sys2Proof.Machine.execGuaranteeHeld dt s
  | .frameStart dt e => Sys2Proof.Machine.execFrameStart dt e s
  | .verdictStore dt k addr bytes => Sys2Proof.Machine.execVerdictStore dt k addr bytes s
  | .switchPoint dt port block => Sys2Proof.Machine.execSwitchPoint dt port block s
  | .restartArm dt agent val => Sys2Proof.Machine.execRestartArm dt agent val s
  | .restartRequest dt id tick scope mode origin peerRecipes => Sys2Proof.Machine.execRestartRequest dt id tick scope mode origin peerRecipes s
  | .restartReport dt pos follower lags => Sys2Proof.Machine.execRestartReport dt pos follower lags s
  | .restartDecision dt => Sys2Proof.Machine.execRestartDecision dt s
  | .restartDecisionMsg dt id go => Sys2Proof.Machine.execRestartDecisionMsg dt id go s
  | .restartAck dt pos fol => Sys2Proof.Machine.execRestartAck dt pos s fol
  | .restartTick dt => Sys2Proof.Machine.execRestartTick dt s
  | .restartIncomplete dt => Sys2Proof.Machine.execRestartIncomplete dt s
  | .synAdd dt agent val => Sys2Proof.Machine.execSynAdd dt agent val s
  | .synObj dt agent n val => Sys2Proof.Machine.execSynObj dt agent n val s
  | .mbxSend dt agent m val => Sys2Proof.Machine.execMbxSend dt agent m val s
  | .mbxTake dt agent m => Sys2Proof.Machine.execMbxTake dt agent m s
  | .encoderEdge dt ax chgA chgB back => Sys2Proof.Machine.execEncoderEdge dt ax chgA chgB back s
  | .zEdge dt ax back => Sys2Proof.Machine.execZEdge dt ax back s
  | .lineFault dt ax lines => Sys2Proof.Machine.execLineFault dt ax lines s
  | .still dt ax => Sys2Proof.Machine.execStill dt ax s
  | .posStop dt agent ax => Sys2Proof.Machine.execPosStop dt agent ax s
  | .verdictRecord dt ax => Sys2Proof.Machine.execVerdictRecord dt ax s
  | .slotClosePoint dt ax slot => Sys2Proof.Machine.execSlotClosePoint dt ax slot s
  | .edgeHandoff dt ax index off => Sys2Proof.Machine.execEdgeHandoff dt ax index off s
  | .lastFeasibleFirePoint dt ax index => Sys2Proof.Machine.execLastFeasibleFirePoint dt ax index s
  | .edgeFire dt ax index off => Sys2Proof.Machine.execEdgeFire dt ax index off s
  | .maxOnClamp dt v => Sys2Proof.Machine.execMaxOnClamp dt v s
  | .lateHoldEnd dt => Sys2Proof.Machine.execLateHoldEnd dt s
  | .axisStop dt agent ax => Sys2Proof.Machine.execAxisStop dt agent ax s
  | .outLevelWrite dt agent hi val => Sys2Proof.Machine.execOutLevelWrite dt agent hi val s
  | .rawWrite dt agent q val => Sys2Proof.Machine.execRawWrite dt agent q val s
  | .bothonClear dt agent q => Sys2Proof.Machine.execBothonClear dt agent q s
  | .overload dt q => Sys2Proof.Machine.execOverload dt q s
  | .overloadRetry dt q => Sys2Proof.Machine.execOverloadRetry dt q s
  | .ovlLatchClear dt agent q => Sys2Proof.Machine.execOvlLatchClear dt agent q s
  | .openOut dt q => Sys2Proof.Machine.execOpenOut dt q s
  | .openOutClear dt q => Sys2Proof.Machine.execOpenOutClear dt q s
  | .overtemp dt q => Sys2Proof.Machine.execOvertemp dt q s
  | .overtempClear dt q => Sys2Proof.Machine.execOvertempClear dt q s
  | .grpWarn dt g volt => Sys2Proof.Machine.execGrpWarn dt g volt s
  | .grpLow dt g volt => Sys2Proof.Machine.execGrpLow dt g volt s
  | .grpOk dt g volt => Sys2Proof.Machine.execGrpOk dt g volt s
  | .grpOv dt g volt => Sys2Proof.Machine.execGrpOv dt g volt s
  | .enter dt agent => Sys2Proof.Machine.execEnter dt agent s
  | .release dt agent => Sys2Proof.Machine.execRelease dt agent s
  | .couplerTimeout dt q => Sys2Proof.Machine.execCouplerTimeout dt q s
  | .inputChange dt inp lvl samples => Sys2Proof.Machine.execInputChange dt inp lvl s samples
  | .inOpen dt inp draw ms => Sys2Proof.Machine.execInOpen dt inp draw s ms
  | .inWireOk dt inp draw ms => Sys2Proof.Machine.execInWireOk dt inp draw s ms
  | .countedEdge dt inp rise back => Sys2Proof.Machine.execCountedEdge dt inp rise back s
  | .gateEnd dt inp => Sys2Proof.Machine.execGateEnd dt inp s
  | .countWrite dt agent inp val => Sys2Proof.Machine.execCountWrite dt agent inp val s
  | .laneEnable dt agent n val => Sys2Proof.Machine.execLaneEnable dt agent n val s
  | .forceL2 dt agent n on => Sys2Proof.Machine.execForceL2 dt agent n on s
  | .idleCell dt n c => Sys2Proof.Machine.execIdleCell dt n c s
  | .dataCell dt n c => Sys2Proof.Machine.execDataCell dt n c s
  | .tagCell dt n c ok => Sys2Proof.Machine.execTagCell dt n c ok s
  | .syncCell dt n c => Sys2Proof.Machine.execSyncCell dt n c s
  | .trainCell dt n c => Sys2Proof.Machine.execTrainCell dt n c s
  | .pairCell dt n c peer what => Sys2Proof.Machine.execPairCell dt n c peer what s
  | .nakCell dt n c => Sys2Proof.Machine.execNakCell dt n c s
  | .nakTimeout dt k => Sys2Proof.Machine.execNakTimeout dt k s
  | .cdrLock dt n ppm phase => Sys2Proof.Machine.execCdrLock dt n ppm phase s
  | .lossOfLock dt n noSignal => Sys2Proof.Machine.execLossOfLock dt n s noSignal
  | .laneRetrain dt n => Sys2Proof.Machine.execLaneRetrain dt n s
  | .linkDown dt k => Sys2Proof.Machine.execLinkDown dt k s
  | .syncSend dt n => Sys2Proof.Machine.execSyncSend dt n s
  | .l1Entry dt n => Sys2Proof.Machine.execL1Entry dt n s
  | .laneWake dt n => Sys2Proof.Machine.execLaneWake dt n s
  | .chainWait dt => Sys2Proof.Machine.execChainWait dt s
  | .chainAnnounce dt k pos => Sys2Proof.Machine.execChainAnnounce dt k pos s
  | .keyFail dt k => Sys2Proof.Machine.execKeyFail dt k s
  | .keyRetry dt k => Sys2Proof.Machine.execKeyRetry dt k s
  | .pairWait dt => Sys2Proof.Machine.execPairWait dt s
  | .heartbeatSend dt probeOk => Sys2Proof.Machine.execHeartbeatSend dt probeOk s
  | .heartbeat dt seq h z => Sys2Proof.Machine.execHeartbeat dt seq h z s
  | .heartbeatAck dt seq => Sys2Proof.Machine.execHeartbeatAck dt seq s
  | .heartbeatMissed dt => Sys2Proof.Machine.execHeartbeatMissed dt s
  | .followerLost dt => Sys2Proof.Machine.execFollowerLost dt s
  | .autoSolo dt => Sys2Proof.Machine.execAutoSolo dt s
  | .leadWatchdog dt => Sys2Proof.Machine.execLeadWatchdog dt s
  | .solo dt agent => Sys2Proof.Machine.execSolo dt agent s
  | .join dt agent => Sys2Proof.Machine.execJoin dt agent s
  | .forwardedLine dt p l lost => Sys2Proof.Machine.execForwardedLine dt p l lost s
  | .forwardedEdge dt r => Sys2Proof.Machine.execForwardedEdge dt r s
  | .forwardedInput dt classC inp w0 w1 => Sys2Proof.Machine.execForwardedInput dt classC inp w0 w1 s
  | .forwardedChoice dt port block choice => Sys2Proof.Machine.execForwardedChoice dt port block choice s
  | .forwardedDetach dt e side step layer => Sys2Proof.Machine.execForwardedDetach dt e side step layer s
  | .forwardedEndRow dt e row => Sys2Proof.Machine.execForwardedEndRow dt e row s
  | .digest dt verdict e step w0 w1 => Sys2Proof.Machine.execDigest dt verdict e step w0 w1 s
  | .followerStandby dt reason => Sys2Proof.Machine.execFollowerStandby dt reason s
  | .recordEnable dt agent val => Sys2Proof.Machine.execRecordEnable dt agent val s
  | .recGap dt => Sys2Proof.Machine.execRecGap dt s
  | .checkpoint dt => Sys2Proof.Machine.execCheckpoint dt s
  | .freeze dt agent => Sys2Proof.Machine.execFreeze dt agent s
  | .recFrozen dt => Sys2Proof.Machine.execRecFrozen dt s
  | .exportGo dt agent val => Sys2Proof.Machine.execExportGo dt agent val s
  | .exportDone dt => Sys2Proof.Machine.execExportDone dt s
  | .replayRecord dt => Sys2Proof.Machine.execReplayRecord dt s
  | .replayDone dt => Sys2Proof.Machine.execReplayDone dt s
  | .spgGo dt agent => Sys2Proof.Machine.execSpgGo dt agent s
  | .spgStop dt agent => Sys2Proof.Machine.execSpgStop dt agent s
  | .spargeDone dt => Sys2Proof.Machine.execSpargeDone dt s
  | .flipArm dt agent val => Sys2Proof.Machine.execFlipArm dt agent val s
  | .entropyReady dt => Sys2Proof.Machine.execEntropyReady dt s
  | .healthFail dt test => Sys2Proof.Machine.execHealthFail dt test s
  | .reseed dt => Sys2Proof.Machine.execReseed dt s
  | .rngRead dt agent => Sys2Proof.Machine.execRngRead dt agent s
  | .supplySample dt mv10 => Sys2Proof.Machine.execSupplySample dt mv10 s
  | .powerFail dt reserve => Sys2Proof.Machine.execPowerFail dt reserve s
  | .pwrfailRecover dt => Sys2Proof.Machine.execPwrfailRecover dt s
  | .powerOn dt => Sys2Proof.Machine.execPowerOn dt s
  | .nresetIn dt => Sys2Proof.Machine.execNresetIn dt s
  | .resetRelease dt => Sys2Proof.Machine.execResetRelease dt s
  | .deferredReset dt => Sys2Proof.Machine.execDeferredReset dt s
  | .globalWarmReset dt agent val => Sys2Proof.Machine.execGlobalWarmReset dt agent val s
  | .globalColdReset dt agent val => Sys2Proof.Machine.execGlobalColdReset dt agent val s
  | .computeReset dt agent val => Sys2Proof.Machine.execComputeReset dt agent val s
  | .blockReset dt agent val => Sys2Proof.Machine.execBlockReset dt agent val s
  | .startPhase dt f => Sys2Proof.Machine.execStartPhase dt f s
  | .startTimeout dt => Sys2Proof.Machine.execStartTimeout dt s
  | .startFailed dt reason => Sys2Proof.Machine.execStartFailed dt reason s
  | .startRetry dt otherOk => Sys2Proof.Machine.execStartRetry dt otherOk s
  | .faultFlash dt => Sys2Proof.Machine.execFaultFlash dt s
  | .autorun dt => Sys2Proof.Machine.execAutorun dt s
  | .calStore dt agent val => Sys2Proof.Machine.execCalStore dt agent val s
  | .calStored dt result => Sys2Proof.Machine.execCalStored dt result s
  | .wdogKick dt agent val => Sys2Proof.Machine.execWdogKick dt agent val s
  | .wdogExpired dt cause => Sys2Proof.Machine.execWdogExpired dt cause s
  | .force dt agent => Sys2Proof.Machine.execForce dt agent s
  | .dumpClear dt agent => Sys2Proof.Machine.execDumpClear dt agent s
  | .dumpErased dt => Sys2Proof.Machine.execDumpErased dt s
  | .jobHang dt j => Sys2Proof.Machine.execJobHang dt j s
  | .ncpRead dt h addr => Sys2Proof.Machine.execNcpRead dt h addr s
  | .ncpWrite dt h addr val => Sys2Proof.Machine.execNcpWrite dt h addr val s
  | .ncpReadN dt h addr n => Sys2Proof.Machine.execNcpReadN dt h addr n s
  | .ncpStatus dt h => Sys2Proof.Machine.execNcpStatus dt h s
  | .ncpLogRead dt h first n => Sys2Proof.Machine.execNcpLogRead dt h first n s
  | .updBegin dt h val => Sys2Proof.Machine.execUpdBegin dt h val s
  | .updEraseDone dt => Sys2Proof.Machine.execUpdEraseDone dt s
  | .updData dt h addr words => Sys2Proof.Machine.execUpdData dt h addr words s
  | .updCommit dt h => Sys2Proof.Machine.execUpdCommit dt h s
  | .updateDone dt ok => Sys2Proof.Machine.execUpdateDone dt ok s
  | .updAbort dt h => Sys2Proof.Machine.execUpdAbort dt h s
  | .netStore dt agent => Sys2Proof.Machine.execNetStore dt agent s
  | .spiNop dt frame long => Sys2Proof.Machine.execSpiNop dt frame long s
  | .spiRead dt frame frames early => Sys2Proof.Machine.execSpiRead dt frame frames early s
  | .spiWrite dt frame data => Sys2Proof.Machine.execSpiWrite dt frame data s
  | .spiInvalid dt frame => Sys2Proof.Machine.execSpiInvalid dt frame s
  | .spiPartial dt edges => Sys2Proof.Machine.execSpiPartial dt edges s
  | .spiAbandoned dt => Sys2Proof.Machine.execSpiAbandoned dt s
  | .pcieLink dt ev => Sys2Proof.Machine.execPcieLink dt ev s
  | .netLink dt up => Sys2Proof.Machine.execNetLink dt up s
  | .latch dt agent => Sys2Proof.Machine.execLatch dt agent s
  | .wallRate dt agent val => Sys2Proof.Machine.execWallRate dt agent val s
  | .wallAdj dt agent val => Sys2Proof.Machine.execWallAdj dt agent val s
  | .reelHoldover dt => Sys2Proof.Machine.execReelHoldover dt s
  | .ptpEventMessage dt rx msgType domain clockId portNum seq => Sys2Proof.Machine.execPtpEventMessage dt rx msgType domain clockId portNum seq s
  | .wallHoldover dt => Sys2Proof.Machine.execWallHoldover dt s
  | .ptpStampRead dt agent rx => Sys2Proof.Machine.execPtpStampRead dt agent rx s
  | .snapArm dt agent val => Sys2Proof.Machine.execSnapArm dt agent val s
  | .snapCommand dt id tick => Sys2Proof.Machine.execSnapCommand dt id tick s
  | .snapshot dt => Sys2Proof.Machine.execSnapshot dt s
  | .ridxWrite dt agent val => Sys2Proof.Machine.execRidxWrite dt agent val s
  | .lost dt => Sys2Proof.Machine.execLost dt s
  | .sensorSample dt dies tcp rails inPower inCurrent pCompute pIod => Sys2Proof.Machine.execSensorSample dt dies tcp rails inPower inCurrent pCompute pIod s
  | .sensorFail dt sensor => Sys2Proof.Machine.execSensorFail dt sensor s
  | .boostS dt agent val => Sys2Proof.Machine.execBoostS dt agent val s
  | .endBoost dt agent => Sys2Proof.Machine.execEndBoost dt agent s
  | .boostTimeout dt => Sys2Proof.Machine.execBoostTimeout dt s
  | .cooldownEnd dt => Sys2Proof.Machine.execCooldownEnd dt s
  | .clkReturn dt p => Sys2Proof.Machine.execClkReturn dt p s
  | .grpWarnClear dt g volt => Sys2Proof.Machine.execGrpWarnClear dt g volt s
  | .grpOvClear dt g volt => Sys2Proof.Machine.execGrpOvClear dt g volt s
  | .l2Return dt n => Sys2Proof.Machine.execL2Return dt n s
  | .crcFailure dt n bits => Sys2Proof.Machine.execCrcFailure dt n bits s
  | .prbsChecker dt n sync bits => Sys2Proof.Machine.execPrbsChecker dt n sync bits s
  | .hostDmaWrite dt off bytes => Sys2Proof.Machine.execHostDmaWrite dt off bytes s
  | .hostDmaRead dt off len => Sys2Proof.Machine.execHostDmaRead dt off len s
  | .arp dt targetIp senderMac senderIp => Sys2Proof.Machine.execArp dt targetIp senderMac senderIp s
  | .icmpEcho dt srcIp ident seq data => Sys2Proof.Machine.execIcmpEcho dt srcIp ident seq data s
  | .netStoreDone dt => Sys2Proof.Machine.execNetStoreDone dt s
  | .retentionLoss dt => Sys2Proof.Machine.execRetentionLoss dt s

end Sys2Proof.Machine
end

