-- ==== Sys2Proof/Safety.lean ====
section
/-!
DEFINITION. What a safe state and a safe step are, in the terms that statements use. The model has no fault and no refusal: a step
always answers a next state, and what can go wrong on the device is a state of it (R195, R257, R276, R415).
-/

namespace Sys2Proof.Machine

/-- The data memory is in its canonical form: rising addresses, no byte listed that reads as an unwritten one does. -/
def Memory.wf (mem : List Host.Cell) : Bool := spWf memDflt mem

/-- So are the flipped bits. -/
def Flips.wf (l : List (Nat × BitVec 72)) : Bool := spWf flipDflt l

/-- The invariant of the data side. -/
abbrev State.memWf (s : State) : Prop := Memory.wf s.mem = true ∧ Flips.wf s.flips = true

/-- The FAULT line's causes (R276) are clear and no cause holds the outputs safe (R278). -/
def State.sound (s : State) : Prop := s.m.get F.rstFault_SRC = 0 ∧ s.m.get F.fioSafe_CAUSE = 0

/-- When `dt` more ns have passed the machine is not held in reset (R398, R425). -/
abbrev State.live (s : State) (dt : Nat) : Prop := (s.pass dt).m.halted = false

/-- Command `i` completes on `s` in a state of which `P` holds. -/
def answers (i : Instr) (s : State) (P : State → Prop) : Prop := ∃ t, exec i s = .next t ∧ P t

/-- Command `i` lets its `dt` pass and does nothing else. -/
def idles (i : Instr) (s : State) : Prop := exec i s = .next (s.pass i.dt)

/-- The agent of a command that comes as an access to the control space, and the window accessed (R29, R33, R433). -/
def sender (i : Instr) : Option (Nat × Nat) :=
  match i with
  | .registerWrite _ agent off _ => some (agent, off / 0x100000)
  | .portStop _ agent _ _ => some (agent, 0)
  | .uartTx _ agent _ _ => some (agent, 0)
  | .uartRxRead _ agent _ => some (agent, 0)
  | .linStore _ agent _ _ _ _ => some (agent, 0)
  | .linSelect _ agent _ _ _ => some (agent, 0)
  | .ffStore _ agent _ _ _ _ => some (agent, 0)
  | .ffSelect _ agent _ _ => some (agent, 0)
  | .toneStore _ agent _ _ _ _ => some (agent, 1)
  | .toneSelect _ agent _ _ _ => some (agent, 1)
  | .commit _ agent _ _ => some (agent, 1)
  | .assistDone _ agent _ _ => some (agent, 1)
  | .pipelineStop _ agent _ => some (agent, 1)
  | .jobStop _ agent _ => some (agent, 11)
  | .jobClear _ agent _ => some (agent, 11)
  | .restartArm _ agent _ => some (agent, 11)
  | .synAdd _ agent _ => some (agent, 12)
  | .synObj _ agent _ _ => some (agent, 12)
  | .mbxSend _ agent _ _ => some (agent, 13)
  | .mbxTake _ agent _ => some (agent, 13)
  | .posStop _ agent _ => some (agent, 14)
  | .axisStop _ agent _ => some (agent, 15)
  | .outLevelWrite _ agent _ _ => some (agent, 16)
  | .rawWrite _ agent _ _ => some (agent, 16)
  | .bothonClear _ agent _ => some (agent, 16)
  | .ovlLatchClear _ agent _ => some (agent, 16)
  | .enter _ agent => some (agent, 16)
  | .release _ agent => some (agent, 16)
  | .countWrite _ agent _ _ => some (agent, 16)
  | .laneEnable _ agent _ _ => some (agent, 17)
  | .forceL2 _ agent _ _ => some (agent, 17)
  | .solo _ agent => some (agent, 18)
  | .join _ agent => some (agent, 18)
  | .recordEnable _ agent _ => some (agent, 25)
  | .freeze _ agent => some (agent, 25)
  | .exportGo _ agent _ => some (agent, 25)
  | .spgGo _ agent => some (agent, 19)
  | .spgStop _ agent => some (agent, 19)
  | .flipArm _ agent _ => some (agent, 19)
  | .rngRead _ agent => some (agent, 20)
  | .globalWarmReset _ agent _ => some (agent, 22)
  | .globalColdReset _ agent _ => some (agent, 22)
  | .computeReset _ agent _ => some (agent, 22)
  | .blockReset _ agent _ => some (agent, 22)
  | .calStore _ agent _ => some (agent, 28)
  | .wdogKick _ agent _ => some (agent, 23)
  | .force _ agent => some (agent, 23)
  | .dumpClear _ agent => some (agent, 23)
  | .netStore _ agent => some (agent, 23)
  | .latch _ agent => some (agent, 24)
  | .wallRate _ agent _ => some (agent, 24)
  | .wallAdj _ agent _ => some (agent, 24)
  | .ptpStampRead _ agent _ => some (agent, 24)
  | .snapArm _ agent _ => some (agent, 25)
  | .ridxWrite _ agent _ => some (agent, 25)
  | .boostS _ agent _ => some (agent, 27)
  | .endBoost _ agent => some (agent, 27)
  | _ => none

/-- Agent `a` is one that commands (R33), and its access to window `w` is let through once `dt` has passed (R433). -/
abbrev State.heeds (s : State) (dt a w : Nat) : Prop := isAgent a = true ∧ s.lets dt a w = true

/-- The registers whose write is a row of the table of its own. -/
def ownCommand : List Nat :=
  [R.grsCtl 0, R.grsUartTx 0, R.grsLinAcc 0, R.grsFfAcc 0, R.mshCtl 0, R.mshCxCommit 0 0, R.mshCxToneAcc 0 0, R.mshCxAssistDone 0 0,
   R.schJobCtl 0, R.schRestartCtl, R.synAdd, R.synObj 0, R.mbxSend 0, R.posCtl 0, R.cmpCtl 0, R.fioSafe, R.fioOutLo, R.fioOutHi,
   R.fioChCmd 0, R.fioChStat 0, R.fioIcCount 0, R.pnxCtl 0, R.tngCtl, R.memSpgCtl, R.memFlipCtl, R.rstCmd, R.mgtWdog, R.mgtNetCtl,
   R.mgtDump, R.mgtUpdCtl, R.mgtUpdData, R.kilnCtl, R.celCalCtl, R.timLatch, R.timWallRate, R.timWallAdj, R.trcRecCtl,
   R.trcExportCtl, R.trcTraceCtl, R.trcTraceRidx, R.trcSnapCtl]

/-- The registers whose configuration other registers of their window follow at once (R176, R228, R256, R266, R286, R450). -/
def leading : List Nat := [R.hopPool, R.hopPoolCfg, R.hopSpill, R.fioChCfg 0, R.fioIcCfg 0, R.cmpLate, R.timPtpMaster 0]

/-- `t` has the data memory, the flipped bits and the queue of `u`. -/
def sameData (u t : State) : Prop := t.mem = u.mem ∧ t.flips = u.flips ∧ t.pending = u.pending

/-- Every register but those of `os` keeps its word. -/
def keepsRegs (u t : Mach) (os : List Nat) : Prop := ∀ o, o ∉ os → t.rd o = u.rd o

/-- Every register outside the windows of `ws` (R29, a window being 0x100000 bytes) keeps its word. -/
def keepsWindows (u t : Mach) (ws : List Nat) : Prop := ∀ o, o / 0x100000 ∉ ws → t.rd o = u.rd o

/-- Events of unit (`blk`, `inst`) that found its queue full and have not been told (R35). -/
def Mach.evLost (m : Mach) (blk inst : Nat) : Nat := spGet (fun _ => (0 : Nat)) m.evDropped (unitKey blk inst)

/-- The event (`blk`, `loc`) of instance `inst` waits in its queue, or was dropped with the queue full (R35). -/
def raises (u t : Mach) (blk loc inst : Nat) (args : List (Nat × Int)) : Prop :=
  if u.evLevel blk inst < 64 then ∃ e ∈ t.evq, e.blk = blk ∧ e.loc = loc ∧ e.inst = inst ∧ e.args = packArgs args
  else u.evLost blk inst < t.evLost blk inst

/-- The status and count registers of the channels `qs`, and of those with a switch that is still to act (R267, R291). -/
def Mach.chRegs (u : Mach) (qs : List Nat) : List Nat :=
  (qs ++ u.swActs.map (·.ch)).flatMap fun q => [R.fioChStat q, R.fioChCnt q]

/-- The compare-sourced channel that valve `v` names has commanded level `b` (R252, R266); in REPLAY no edge reaches it (R353). -/
abbrev valveLevel (u t : Mach) (v : Nat) (b : Bool) : Prop :=
  let q := u.get (F.cmpValveCfg_OUTPUT v)
  u.replaying = false → u.gangHead q = q → u.get (F.fioChCfg_SRC q) = 1 → t.on (F.fioChStat_LEVEL q) = b

/-- Of the camera ports, only port `p` changes. -/
def otherPorts (u t : Mach) (p : Nat) : Prop :=
  (∀ q, q ≠ p → t.grsPort q = u.grsPort q) ∧ ∀ o < 0x100000, o / 0x10000 ≠ p → t.rd o = u.rd o

/-- GRS_UART_STAT shows how many bytes wait in each FIFO of port `p` (R68). -/
abbrev showsLevels (t : Mach) (p : Nat) : Prop :=
  t.get (F.grsUartStat_TX_LEVEL p) = (t.grsPort p).txq.length % 2 ^ (F.grsUartStat_TX_LEVEL p).w
  ∧ t.get (F.grsUartStat_RX_LEVEL p) = (t.grsPort p).rxq.length % 2 ^ (F.grsUartStat_RX_LEVEL p).w

/-- What a due trigger of port `p`, with `pos` for its tag, leads to (R54 to R58, R319, R353): too soon after the one before it only counts;
else TRG rises for WIDTH_NS and its tag enters the queue, in place of the oldest one when the queue is full. -/
abbrev triggered (u t : Mach) (p : Nat) (pos : Int) : Prop :=
  let g := u.grsPort p
  let h := t.grsPort p
  let gap : Int := max (u.get (F.grsTrgMin_MIN_NS p)) (u.trgWidth p + 8)
  let early : Bool := match g.lastTrig with | some l => decide (u.reel - l < gap) | none => false
  let full : Bool := decide (u.get (F.grsTrg_DEPTH p) < g.trigQ.length)
  keepsRegs u t [R.grsCntTrg p]
  ∧ (early = true → h.trigQ = g.trigQ ∧ h.trgUntil = g.trgUntil ∧ h.lastTrig = g.lastTrig
      ∧ t.get (F.grsCntTrg_TRG_OVERRUN p) = (if u.linesTold then u.get (F.grsCntTrg_TRG_OVERRUN p)
          else min (u.get (F.grsCntTrg_TRG_OVERRUN p) + 1) (2 ^ (F.grsCntTrg_TRG_OVERRUN p).w - 1)))
  ∧ (early = false → h.lastTrig = some u.reel
      ∧ h.trgUntil = (if u.linesTold then g.trgUntil else some (u.now + u.trgWidth p))
      ∧ h.trigQ = (if u.linesTold then g.trigQ
          else (if full then g.trigQ.tail else g.trigQ) ++ [(if u.tagAxis p then pos else 0, u.reel, u.tagAxis p)])
      ∧ t.get (F.grsCntTrg_LINE_MISSING p) = (if full && !u.linesTold then
          min (u.get (F.grsCntTrg_LINE_MISSING p) + 1) (2 ^ (F.grsCntTrg_LINE_MISSING p).w - 1) else u.get (F.grsCntTrg_LINE_MISSING p)))

/-- Field `f` of `t` is that of `u` plus one, unless it stands at its largest value. -/
abbrev counted (u t : Mach) (f : Fld) : Prop := t.get f = min (u.get f + 1) (2 ^ f.w - 1)

/-- The byte of data memory at `a`. -/
def State.byte (s : State) (a : Nat) : Byte := spGet memDflt s.mem a

/-- No Hopper entry in service has a step issued and not dealt with (R165), so that a change of a sync object brings no step to its end. -/
abbrev Mach.stepsDone (m : Mach) : Prop := ∀ y ∈ m.hop, y.2.live = true → m.hopNext y.1 ≤ y.2.done

/-- `t` differs from `u` in core `k` and in the counters of work (R452 to R455) alone. -/
def onlyCore (u t : State) (k : Nat) : Prop :=
  (∀ j, j ≠ k → t.m.core j = u.m.core j) ∧ t = { u with m := { u.m with cores := t.m.cores, prof := t.m.prof } }

/-- Core `k` goes on to its next instruction, and of its scalar registers only `d` changes, to `w`; s0 takes nothing (R146). -/
def writesScalar (c t : FCore) (d : Nat) (w : Word) : Prop :=
  t.pc = (c.pc + 4) % 2 ^ 64 ∧ t.v = c.v ∧ (d ≠ 0 → t.sreg d = w) ∧ ∀ r, r ≠ d → t.sreg r = c.sreg r

/-- The same of its vector registers. -/
def writesVector (c t : FCore) (d : Nat) (lane : Nat → BitVec 32) : Prop :=
  t.pc = (c.pc + 4) % 2 ^ 64 ∧ t.s = c.s ∧ (∀ i < 8, laneOf (t.vreg d) i = lane i) ∧ ∀ r, r ≠ d → t.vreg r = c.vreg r

/-- `len` bytes of data memory from `a` on, as a little-endian number (R11). -/
def State.num (s : State) (a len : Nat) : Nat := ofLe ((List.range len).map fun i => s.byte (a + i))

/-- An access of core `k` is aligned, not to a unit's data port, reaches memory (R371) and does not wait for the DRAM keys (R375). -/
abbrev Mach.coreReaches (m : Mach) (k : Nat) (write : Bool) (a len : Nat) : Prop :=
  a % len = 0 ∧ rangeRegion a len ≠ .port ∧ m.stalls a = false ∧ (m.reaches (m.coreAcc k) write a len).1 = true

/-- An access of core `k` that traps or waits (R152, R375): misaligned, or outside the data ports and refused, or held until the keys are there. -/
abbrev Mach.coreBarred (m : Mach) (k : Nat) (write : Bool) (a len : Nat) : Prop :=
  a % len ≠ 0 ∨ (rangeRegion a len ≠ .port ∧ (m.stalls a = true ∨ (m.reaches (m.coreAcc k) write a len).1 = false))

/-- `t` holds the low `len` bytes of `w` at `a` on, every other byte of `u`, and core `k` at its next instruction. -/
def coreStored (u t : State) (k a len w : Nat) : Prop :=
  (∀ i < len, t.byte (a + i) = BitVec.ofNat 8 (w / 2 ^ (8 * i))) ∧ (∀ x, ¬(a ≤ x ∧ x < a + len) → t.byte x = u.byte x)
  ∧ t.m.core k = (u.m.core k).next ∧ (∀ j, j ≠ k → t.m.core j = u.m.core j) ∧ t.pending = u.pending
  ∧ (u.m.on F.memFlipCtl_ARM = false → t.flips = u.flips ∧ t.m = { u.m with cores := t.m.cores, prof := t.m.prof })

/-- A store of core `k` of job `j` to the data port at `a` (R120, R202, R244): false where the writer stalls. -/
def Mach.corePort (m : Mach) (k j a : Nat) (b : List Byte) : Bool × Mach :=
  if (cmdPort a).isSome then m.cmdPush (m.coreAgent k) (some j) a b
  else if a < 0x1800B40000 then m.submit (m.coreAgent k) (some j) a (pageWords 64 b)
  else (true, m.verdictPage j (m.coreAgent k) a (pageWords 32 b))

/-- The data ports that take stores: engine queues, submission pages and verdict pages. -/
abbrev storePort (a : Nat) : Bool := (cmdPort a).isSome || (decide (0x1800B00000 ≤ a) && decide (a < 0x1800B80000))

/-- Queue `q` of an engine (R120): 0, 1 or 2. -/
abbrev Eng.queue (x : Eng) (q : Nat) : List Cmd := if q = 0 then x.q0 else if q = 1 then x.q1 else x.q2

/-- Words, job and writer of each command of a queue: all of it but what waiting and yielding leave in it (R155, R217). -/
def Cmd.keys (l : List Cmd) : List (List Word × Nat × Nat) := l.map fun c => (c.words, c.job, c.agent)

/-- The STAT registers (R157) of engine `e` and of every engine that has held a command. -/
def Mach.engRegs (u : Mach) (e : Nat) : List Nat := (e :: u.eng.map (·.1)).map fun g => (F.engStat_STATE (engBlk g) (engInst g)).off

/-- Of the machine, `t` differs from `u` in the engines and in registers alone. -/
def onlyEngines (u t : Mach) : Prop := t = { u with eng := t.eng, regs := t.regs }

/-- What cluster `cl` would steal (R205): the youngest tile that may move from its job's fullest other cluster, and that cluster. -/
def Mach.prey (u : Mach) (cl : Nat) : Option (Nat × Tile) := (u.clusterJob cl).bind fun i =>
  if u.jobClass i ≠ 0 && (u.clQueue cl).isEmpty && u.idleCores cl != [] && u.tilesRun i then
    (u.most ((u.jrt i).clusters.filter (· ≠ cl))).bind fun d =>
      ((u.clQueue d).reverse.find? fun t => !t.pin && decide (t.need ≤ (u.idleCores cl).length)).map (d, ·)
  else none

/-- The bytes `b` lie in data memory from `a` on. -/
def State.holds (t : State) (a : Nat) (b : List Byte) : Prop := ∀ i < b.length, t.byte (a + i) = b.getD i 0

/-- Every byte of data memory outside the ranges `rs`, each an address and a length, reads as before. -/
def keepsBytes (u t : State) (rs : List (Nat × Nat)) : Prop := ∀ x, (∀ r ∈ rs, ¬(r.1 ≤ x ∧ x < r.1 + r.2)) → t.byte x = u.byte x

/-- No ECC word has a flipped bit and none is about to get one (R368), so that reads give what was written. -/
abbrev State.unflipped (s : State) : Prop := s.flips = [] ∧ s.m.on F.memFlipCtl_ARM = false

/-- The page entry of page `vp` of entry `e` can be found, and written where there is one (R173, R175, R371). -/
def State.tableOpen (s : State) (e vp : Nat) : Bool :=
  match (s.fx.pageEntryAt (s.m.hopAcc e) e vp).1 with
  | .ok (some pa) => (s.m.reaches (s.m.hopAcc e) true pa 8).1
  | .ok none => true
  | .error _ => false

/-- Where that page entry lies, if the first level is valid. -/
def State.tableAt (s : State) (e vp : Nat) : Option Nat :=
  match (s.fx.pageEntryAt (s.m.hopAcc e) e vp).1 with
  | .ok r => r
  | .error _ => none

/-- The halo `b` of count `n` of a side of entry `e` is in its slot, nothing else of memory has changed, and its object is signalled by 1
(R183); said where its page is resident, memory takes it, the side is neither detached nor at the line's edge and the job owns the object. -/
def haloLands (s t : State) (e : Nat) (right : Bool) (n : Nat) (b : List Byte) : Prop :=
  let m := s.m
  let o := m.haloObj e right
  ∀ a, (s.fx.translate (m.hopAcc e) e (haloOff (n % m.layers e) right (n / m.layers e % m.winRows e) 0) true).1 = .at a →
    (m.reaches (m.hopAcc e) true a b.length).1 = true → s.unflipped → m.violated = [] → m.synOwns (m.hopJob e) o = true →
    ((m.hopEnt e).side right).detach = none → m.nbrType e right ≠ 0 →
    t.holds a b ∧ keepsBytes s t [(a, b.length)] ∧ t.m.get (F.synObj_VALUE o) = (m.get (F.synObj_VALUE o) + 1) % 2 ^ 32

/-- A side of entry `e` is detached at step `s`, layer `l`, and its registers show it, with the absolute step (R188, R190, R192, R351). -/
def detachedAt (u t : Mach) (e : Nat) (right : Bool) (s l : Nat) : Prop :=
  let step := if right then F.hopEntDetach_R_STEP e else F.hopEntDetach_L_STEP e
  let layer := if right then F.hopEntDetach_R_LAYER e else F.hopEntDetach_L_LAYER e
  ((t.hopEnt e).side right).detach = some (s, l) ∧ t.on (if right then F.hopEntStat_R_DETACHED e else F.hopEntStat_L_DETACHED e) = true
  ∧ t.get step = (s + u.stepBase (u.hopJob e)) % 2 ^ step.w ∧ t.get layer = l % 2 ^ layer.w

/-- A cell that fails on lane `n` (R294, R297, R298, R303): it counts, in STUFF_ERR too where the stuffing is violated; the run of good cells
ends; on an ACTIVE lane of an UP link a NAK asks for the lowest missing LSEQ; the eighth failure in a row loses the frame and the lock (R299), and an
ACTIVE lane then trains again (R301). -/
def cellFailed (u t : Mach) (n : Nat) (stuffed : Bool) : Prop :=
  let lost : Bool := decide (7 ≤ (u.lane n).failRun) && u.on (F.pnxStat_FRAMED n)
  counted u t (F.pnxCnt_CRC_ERR n) ∧ (stuffed = true → counted u t (F.pnxCnt_STUFF_ERR n))
  ∧ (stuffed = false → t.get (F.pnxCnt_STUFF_ERR n) = u.get (F.pnxCnt_STUFF_ERR n))
  ∧ (t.lane n).passRun = 0 ∧ (t.lane n).failRun = min 8 ((u.lane n).failRun + 1)
  ∧ (u.laneState n = 2 → u.linkUp (laneLink n) = true → (t.link (laneLink n)).nak = some (u.link (laneLink n)).expect)
  ∧ (lost = false → t.rd (R.pnxStat n) = u.rd (R.pnxStat n) ∧ keepsRegs u t [R.pnxCnt n])
  ∧ (lost = true → t.on (F.pnxStat_FRAMED n) = false ∧ t.on (F.pnxStat_LOCKED n) = false ∧ (t.lane n).own = 0
      ∧ t.laneState n = if u.laneState n = 2 then 1 else u.laneState n)

/-- A cell that passes on lane `n` (R298): the eighth in a row finds the frame. -/
def cellPassed (u t : Mach) (n : Nat) : Prop :=
  (t.lane n).failRun = 0 ∧ (t.lane n).passRun = min 8 ((u.lane n).passRun + 1)
  ∧ t.on (F.pnxStat_FRAMED n) = (u.on (F.pnxStat_FRAMED n) || decide (7 ≤ (u.lane n).passRun))

/-- Lane `n` has left its link for state `st` (R300, R301, R308): in L0, its training from the start. -/
def laneLeft (t : Mach) (n st : Nat) : Prop :=
  t.laneState n = st ∧ t.get (F.pnxStat_PWR n) = 0 ∧ (t.lane n).own = 0 ∧ (t.lane n).trains = 0 ∧ (t.lane n).wakeAt = none

/-- A follower does not leave its pair when lane `n` goes (R327): a fabric lane, no follower, or enough twin lanes beside it. -/
def Mach.staysPaired (u : Mach) (n : Nat) : Bool :=
  decide (12 ≤ n) || !u.follower || decide (clampN 1 12 (u.get F.tngCfg_TL_MIN) + 1 ≤ (u.activeLanes 0).length)

/-- Each command but PAIR_CELL that brings cell `c` on lane `n` (R294), after the type that its cell has to be of; 16 is that of a DATA cell whose channel or
LEN is no legal one (R295). -/
def cellCommands (dt n : Nat) (c : Cell) : List (Nat × Instr) :=
  [(0, .idleCell dt n c), (if c.ch < 6 ∧ 1 ≤ c.len ∧ c.len ≤ 64 then 1 else 16, .dataCell dt n c), (2, .tagCell dt n c true), (2, .tagCell dt n c false),
   (3, .syncCell dt n c), (4, .trainCell dt n c), (6, .nakCell dt n c)]

/-- Each command that brings an NCP operation (R430, R468) answers a state with `P`. -/
def ncpAnswers (s : State) (dt : Nat) (h : NcpHdr) (addr n first : Nat) (val : Word) (words : List Word) (P : State → Prop) : Prop :=
  answers (.ncpRead dt h addr) s P ∧ answers (.ncpWrite dt h addr val) s P ∧ answers (.ncpReadN dt h addr n) s P ∧ answers (.ncpStatus dt h) s P
    ∧ answers (.ncpLogRead dt h first n) s P ∧ answers (.updBegin dt h val) s P ∧ answers (.updData dt h addr words) s P ∧ answers (.updCommit dt h) s P
    ∧ answers (.updAbort dt h) s P

/-- A datagram's operation from an allowed source, well-formed, that is to run (R428 to R432): the first of a request not yet answered whose response fits, or
the next of one whose operations have gone well so far. -/
def Mach.ncpRuns (u : Mach) (h : NcpHdr) : Bool :=
  !u.ncpFiltered h.srcIp && !ncpBad h && (match u.ncpKept h with
    | some r => if h.index = 0 then decide (h.respLen ≤ 1472) && !(decide (r.ops.length = r.nops) && decide (u.now ≤ r.sent + 2000000000))
        else decide (r.ops.length = h.index) && decide (h.index < r.nops) && decide (r.status = 0)
    | none => decide (h.index = 0) && decide (h.respLen ≤ 1472))

/-- The operation's status and words join its response (R430, R431). -/
def ncpReplies (u t : Mach) (h : NcpHdr) (st : Nat) (ws : List Word) : Prop :=
  let before := if h.index = 0 then [] else match u.ncpKept h with | some r => r.ops | none => []
  ∃ r, t.ncpKept h = some r ∧ r.ops = before ++ [(st, ws)] ∧ r.status = st ∧ r.sent = t.now

/-- Message `x` goes to link `k` (R295, R303, R304): a link that is not UP carries nothing; behind a full replay buffer it waits, last; a short one with nothing
before it leaves as its DATA cell and the TAG cell of its segment. -/
def sendsOn (u t : Mach) (k : Nat) (x : OutMsg) : Prop :=
  let l := u.link k
  let out := (t.link k).replay.drop l.replay.length
  (u.linkUp k = false → t.links = u.links ∧ t.lanes = u.lanes)
  ∧ (u.linkUp k = true → 1024 ≤ l.replay.length → (t.link k).txq = l.txq ++ [⟨x, false, x.bytes⟩] ∧ (t.link k).replay = l.replay)
  ∧ (u.linkUp k = true → l.txq = [] → l.opened = [] → l.segTx + 2 < 2 ^ 48 → l.replay.length < 1023 → x.bytes ≠ [] → x.bytes.length ≤ 64 →
    (t.link k).txq = [] ∧ (t.link k).replay.take l.replay.length = l.replay ∧ (out.map fun y => (y.cell.lseq, y.cell.typ)) = [(l.next, 1), ((l.next + 1) % 65536, 2)]
    ∧ ∀ y ∈ out.take 1, y.cell.ch = x.ch % 8 ∧ y.cell.first = true ∧ y.cell.last = true ∧ y.cell.len = x.bytes.length)

/-- A step answers a next state. -/
def safeStep (s : State) : Prop := ∃ t, step s = .next t

end Sys2Proof.Machine
end

