-- ==== Sys2Proof/Certificates/Slice0/Obligations.lean ====
section
/-!
DEFINITION. The statements for the provers. `u` is always the machine as the passing of the command's `dt` leaves it. The rules that a
docstring begins with are those whose words the statement takes its parts from; it states a rule whole only where it says 'whole'.
-/

open Sys2Proof Sys2Proof.Machine

/-! ## Field I/O -/

/-- R266, R267, R271, R272: a write of FIO_OUT_LO or FIO_OUT_HI stores the word, and every register-sourced channel that is the first of its gang takes its bit as
its commanded level; a write of FIO_CH_CMD stores the RAW bits, and both bits in mode RAW set BOTHON; a write of 1 to BOTHON clears it unless both bits still stand.
R278 to R280: a write of FIO_SAFE.ENTER sets cause CMD, and the first cause enters the safe state, in which no high-side switch is on; a write of RELEASE clears CMD,
and the last cause leaves the safe state when FIO's configuration is valid, and raises CFG_INVALID when it is not. Only registers of the channels named change, and,
as the safe state is entered, those of FIO and of the compare units. -/
def Obligations.OutputCommandsAndSafeState : Prop :=
  (∀ (s : State) (dt agent : Nat) (val : Word), s.heeds dt agent 16 → s.live dt →
    let u := (s.pass dt).m
    answers (.outLevelWrite dt agent false val) s (fun t => t.m.rd R.fioOutLo = val
      ∧ (∀ q < 64, u.gangHead q = q → u.get (F.fioChCfg_SRC q) = 0 → t.m.on (F.fioChStat_LEVEL q) = val.getLsbD q)
      ∧ keepsRegs u t.m (R.fioOutLo :: u.chRegs (List.range 64)) ∧ sameData (s.pass dt) t)
    ∧ answers (.outLevelWrite dt agent true val) s (fun t => t.m.get F.fioOutHi_LEVEL = val.toNat % 2 ^ 32
      ∧ (∀ q < 32, u.gangHead (64 + q) = 64 + q → u.get (F.fioChCfg_SRC (64 + q)) = 0 → t.m.on (F.fioChStat_LEVEL (64 + q)) = val.getLsbD q)
      ∧ keepsRegs u t.m (R.fioOutHi :: u.chRegs ((List.range 32).map (64 + ·))) ∧ sameData (s.pass dt) t)
    ∧ ∀ q < 96, answers (.rawWrite dt agent q val) s (fun t =>
        t.m.on (F.fioChCmd_RAW_HS q) = val.getLsbD 0 ∧ t.m.on (F.fioChCmd_RAW_LS q) = val.getLsbD 1
        ∧ t.m.on (F.fioChStat_BOTHON q) = (u.on (F.fioChStat_BOTHON q)
            || (u.gangHead q = q && u.get (F.fioChCfg_MODE q) = 3 && val.getLsbD 0 && val.getLsbD 1))
        ∧ keepsRegs u t.m (R.fioChCmd q :: u.chRegs (q :: u.gangMembers q)) ∧ sameData (s.pass dt) t)
      ∧ (u.on (F.fioChStat_BOTHON q) = true → answers (.bothonClear dt agent q) s (fun t =>
          (t.m.on (F.fioChStat_BOTHON q) = true ↔
            u.get (F.fioChCfg_MODE q) = 3 ∧ u.on (F.fioChCmd_RAW_HS q) = true ∧ u.on (F.fioChCmd_RAW_LS q) = true)
          ∧ keepsRegs u t.m (u.chRegs (q :: u.gangMembers q)) ∧ sameData (s.pass dt) t))
      ∧ (u.on (F.fioChStat_BOTHON q) = false → idles (.bothonClear dt agent q) s))
  ∧ ∀ (s : State) (dt agent : Nat), s.heeds dt agent 16 → s.live dt →
    let u := (s.pass dt).m
    let c := u.get F.fioSafe_CAUSE
    (c = 0 → answers (.enter dt agent) s (fun t => t.m.get F.fioSafe_CAUSE = 2 ∧ t.m.on F.fioStat_SAFE = true
      ∧ (∀ q < 96, t.m.on (F.fioChStat_HS_ON q) = false) ∧ keepsWindows u t.m [15, 16] ∧ sameData (s.pass dt) t))
    ∧ (c ≠ 0 → answers (.enter dt agent) s (fun t => t.m.get F.fioSafe_CAUSE = c ||| 2 ∧ keepsRegs u t.m [R.fioSafe] ∧ sameData (s.pass dt) t))
    ∧ (c = 2 → u.fioInvalid = none → answers (.release dt agent) s (fun t => t.m.get F.fioSafe_CAUSE = 0 ∧ t.m.on F.fioStat_SAFE = false
      ∧ keepsRegs u t.m (R.fioSafe :: R.fioStat :: u.chRegs (List.range 96)) ∧ sameData (s.pass dt) t))
    ∧ (∀ o, c = 2 → u.fioInvalid = some o → answers (.release dt agent) s (fun t =>
      raises u t.m 0x11 0x1E 0 [(32, (o : Int) - R.fioStat)] ∧ keepsRegs u t.m [] ∧ sameData (s.pass dt) t))
    ∧ (c ≠ 2 → answers (.release dt agent) s (fun t =>
      t.m.get F.fioSafe_CAUSE = c - (if c.testBit 1 then 2 else 0) ∧ keepsRegs u t.m [R.fioSafe] ∧ sameData (s.pass dt) t))

/-- R271, R273, R276: an overload trips the gang's first channel: TRIPS counts it, the gang's switches go off, and TRIPPED sets, or OVL_LATCH at the fourth trip
within 1,000 ms; a channel tripped or latched does not trip again; 100 ms later TRIPPED clears; writing 1 to OVL_LATCH clears it.
R274, R275, R281: an open load of a channel whose gang is tested sets OPEN of the gang's first channel and counts it, and OPEN clears when no member is open any
more; overtemperature turns the gang off, sets OT and counts it, and OT clears when no member is hot any more; a coupler's timeout turns both switches off.
Nothing else changes but registers of those channels; without the condition that it ends or clears, a command only lets time pass. -/
def Obligations.OutputFaultsTripAndClear : Prop :=
  (∀ (s : State) (dt agent q : Nat), q < 96 → s.live dt →
    let u := (s.pass dt).m
    let h := u.gangHead q
    let recent := (u.fioChan h).trips.countP fun t => decide (u.now < t + 1000000000)
    let due : Bool := match (u.fioChan q).retryAt with | some at' => at' ≤ u.now | none => false
    (u.on (F.fioChStat_TRIPPED h) = false → u.on (F.fioChStat_OVL_LATCH h) = false →
      answers (.overload dt q) s (fun t => counted u t.m (F.fioChCnt_TRIPS h)
        ∧ (3 ≤ recent → t.m.on (F.fioChStat_OVL_LATCH h) = true ∧ t.m.on (F.fioChStat_TRIPPED h) = false)
        ∧ (recent < 3 → t.m.on (F.fioChStat_TRIPPED h) = true ∧ t.m.on (F.fioChStat_OVL_LATCH h) = false
            ∧ (t.m.fioChan h).retryAt = some (u.now + 100000000))
        ∧ (∀ g ∈ u.gangMembers h, t.m.on (F.fioChStat_HS_ON g) = false ∧ t.m.on (F.fioChStat_LS_ON g) = false
            ∧ t.m.on (F.fioChStat_FORCED g) = true)
        ∧ raises u t.m 0x11 0x11 0 [(7, (h : Int)), (32, (recent + 1 : Int))]
        ∧ keepsRegs u t.m (u.chRegs (h :: u.gangMembers h)) ∧ sameData (s.pass dt) t))
    ∧ (u.on (F.fioChStat_TRIPPED h) = true ∨ u.on (F.fioChStat_OVL_LATCH h) = true → idles (.overload dt q) s)
    ∧ (u.on (F.fioChStat_TRIPPED q) = true → due = true →
      answers (.overloadRetry dt q) s (fun t => t.m.on (F.fioChStat_TRIPPED q) = false ∧ (t.m.fioChan q).retryAt = none
        ∧ keepsRegs u t.m (u.chRegs (q :: u.gangMembers q)) ∧ sameData (s.pass dt) t))
    ∧ (u.on (F.fioChStat_TRIPPED q) = false ∨ due = false → idles (.overloadRetry dt q) s)
    ∧ (u.on (F.fioChStat_OVL_LATCH q) = true → s.heeds dt agent 16 →
      answers (.ovlLatchClear dt agent q) s (fun t => t.m.on (F.fioChStat_OVL_LATCH q) = false
        ∧ keepsRegs u t.m (u.chRegs (q :: u.gangMembers q)) ∧ sameData (s.pass dt) t))
    ∧ (u.on (F.fioChStat_OVL_LATCH q) = false → idles (.ovlLatchClear dt agent q) s))
  ∧ ∀ (s : State) (dt q : Nat), q < 96 → s.live dt →
    let u := (s.pass dt).m
    let h := u.gangHead q
    let others (f : FioCh → Bool) : Bool := (u.gangMembers h).any fun g => g != q && f (u.fioChan g)
    (u.owTests h = true → answers (.openOut dt q) s (fun t => t.m.on (F.fioChStat_OPEN h) = true ∧ (t.m.fioChan q).wireOpen = true
        ∧ (u.on (F.fioChStat_OPEN h) = false → counted u t.m (F.fioChCnt_OPENS h) ∧ raises u t.m 0x11 0x13 0 [(7, (h : Int))])
        ∧ (if u.on (F.fioChStat_OPEN h) then keepsRegs u t.m [] else keepsRegs u t.m [R.fioChStat h, R.fioChCnt h]) ∧ sameData (s.pass dt) t))
    ∧ (u.owTests h = false → idles (.openOut dt q) s ∧ idles (.openOutClear dt q) s)
    ∧ (u.owTests h = true → answers (.openOutClear dt q) s (fun t => (t.m.fioChan q).wireOpen = false
        ∧ t.m.on (F.fioChStat_OPEN h) = (u.on (F.fioChStat_OPEN h) && others (·.wireOpen))
        ∧ keepsRegs u t.m [R.fioChStat h] ∧ sameData (s.pass dt) t))
    ∧ answers (.overtemp dt q) s (fun t => t.m.on (F.fioChStat_OT h) = true ∧ (t.m.fioChan q).hot = true
        ∧ (u.on (F.fioChStat_OT h) = false → counted u t.m (F.fioChCnt_OTS h) ∧ raises u t.m 0x11 0x14 0 [(7, (h : Int))]
          ∧ ∀ g ∈ u.gangMembers h, t.m.on (F.fioChStat_HS_ON g) = false ∧ t.m.on (F.fioChStat_LS_ON g) = false ∧ t.m.on (F.fioChStat_FORCED g) = true)
        ∧ (if u.on (F.fioChStat_OT h) then keepsRegs u t.m [] else keepsRegs u t.m (u.chRegs (h :: u.gangMembers h))) ∧ sameData (s.pass dt) t)
    ∧ answers (.overtempClear dt q) s (fun t => (t.m.fioChan q).hot = false
        ∧ t.m.on (F.fioChStat_OT h) = (u.on (F.fioChStat_OT h) && others (·.hot))
        ∧ (if others (·.hot) then keepsRegs u t.m [] else keepsRegs u t.m (u.chRegs (h :: u.gangMembers h))) ∧ sameData (s.pass dt) t)
    ∧ answers (.couplerTimeout dt q) s (fun t => t.m.on (F.fioChStat_HS_ON q) = false ∧ t.m.on (F.fioChStat_LS_ON q) = false
        ∧ (t.m.fioChan q).coupOff = true ∧ keepsRegs u t.m [R.fioChStat q] ∧ sameData (s.pass dt) t)

/-- R276, R277: a group's supply below 19.2 V sets WARN and below 15.0 V LOW, with every channel of the group forced off; from 16.0 V on LOW clears, from 19.6 V on
WARN; above 31.0 V OV sets, at 30.5 V or less it clears; each setting is counted and raised. Nothing else changes but FIO_STAT and registers of the group and of its
channels; a report that meets no threshold, or finds its condition set or clear already, only lets time pass. Voltages are in 10 mV. -/
def Obligations.GroupSupplyThresholds : Prop :=
  ∀ (s : State) (dt g volt : Nat), g < 12 → s.live dt →
    let u := (s.pass dt).m
    let warn := u.on (F.fioGrpStat_WARN g)
    let low := u.on (F.fioGrpStat_LOW g)
    let overran := u.on (F.fioGrpStat_OV g)
    let args : List (Nat × Int) := [(32, (g : Int)), (16, (volt : Int))]
    (volt < 1920 → warn = false → answers (.grpWarn dt g volt) s (fun t => t.m.on (F.fioGrpStat_WARN g) = true
      ∧ counted u t.m (F.fioGrpCnt_WARNS g) ∧ raises u t.m 0x11 0x15 0 args
      ∧ keepsRegs u t.m [R.fioGrpStat g, R.fioGrpCnt g, R.fioStat] ∧ sameData (s.pass dt) t))
    ∧ (1920 ≤ volt ∨ warn = true → idles (.grpWarn dt g volt) s)
    ∧ (1960 ≤ volt → warn = true → answers (.grpWarnClear dt g volt) s (fun t => t.m.on (F.fioGrpStat_WARN g) = false
      ∧ keepsRegs u t.m [R.fioGrpStat g, R.fioStat] ∧ sameData (s.pass dt) t))
    ∧ (volt < 1960 ∨ warn = false → idles (.grpWarnClear dt g volt) s)
    ∧ (volt < 1500 → low = false → answers (.grpLow dt g volt) s (fun t => t.m.on (F.fioGrpStat_LOW g) = true
      ∧ counted u t.m (F.fioGrpCnt_LOWS g) ∧ raises u t.m 0x11 0x16 0 args
      ∧ (∀ q < 96, q / 8 = g → t.m.on (F.fioChStat_HS_ON q) = false ∧ t.m.on (F.fioChStat_LS_ON q) = false ∧ t.m.on (F.fioChStat_FORCED q) = true)
      ∧ keepsRegs u t.m (R.fioGrpStat g :: R.fioGrpCnt g :: R.fioStat :: u.chRegs (groupCh g)) ∧ sameData (s.pass dt) t))
    ∧ (1500 ≤ volt ∨ low = true → idles (.grpLow dt g volt) s)
    ∧ (1600 ≤ volt → low = true → answers (.grpOk dt g volt) s (fun t => t.m.on (F.fioGrpStat_LOW g) = false
      ∧ raises u t.m 0x11 0x17 0 [(32, (g : Int))]
      ∧ keepsRegs u t.m (R.fioGrpStat g :: R.fioStat :: u.chRegs (groupCh g)) ∧ sameData (s.pass dt) t))
    ∧ (volt < 1600 ∨ low = false → idles (.grpOk dt g volt) s)
    ∧ (3100 < volt → overran = false → answers (.grpOv dt g volt) s (fun t => t.m.on (F.fioGrpStat_OV g) = true
      ∧ counted u t.m (F.fioGrpCnt_OVS g) ∧ raises u t.m 0x11 0x18 0 args
      ∧ keepsRegs u t.m [R.fioGrpStat g, R.fioGrpCnt g] ∧ sameData (s.pass dt) t))
    ∧ (volt ≤ 3100 ∨ overran = true → idles (.grpOv dt g volt) s)
    ∧ (volt ≤ 3050 → overran = true → answers (.grpOvClear dt g volt) s (fun t => t.m.on (F.fioGrpStat_OV g) = false
      ∧ keepsRegs u t.m [R.fioGrpStat g] ∧ sameData (s.pass dt) t))
    ∧ (3050 < volt ∨ overran = false → idles (.grpOvClear dt g volt) s)

/-- R284, R285, R289: a class-W level held for DEB_US + 1 samples is accepted and counted; a draw below 0.5 mA for WB_MS sets OPEN, under which FIO_IN_W shows 0, one
of 0.7 mA or more for WB_MS clears it.
R286 to R288: a class-C level held for FILT_N samples is accepted; an edge of it that EDGE selects counts COUNT up or down by 1 and is stamped with the first of those
samples; a gate's end publishes the gate's edges and their frequency; a write sets the count. An input that comes from the lead or the record (REC = 1 on a follower
or in REPLAY) shows and counts nothing of these. A level or draw that is the present one, or has not lasted, only lets time pass. No register outside FIO's
and the recorder's windows changes. -/
def Obligations.FieldInputsFollowAndCount : Prop :=
  ∀ (s : State) (dt agent i : Nat) (val : Word), i < 32 → s.live dt →
    let u := (s.pass dt).m
    let toldW : Bool := u.on (F.fioIwCfg_REC i) && u.inputsTold
    let toldC : Bool := u.on (F.fioIcCfg_REC i) && u.inputsTold
    let gate := u.gateBound i
    (∀ (lvl : Bool) (samples : Nat),
      ((u.inW i).level ≠ lvl → u.get (F.fioIwCfg_DEB_US i) + 1 ≤ samples →
        answers (.inputChange dt i lvl samples) s (fun t => (t.m.inW i).level = lvl
          ∧ t.m.levelW i = (if toldW then u.levelW i else (lvl != u.on (F.fioIwCfg_INV i)) && !u.on (F.fioIwStat_OPEN i))
          ∧ t.m.get (F.fioIwStat_CHANGES i) = (u.get (F.fioIwStat_CHANGES i) + (if toldW then 0 else 1)) % 2 ^ (F.fioIwStat_CHANGES i).w
          ∧ keepsWindows u t.m [16, 25] ∧ sameData (s.pass dt) t))
      ∧ ((u.inW i).level = lvl ∨ samples < u.get (F.fioIwCfg_DEB_US i) + 1 → idles (.inputChange dt i lvl samples) s))
    ∧ (∀ draw ms,
      (u.on (F.fioIwCfg_WB_EN i) = true → draw < 5 → u.wbMs i ≤ ms → u.on (F.fioIwStat_OPEN i) = false →
        answers (.inOpen dt i draw ms) s (fun t => t.m.on (F.fioIwStat_OPEN i) = true ∧ (t.m.get F.fioInW_OPEN).testBit i = true
          ∧ counted u t.m (F.fioIwStat_BREAKS i) ∧ (toldW = false → t.m.levelW i = false) ∧ raises u t.m 0x11 0x1B 0 [(32, (i : Int))]
          ∧ keepsWindows u t.m [16, 25] ∧ sameData (s.pass dt) t))
      ∧ (u.on (F.fioIwCfg_WB_EN i) = false ∨ 5 ≤ draw ∨ ms < u.wbMs i ∨ u.on (F.fioIwStat_OPEN i) = true → idles (.inOpen dt i draw ms) s)
      ∧ (u.on (F.fioIwCfg_WB_EN i) = true → 7 ≤ draw → u.wbMs i ≤ ms → u.on (F.fioIwStat_OPEN i) = true →
        answers (.inWireOk dt i draw ms) s (fun t => t.m.on (F.fioIwStat_OPEN i) = false ∧ (t.m.get F.fioInW_OPEN).testBit i = false
          ∧ raises u t.m 0x11 0x1C 0 [(32, (i : Int))] ∧ keepsWindows u t.m [16, 25] ∧ sameData (s.pass dt) t))
      ∧ (u.on (F.fioIwCfg_WB_EN i) = false ∨ draw < 7 ∨ ms < u.wbMs i ∨ u.on (F.fioIwStat_OPEN i) = false → idles (.inWireOk dt i draw ms) s))
    ∧ (∀ (rise : Bool) (back : Nat),
      let counts : Bool := !toldC && edgeCounts (u.get (F.fioIcCfg_EDGE i)) (rise != u.on (F.fioIcCfg_INV i))
      ((u.inC i).level ≠ rise → u.filtered (u.get (F.fioIcCfg_FILT_N i)) back = true →
        answers (.countedEdge dt i rise back) s (fun t => (t.m.inC i).level = rise
          ∧ (t.m.get F.fioInC_LEVEL).testBit i = (rise != u.on (F.fioIcCfg_INV i))
          ∧ t.m.get (F.fioIcCount_COUNT i) = (if !counts then u.get (F.fioIcCount_COUNT i)
              else (if u.on (F.fioIcCfg_DOWN i) then u.get (F.fioIcCount_COUNT i) + (2 ^ 32 - 1) else u.get (F.fioIcCount_COUNT i) + 1) % 2 ^ 32)
          ∧ t.m.geti (F.fioIcEdge_REEL i) = (if counts then (u.edgeStamp back).bmod (2 ^ 64) else u.geti (F.fioIcEdge_REEL i))
          ∧ keepsRegs u t.m [R.fioInC, R.fioIcCount i, R.fioIcEdge i] ∧ sameData (s.pass dt) t))
      ∧ ((u.inC i).level = rise ∨ u.filtered (u.get (F.fioIcCfg_FILT_N i)) back = false → idles (.countedEdge dt i rise back) s))
    ∧ ((u.inC i).gateStart < gate → answers (.gateEnd dt i) s (fun t => (t.m.inC i).gateStart = gate
        ∧ (∀ x ∈ (t.m.inC i).gates, gate ≤ x.start)
        ∧ (toldC = false → ∀ g, (u.inC i).gates.find? (fun x => x.start = gate - u.gateLen i) = some g →
            t.m.get (F.fioIcFreq_EDGES i) = g.n % 2 ^ (F.fioIcFreq_EDGES i).w
            ∧ t.m.get (F.fioIcFreq_FREQ i) = gateFreq g.n g.first g.last % 2 ^ (F.fioIcFreq_FREQ i).w)
        ∧ (toldC = false → (u.inC i).gates.find? (fun x => x.start = gate - u.gateLen i) = none →
            t.m.get (F.fioIcFreq_EDGES i) = 0 ∧ t.m.get (F.fioIcFreq_FREQ i) = 0)
        ∧ (if toldC then keepsRegs u t.m [] else keepsWindows u t.m [16, 25]) ∧ sameData (s.pass dt) t))
    ∧ (gate ≤ (u.inC i).gateStart → idles (.gateEnd dt i) s)
    ∧ (s.heeds dt agent 16 → answers (.countWrite dt agent i val) s (fun t => t.m.get (F.fioIcCount_COUNT i) = val.toNat % 2 ^ 32
        ∧ keepsRegs u t.m [R.fioIcCount i] ∧ sameData (s.pass dt) t))

/-! ## Position, tracking and ejection -/

/-- R229 whole, R228, R230 to R237, R239, R257, R261: a level of A or B that has held for FILT_N samples is accepted; on a RUNNING quadrature axis a filtered edge of
one line moves the position by one count in the direction of the Gray sequence, and of both lines at once is a quad error that moves nothing; on a RUNNING tooth-wheel
axis a rising edge of A moves it by one count, a gap edge by MISSING + 1 and an extra tooth by none, each with the discrepancy added under RESYNC; other edges move
nothing. The first used Z edge homes; a later one checks, and corrects under RESYNC. STILL sets after STILL_US; a fault of a used line puts the axis in FAULT, in which
LINES goes on showing the lines faulted; a write of RUN = 0 stops it. What is not accepted or not due only lets time pass. No register changes but of POS,
of the compare unit and its accounts, and of the recorder. -/
def Obligations.EncoderAxisFollowsItsLines : Prop :=
  ∀ (s : State) (dt agent ax back : Nat), ax < 8 → s.live dt →
    let u := (s.pass dt).m
    let x := u.posAx ax
    let quad : Bool := u.posRuns ax && decide (u.get (F.posCfg_MODE ax) = 0)
    let steady : Bool := u.filtered (u.get (F.posCfg_FILT_N ax)) back
    let ws := [11, 14, 15, 25]
    (steady = true → quad = true → ∀ chgA : Bool,
      answers (.encoderEdge dt ax chgA (!chgA) back) s (fun t =>
        (t.m.posAx ax).a = (x.a != chgA) ∧ (t.m.posAx ax).b = (x.b != !chgA)
        ∧ (t.m.posAx ax).own.p = wrapI 48 (x.own.p
            + if ((grayPos (x.a != chgA) (x.b != !chgA) + 4 - grayPos x.a x.b) % 4 == 3) != u.on (F.posCfg_DIR_INV ax) then -1 else 1)
        ∧ (t.m.posAx ax).own.te = u.edgeStamp back ∧ keepsWindows u t.m ws ∧ sameData (s.pass dt) t))
    ∧ (steady = true → quad = true →
      answers (.encoderEdge dt ax true true back) s (fun t => t.m.on (F.posStat_ERR ax) = true ∧ counted u t.m (F.posCnt_QERR ax)
        ∧ (t.m.posAx ax).a = !x.a ∧ (t.m.posAx ax).b = !x.b
        ∧ (t.m.posAx ax).own.p = x.own.p ∧ keepsWindows u t.m ws ∧ sameData (s.pass dt) t))
    ∧ (∀ chgB, steady = true → u.posRuns ax = true → u.get (F.posCfg_MODE ax) ≠ 0 → x.a = false →
      let dir : Bool := u.on (F.posCfg_DIR_SRC ax) && (x.b != chgB)
      let per := if x.own.counted && dir != x.own.back then none else x.tooth.map (u.edgeStamp back - ·)
      let sum := x.periods.foldl (· + ·) 0
      let is (f : Int → Bool) : Bool := match per with | some p => x.periods.length = 8 && f p | none => false
      let gap := is fun p => !u.on (F.posTooth_REF_KIND ax) && decide (16 * p > 3 * sum)
      let extra := is fun p => u.on (F.posTooth_REF_KIND ax) && decide (40 * p < 3 * sum)
      let corr : Int := if u.on (F.posCfg_RESYNC ax) then (u.teethR ax : Int) - 1 - x.index else 0
      let mv : Int := if gap then u.get (F.posTooth_MISSING ax) + 1 + corr else if extra then corr else 1
      answers (.encoderEdge dt ax true chgB back) s (fun t => (t.m.posAx ax).a = true ∧ (t.m.posAx ax).b = (x.b != chgB)
        ∧ (t.m.posAx ax).own.p = wrapI 48 (x.own.p + if dir then -mv else mv) ∧ keepsWindows u t.m ws ∧ sameData (s.pass dt) t))
    ∧ (∀ chgA chgB : Bool, steady = true →
      (u.posRuns ax = false ∨ (u.get (F.posCfg_MODE ax) = 0 ∧ chgA = false ∧ chgB = false)
        ∨ (u.get (F.posCfg_MODE ax) ≠ 0 ∧ (chgA = false ∨ x.a = true))) →
      answers (.encoderEdge dt ax chgA chgB back) s (fun t => (t.m.posAx ax).a = (x.a != chgA) ∧ (t.m.posAx ax).b = (x.b != chgB)
        ∧ (t.m.posAx ax).own = x.own ∧ keepsRegs u t.m [] ∧ sameData (s.pass dt) t))
    ∧ (∀ chgA chgB : Bool, steady = false → idles (.encoderEdge dt ax chgA chgB back) s)
    ∧ (let zm := u.get (F.posCfg_Z_MODE ax)
      let ref := u.geti (F.posRef_REF_POS ax)
      let used : Bool := quad && steady && zm != 0 && !x.own.back && x.own.counted
      let c : Int := max 1 (u.get (F.posRev_COUNTS_PER_REV ax))
      let mark := ref + (2 * (x.own.p - ref) + c - 1).fdiv (2 * c) * c
      (used = true → zm ≠ 2 → x.homed = false →
        answers (.zEdge dt ax back) s (fun t => (t.m.posAx ax).own.p = ref ∧ (t.m.posAx ax).homed = true
          ∧ t.m.on (F.posStat_REVOK ax) = true ∧ keepsWindows u t.m ws ∧ sameData (s.pass dt) t))
      ∧ (used = true → (zm = 2 ∨ (zm ≠ 1 ∧ x.homed = true)) →
        answers (.zEdge dt ax back) s (fun t =>
          (t.m.posAx ax).own.p = (if u.on (F.posCfg_RESYNC ax) then wrapI 48 mark else x.own.p)
          ∧ t.m.on (F.posStat_REVOK ax) = true ∧ (mark ≠ x.own.p → counted u t.m (F.posCnt_RESYNCS ax))
          ∧ keepsWindows u t.m ws ∧ sameData (s.pass dt) t))
      ∧ (used = false ∨ (zm = 1 ∧ x.homed = true) → idles (.zEdge dt ax back) s))
    ∧ (∀ lines,
      let hit := lines &&& u.posUsed ax
      let fresh : Bool := u.posRuns ax && !u.on (F.posCfg_IN ax) && hit != 0
      let stands : Bool := decide (u.get (F.posStat_STATE ax) = 2) && u.get (F.posStat_LINES ax) != 0
      (fresh = true → answers (.lineFault dt ax lines) s (fun t => t.m.get (F.posStat_STATE ax) = 2 ∧ t.m.on (F.posStat_LFAULT ax) = true
        ∧ t.m.get (F.posStat_LINES ax) = hit ∧ (t.m.posAx ax).own.still = true ∧ (t.m.posAx ax).own.p = x.own.p
        ∧ (u.get (F.cmpCtl_STATE ax) = 1 → t.m.get (F.cmpCtl_STATE ax) = 2) ∧ keepsWindows u t.m ws ∧ sameData (s.pass dt) t))
      ∧ (fresh = false → stands = true → answers (.lineFault dt ax lines) s (fun t => t.m.get (F.posStat_LINES ax) = hit
        ∧ keepsRegs u t.m [R.posStat ax] ∧ sameData (s.pass dt) t))
      ∧ (fresh = false → stands = false → idles (.lineFault dt ax lines) s))
    ∧ (let due : Bool := u.posRuns ax && !x.own.still && decide (x.own.te + (max 1 (u.get (F.posCfg_STILL_US ax)) : Int) * 1000 ≤ u.reel)
      (due = true → answers (.still dt ax) s (fun t => (t.m.posAx ax).own.still = true ∧ t.m.on (F.posSpeed_STILL ax) = true
        ∧ (t.m.posAx ax).own.p = x.own.p ∧ raises u t.m 0x0F 0x15 ax [(3, (ax : Int))] ∧ keepsWindows u t.m ws ∧ sameData (s.pass dt) t))
      ∧ (due = false → idles (.still dt ax) s))
    ∧ (s.heeds dt agent 14 → answers (.posStop dt agent ax) s (fun t => t.m.on (F.posCtl_RUN ax) = false ∧ t.m.get (F.posStat_STATE ax) = 0
        ∧ t.m.get (F.posStat_LINES ax) = 0 ∧ keepsRegs u t.m [R.posCtl ax, R.posStat ax] ∧ sameData (s.pass dt) t))

/-- R244 to R248, R250, R254, R258: a delivered record of an open slot closes the slot and makes one entry for each valve that fires for it, with the targets of the
slot's object (shown for a record that one valve fires for, on an axis that stands still); a record of no open slot counts as STALE; one for an axis that is not
RUNNING or a port that is not enabled is dropped; at its close point a slot without a record closes late with cause 0x2; a write of CMP_CTL.RUN = 0 stops
an axis and, when it ran, closes its slots and sends every entry left its OFF edge. What is not there, waits for the tracer or is not due only lets time pass. -/
def Obligations.VerdictsCloseSlots : Prop :=
  ∀ (s : State) (dt agent ax : Nat), ax < 8 → s.live dt →
    let u := (s.pass dt).m
    let ws := [11, 15, 25]
    (∀ x, u.verdQ.find? (fun y => y.1 = ax) = some x → u.traceStalls 0x061 = false →
      let takes : Bool := decide (u.get (F.cmpCtl_STATE ax) = 1) && u.on (F.cmpPort_EN x.2.port)
      (∀ sl, takes = true → (u.cmpAx ax).slots.find? (fun y => y.tag = x.2.tag) = some sl →
        answers (.verdictRecord dt ax) s (fun t => t.m.verdQ = u.verdQ.erase x ∧ (∀ y ∈ (t.m.cmpAx ax).slots, y.tag ≠ x.2.tag)
          ∧ ((∀ v < 96, u.valveFires v x.2 = false) → (t.m.cmpAx ax).entries = (u.cmpAx ax).entries ∧ keepsRegs u t.m [R.cmpStat ax])
          ∧ (∀ v < 96, (∀ w < 96, u.valveFires w x.2 = decide (w = v)) → (u.trk ax).still = true → (u.cmpAx ax).entries.length < 4096 →
              ∃ e, t.m.entry ax (freeIndex (u.cmpAx ax).entries 4096 0) = some e ∧ e.tag = sl.tag ∧ e.valve = v ∧ e.value = x.2.value
                ∧ e.tOn = none ∧ e.xOn = wrapI 56 (u.targets v sl.first sl.last).1 ∧ e.xOff = wrapI 56 (u.targets v sl.first sl.last).2)
          ∧ keepsWindows u t.m ws ∧ sameData (s.pass dt) t))
      ∧ (takes = true → (u.cmpAx ax).slots.find? (fun y => y.tag = x.2.tag) = none →
        answers (.verdictRecord dt ax) s (fun t => t.m.verdQ = u.verdQ.erase x ∧ counted u t.m (F.cmpCnt_STALE ax)
          ∧ raises u t.m 0x10 0x11 ax [(32, (x.2.tag : Int)), (3, (ax : Int))]
          ∧ (t.m.cmpAx ax).slots = (u.cmpAx ax).slots ∧ keepsRegs u t.m [(F.cmpCnt_STALE ax).off] ∧ sameData (s.pass dt) t))
      ∧ (takes = false → answers (.verdictRecord dt ax) s (fun t => t.m.verdQ = u.verdQ.erase x ∧ t.m.cmpAx ax = u.cmpAx ax
          ∧ keepsRegs u t.m [] ∧ sameData (s.pass dt) t)))
    ∧ (u.verdQ.find? (fun y => y.1 = ax) = none ∨ u.traceStalls 0x061 = true → idles (.verdictRecord dt ax) s)
    ∧ (∀ slot sl at', slot < 4096 → (u.cmpAx ax).slots.find? (fun y => y.idx = slot) = some sl → u.closePoint ax sl = some at' →
      (at' ≤ u.reel → answers (.slotClosePoint dt ax slot) s (fun t => (∀ y ∈ (t.m.cmpAx ax).slots, y.tag ≠ sl.tag)
        ∧ ((u.cmpAx ax).lateTags.any (·.1 = sl.tag) = false → t.m.get F.cmpLateTag_TAG = sl.tag % 2 ^ 32 ∧ t.m.get F.cmpLateTag_CAUSE = 2)
        ∧ keepsWindows u t.m ws ∧ sameData (s.pass dt) t))
      ∧ (u.reel < at' → idles (.slotClosePoint dt ax slot) s))
    ∧ (∀ slot, slot < 4096 → ((u.cmpAx ax).slots.find? (fun y => y.idx = slot)).bind (u.closePoint ax) = none → idles (.slotClosePoint dt ax slot) s)
    ∧ (s.heeds dt agent 15 → answers (.axisStop dt agent ax) s (fun t => t.m.on (F.cmpCtl_RUN ax) = false ∧ t.m.get (F.cmpCtl_STATE ax) = 0
        ∧ (u.get (F.cmpCtl_STATE ax) = 1 → (t.m.cmpAx ax).slots = []
            ∧ (∀ e ∈ (t.m.cmpAx ax).entries, e.2.offHanded = true ∧ e.2.offDone = false) ∧ keepsWindows u t.m ws)
        ∧ (u.get (F.cmpCtl_STATE ax) ≠ 1 → t.m.cmpAx ax = u.cmpAx ax ∧ keepsRegs u t.m [R.cmpCtl ax]) ∧ sameData (s.pass dt) t))

/-- R252 to R256, R322: an ON edge at most 4,000 ns ahead that no horizon holds is handed off, at its instant or, when that is less than 50 ns ahead, 50 ns ahead; one
whose last feasible fire point has passed by then, or on a lead while the horizon holds it, is late: it is reported and discarded, or placed at once under
LATE_POL; one farther off, or held by the horizon, is left. The OFF edge of a handed-off entry is handed off in the same way. A handed-off edge fires at its instant,
which starts or ends the valve's pulse and switches its compare-sourced output; MAX_ON_US ends a pulse; at the end of its stretch LATE shows what still drives
it. An edge that is not there, is done, or is not due, and a pulse that has not lasted, only let time pass. -/
def Obligations.EdgesAreHandedOffAndFire : Prop :=
  ∀ (s : State) (dt ax index : Nat), ax < 8 → index < 4096 → s.live dt →
    let u := (s.pass dt).m
    let ws := [11, 15, 25]
    (∀ c ∈ [Instr.edgeHandoff dt ax index false, Instr.lastFeasibleFirePoint dt ax index],
      (∀ e at' l, u.entry ax index = some e → e.tOn = some at' → e.lff = some l → e.onHanded = false →
        let held := u.horizonHolds at'
        let near : Bool := decide (at' < u.reel + 50)
        let due : Bool := decide (at' ≤ u.reel + 4000)
        let late : Bool := decide (l < u.reel) && (if held then u.tngIs 2 else near && !e.lateFire)
        let cause := if held || e.held then 7 else 1
        (due = false → answers c s (fun t => t.m.entry ax index = some { e with held := false } ∧ keepsRegs u t.m [] ∧ sameData (s.pass dt) t))
        ∧ (due = true → held = true → late = false → answers c s (fun t =>
          t.m.entry ax index = some { e with held := true } ∧ keepsRegs u t.m [] ∧ sameData (s.pass dt) t))
        ∧ (due = true → held = false → late = false → e.onDone = false → answers c s (fun t =>
          (∃ e', t.m.entry ax index = some e' ∧ e'.onHanded = true ∧ e'.tOn = some (if near then u.reel + 50 else at'))
          ∧ keepsRegs u t.m [(F.cmpCnt2_MERGED ax).off, R.cmpStat ax] ∧ sameData (s.pass dt) t))
        ∧ (due = true → late = true → e.onDone = false → answers c s (fun t =>
          ((u.cmpAx ax).lateTags.any (·.1 = e.tag) = false → t.m.get F.cmpLateTag_TAG = e.tag % 2 ^ 32 ∧ t.m.get F.cmpLateTag_CAUSE = cause)
          ∧ (u.firesLate (u.lateCause ax e.tag cause) e.job = true →
              ∃ e', t.m.entry ax index = some e' ∧ e'.onHanded = true ∧ e'.tOn = some (u.reel + 50))
          ∧ (u.firesLate (u.lateCause ax e.tag cause) e.job = false → (u.cmpAx ax).cancelled = [] → t.m.entry ax index = none)
          ∧ keepsWindows u t.m ws ∧ sameData (s.pass dt) t)))
      ∧ ((∀ e, u.entry ax index = some e → e.onHanded = true ∨ e.tOn = none ∨ e.lff = none) → idles c s))
    ∧ (∀ e at', u.entry ax index = some e → e.tOff = some at' → e.onHanded = true → e.offHanded = false → e.offDone = false → at' ≤ u.reel + 4000 →
      answers (.edgeHandoff dt ax index true) s (fun t =>
        ((u.cmpAx ax).entries.countP (fun y => y.2.valve = e.valve) = 1 →
          ∃ e', t.m.entry ax index = some e' ∧ e'.offHanded = true ∧ e'.tOff = some (max at' (u.reel + 50)))
        ∧ keepsRegs u t.m [(F.cmpCnt2_MERGED ax).off, R.cmpStat ax] ∧ sameData (s.pass dt) t))
    ∧ ((∀ e, u.entry ax index = some e → e.onHanded = false ∨ e.offHanded = true ∨ e.offDone = true ∨ (∀ at', e.tOff = some at' → u.reel + 4000 < at')) →
      idles (.edgeHandoff dt ax index true) s)
    ∧ (∀ e at', u.entry ax index = some e → e.tOn = some at' → e.onHanded = true → e.onDone = false → at' ≤ u.reel →
      answers (.edgeFire dt ax index false) s (fun t => (t.m.pulse e.valve).isSome = true ∧ valveLevel u t.m e.valve true
        ∧ t.m.get (F.cmpCnt2_FIRED ax) = (u.get (F.cmpCnt2_FIRED ax) + 1) % 2 ^ (F.cmpCnt2_FIRED ax).w
        ∧ keepsWindows u t.m [15, 16] ∧ sameData (s.pass dt) t))
    ∧ ((∀ e, u.entry ax index = some e → e.onHanded = false ∨ e.onDone = true ∨ (∀ at', e.tOn = some at' → u.reel < at')) →
      idles (.edgeFire dt ax index false) s)
    ∧ (∀ e at', u.entry ax index = some e → e.tOff = some at' → e.offHanded = true → e.onDone = true → e.offDone = false → at' ≤ u.reel →
      answers (.edgeFire dt ax index true) s (fun t => t.m.pulse e.valve = none ∧ valveLevel u t.m e.valve false
        ∧ keepsWindows u t.m [15, 16] ∧ sameData (s.pass dt) t))
    ∧ ((∀ e, u.entry ax index = some e → e.offHanded = false ∨ e.onDone = false ∨ e.offDone = true ∨ (∀ at', e.tOff = some at' → u.reel < at')) →
      idles (.edgeFire dt ax index true) s)
    ∧ (∀ v < 96,
      let ends (p : Pulse) : Int := p.since + max 1 (u.get (F.cmpValveLim_MAX_ON_US v)) * 1000
      (∀ p, u.pulse v = some p → ends p ≤ u.reel → answers (.maxOnClamp dt v) s (fun t => t.m.pulse v = none ∧ valveLevel u t.m v false
        ∧ counted u t.m (F.cmpCnt2_CLAMPED p.axis) ∧ (p.axis < 8 → keepsWindows u t.m [15, 16]) ∧ sameData (s.pass dt) t))
      ∧ ((∀ p, u.pulse v = some p → u.reel < ends p) → idles (.maxOnClamp dt v) s))
    ∧ answers (.lateHoldEnd dt) s (fun t =>
      t.m.on F.cmpLate_PIN = (u.faultActive || (if u.on F.cmpLate_MODE then u.on F.cmpLate_LATCH else decide (u.now < u.lateUntil)))
      ∧ keepsRegs u t.m [R.cmpLate] ∧ sameData (s.pass dt) t)

/-! ## Camera ports -/

/-- R39, R40, R66, R67: in TRAINING every pair's delay goes to the middle of its eye, and 1,024 correct idle periods in turn make the port LOCKED; in LOCKED, 16 wrong ones
in turn make it train again; a loss of the clock puts a port whose clock has been seen in LOSS (one that is stopping, in STOPPED), and the clock's return lets it train;
a write of RUN = 0 stops the port at once when no set is in progress, at the end of the line or set in progress when one is, and 100 µs later when the set has not
ended by then. In any other state of the port the same commands change nothing of it; no command changes another port. -/
def Obligations.PortStatesFollowTheClock : Prop :=
  ∀ (s : State) (dt agent p : Nat), p < 16 → s.live dt →
    let u := (s.pass dt).m
    let g := u.grsPort p
    let st := u.get (F.grsStatus_STATE p)
    (∀ idle eye, st = 1 → answers (.portLocked dt p idle eye) s (fun t =>
        t.m.get (F.grsStatus_STATE p) = (if (idleCount true 1024 g.idleRun idle).2 then 2 else 1)
        ∧ (t.m.grsPort p).seenClk = true ∧ (t.m.grsPort p).delays = setDelays 80 g.delays eye
        ∧ ((idleCount true 1024 g.idleRun idle).2 = true → raises u t.m 0x01 0x10 p [portArg p])
        ∧ ((idleCount true 1024 g.idleRun idle).2 = false → (t.m.grsPort p).idleRun = (idleCount true 1024 g.idleRun idle).1)
        ∧ keepsRegs u t.m [R.grsStatus p] ∧ otherPorts u t.m p ∧ sameData (s.pass dt) t))
    ∧ (∀ idle eye, st ≠ 1 → idles (.portLocked dt p idle eye) s)
    ∧ (∀ idle eye, st = 2 → answers (.portRetrain dt p idle eye) s (fun t =>
        t.m.get (F.grsStatus_STATE p) = (if (idleCount false 16 g.idleRun idle).2 then 1 else 2)
        ∧ ((idleCount false 16 g.idleRun idle).2 = true →
            raises u t.m 0x01 0x11 p [portArg p, (32, ((g.idleErrs + idle.foldl (fun a r => if r.2 then a else a + r.1) 0 : Nat) : Int))])
        ∧ (t.m.grsPort p).delays = setDelays ((g.idleAdj + idle.foldl (fun a r => a + r.1) 0) / 256) g.delays eye
        ∧ keepsRegs u t.m [R.grsStatus p] ∧ otherPorts u t.m p ∧ sameData (s.pass dt) t))
    ∧ (∀ idle eye, st ≠ 2 → idles (.portRetrain dt p idle eye) s)
    ∧ answers (.clkReturn dt p) s (fun t => t.m.get (F.grsStatus_STATE p) = (if st = 3 then 1 else st) ∧ (t.m.grsPort p).seenClk = true
        ∧ (if st = 3 then keepsRegs u t.m [R.grsStatus p] else keepsRegs u t.m []) ∧ otherPorts u t.m p ∧ sameData (s.pass dt) t)
    ∧ (∀ part, (st = 1 ∨ st = 2) → g.seenClk = true → answers (.clkLoss dt p part) s (fun t =>
        t.m.get (F.grsStatus_STATE p) = (if g.stopping.isSome && !u.linesTold then 0 else 3)
        ∧ t.m.now = u.now + (match part with | some l => l.tEnd | none => 0) ∧ otherPorts u t.m p ∧ t.pending = s.pending))
    ∧ (∀ part, (st = 0 ∨ st = 3 ∨ g.seenClk = false) → answers (.clkLoss dt p part) s (fun t =>
        t.m.grsPort p = g ∧ t.m.get (F.grsStatus_STATE p) = st ∧ otherPorts u t.m p ∧ t.pending = s.pending))
    ∧ (s.heeds dt agent 0 →
      (st ≠ 0 → g.stopping = none → g.cur = none → answers (.portStop dt agent p none) s (fun t =>
        t.m.get (F.grsStatus_STATE p) = 0 ∧ t.m.on (F.grsCtl_RUN p) = false ∧ (t.m.grsPort p).trigQ = [] ∧ otherPorts u t.m p ∧ t.pending = s.pending))
      ∧ (st ≠ 0 → g.stopping = none → g.cur.isSome = true → answers (.portStop dt agent p none) s (fun t =>
        (t.m.grsPort p).stopping = some u.now ∧ t.m.on (F.grsCtl_RUN p) = false ∧ t.m.get (F.grsStatus_STATE p) = st ∧ otherPorts u t.m p ∧ t.pending = s.pending))
      ∧ (st = 0 ∨ g.stopping.isSome = true → answers (.portStop dt agent p none) s (fun t =>
        t.m.grsPort p = g ∧ t.m.on (F.grsCtl_RUN p) = false ∧ t.m.get (F.grsStatus_STATE p) = st ∧ otherPorts u t.m p ∧ t.pending = s.pending))
      ∧ (∀ (l : LineIn) (k : Nat), answers (.portStop dt agent p (some (l, k))) s (fun t =>
        t.m.on (F.grsCtl_RUN p) = false ∧ t.m.now = u.now + l.tEnd
        ∧ (t.m.get (F.grsStatus_STATE p) = 0 ∨ (t.m.grsPort p).stopping.isSome = true)
        ∧ (st = 2 → u.linesTold = false → (g.ghost && l.bvRise) = false → g.cur = none → u.get (F.grsFmt_NEXP p) = 0 →
            t.m.get (F.grsStatus_STATE p) = 0
            ∧ t.m.get (F.grsCntLines_LINES p) = (u.get (F.grsCntLines_LINES p) + 1) % 2 ^ (F.grsCntLines_LINES p).w)
        ∧ otherPorts u t.m p ∧ t.pending = s.pending)))
    ∧ (∀ at', g.stopping = some at' → at' + 100000 ≤ u.now → answers (.stopExposureTimeout dt p) s (fun t =>
        t.m.get (F.grsStatus_STATE p) = 0 ∧ (t.m.grsPort p).stopping = none ∧ (t.m.grsPort p).cur = none ∧ otherPorts u t.m p ∧ t.pending = s.pending))
    ∧ ((∀ at', g.stopping = some at' → u.now < at' + 100000) → answers (.stopExposureTimeout dt p) s (fun t =>
        t.m.grsPort p = g ∧ t.m.get (F.grsStatus_STATE p) = st ∧ otherPorts u t.m p ∧ t.pending = s.pending))

/-- R40, R43, R45, R319, R326, R353: a line takes its own time; one of a LOCKED port is an exposure of the set in progress, and with the set's last exposure a line is
counted in LINES; one of a port that is not LOCKED counts in LINES_UNLOCKED; a follower's or replaying port's own line and one of a block that is not to exist count in
neither. R61: the oldest concealed line leaves when its 100 µs are over, and not before.
R52 to R57: a divider trigger that the axis has reached, or a timer trigger that is due, moves its target on; one that comes too soon after the one before is counted
and does nothing else, any other raises TRG for WIDTH_NS and queues its tag, in place of the oldest when the queue is full, which is counted; on a follower or in REPLAY
it raises, queues and counts nothing; one that is not due only lets time pass. -/
def Obligations.LinesAndTriggers : Prop :=
  ∀ (s : State) (dt p : Nat), p < 16 → s.live dt →
    let u := (s.pass dt).m
    let g := u.grsPort p
    let ax := u.get (F.grsTrg_AXIS p)
    (∀ l : LineIn,
      let st := u.get (F.grsStatus_STATE p)
      let mine : Bool := decide (st = 2) && !u.linesTold && !(g.ghost && l.bvRise)
      let k := match g.cur with | some c => c.2.length | none => 0
      (mine = true → answers (.line dt p l) s (fun t => t.m.now = u.now + l.tEnd
        ∧ (u.get (F.grsFmt_NEXP p) < k + 1 → (t.m.grsPort p).cur = none
            ∧ t.m.get (F.grsCntLines_LINES p) = (u.get (F.grsCntLines_LINES p) + 1) % 2 ^ (F.grsCntLines_LINES p).w)
        ∧ (k + 1 ≤ u.get (F.grsFmt_NEXP p) → ((t.m.grsPort p).cur.map (·.2.length)) = some (k + 1)
            ∧ t.m.get (F.grsCntLines_LINES p) = u.get (F.grsCntLines_LINES p))
        ∧ otherPorts u t.m p ∧ t.pending = s.pending))
      ∧ (mine = false → answers (.line dt p l) s (fun t => t.m.now = u.now + l.tEnd
        ∧ t.m.get (F.grsCntLines_LINES p) = u.get (F.grsCntLines_LINES p) ∧ (t.m.grsPort p).cur = g.cur
        ∧ t.m.get (F.grsCntErr_LINES_UNLOCKED p) = (if st ≠ 2 ∧ u.linesTold = false then
            min (u.get (F.grsCntErr_LINES_UNLOCKED p) + 1) (2 ^ (F.grsCntErr_LINES_UNLOCKED p).w - 1) else u.get (F.grsCntErr_LINES_UNLOCKED p))
        ∧ otherPorts u t.m p ∧ t.pending = s.pending)))
    ∧ (∀ l rest, g.waiting = l :: rest → l.since + 100000 ≤ u.now →
      answers (.concealTimeout dt p) s (fun t => (t.m.grsPort p).waiting.length < g.waiting.length ∧ otherPorts u t.m p ∧ sameData (s.pass dt) t))
    ∧ ((∀ l rest, g.waiting = l :: rest → u.now < l.since + 100000) → idles (.concealTimeout dt p) s)
    ∧ (let due : Bool := decide (u.get (F.grsStatus_STATE p) ≠ 0) && decide (u.get (F.grsTrg_SRC p) = 1) && u.posRuns ax
          && !(u.trk ax).still && !(u.trk ax).back && decide (0 ≤ wrapI 64 (u.interp ax - g.target))
      (due = true → answers (.triggerFire dt p) s (fun t =>
        (t.m.grsPort p).target = wrapI 64 (g.target + max 1 (u.get (F.grsTrgPeriod_PERIOD p))) ∧ triggered u t.m p (round256 g.target)
        ∧ otherPorts u t.m p ∧ sameData (s.pass dt) t))
      ∧ (due = false → idles (.triggerFire dt p) s))
    ∧ (let due : Bool := decide (u.get (F.grsStatus_STATE p) ≠ 0) && decide (u.get (F.grsTrg_SRC p) = 2) && decide (g.timerDue ≤ u.reel)
      (due = true → answers (.timerTrigger dt p) s (fun t =>
        (t.m.grsPort p).timerDue = g.timerDue + max 100 (u.get (F.grsTrgPeriod_TIMER_NS p)) ∧ triggered u t.m p (round256 (u.interp ax))
        ∧ otherPorts u t.m p ∧ sameData (s.pass dt) t))
      ∧ (due = false → idles (.timerTrigger dt p) s))
    ∧ (∀ at', g.trgUntil = some at' → at' ≤ u.now → answers (.trgPulseEnd dt p) s (fun t =>
        (t.m.grsPort p).trgUntil = none ∧ keepsRegs u t.m [] ∧ otherPorts u t.m p ∧ sameData (s.pass dt) t))
    ∧ ((∀ at', g.trgUntil = some at' → u.now < at') → idles (.trgPulseEnd dt p) s)

/-- R68, R319: the UART FIFOs hold 256 bytes each; a byte written or received beyond them is discarded and counted; sending and reading remove the oldest byte; the levels
show how many bytes wait; a follower discards what is written.
R74: the linearisation and flat-field tables take a stored entry while their port is STOPPED and not held by a restart check, and otherwise keep the old one and raise
CFG_LOCKED; a store or a selection in any state shows the entry in the access register. No other register changes. -/
def Obligations.UartFifosAndPortTables : Prop :=
  (∀ (s : State) (dt agent p : Nat) (val : Word) (b : Byte) (ferr : Bool), p < 16 → s.live dt →
    let u := (s.pass dt).m
    let g := u.grsPort p
    (u.follower = false → g.txq.length < 256 → s.heeds dt agent 0 → answers (.uartTx dt agent p val) s (fun t =>
      (t.m.grsPort p).txq = g.txq ++ [val.setWidth 8] ∧ (t.m.grsPort p).rxq = g.rxq ∧ showsLevels t.m p
      ∧ keepsRegs u t.m [R.grsUartStat p] ∧ otherPorts u t.m p ∧ sameData (s.pass dt) t))
    ∧ (u.follower = false → 256 ≤ g.txq.length → s.heeds dt agent 0 → answers (.uartTx dt agent p val) s (fun t => t.m.grsPort p = g
      ∧ counted u t.m (F.grsUartStat_TX_OVF p) ∧ keepsRegs u t.m [R.grsUartStat p] ∧ otherPorts u t.m p ∧ sameData (s.pass dt) t))
    ∧ (u.follower = true → idles (.uartTx dt agent p val) s)
    ∧ answers (.uartTxByte dt p) s (fun t => (t.m.grsPort p).txq = g.txq.tail ∧ (t.m.grsPort p).rxq = g.rxq ∧ showsLevels t.m p
      ∧ keepsRegs u t.m [R.grsUartStat p] ∧ otherPorts u t.m p ∧ sameData (s.pass dt) t)
    ∧ (g.rxq.length < 256 → answers (.uartRxByte dt p b ferr) s (fun t => (t.m.grsPort p).rxq = g.rxq ++ [(b, ferr)] ∧ (t.m.grsPort p).txq = g.txq
      ∧ showsLevels t.m p ∧ keepsRegs u t.m [R.grsUartStat p] ∧ otherPorts u t.m p ∧ sameData (s.pass dt) t))
    ∧ (256 ≤ g.rxq.length → answers (.uartRxByte dt p b ferr) s (fun t => t.m.grsPort p = g ∧ counted u t.m (F.grsUartStat_RX_OVF p)
      ∧ (u.runs.any (·.is 0x01 0x1B p 1) = false → raises u t.m 0x01 0x1B p [portArg p])
      ∧ keepsRegs u t.m [R.grsUartStat p] ∧ otherPorts u t.m p ∧ sameData (s.pass dt) t))
    ∧ (s.heeds dt agent 0 → answers (.uartRxRead dt agent p) s (fun t => (t.m.grsPort p).rxq = g.rxq.tail ∧ (t.m.grsPort p).txq = g.txq ∧ showsLevels t.m p
      ∧ keepsRegs u t.m [R.grsUartStat p] ∧ otherPorts u t.m p ∧ sameData (s.pass dt) t)))
  ∧ ∀ (s : State) (dt agent p index : Nat), p < 16 → s.heeds dt agent 0 → s.live dt →
    let u := (s.pass dt).m
    let g := u.grsPort p
    let takes : Bool := decide (u.get (F.grsStatus_STATE p) = 0) && !u.unitFrozen 1 (· = p)
    (∀ e data, e < 4 → index < 4096 → data < 65536 →
      answers (.linStore dt agent p e index data) s (fun t =>
        (∀ k, spGet linReset (t.m.grsPort p).lin k = if takes ∧ k = e * 4096 + index then data else spGet linReset g.lin k)
        ∧ t.m.get (F.grsLinAcc_EXP p) = e ∧ t.m.get (F.grsLinAcc_INDEX p) = index
        ∧ t.m.get (F.grsLinAcc_DATA p) = (if takes then data else spGet linReset g.lin (e * 4096 + index) % 2 ^ 16)
        ∧ (takes = false → raises u t.m 0x01 0x02 p [])
        ∧ keepsRegs u t.m [R.grsLinAcc p] ∧ otherPorts u t.m p ∧ sameData (s.pass dt) t))
    ∧ (∀ e, e < 4 → index < 4096 → answers (.linSelect dt agent p e index) s (fun t =>
        t.m.get (F.grsLinAcc_DATA p) = spGet linReset g.lin (e * 4096 + index) % 2 ^ 16 ∧ t.m.get (F.grsLinAcc_EXP p) = e
        ∧ t.m.get (F.grsLinAcc_INDEX p) = index ∧ t.m.grsPort p = g
        ∧ keepsRegs u t.m [R.grsLinAcc p] ∧ otherPorts u t.m p ∧ sameData (s.pass dt) t))
    ∧ (∀ gain offset, index < 32768 → gain < 65536 → offset < 65536 →
      answers (.ffStore dt agent p index gain offset) s (fun t =>
        (∀ k, spGet ffReset (t.m.grsPort p).ff k = if takes ∧ k = index then gain * 65536 + offset else spGet ffReset g.ff k)
        ∧ t.m.get (F.grsFfAcc_INDEX p) = index
        ∧ (takes = true → t.m.get (F.grsFfAcc_GAIN p) = gain ∧ t.m.get (F.grsFfAcc_OFFSET p) = offset)
        ∧ (takes = false → t.m.get (F.grsFfAcc_OFFSET p) = spGet ffReset g.ff index % 2 ^ 16
            ∧ t.m.get (F.grsFfAcc_GAIN p) = spGet ffReset g.ff index / 2 ^ 16 % 2 ^ 16 ∧ raises u t.m 0x01 0x02 p [])
        ∧ keepsRegs u t.m [R.grsFfAcc p] ∧ otherPorts u t.m p ∧ sameData (s.pass dt) t))
    ∧ (index < 32768 → answers (.ffSelect dt agent p index) s (fun t =>
        t.m.get (F.grsFfAcc_OFFSET p) = spGet ffReset g.ff index % 2 ^ 16 ∧ t.m.get (F.grsFfAcc_GAIN p) = spGet ffReset g.ff index / 2 ^ 16 % 2 ^ 16
        ∧ t.m.get (F.grsFfAcc_INDEX p) = index ∧ t.m.grsPort p = g
        ∧ keepsRegs u t.m [R.grsFfAcc p] ∧ otherPorts u t.m p ∧ sameData (s.pass dt) t))

/-! ## Image pipelines and contexts -/

/-- R83, whole: the tone curve of a channel interpolates between its 481 knots: below 64 in steps of 2, and from 2^k on, k = 6 to 19, in 32
steps of 2^(k - 5); each channel has its own knots; at reset K[n] is the start of segment n divided by 16, and K[480] is 0xFFFF. -/
def Obligations.ToneCurveInterpolates : Prop :=
  (∀ (x : CxSet) (ch v b s start : Nat), v < 2 ^ 20 →
    ((v < 64 ∧ b = 1 ∧ s = v / 2 ∧ start = 2 * s) ∨ (∃ k, 6 ≤ k ∧ k ≤ 19 ∧ 2 ^ k ≤ v ∧ v < 2 ^ (k + 1) ∧ b = k - 5
      ∧ s = 32 + 32 * (k - 6) + v / 2 ^ b % 32 ∧ start = v / 2 ^ b * 2 ^ b)) →
    s + 1 ≤ 480 ∧ start ≤ v ∧ v < start + 2 ^ b
      ∧ (tone x ch v : Int) = x.knot ch s + (((x.knot ch (s + 1) : Int) - x.knot ch s) * ((v : Int) - start) + 2 ^ (b - 1)).fdiv (2 ^ b))
  ∧ (∀ (x y : CxSet) (ch v : Nat), v < 2 ^ 20 → (∀ n ≤ 480, x.knot ch n = y.knot ch n) → tone x ch v = tone y ch v)
  ∧ ∀ ch < 4, State.reset.m.cxs = [] ∧ (∀ n < 32, CxSet.knot {} ch n = 2 * n / 16)
    ∧ (∀ k j, 6 ≤ k → k ≤ 19 → j < 32 → CxSet.knot {} ch (32 + 32 * (k - 6) + j) = (32 + j) * 2 ^ (k - 5) / 16)
    ∧ CxSet.knot {} ch 480 = 0xFFFF

/-- R89, R108: a tone knot of the shadow is stored, unless a commit is pending, which leaves the shadow as it is, counts the write and raises SHADOW_BUSY, or the
index is above 480; in every case MSH_CX_TONE_ACC then shows the selection and its knot (log entry 129: 0 above index 480, the model's choice).
R91 whole, R88, R90, R92: a commit of a context whose port is STOPPED is taken at once: the shadow becomes the active set under the next SEQ, and TOOK.BLOCK reads 1,
or is rejected with ERR; while the port runs it stays pending; edge C is noted once; a write without GO, or while one is pending, does nothing. No register outside
the contexts' window and the recorder's changes. -/
def Obligations.ToneKnotsAndCommits : Prop :=
  (∀ (s : State) (dt agent c ch index knot : Nat), c < 64 → ch < 4 → index < 512 → knot < 65536 → s.heeds dt agent 1 → s.live dt →
    let u := (s.pass dt).m
    let n := ch * 512 + index
    let acc := R.mshCxToneAcc (c % 16) (c / 16)
    let busy := cxf F.mshCxCnt_BUSY_WRITES c
    let pend := u.on (cxf F.mshCxTook_PENDING c)
    answers (.toneStore dt agent c ch index knot) s (fun t =>
      (∀ k, spGet toneReset (t.m.cx c).tone k = if pend = false ∧ index ≤ 480 ∧ k = n then knot else spGet toneReset (u.cx c).tone k)
      ∧ t.m.get (cxf F.mshCxToneAcc_CH c) = ch ∧ t.m.get (cxf F.mshCxToneAcc_INDEX c) = index
      ∧ (index ≤ 480 → t.m.get (cxf F.mshCxToneAcc_KNOT c) = if pend then spGet toneReset (u.cx c).tone n % 2 ^ 16 else knot)
      ∧ (480 < index → t.m.get (cxf F.mshCxToneAcc_KNOT c) = 0)
      ∧ (pend = true → counted u t.m busy ∧ raises u t.m 0x02 0x12 (c % 16) [(5, (c : Int)), (32, (acc - 0x100000 : Int))])
      ∧ keepsRegs u t.m ([acc] ++ if pend then [busy.off] else []) ∧ sameData (s.pass dt) t)
    ∧ answers (.toneSelect dt agent c ch index) s (fun t =>
      t.m.get (cxf F.mshCxToneAcc_KNOT c) = (if index ≤ 480 then spGet toneReset (u.cx c).tone n % 2 ^ 16 else 0)
      ∧ t.m.get (cxf F.mshCxToneAcc_CH c) = ch ∧ t.m.get (cxf F.mshCxToneAcc_INDEX c) = index
      ∧ t.m.cxs = u.cxs ∧ keepsRegs u t.m [acc] ∧ sameData (s.pass dt) t))
  ∧ ∀ (s : State) (dt agent c : Nat) (val : Word), c < 64 → s.live dt →
    let u := (s.pass dt).m
    let port := match u.cxBinding c with | some (_, p) => p | none => 0
    let seq := (u.get (cxf F.mshCxTook_SEQ c) + 1) % 2 ^ 16
    let bad := shadowBad (u.shadow c seq) (u.nch c port) (u.get (F.grsFmt_WIDTH port))
    let idle := u.cxBinding c = none ∨ u.get (F.grsStatus_STATE port) = 0
    let pend := u.on (cxf F.mshCxTook_PENDING c)
    let acts : Bool := val.getLsbD 0 && !pend && decide (c < 32)
    (s.heeds dt agent 1 →
      (acts = true → idle → bad = none → answers (.commit dt agent c val) s (fun t =>
        (t.m.cx c).active = u.shadow c seq ∧ t.m.get (cxf F.mshCxTook_SEQ c) = seq ∧ t.m.on (cxf F.mshCxTook_PENDING c) = false
        ∧ (u.cxBinding c ≠ none → t.m.get (cxf F.mshCxTook_BLOCK c) = 1) ∧ t.m.on (cxf F.mshCxTook_ERR c) = false
        ∧ raises u t.m 0x02 0x10 (u.cxInst c) [(5, (c : Int)), (32, 1)] ∧ keepsWindows u t.m [1, 25] ∧ sameData (s.pass dt) t))
      ∧ (∀ o, acts = true → idle → bad = some o → answers (.commit dt agent c val) s (fun t =>
        (t.m.cx c).active = (u.cx c).active ∧ t.m.get (cxf F.mshCxTook_SEQ c) = u.get (cxf F.mshCxTook_SEQ c)
        ∧ t.m.on (cxf F.mshCxTook_PENDING c) = false ∧ t.m.on (cxf F.mshCxTook_ERR c) = true
        ∧ raises u t.m 0x02 0x11 (u.cxInst c) [(5, (c : Int)), (32, (cxBase c + o - 0x100000 : Int))]
        ∧ keepsRegs u t.m [(cxf F.mshCxTook_PENDING c).off] ∧ sameData (s.pass dt) t))
      ∧ (acts = true → ¬idle → answers (.commit dt agent c val) s (fun t =>
        t.m.on (cxf F.mshCxTook_PENDING c) = true ∧ t.m.cxs = u.cxs ∧ keepsRegs u t.m [(cxf F.mshCxTook_PENDING c).off]
        ∧ sameData (s.pass dt) t))
      ∧ (acts = false → idles (.commit dt agent c val) s))
    ∧ (c < 32 → pend = true → (u.cx c).edgeC = none → answers (.commitComplete dt c) s (fun t =>
      (t.m.cx c).edgeC = some u.reel ∧ (t.m.cx c).active = (u.cx c).active ∧ keepsRegs u t.m [] ∧ sameData (s.pass dt) t))
    ∧ (32 ≤ c ∨ pend = false ∨ (u.cx c).edgeC.isSome = true → idles (.commitComplete dt c) s)

/-- R78 to R83, R85, R86, R108: a pipeline that is not STOPPED takes the oldest line of its buffer; a received line's stage-7 output is what stages 4 to 7 of its
set make of its samples, a replacement repeats the previous output, and either counts in LINES; an end-of-block marker counts nothing; a STOPPING pipeline is
STOPPED after it and discards what is left in the buffer; the write of RUN = 0 stops an idle pipeline at once and lets another end its line; a STOPPED one takes nothing.
R104, R106: the oldest queued slot of a HOST-path block leaves the ingest queue: with the host link up it is written to the host and counted in HOST_WIDX, with the
link down or asleep it is counted as dropped; a write of ASSIST_DONE returns the oldest handed block and its lines count for the stream's signals. With no such slot or
block nothing of the contexts changes. -/
def Obligations.PipelinesProcessHandAndStop : Prop :=
  (∀ (s : State) (dt agent pl : Nat), pl < 16 → s.live dt →
    let u := (s.pass dt).m
    let st := u.get (F.mshCtl_STATE pl)
    let after := if st = 2 then 0 else st
    (∀ l rest, (u.pipe pl).buf = l :: rest → l.ctx < 64 → st ≠ 0 →
      answers (.pipelineLine dt pl) s (fun t => (t.m.pipe pl).buf = (if st = 2 then [] else rest) ∧ t.m.get (F.mshCtl_STATE pl) = after
        ∧ t.m.get (F.mshCnt_LINES pl) = (u.get (F.mshCnt_LINES pl) + if l.kind = .marker then 0 else 1) % 2 ^ (F.mshCnt_LINES pl).w
        ∧ (t.m.cx l.ctx).prev = (if l.kind = .line then
            (stages (u.get (cxf F.mshCxCfg_PATTERN l.ctx)) (u.get (cxf F.mshCxCfg_CFA_PHASE l.ctx)) l.set l.chans).1
          else (u.cx l.ctx).prev)
        ∧ (st = 2 → t.m.get (F.mshCnt_DISCARDED pl) = min (u.get (F.mshCnt_DISCARDED pl) + rest.countP (·.kind = .line)) (2 ^ (F.mshCnt_DISCARDED pl).w - 1))
        ∧ (u.assistStream l.ctx = none → sameData (s.pass dt) t) ∧ t.pending = s.pending))
    ∧ ((u.pipe pl).buf = [] → st ≠ 0 → answers (.pipelineLine dt pl) s (fun t => (t.m.pipe pl).buf = []
        ∧ t.m.get (F.mshCtl_STATE pl) = after ∧ t.m.get (F.mshCnt_LINES pl) = u.get (F.mshCnt_LINES pl) ∧ sameData (s.pass dt) t))
    ∧ (st = 0 → idles (.pipelineLine dt pl) s)
    ∧ (s.heeds dt agent 1 → answers (.pipelineStop dt agent pl) s (fun t => t.m.on (F.mshCtl_RUN pl) = false
        ∧ t.m.get (F.mshCtl_STATE pl) = (if st = 1 then (if (u.pipe pl).buf = [] then 0 else 2) else st) ∧ (t.m.pipe pl).buf = (u.pipe pl).buf
        ∧ keepsRegs u t.m [(F.mshCtl_RUN pl).off] ∧ sameData (s.pass dt) t)))
  ∧ ∀ (s : State) (dt agent c : Nat) (val : Word), c < 64 → s.live dt →
    let u := (s.pass dt).m
    let up : Bool := u.on F.mgtPcieStat_UP && !u.mgt.d3
    (∀ a rest, (u.cx c).queue = a :: rest → a.host = true →
      let nch := u.nch c a.tag.port
      let width := u.get (F.grsFmt_WIDTH a.tag.port)
      let slot := u.get (cxf F.mshCxAssistStat_HOST_WIDX c) % max 1 (u.get (cxf F.mshCxAssist_QLINES c))
      answers (.assistSlotCopy dt c) s (fun t => (t.m.cx c).queue = rest
        ∧ t.m.get (cxf F.mshCxAssistStat_LEVEL c) = rest.length % 2 ^ (cxf F.mshCxAssistStat_LEVEL c).w
        ∧ (up = true → t.m.get (cxf F.mshCxAssistStat_HOST_WIDX c)
            = (u.get (cxf F.mshCxAssistStat_HOST_WIDX c) + 1) % 2 ^ (cxf F.mshCxAssistStat_HOST_WIDX c).w
          ∧ t.m.pcieOut = some (u.get (cxf F.mshCxHostBase_HOST_BASE c) + slot * slotBytes nch width, slotData nch width a.tag a.chans))
        ∧ (up = false → counted u t.m (cxf F.mshCxCnt_ASSIST_DROPPED c) ∧ (t.m.cx c).handed = (u.cx c).handed ∧ t.m.pcieOut = u.pcieOut)
        ∧ keepsWindows u t.m [1] ∧ sameData (s.pass dt) t))
    ∧ ((∀ a rest, (u.cx c).queue = a :: rest → a.host = false) → idles (.assistSlotCopy dt c) s)
    ∧ (s.heeds dt agent 1 →
      (∀ h rest k, (u.cx c).handed = h :: rest → u.assistStream c = some k →
        let sl := (u.cx c).active.st F.strmCfg_SYNC_LINES k
        answers (.assistDone dt agent c val) s (fun t => (t.m.cx c).handed = rest
          ∧ ((t.m.cx c).stream k).sinceSync
            = (if sl = 0 then 0 else (((u.cx c).stream k).sinceSync + (val.extractLsb' 0 16).toNat) % sl)
          ∧ t.pending = s.pending ∧ (u.stepsDone → sameData (s.pass dt) t)))
      ∧ ((u.cx c).handed = [] ∨ u.assistStream c = none → answers (.assistDone dt agent c val) s (fun t =>
        t.m.cxs = u.cxs ∧ t.pending = s.pending ∧ (u.stepsDone → t = s.pass dt))))

/-- R97 to R100: the oldest output line leaves the pipeline: its data and tag become visible at their addresses and nowhere else, K counts it and SLOT goes on in the
ring it was counted in; one that stands for a signal alone writes nothing; one that meets a bus error sets its stream's FAULT and raises BUS_ERROR, and the stream's
other lines are dropped. The oldest statistics record is stored in its place of the record ring and STATS_WIDX counts it, or it is dropped with BUS_ERROR.
With nothing to write, nothing is written. -/
def Obligations.StreamLinesAndRecordsReachMemory : Prop :=
  ∀ (s : State) (dt : Nat), s.live dt →
    let u := (s.pass dt).m
    let plain : Prop := (s.pass dt).flips = [] ∧ u.on F.memFlipCtl_ARM = false ∧ u.stepsDone
    (∀ pl o rest, pl < 16 → (u.pipe pl).out = o :: rest → o.ctx < 64 → o.strm < 4 →
      let acc : Acc := { agent := 0x50 + o.tag.port % 16, job := some (u.cxOwner o.ctx) }
      let k := stf F.strmStat_K o.ctx o.strm
      let slot := stf F.strmStat_SLOT o.ctx o.strm
      let data := (u.reaches acc true o.addr o.data.length).1
      let tag := (u.reaches acc true o.tagAddr 32).1
      (o.nslots ≠ 0 → data = true → tag = true → answers (.streamLineWritten dt pl) s (fun t =>
          (plain → (∀ i < 32, t.byte (o.tagAddr + i) = o.tag.bytes.getD i 0)
            ∧ (∀ i < o.data.length, ¬(o.tagAddr ≤ o.addr + i ∧ o.addr + i < o.tagAddr + 32) → t.byte (o.addr + i) = o.data.getD i 0)
            ∧ (∀ a, ¬(o.tagAddr ≤ a ∧ a < o.tagAddr + 32) → ¬(o.addr ≤ a ∧ a < o.addr + o.data.length) → t.byte a = (s.pass dt).byte a))
          ∧ t.m.get k = (u.get k + 1) % 2 ^ k.w
          ∧ t.m.get slot = (if o.ring = (u.cx o.ctx).active.ring o.strm then (o.slot + 1) % o.nslots % 2 ^ slot.w else u.get slot)
          ∧ (t.m.pipe pl).out = rest ∧ t.pending = s.pending))
      ∧ (o.nslots ≠ 0 → (data && tag) = false → answers (.streamLineWritten dt pl) s (fun t =>
          t.m.on (stf F.strmStat_FAULT o.ctx o.strm) = true ∧ (t.m.cx o.ctx).faulted = true ∧ raises u t.m 0x02 0x04 (u.cxInst o.ctx) []
          ∧ (data = false → u.stepsDone → sameData (s.pass dt) t) ∧ t.m.get k = u.get k ∧ t.pending = s.pending))
      ∧ (o.nslots = 0 → answers (.streamLineWritten dt pl) s (fun t => (t.m.pipe pl).out = rest ∧ t.m.get k = u.get k
          ∧ (u.stepsDone → sameData (s.pass dt) t) ∧ t.pending = s.pending)))
    ∧ (∀ pl, pl < 16 → (u.pipe pl).out = [] → answers (.streamLineWritten dt pl) s (fun t =>
        t.m.pipes = u.pipes ∧ t.pending = s.pending ∧ (u.stepsDone → t = s.pass dt)))
    ∧ (∀ c bytes base nrec rest, c < 64 → (u.cx c).statQ = (bytes, base, nrec) :: rest →
      let count := cxf F.mshCxCnt_STATS_WIDX c
      let a := base + u.get count % nrec * 0x8440
      let reach := (u.reaches { agent := 0x50 + (match u.cxBinding c with | some (_, p) => p | none => 0), job := some (u.cxOwner c) } true a bytes.length).1
      (reach = true → answers (.statsRecordWritten dt c) s (fun t =>
          ((s.pass dt).flips = [] → u.on F.memFlipCtl_ARM = false → (∀ i < bytes.length, t.byte (a + i) = bytes.getD i 0)
            ∧ (∀ k, ¬(a ≤ k ∧ k < a + bytes.length) → t.byte k = (s.pass dt).byte k))
          ∧ t.m.get count = (u.get count + 1) % 2 ^ count.w ∧ (t.m.cx c).statQ = rest ∧ t.pending = s.pending))
      ∧ (reach = false → answers (.statsRecordWritten dt c) s (fun t => (t.m.cx c).statQ = rest ∧ t.m.get count = u.get count
          ∧ raises u t.m 0x02 0x04 (u.cxInst c) [] ∧ sameData (s.pass dt) t)))
    ∧ (∀ c, c < 64 → (u.cx c).statQ = [] → idles (.statsRecordWritten dt c) s)

/-! ## Engines -/

/-- R112 whole, R113: with integer operands the accumulator is the exact sum of the products modulo 2^32, read as signed.
R109, R110: every FP32 and every BF16 code but a NaN is the code of its own value: subnormals, both zeros and infinities are kept. -/
def Obligations.EngineArithmetic : Prop :=
  (∀ (z : Int) (ps : List (Int × Int)),
    accum true (FVal.ofInt z) (ps.map fun p => (FVal.ofInt p.1).mul (FVal.ofInt p.2))
      = FVal.ofInt (Int.bmod (z + (ps.map fun p => p.1 * p.2).sum) (2 ^ 32)))
  ∧ (∀ w < 2 ^ 32, fp32.ofBits w ≠ .nan → fp32.bits (fp32.ofBits w) = w)
  ∧ ∀ w < 2 ^ 16, bf16.ofBits w ≠ .nan → bf16.bits (bf16.ofBits w) = w

/-- R120, R121: a write of 64 bytes at an aligned address of a queue page, by the management controller, SCH or a floor core, enters the command at the end of its
queue, stamped with its job and writer; with the queue full (or R218's limit reached) it waits, and no time but `dt` passes; a write of another size, alignment or
writer raises CMD_REJECTED and enters nothing. Commands of FAULTED, STOPPING or STOPPED jobs leave the front of their queues (R154); nothing but the queues and the
engines' STAT registers changes. A write outside the queue pages does nothing. -/
def Obligations.CommandWritesEnterTheirQueue : Prop :=
  (∀ (s : State) (dt agent job addr e q : Nat) (bytes : List Byte), isWriter agent = true → job < 64 → addr < 2 ^ 40 →
    cmdPort addr = some (e, q) → s.live dt →
    let u := (s.pass dt).m
    let own := (u.engine e).queue q
    let ws := wordsOfBytes 8 bytes
    let new : Cmd := { words := ws, job := if 0x100 ≤ agent then job else ((ws.getD 0 0).extractLsb' 50 6).toNat, agent }
    let may : Bool := decide ((agent = 0x001 ∨ agent = 0x061 ∨ 0x100 ≤ agent) ∧ addr % 64 = 0 ∧ bytes.length = 64)
    let room : Bool := decide (queued own < 64) && !u.flightFull
    (may = true → room = true → answers (.commandWrite dt agent job addr bytes) s (fun t =>
      (∀ g p, Cmd.keys ((t.m.engine g).queue p) = Cmd.keys (u.dropDead (if g = e ∧ p = q then own ++ [new] else (u.engine g).queue p)))
      ∧ (∀ g, (t.m.engine g).run = (u.engine g).run) ∧ onlyEngines u t.m ∧ keepsRegs u t.m (u.engRegs e) ∧ sameData (s.pass dt) t))
    ∧ (may = true → room = false → idles (.commandWrite dt agent job addr bytes) s)
    ∧ (may = false → answers (.commandWrite dt agent job addr bytes) s (fun t =>
      raises u t.m (engBlk e + 1) 0x11 (engInst e) [(10, (engInst e : Int)), (12, (agent : Int)), (32, (addr % 0x1000 : Int))]
      ∧ t.m.eng = u.eng ∧ keepsRegs u t.m [] ∧ sameData (s.pass dt) t)))
  ∧ ∀ (s : State) (dt agent job addr : Nat) (bytes : List Byte), cmdPort addr = none → idles (.commandWrite dt agent job addr bytes) s

/-- R122, R201: what an engine starts. Free, it starts the head that it picks; running a class-1 or class-2 command it starts, at a tile boundary, the head of another
queue, and puts the running command back at the head of its own, with its progress. The head picked is ready; a ready class-0 head is picked while class 0 has not had
C0 × 250 ns of the frame, else a ready class-2 head below C2_MIN, else a class-1 head.
R124 to R137, R155: the command of each opcode, when the engine starts it and it is good, runs: the engine holds it, its queue is without it, memory holds what
the operation wrote, an overflow raises CONVERT_OVERFLOW, and HEAD marks its result as RESERVE says; one that was interrupted goes on with its progress and writes
nothing again. A SYNC command that R121, R125 and R218 allow is good and writes nothing. A command that is not good, one of another opcode, or an engine whose trace
records wait (R460): nothing happens. -/
def Obligations.EnginesRunTheirHead : Prop :=
  (∀ (u : Mach) (e : Nat), isEngine e = true →
    let x := u.engine e
    let used (c : Nat) : Nat := spGet (fun _ => 0) x.busy c
    let head (q : Nat) : Option Cmd := match x.queue q with | c :: _ => if u.ready c then some c else none | [] => none
    (∀ q c, u.pick e = some (q, c) → head q = some c)
    ∧ (∀ c, used 0 < u.slotC0 e * 250 → head 0 = some c → u.pick e = some (0, c))
    ∧ (∀ c, u.slotC0 e * 250 ≤ used 0 ∨ head 0 = none → used 2 < u.get (F.schSlot_C2_MIN e) * 250 → head 2 = some c → u.pick e = some (2, c))
    ∧ (∀ c, u.slotC0 e * 250 ≤ used 0 ∨ head 0 = none → u.get (F.schSlot_C2_MIN e) * 250 ≤ used 2 ∨ head 2 = none → head 1 = some c →
      u.pick e = some (1, c))
    ∧ (∀ q c, x.run = none → u.pick e = some (q, c) → u.toStart e = some (u, q, c))
    ∧ (∀ q c m q' c', x.run = some (q, c) → u.toStart e = some (m, q', c') → q ≠ 0 ∧ q' ≠ q ∧ (m.engine e).run = none
      ∧ (q < 3 → (m.engine e).queue q = { c with sat := true, part := some ⟨x.ops, x.cmdBusy, x.cmdStall⟩ } :: x.queue q) ∧ onlyEngines u m))
  ∧ ∀ (s : State) (dt e : Nat), isEngine e = true → s.live dt →
    let u := (s.pass dt).m
    let stall := u.traceStalls (engAgent e)
    (∀ p ∈ [((0x00 : Nat), fun dt e => Instr.sync dt e), (0x10, fun dt e => .conv dt e), (0x20, fun dt e => .gemm dt e),
        (0x30, fun dt e => .attn dt e), (0x40, fun dt e => .norm dt e), (0x41, fun dt e => .reduce dt e), (0x42, fun dt e => .pool dt e),
        (0x43, fun dt e => .eltwise dt e), (0x44, fun dt e => .copy dt e), (0x50, fun dt e => .zcomp dt e),
        (0x51, fun dt e => .zdecomp dt e), (0x52, fun dt e => .audit dt e), (0x60, fun dt e => .assemble dt e),
        (0x61, fun dt e => .head dt e)],
      (∀ m q c, stall = false → u.toStart e = some (m, q, c) → c.opcode = p.1 →
        (c.part = none → ∀ beyond y, (cmdRun e q c).run ((s.pass dt).fx.mach fun _ => m) = (.ok beyond, y) → answers (p.2 dt e) s (fun t =>
          (t.m.engine e).run = some (q, c) ∧ (∀ k, Cmd.keys ((t.m.engine e).queue k) = Cmd.keys (y.m.dropDead (((y.m.engine e).pop q).queue k)))
          ∧ (beyond = true → raises y.m t.m (engBlk e + 1) 0x13 (engInst e) (engArgs e c []))
          ∧ (c.opcode = 0x61 → (t.m.engine e).reserve = decide (c.f 4 0 1 = 1)) ∧ keepsRegs y.m t.m (y.m.engRegs e)
          ∧ t.mem = ((s.pass dt).after y).mem ∧ t.flips = ((s.pass dt).after y).flips ∧ t.pending = s.pending))
        ∧ (∀ part, c.part = some part → answers (p.2 dt e) s (fun t => (t.m.engine e).run = some (q, { c with part := none })
          ∧ (t.m.engine e).ops = part.ops ∧ (t.m.engine e).cmdBusy = part.busy ∧ (t.m.engine e).cmdStall = part.stall
          ∧ (∀ k, Cmd.keys ((t.m.engine e).queue k) = Cmd.keys (u.dropDead (((m.engine e).pop q).queue k)))
          ∧ keepsRegs u t.m (u.engRegs e) ∧ sameData (s.pass dt) t))
        ∧ (c.part = none → ∀ f y, (cmdRun e q c).run ((s.pass dt).fx.mach fun _ => m) = (.error f, y) → idles (p.2 dt e) s))
      ∧ (stall = true ∨ (∀ m q c, u.toStart e = some (m, q, c) → c.opcode ≠ p.1) → idles (p.2 dt e) s))
    ∧ (∀ m q c, stall = false → u.toStart e = some (m, q, c) → c.part = none → c.opcode = 0 → u.jobClass c.job = q → c.clean = true →
      (c.waitEn = true → u.synOwns c.job c.waitObj = true) → (c.sigEn = true → u.synOwns c.job c.sigObj = true) →
      answers (.sync dt e) s (fun t => (t.m.engine e).run = some (q, c) ∧ keepsRegs u t.m (u.engRegs e) ∧ sameData (s.pass dt) t))

/-- R122, R154: a completing command leaves its engine and adds 1 to SIG_OBJ, but not for a FAULTED job or a STOPPING one's class-1 or class-2 command; with no running
command nothing happens. R125, R154, R156, R157: the command that an engine would start and that is found bad is not run: the first fault is captured, CMD_FAULT (and
BUS_ERROR for a bus error) is raised, the job's queued commands are discarded, and an active job is FAULTED; memory keeps what the command wrote before; a head that is
good, waits for a page or goes on with its progress does not fault. R155: a class-1 or class-2 command of a pre-empted or paused job stops, stands at the head of its
queue with its progress, and PREEMPTED is raised; nothing outside its save area is written, and a bus error there faults the job (what the save area holds is a free value, log entry 122); others run on.
R174: a translation miss walks the tables: a page found enters the buffer of 64, a page on its way stalls the access, and a translation fault is cause 0x2 with entry
and offset for its address; a hit changes nothing. -/
def Obligations.EnginesCompleteFaultAndYield : Prop :=
  ∀ (s : State) (dt e : Nat), isEngine e = true → s.live dt →
    let u := (s.pass dt).m
    let b := engBlk e
    let n := engInst e
    (∀ q c, (u.engine e).run = some (q, c) → u.stepsDone → u.violated = [] →
      let st := u.jobState c.job
      let sig : Bool := c.sigEn && (st = 2 || (st = 3 && q = 0))
      answers (.commandComplete dt e) s (fun t => (t.m.engine e).run = none ∧ (∀ g, g ≠ e → (t.m.engine g).run = (u.engine g).run)
        ∧ (sig = true → t.m.get (F.synObj_VALUE c.sigObj) = (u.get (F.synObj_VALUE c.sigObj) + 1) % 2 ^ 32)
        ∧ (sig = false → keepsRegs u t.m (u.engRegs e)) ∧ sameData (s.pass dt) t))
    ∧ ((u.engine e).run = none → u.stepsDone → u.violated = [] → idles (.commandComplete dt e) s)
    ∧ (∀ m q c f y, u.toStart e = some (m, q, c) → c.part = none → (cmdRun e q c).run ((s.pass dt).fx.mach fun _ => m) = (.error f, y) → f ≠ .stall →
      answers (.cmdFault dt e) s (fun t => (t.m.engine e).run = none ∧ t.m.on (F.engFault_VALID b n) = true
        ∧ (y.m.on (F.engFault_VALID b n) = false → t.m.get (F.engFault_CAUSE b n) = f.cause.1 ∧ t.m.get (F.engFault_JOB b n) = c.job % 64
          ∧ t.m.get (F.engFault_LAYER b n) = c.layer ∧ t.m.get (F.engFault_OPERATOR b n) = c.operator
          ∧ t.m.get (F.engFault_AGENT b n) = c.agent % 2 ^ 12 ∧ t.m.get (F.engFaultAddr_ADDR b n) = f.cause.2 % 2 ^ 40)
        ∧ (y.m.on (F.engFault_VALID b n) = true → t.m.get (F.engFault_CAUSE b n) = y.m.get (F.engFault_CAUSE b n))
        ∧ raises y.m t.m (b + 1) 0x10 n (engArgs e c [(4, (f.cause.1 : Int))]) ∧ (f.cause.1 = 1 → raises y.m t.m (b + 1) 0x04 n [])
        ∧ (y.m.jobActive c.job = true → t.m.jobState c.job = 5 ∧ t.m.get (F.schJobStat_FAULT_SRC c.job) = (b + 1) * 256 + 0x10)
        ∧ (∀ q, ∀ d ∈ (t.m.engine e).queue q, d.job ≠ c.job)
        ∧ (y.m.jobEntries c.job = [] → t.mem = ((s.pass dt).after y).mem ∧ t.flips = ((s.pass dt).after y).flips) ∧ t.pending = s.pending))
    ∧ (u.toStart e = none → idles (.cmdFault dt e) s)
    ∧ (∀ m q c, u.toStart e = some (m, q, c) → (c.part.isSome = true → idles (.cmdFault dt e) s)
      ∧ (∀ beyond y, (cmdRun e q c).run ((s.pass dt).fx.mach fun _ => m) = (.ok beyond, y) → idles (.cmdFault dt e) s)
      ∧ (∀ y, (cmdRun e q c).run ((s.pass dt).fx.mach fun _ => m) = (.error .stall, y) → idles (.cmdFault dt e) s))
    ∧ (∀ q c, (u.engine e).run = some (q, c) →
      let yields : Bool := decide (q ≠ 0) && (u.on (F.schJobStat_PREEMPTED c.job) || u.on (F.schJobStat_PAUSED c.job))
      let area := u.engArea e c.job
      let reach := (u.reaches { agent := 0x061, job := some c.job } true area 65536).1
      (yields = true → answers (.preempted dt e) s (fun t => (t.m.engine e).run = none ∧ t.pending = s.pending
        ∧ ((s.pass dt).flips = [] → u.on F.memFlipCtl_ARM = false → (∀ a, ¬(area ≤ a ∧ a < area + 65536) → t.byte a = (s.pass dt).byte a)
          ∧ (reach = true → (q < 3 → (t.m.engine e).queue q
              = { c with sat := true, part := some ⟨(u.engine e).ops, (u.engine e).cmdBusy, (u.engine e).cmdStall⟩ } :: (u.engine e).queue q)
            ∧ raises u t.m (b + 1) 0x12 n [(10, (n : Int)), (6, (c.job : Int))] ∧ t.m.jobState c.job = u.jobState c.job)
          ∧ (reach = false → u.jobActive c.job = true → t.m.jobState c.job = 5))))
      ∧ (yields = false → idles (.preempted dt e) s))
    ∧ ((u.engine e).run = none → idles (.preempted dt e) s)
    ∧ ∀ ent off wr q c, ent < 1024 → off < 2 ^ 26 →
      let buf := spGet (fun _ => []) u.tbuf e
      let acc : Acc := { agent := engAgent e, job := some c.job }
      (buf.contains (ent, off / 0x4000) = true → idles (.translationMiss dt e ent off wr) s)
      ∧ (buf.contains (ent, off / 0x4000) = false → (u.engine e).run = some (q, c) → ∀ r y, (s.pass dt).fx.translate acc ent off wr = (r, y) →
        (∀ a, r = .at a → answers (.translationMiss dt e ent off wr) s (fun t =>
          spGet (fun _ => []) t.m.tbuf e = ((buf ++ [(ent, off / 0x4000)]).reverse.take 64).reverse ∧ t.m.eng = y.m.eng ∧ keepsRegs y.m t.m []
          ∧ sameData (s.pass dt) t))
        ∧ (r = .moving → answers (.translationMiss dt e ent off wr) s (fun t => t.m = y.m ∧ sameData (s.pass dt) t))
        ∧ (r = .fault → answers (.translationMiss dt e ent off wr) s (fun t => (t.m.engine e).run = none
          ∧ (y.m.on (F.engFault_VALID b n) = false → t.m.get (F.engFault_CAUSE b n) = 2
            ∧ t.m.get (F.engFaultAddr_ADDR b n) = ent * 2 ^ 26 + off)
          ∧ raises y.m t.m (b + 1) 0x10 n (engArgs e c [(4, 2)]) ∧ (y.m.jobActive c.job = true → t.m.jobState c.job = 5) ∧ t.pending = s.pending)))

/-! ## Floor cores -/

/-- R149, R150: each ALU instruction writes what its FUNC says of a and b to d, goes on to the next word and changes nothing else; a division by
zero gives all ones, its remainder the dividend; the result of a shift by 64 or more is not stated (log entry 10). A core that does not run, waits at a mailbox or has
another word before it does nothing. -/
def Obligations.AluInstructionsWriteTheirResult : Prop :=
  ∀ (s : State) (dt k d a b : Nat), isCore k = true → regs3 d a b = true → s.live dt →
    let u := (s.pass dt).m
    let c := u.core k
    let all : Word := BitVec.allOnes 64
    ∀ p ∈ [((0x0 : Nat), false, fun (x y : Word) => x + y, fun dt k d a b => Instr.add dt k d a b),
        (0x1, false, fun x y => x - y, fun dt k d a b => .sub dt k d a b),
        (0x2, false, fun x y => x &&& y, fun dt k d a b => .and dt k d a b),
        (0x3, false, fun x y => x ||| y, fun dt k d a b => .or dt k d a b),
        (0x4, false, fun x y => x ^^^ y, fun dt k d a b => .xor dt k d a b),
        (0x5, true, fun x y => x <<< y.toNat, fun dt k d a b => .sll dt k d a b),
        (0x6, true, fun x y => x >>> y.toNat, fun dt k d a b => .srl dt k d a b),
        (0x7, true, fun x y => x.sshiftRight y.toNat, fun dt k d a b => .sra dt k d a b),
        (0x8, false, fun x y => x * y, fun dt k d a b => .mul dt k d a b),
        (0x9, false, fun x y => BitVec.ofInt 64 ((x.toInt * y.toInt).fdiv (2 ^ 64)), fun dt k d a b => .mulh dt k d a b),
        (0xA, false, fun x y => if y = 0 then all else x.sdiv y, fun dt k d a b => .div dt k d a b),
        (0xB, false, fun x y => if y = 0 then x else x.srem y, fun dt k d a b => .rem dt k d a b),
        (0xC, false, fun x y => if x.toInt < y.toInt then 1 else 0, fun dt k d a b => .slt dt k d a b),
        (0xD, false, fun x y => if x.toNat < y.toNat then 1 else 0, fun dt k d a b => .sltu dt k d a b)],
      (u.atWord k (wordR 0x01 d a b p.1) = true →
        answers (p.2.2.2 dt k d a b) s (fun t => onlyCore (s.pass dt) t k ∧ writesScalar c (t.m.core k) d ((t.m.core k).sreg d)
          ∧ (d ≠ 0 → p.2.1 = false ∨ (c.sreg b).toNat < 64 → (t.m.core k).sreg d = p.2.2.1 (c.sreg a) (c.sreg b))))
      ∧ (u.atWord k (wordR 0x01 d a b p.1) = false → idles (p.2.2.2 dt k d a b) s)

/-- R149: ADDI and LUI write their sums; a branch goes to its target, PC + 4 IMM, or on to the next word; JAL and JR jump and write the return
address to d; nothing else changes. A core that does not run, waits at a mailbox or has another word before it does nothing. -/
def Obligations.ImmediatesAndBranches : Prop :=
  ∀ (s : State) (dt k d a imm : Nat), isCore k = true → regs3 d a 0 = true → s.live dt →
    let u := (s.pass dt).m
    let c := u.core k
    let simm : Word := (BitVec.ofNat 16 imm).signExtend 64
    let jump (off : Word) : Nat := (BitVec.ofNat 64 c.pc + off * 4).toNat
    (imm < 65536 → u.atWord k (wordI 0x02 d a imm) = true → answers (.addi dt k d a imm) s (fun t =>
      writesScalar c (t.m.core k) d (c.sreg a + simm) ∧ onlyCore (s.pass dt) t k))
    ∧ (imm < 65536 → u.atWord k (wordI 0x03 d a imm) = true → answers (.lui dt k d a imm) s (fun t =>
      writesScalar c (t.m.core k) d (simm <<< 16) ∧ onlyCore (s.pass dt) t k))
    ∧ (imm < 65536 → ∀ p ∈ [((0x10 : Nat), fun (x y : Word) => decide (x = y), fun dt k d a imm => Instr.beq dt k d a imm),
        (0x11, fun x y => decide (x ≠ y), fun dt k d a imm => .bne dt k d a imm),
        (0x12, fun x y => decide (x.toInt < y.toInt), fun dt k d a imm => .blt dt k d a imm),
        (0x13, fun x y => decide (y.toInt ≤ x.toInt), fun dt k d a imm => .bge dt k d a imm)],
      (u.atWord k (wordI p.1 d a imm) = true → answers (p.2.2 dt k d a imm) s (fun t =>
        t.m.core k = { c with pc := if p.2.1 (c.sreg d) (c.sreg a) then jump simm else (c.pc + 4) % 2 ^ 64 } ∧ onlyCore (s.pass dt) t k))
      ∧ (u.atWord k (wordI p.1 d a imm) = false → idles (p.2.2 dt k d a imm) s))
    ∧ (imm < 2 ^ 21 → u.atWord k (wordJ 0x14 d imm) = true → answers (.jal dt k d imm) s (fun t =>
      t.m.core k = { c.setS d (BitVec.ofNat 64 (c.pc + 4)) with pc := jump ((BitVec.ofNat 21 imm).signExtend 64) }
      ∧ onlyCore (s.pass dt) t k))
    ∧ (imm < 65536 → u.atWord k (wordI 0x15 d a imm) = true → answers (.jr dt k d a imm) s (fun t =>
      t.m.core k = { c.setS d (BitVec.ofNat 64 (c.pc + 4)) with pc := (c.sreg a).toNat } ∧ onlyCore (s.pass dt) t k))
    ∧ (u.atWord k (wordI 0x02 d a imm) = false → idles (.addi dt k d a imm) s)
    ∧ (u.atWord k (wordI 0x03 d a imm) = false → idles (.lui dt k d a imm) s)
    ∧ (u.atWord k (wordJ 0x14 d imm) = false → idles (.jal dt k d imm) s)
    ∧ (u.atWord k (wordI 0x15 d a imm) = false → idles (.jr dt k d a imm) s)

/-- R148, R149: an aligned access that reaches memory in which no bit is flipped (R361 is FLIPS' statement) loads the little-endian bytes at a + IMM, sign-extended in a
scalar register, whole in one vector register or two, or stores the register's low bytes there and changes no other byte. An LD64 of the times' ports reads Reel or wall
time (R443), one of SEC's port takes a random word once SEC is READY (R376); an aligned store of any size to an engine's queue page, a submission page or a verdict page
is that page's write (R120, R202, R244) unless the core stalls. A misaligned access, one that is refused, one that must wait for DRAM's keys, a core at another word: the
instruction does nothing (a trap is CORE_TRAP's, R152). VLD64 and VST64 of d = 31 name no register pair (log entry 10). -/
def Obligations.LoadsAndStoresMoveTheirBytes : Prop :=
  ∀ (s : State) (dt k d a imm : Nat), isCore k = true → regs3 d a 0 = true → imm < 65536 → s.live dt → (s.pass dt).flips = [] →
    let u := (s.pass dt).m
    let c := u.core k
    let at' := ea c a imm
    (∀ p ∈ [((0x08 : Nat), (8 : Nat), fun dt k d a imm => Instr.ld64 dt k d a imm), (0x09, 4, fun dt k d a imm => .ld32 dt k d a imm),
        (0x0A, 2, fun dt k d a imm => .ld16 dt k d a imm), (0x0B, 1, fun dt k d a imm => .ld8 dt k d a imm)],
      (u.atWord k (wordI p.1 d a imm) = true → u.coreReaches k false at' p.2.1 →
        answers (p.2.2 dt k d a imm) s (fun t =>
          writesScalar c (t.m.core k) d ((BitVec.ofNat (8 * p.2.1) ((s.pass dt).num at' p.2.1)).signExtend 64) ∧ onlyCore (s.pass dt) t k))
      ∧ (u.atWord k (wordI p.1 d a imm) = false ∨ u.coreBarred k false at' p.2.1 → idles (p.2.2 dt k d a imm) s))
    ∧ (∀ p ∈ [((0x0C : Nat), (8 : Nat), fun dt k d a imm => Instr.st64 dt k d a imm), (0x0D, 4, fun dt k d a imm => .st32 dt k d a imm),
        (0x0E, 2, fun dt k d a imm => .st16 dt k d a imm), (0x0F, 1, fun dt k d a imm => .st8 dt k d a imm),
        (0x19, 32, fun dt k d a imm => .vst dt k d a imm), (0x1B, 64, fun dt k d a imm => .vst64 dt k d a imm)],
      let w := if p.2.1 ≤ 8 then (c.sreg d).toNat else (c.vreg d).toNat + if p.2.1 = 64 then 2 ^ 256 * (c.vreg (d + 1)).toNat else 0
      (p.2.1 = 64 → d < 31) →
      (u.atWord k (wordI p.1 d a imm) = true → u.coreReaches k true at' p.2.1 →
        answers (p.2.2 dt k d a imm) s (fun t => coreStored (s.pass dt) t k at' p.2.1 w))
      ∧ (∀ j, u.atWord k (wordI p.1 d a imm) = true → at' % p.2.1 = 0 → u.coreJob k = some j → storePort at' = true →
        let r := u.corePort k j at' (leBytes p.2.1 w)
        (r.1 = true → answers (p.2.2 dt k d a imm) s (fun t => t.m.core k = c.next ∧ (∀ i, i ≠ k → t.m.core i = u.core i)
          ∧ t.m = { r.2 with cores := t.m.cores, prof := t.m.prof } ∧ sameData (s.pass dt) t))
        ∧ (r.1 = false → idles (p.2.2 dt k d a imm) s))
      ∧ (u.atWord k (wordI p.1 d a imm) = false ∨ u.coreBarred k true at' p.2.1 → idles (p.2.2 dt k d a imm) s))
    ∧ (u.atWord k (wordI 0x18 d a imm) = true → u.coreReaches k false at' 32 → answers (.vld dt k d a imm) s (fun t =>
      (t.m.core k).vreg d = BitVec.ofNat 256 ((s.pass dt).num at' 32) ∧ (t.m.core k).s = c.s
      ∧ (∀ r, r ≠ d → (t.m.core k).vreg r = c.vreg r) ∧ (t.m.core k).pc = (c.pc + 4) % 2 ^ 64 ∧ onlyCore (s.pass dt) t k))
    ∧ (u.atWord k (wordI 0x18 d a imm) = false ∨ u.coreBarred k false at' 32 → idles (.vld dt k d a imm) s)
    ∧ (d < 31 → u.atWord k (wordI 0x1A d a imm) = true → u.coreReaches k false at' 64 → answers (.vld64 dt k d a imm) s (fun t =>
      (t.m.core k).vreg d = BitVec.ofNat 256 ((s.pass dt).num at' 32)
      ∧ (t.m.core k).vreg (d + 1) = BitVec.ofNat 256 ((s.pass dt).num (at' + 32) 32) ∧ (t.m.core k).s = c.s
      ∧ (∀ r, r ≠ d → r ≠ d + 1 → (t.m.core k).vreg r = c.vreg r) ∧ (t.m.core k).pc = (c.pc + 4) % 2 ^ 64 ∧ onlyCore (s.pass dt) t k))
    ∧ (u.atWord k (wordI 0x1A d a imm) = false ∨ u.coreBarred k false at' 64 → idles (.vld64 dt k d a imm) s)
    ∧ (u.atWord k (wordI 0x08 d a imm) = true →
      (at' = 0x1801800000 → answers (.ld64 dt k d a imm) s (fun t =>
        writesScalar c (t.m.core k) d (BitVec.ofInt 64 (u.coarse u.reel)) ∧ onlyCore (s.pass dt) t k))
      ∧ (at' = 0x1801800008 → answers (.ld64 dt k d a imm) s (fun t =>
        writesScalar c (t.m.core k) d (BitVec.ofInt 64 (u.coarse u.wall)) ∧ onlyCore (s.pass dt) t k))
      ∧ (at' = 0x1801400000 → u.secReady = true → answers (.ld64 dt k d a imm) s (fun t =>
        writesScalar c (t.m.core k) d u.rngTake.1 ∧ t.m = { u.rngTake.2 with cores := t.m.cores, prof := t.m.prof } ∧ sameData (s.pass dt) t))
      ∧ (at' = 0x1801400000 → u.secReady = false → idles (.ld64 dt k d a imm) s))

/-- R149, R150: the vector instructions work lane by lane: integer lanes as the scalar ALU, FP32 lanes with one rounding at the end, VPERM and
VBCAST by lane number; VCVT writes the lanes of a at their low ends in the format of FUNC, rounding to nearest or by R339's draw (what stands above a narrower format, and
an MX element's result, is not stated: log entry 10). A core that does not run, waits at a mailbox or has another word before it does nothing. -/
def Obligations.VectorInstructionsWorkLaneByLane : Prop :=
  ∀ (s : State) (dt k d a b func : Nat), isCore k = true → regs3 d a b = true → s.live dt →
    let u := (s.pass dt).m
    let c := u.core k
    let L (r i : Nat) : BitVec 32 := laneOf (c.vreg r) i
    let seed : Word := match u.coreJob k with | some j => u.rd (R.trcJobSeed1 j) | none => 0
    let keyLayer := ((c.sreg a).extractLsb' 52 12).toNat
    let elem (i : Nat) : Nat := ((c.sreg a).extractLsb' 0 52).toNat + i
    let rnd (i : Nat) : Rnd := if func / 16 % 2 = 1 then .stochastic (drawR seed (c.sreg b) keyLayer (elem i)) else .rne
    (func < 14 → u.atWord k (wordR 0x20 d a b func) = true → answers (.vop dt k d a b func) s (fun t =>
      writesVector c (t.m.core k) d (fun i => alu func (L a i) (L b i)) ∧ onlyCore (s.pass dt) t k))
    ∧ (u.atWord k (wordR 0x20 d a b func) = false → idles (.vop dt k d a b func) s)
    ∧ (∀ p ∈ [((0x10 : Nat), fun (_ x y : BitVec 32) => ofF ((laneF x).add (laneF y)), fun dt k d a b => Instr.fadd dt k d a b),
        (0x11, fun _ x y => ofF ((laneF x).mul (laneF y)), fun dt k d a b => .fmul dt k d a b),
        (0x12, fun z x y => ofF (((laneF x).mul (laneF y)).add (laneF z)), fun dt k d a b => .fma dt k d a b),
        (0x13, fun _ x y => ofF ((laneF x).max' (laneF y)), fun dt k d a b => .fmax dt k d a b),
        (0x14, fun _ x y => ofF ((laneF x).min' (laneF y)), fun dt k d a b => .fmin dt k d a b),
        (0x20, fun z x y => z + BitVec.ofInt 32 (dot8 x y), fun dt k d a b => .vdot8 dt k d a b),
        (0x21, fun z x y => ofF ((laneF z).add (dotExact (if Config.dotE5 then 0x4 else 0x3) 4 8 x y).r32), fun dt k d a b => .vdotf8 dt k d a b),
        (0x22, fun z x y => ofF ((laneF z).add (dotExact 0xA 2 16 x y).r32), fun dt k d a b => .vfmabf dt k d a b)],
      (u.atWord k (wordR 0x20 d a b p.1) = true → answers (p.2.2 dt k d a b) s (fun t =>
        writesVector c (t.m.core k) d (fun i => p.2.1 (L d i) (L a i) (L b i)) ∧ onlyCore (s.pass dt) t k))
      ∧ (u.atWord k (wordR 0x20 d a b p.1) = false → idles (p.2.2 dt k d a b) s))
    ∧ (cvtFunc func = true → u.atWord k (wordR 0x21 d a b func) = true → answers (.vcvt dt k d a b func) s (fun t =>
      writesVector c (t.m.core k) d (laneOf ((t.m.core k).vreg d)) ∧ onlyCore (s.pass dt) t k
      ∧ (isMx (func % 16) = false → ∀ i < 8, (laneOf ((t.m.core k).vreg d) i).toNat % 2 ^ elemBits (func % 16)
          = (convElem (func % 16) (func / 32 % 2 = 1) (laneF (L a i)) (rnd i)).1 % 2 ^ elemBits (func % 16))))
    ∧ (u.atWord k (wordR 0x21 d a b func) = false → idles (.vcvt dt k d a b func) s)
    ∧ (u.atWord k (wordR 0x22 d a b 0) = true → answers (.vperm dt k d a b) s (fun t =>
      writesVector c (t.m.core k) d (fun i => L d ((c.sreg b).toNat / 2 ^ (3 * i) % 8)) ∧ onlyCore (s.pass dt) t k))
    ∧ (u.atWord k (wordR 0x22 d a b 1) = true → answers (.vbcast dt k d a b) s (fun t =>
      writesVector c (t.m.core k) d (fun _ => L d ((c.sreg b).toNat % 8)) ∧ onlyCore (s.pass dt) t k))
    ∧ (u.atWord k (wordR 0x22 d a b 0) = false → idles (.vperm dt k d a b) s)
    ∧ (u.atWord k (wordR 0x22 d a b 1) = false → idles (.vbcast dt k d a b) s)

/-- R148, R151: DMA takes its descriptor and makes its channel busy; a completed transfer has copied its rows one after another and its channel is idle (memory with
no flipped bit, outside the data ports); DMAWAIT goes on when its channel is idle, FENCE when both are. A busy channel, R218's limit, a descriptor that is misaligned,
refused or waits for the keys, a transfer that faults (CORE_TRAP's) or waits, a channel with no transfer, a core at another word: nothing happens. -/
def Obligations.DmaStartsCopiesAndWaits : Prop :=
  ∀ (s : State) (dt k d a imm : Nat), isCore k = true → regs3 d a 0 = true → imm < 65536 → s.live dt → (s.pass dt).flips = [] →
    let u := (s.pass dt).m
    let c := u.core k
    let at' := (c.sreg a).toNat % 2 ^ 40
    let starts : Bool := !c.dmaBusy (imm % 2) && !u.flightFull && decide (at' % 8 = 0) && !u.stalls at' && (u.reaches (u.coreAcc k) false at' 32).1
    (u.atWord k (wordI 0x28 d a imm) = true → starts = true → answers (.dma dt k d a imm) s (fun t =>
        t.m.core k = { c.next with dma := c.dma ++ [(imm % 2, (List.range 4).map fun i => BitVec.ofNat 64 ((s.pass dt).num (at' + 8 * i) 8))] }
        ∧ onlyCore (s.pass dt) t k))
    ∧ (u.atWord k (wordI 0x28 d a imm) = false ∨ starts = false → idles (.dma dt k d a imm) s)
    ∧ (∀ ch w, ch < 4 → c.dma.find? (·.1 = ch) = some (ch, w) →
      (∀ rows bytes, dmaRows w = some (rows, bytes) →
        (∀ r ∈ rows, ∀ x ∈ lineCuts r.1 bytes, u.stalls x.1 = false ∧ (u.reaches (u.coreAcc k) false x.1 x.2).1 = true) →
        (∀ r ∈ rows, ∀ x ∈ lineCuts r.2 bytes, u.stalls x.1 = false ∧ (u.reaches (u.coreAcc k) true x.1 x.2).1 = true) →
        answers (.dmaComplete dt k ch) s (fun t =>
          (∀ x, t.byte x = rows.foldl (fun f r y => if r.2 ≤ y ∧ y < r.2 + bytes then f (r.1 + (y - r.2)) else f y) (s.pass dt).byte x)
          ∧ t.m.core k = { c with dma := c.dma.filter fun y => y.1 ≠ ch } ∧ (∀ j, j ≠ k → t.m.core j = u.core j) ∧ t.pending = s.pending
          ∧ (u.on F.memFlipCtl_ARM = false → t.flips = (s.pass dt).flips ∧ t.m = { u with cores := t.m.cores })))
      ∧ (dmaRows w = none → idles (.dmaComplete dt k ch) s))
    ∧ (∀ ch, c.dma.find? (·.1 = ch) = none → idles (.dmaComplete dt k ch) s)
    ∧ (u.atWord k (wordI 0x29 d a imm) = true → c.dmaBusy (imm % 2) = false → answers (.dmawait dt k d a imm) s (fun t =>
      t.m.core k = c.next ∧ onlyCore (s.pass dt) t k))
    ∧ (u.atWord k (wordI 0x29 d a imm) = false ∨ c.dmaBusy (imm % 2) = true → idles (.dmawait dt k d a imm) s)
    ∧ (u.coreRuns k = true → u.bareWord k = wordR 0x33 0 0 0 0 → c.dma = [] → answers (.fence dt k) s (fun t =>
      t.m.core k = c.next ∧ onlyCore (s.pass dt) t k))
    ∧ (u.coreRuns k = false ∨ u.bareWord k ≠ wordR 0x33 0 0 0 0 ∨ c.dma ≠ [] → idles (.fence dt k) s)

/-- R147, R149, R216 to R221, R202: SIGNAL adds IMM to its object; ARM arms a wait port, already satisfied when the object has reached the
threshold; WAIT goes on when any or all of its armed ports are satisfied, or none of them is armed (log entry 63); RDSPEC reads; HALT ends the task and, with the tile's
last one, the tile, and signals DONE_OBJ; a mailbox takes a word when empty, a full one makes the sender wait its turn, or fail with 0, REFUSED and SEND_REFUSED; MBXRECV
takes the word and serves the first waiting sender, or reads the side field. An object or mailbox that the job may not use traps (R218, R221: CORE_TRAP's), an unsatisfied
WAIT and an empty mailbox wait: nothing happens. -/
def Obligations.CoresSynchronise : Prop :=
  ∀ (s : State) (dt k d a b imm j : Nat), isCore k = true → regs3 d a b = true → s.live dt →
    let u := (s.pass dt).m
    let c := u.core k
    let n := (c.sreg a).toNat
    let ag := u.coreAgent k
    let holds : Bool := ((List.range 4).filter fun i => imm.testBit i && (u.port (k * 4 + i)).armed).isEmpty
      || if imm.testBit 4 then (List.range 4).all fun i => !(imm.testBit i && (u.port (k * 4 + i)).armed) || (u.port (k * 4 + i)).sat
         else (List.range 4).any fun i => imm.testBit i && (u.port (k * 4 + i)).armed && (u.port (k * 4 + i)).sat
    let objOk : Bool := decide (n < 16384) && u.synOwns j n
    let mbxOk : Bool := decide (n < 512) && u.mbxOwns j n
    u.coreJob k = some j → u.violated = [] → u.stepsDone →
    (1 ≤ imm → imm ≤ 255 → u.atWord k (wordI 0x30 d a imm) = true →
      (objOk = true → answers (.signal dt k d a imm) s (fun t => t.m.get (F.synObj_VALUE n) = (u.get (F.synObj_VALUE n) + imm) % 2 ^ 32
        ∧ t.m.core k = c.next ∧ keepsWindows u t.m [10, 11, 12, 25] ∧ sameData (s.pass dt) t))
      ∧ (objOk = false → idles (.signal dt k d a imm) s))
    ∧ (u.atWord k (wordI 0x30 d a imm) = false → idles (.signal dt k d a imm) s)
    ∧ (u.atWord k (wordR 0x31 d a b 0) = true →
      (objOk = true → answers (.arm dt k d a b) s (fun t =>
        let thr := (c.sreg b).toNat % 2 ^ 32
        t.m.port (k * 4 + d % 4) = { armed := true, obj := n, thr, sat := satisfied (u.get (F.synObj_VALUE n)) thr }
        ∧ (∀ i, i ≠ k * 4 + d % 4 → t.m.port i = u.port i) ∧ t.m.core k = c.next ∧ (∀ i, i ≠ k → t.m.core i = u.core i)
        ∧ t.m = { u with cores := t.m.cores, ports := t.m.ports, prof := t.m.prof } ∧ sameData (s.pass dt) t))
      ∧ (objOk = false → idles (.arm dt k d a b) s))
    ∧ (u.atWord k (wordR 0x31 d a b 0) = false → idles (.arm dt k d a b) s)
    ∧ (imm < 65536 → u.atWord k (wordI 0x32 d a imm) = true → holds = true →
      answers (.wait dt k d a imm) s (fun t => t.m.core k = c.next ∧ onlyCore (s.pass dt) t k))
    ∧ (u.atWord k (wordI 0x32 d a imm) = false ∨ holds = false → idles (.wait dt k d a imm) s)
    ∧ (imm < 4 → u.atWord k (wordI 0x34 d a imm) = true → answers (.rdspec dt k d a imm) s (fun t => onlyCore (s.pass dt) t k
      ∧ writesScalar c (t.m.core k) d (if imm = 0 then BitVec.ofNat 64 c.plan else if imm = 1 then BitVec.ofNat 64 j
          else if imm = 2 then u.rd (R.trcJobStep j) else BitVec.ofInt 64 (u.coarse u.reel))))
    ∧ (u.atWord k (wordI 0x34 d a imm) = false → idles (.rdspec dt k d a imm) s)
    ∧ (∀ r : RunTile, u.coreRuns k = true → u.bareWord k = wordR 0x35 0 0 0 0 → u.running.find? (fun t => t.cores.contains k) = some r →
      answers (.halt dt k) s (fun t => (t.m.core k).running = false ∧ (∀ i, i ≠ k → t.m.core i = u.core i)
        ∧ (r.cores = [k] → r.tile.doneEn = true → r.tile.doneObj < 16384 → u.synOwns r.tile.job r.tile.doneObj = true →
          t.m.get (F.synObj_VALUE r.tile.doneObj) = (u.get (F.synObj_VALUE r.tile.doneObj) + 1) % 2 ^ 32)
        ∧ (r.tile.doneEn = false ∨ r.cores ≠ [k] → ∀ o, t.m.get (F.synObj_VALUE o) = u.get (F.synObj_VALUE o))
        ∧ (r.cores = [k] → t.m.running = u.running.filter fun q => q.tile.id ≠ r.tile.id)
        ∧ (r.cores ≠ [k] → r.cores ≠ [] → t.m.running.map (·.tile) = u.running.map (·.tile)) ∧ t.pending = s.pending))
    ∧ (u.coreRuns k = true → u.bareWord k = wordR 0x35 0 0 0 0 → u.running.find? (fun t => t.cores.contains k) = none →
      answers (.halt dt k) s (fun t => (t.m.core k).running = false ∧ t.m.running = u.running ∧ sameData (s.pass dt) t))
    ∧ (u.coreRuns k = false ∨ u.bareWord k ≠ wordR 0x35 0 0 0 0 → idles (.halt dt k) s)
    ∧ (∀ func < 2, u.atWord k (wordR 0x36 d a b func) = true →
      let full := u.on (F.mbxSide_FULL n)
      (mbxOk = true → full = false → answers (.mbxsend dt k d a b func) s (fun t =>
        t.m.rd (R.mbxTake n) = c.sreg b ∧ t.m.on (F.mbxSide_FULL n) = true ∧ t.m.get (F.mbxSide_SENDER n) = ag % 2 ^ (F.mbxSide_SENDER n).w
        ∧ writesScalar c (t.m.core k) d 1 ∧ keepsRegs u t.m [R.mbxTake n, R.mbxSide n, R.mbxStat, R.flrStat (u.get (F.mbxCfg_CLUSTER n))]
        ∧ sameData (s.pass dt) t))
      ∧ (mbxOk = true → full = true → func = 1 → answers (.mbxsend dt k d a b func) s (fun t =>
        writesScalar c (t.m.core k) d 0 ∧ counted u t.m F.mbxStat_REFUSED
        ∧ raises u t.m 0x0E 0x10 0 [(12, (ag : Int)), (9, (n : Int)), (32, 1)] ∧ keepsRegs u t.m [R.mbxStat] ∧ sameData (s.pass dt) t))
      ∧ (mbxOk = true → full = true → func = 0 → answers (.mbxsend dt k d a b func) s (fun t =>
        t.m.mbxWait = u.mbxWait ++ [({ mbx := n, core := k, agent := ag, val := c.sreg b, d } : MbxWait)]
        ∧ t.m = { u with mbxWait := t.m.mbxWait, prof := t.m.prof } ∧ sameData (s.pass dt) t))
      ∧ (mbxOk = false → idles (.mbxsend dt k d a b func) s))
    ∧ (∀ func, u.atWord k (wordR 0x36 d a b func) = false → idles (.mbxsend dt k d a b func) s)
    ∧ (u.atWord k (wordR 0x37 d a b 0) = true → mbxOk = true → u.on (F.mbxSide_FULL n) = true →
      (u.mbxWait.find? (fun w => w.mbx = n) = none → answers (.mbxrecv dt k d a b 0) s (fun t =>
        writesScalar c (t.m.core k) d (u.rd (R.mbxTake n)) ∧ t.m.on (F.mbxSide_FULL n) = false
        ∧ keepsRegs u t.m [R.mbxTake n, R.mbxSide n, R.mbxStat] ∧ sameData (s.pass dt) t))
      ∧ (∀ w, u.mbxWait.find? (fun w => w.mbx = n) = some w → w.core ≠ k → answers (.mbxrecv dt k d a b 0) s (fun t =>
        writesScalar c (t.m.core k) d (u.rd (R.mbxTake n)) ∧ t.m.on (F.mbxSide_FULL n) = true ∧ t.m.rd (R.mbxTake n) = w.val
        ∧ t.m.get (F.mbxSide_SENDER n) = w.agent % 2 ^ (F.mbxSide_SENDER n).w ∧ (w.d ≠ 0 → (t.m.core w.core).sreg w.d = 1)
        ∧ (t.m.core w.core).pc = ((u.core w.core).pc + 4) % 2 ^ 64 ∧ t.m.mbxWait = u.mbxWait.erase w
        ∧ keepsRegs u t.m [R.mbxTake n, R.mbxSide n, R.mbxStat, R.flrStat (u.get (F.mbxCfg_CLUSTER n))] ∧ sameData (s.pass dt) t)))
    ∧ (u.atWord k (wordR 0x37 d a b 2) = true → mbxOk = true → answers (.mbxrecv dt k d a b 2) s (fun t =>
      writesScalar c (t.m.core k) d (u.rd (R.mbxSide n)) ∧ onlyCore (s.pass dt) t k))
    ∧ (∀ func, u.atWord k (wordR 0x37 d a b func) = false ∨ mbxOk = false ∨ (func = 0 ∧ u.on (F.mbxSide_FULL n) = false) →
      idles (.mbxrecv dt k d a b func) s)

/-- R152, R195: what traps: a PC that is misaligned (2) or beyond the floor image (4), an illegal word (1), a misaligned load or store (2), one that is refused (3), a DMA
channel whose descriptor is outside R151's limits (5). A trap stops the core, raises CORE_TRAP, faults an active job, and is recorded in FLR_TRAP unless an earlier one
still stands there. Without a trap nothing happens. -/
def Obligations.CoreTrapsStopTheCore : Prop :=
  (∀ (s : State) (k : Nat), isCore k = true →
    let u := s.m
    let c := u.core k
    u.coreRuns k = true → c.dma = [] →
    (c.pc % 4 ≠ 0 → s.fx.coreTrapOf k = some (2, c.pc % 2 ^ 40, s.fx))
    ∧ (c.pc % 4 = 0 → u.imageLen k ≤ c.pc / 4 → s.fx.coreTrapOf k = some (4, 0, s.fx))
    ∧ (∀ w, u.coreFetch k = .ok w → coreDecode 0 k w = none → s.fx.coreTrapOf k = some (1, 0, s.fx))
    ∧ (∀ p ∈ [((0x08 : Nat), (8 : Nat), false), (0x09, 4, false), (0x0A, 2, false), (0x0B, 1, false), (0x18, 32, false), (0x1A, 64, false),
        (0x0C, 8, true), (0x0D, 4, true), (0x0E, 2, true), (0x0F, 1, true), (0x19, 32, true), (0x1B, 64, true)],
      ∀ d a imm, regs3 d a 0 = true → imm < 65536 → (p.2.1 = 64 → d < 31) → u.coreFetch k = .ok (wordI p.1 d a imm) →
        let at' := ea c a imm
        (at' % p.2.1 ≠ 0 → s.fx.coreTrapOf k = some (2, at', s.fx))
        ∧ (at' % p.2.1 = 0 → rangeRegion at' p.2.1 ≠ .port → u.stalls at' = false → (u.reaches (u.coreAcc k) p.2.2 at' p.2.1).1 = false →
          ∃ y, s.fx.coreTrapOf k = some (3, at', y) ∧ y.v = s.fx.v)))
  ∧ (∀ (s : State) (k j ch : Nat) (w : List Word), isCore k = true → s.m.coreJob k = some j → (s.m.core k).dma = [(ch, w)] → dmaRows w = none →
    ∃ y, s.fx.coreTrapOf k = some (5, (w.getD 0 0).toNat % 2 ^ 40, y) ∧ y.v = s.fx.v ∧ (y.m.core k).dma = [])
  ∧ ∀ (s : State) (dt k : Nat), isCore k = true → s.live dt →
    let q := k / 64
    (∀ cause addr y, (s.pass dt).fx.coreTrapOf k = some (cause, addr, y) →
      let j := (y.m.coreJob k).getD 0
      let fresh : Bool := !y.m.on (F.flrTrap_VALID q)
      answers (.coreTrap dt k) s (fun t => (t.m.core k).running = false ∧ t.m.on (F.flrTrap_VALID q) = true
        ∧ (fresh = true → t.m.get (F.flrTrap_CAUSE q) = cause % 2 ^ (F.flrTrap_CAUSE q).w ∧ t.m.get (F.flrTrap_CORE q) = k % 64
          ∧ t.m.get (F.flrTrap_JOB q) = j % 64 ∧ t.m.get (F.flrTrap_AGENT q) = y.m.coreAgent k % 2 ^ 12
          ∧ t.m.get (F.flrTrap_PC q) = (y.m.core k).pc % 2 ^ (F.flrTrap_PC q).w
          ∧ t.m.get (F.flrTrapAddr_ADDR q) = (if cause = 1 ∨ cause = 4 then 0 else addr) % 2 ^ (F.flrTrapAddr_ADDR q).w)
        ∧ (fresh = false → t.m.rd (R.flrTrap q) = y.m.rd (R.flrTrap q) ∧ t.m.rd (R.flrTrapAddr q) = y.m.rd (R.flrTrapAddr q))
        ∧ raises y.m t.m 0x09 0x10 q [(7, (q : Int)), (6, (k % 64 : Int)), (4, (cause : Int)), (6, (j : Int))]
        ∧ (cause = 3 ∨ cause = 5 → raises y.m t.m 0x09 0x04 q [])
        ∧ (y.m.jobActive j = true → t.m.jobState j = 5 ∧ t.m.get (F.schJobStat_FAULT_SRC j) = 0x0910) ∧ t.pending = s.pending))
    ∧ ((s.pass dt).fx.coreTrapOf k = none → idles (.coreTrap dt k) s)

/-- R149: a floor core reads back every instruction word that the encoding of a command of it gives: each operand at each of its values. -/
def Obligations.CoreWordsReadBack : Prop :=
  ∀ (i : Instr) (w : BitVec 32), i.wf = true → coreWord i = some w → ∃ k, coreDecode i.dt k w = some i

/-- R149: what a core reads from a word is a well-formed command of that core, and its word is the one read but for the operand
fields of FENCE and HALT, which take none. -/
def Obligations.DecodedWordsAreWellFormed : Prop :=
  ∀ (dt k : Nat) (w : BitVec 32) (i : Instr), isCore k = true → coreDecode dt k w = some i → i.wf = true ∧ i.dt = dt
    ∧ ∃ v, coreWord i = some v ∧ (v = w ∨ v = w &&& 0xFC0007FF)

/-- R149: words of the table of instructions, written out, and what they say. -/
def Obligations.SampleWordsDecode : Prop :=
  coreDecode 0 5 0x04430800 = some (.add 0 5 2 3 1)
  ∧ coreDecode 0 5 0x0422FFFF = none
  ∧ coreDecode 0 5 0x0BE1FFFF = some (.addi 0 5 31 1 0xFFFF)
  ∧ coreDecode 0 5 0x50200010 = some (.jal 0 5 1 0x10)
  ∧ coreDecode 0 5 0xD4000000 = some (.halt 0 5)
  ∧ coreDecode 0 5 0x80221810 = some (.fadd 0 5 1 2 3)

/-! ## Jobs, tiles, restarts, sync objects and mailboxes -/

/-- R193, R194: STOP takes a RUNNING job to STOPPING: its unstarted tiles are discarded, the ports and pipelines that serve it alone stop, each at the end of what it has
under way. With no task, command, verdict or unit of it under way, or when STOP_MS is over, it is STOPPED: its tasks and commands are gone, and after a time-out STOP_TIMEOUT
is raised. CLEAR takes a FAULTED job to STOPPED. Each change raises JOB_STATE; no other job's state changes; in any other state nothing happens. -/
def Obligations.JobsStopAndClear : Prop :=
  ∀ (s : State) (dt agent j : Nat), j < 64 → s.live dt →
    let u := (s.pass dt).m
    let others (t : State) : Prop := ∀ i < 64, i ≠ j → t.m.jobState i = u.jobState i
    let gone (t : State) : Prop := (∀ r ∈ t.m.running, r.tile.job ≠ j) ∧ (∀ x ∈ t.m.eng, ∀ q c, x.2.run = some (q, c) → c.job ≠ j)
      ∧ (t.m.jrt j).waiting = [] ∧ (∀ x ∈ t.m.clq, ∀ tl ∈ x.2, tl.job ≠ j) ∧ (∀ x ∈ t.m.asms, x.page ≠ j)
    let told (t : State) (st : Nat) : Prop := raises u t.m 0x0C 0x10 0 [(6, (j : Int)), (3, (st : Int))]
    let late : Bool := match (u.jrt j).stopAt with | some t0 => decide (t0 + max 1 (u.get F.schCfg_STOP_MS) * 1000000 ≤ u.now) | none => false
    let busy : Bool := (u.running.any fun t => t.tile.job = j) || (u.mon.any fun b => b.job = j && !b.delivered)
      || (u.eng.any fun y => match y.2.run with | some (_, c) => c.job = j | none => false)
      || ((u.ownUnits j).any fun x => (x.1 = 1 && u.get (F.grsStatus_STATE x.2) != 0) || (x.1 = 2 && u.get (F.mshCtl_STATE x.2) != 0))
    (s.heeds dt agent 11 → u.jobState j = 2 → answers (.jobStop dt agent j) s (fun t => t.m.jobState j = 3 ∧ others t ∧ told t 3
      ∧ (t.m.jrt j).stopAt = some u.now ∧ (t.m.jrt j).waiting = [] ∧ (∀ x ∈ t.m.clq, ∀ tl ∈ x.2, tl.job ≠ j) ∧ (∀ x ∈ t.m.asms, x.page ≠ j)
      ∧ t.m.running = u.running
      ∧ (∀ x ∈ u.ownUnits j, x.1 = 1 → x.2 < 16 → t.m.get (F.grsStatus_STATE x.2) = 0 ∨ (t.m.grsPort x.2).stopping.isSome = true)
      ∧ (∀ x ∈ u.ownUnits j, x.1 = 2 → x.2 < 16 → t.m.get (F.mshCtl_STATE x.2) ≠ 1) ∧ t.pending = s.pending))
    ∧ (s.heeds dt agent 11 → u.jobState j ≠ 2 → idles (.jobStop dt agent j) s)
    ∧ (u.jobState j = 3 → busy = false → answers (.jobStopped dt j) s (fun t => t.m.jobState j = 4 ∧ others t ∧ told t 4
      ∧ (t.m.jrt j).stopAt = none ∧ gone t ∧ t.pending = s.pending))
    ∧ (u.jobState j ≠ 3 ∨ busy = true → idles (.jobStopped dt j) s)
    ∧ (u.jobState j = 3 → late = true → answers (.stopTimeout dt j) s (fun t => t.m.jobState j = 4 ∧ others t ∧ gone t
      ∧ raises u t.m 0x0C 0x1D 0 [(6, (j : Int))] ∧ (∀ b ∈ t.m.mon, b.job = j → b.delivered = true) ∧ t.pending = s.pending))
    ∧ (u.jobState j ≠ 3 ∨ late = false → idles (.stopTimeout dt j) s)
    ∧ (s.heeds dt agent 11 → u.jobState j = 5 → answers (.jobClear dt agent j) s (fun t => t.m.jobState j = 4 ∧ others t ∧ told t 4
      ∧ t.m.running = u.running ∧ t.m.clq = u.clq ∧ t.m.jobRt = u.jobRt ∧ sameData (s.pass dt) t))
    ∧ (s.heeds dt agent 11 → u.jobState j ≠ 5 → idles (.jobClear dt agent j) s)

/-- R202 to R204: a 64-byte descriptor for a RUNNING job, from one that may write to its page, joins the tile that its writer assembles there; the tile that it completes
enters the queue of its cluster, which wakes when it is parked, or waits for its job to hold a cluster. With 64 tiles in assembly or in that queue the writer waits. A
descriptor of another size or alignment, with a reserved bit set, or from one that may not write raises TASK_REJECTED; one for a job that does not run is discarded.
R204, R147, R211: the head tile of a cluster that is up starts when enough cores are idle: on the lowest-numbered ones, in PLAN order, at the tasks' addresses and with their
arguments; its wait is accounted. R205: a class-1 or class-2 cluster with nothing queued and an idle core takes the youngest tile that may move from its job's fullest
cluster, and STEALS counts. R206: an unreserved cluster with no job, or idle for PARK_US, parks; a woken one is up, and each raises its event. Otherwise nothing happens. -/
def Obligations.TilesArePlacedStartedAndStolen : Prop :=
  (∀ (s : State) (dt agent job addr : Nat) (bytes : List Byte), isWriter agent = true → job < 64 → addr < 2 ^ 40 → s.live dt →
    let u := (s.pass dt).m
    let j := (addr - 0x1800B00000) / 0x1000 % 64
    let ws := pageWords 64 bytes
    let w0 := (ws.getD 0 0).toNat
    let page : Bool := decide (0x1800B00000 ≤ addr) && decide (addr < 0x1800B40000)
    let may : Bool := bytes.length = 64 && addr % 64 = 0 && w0 &&& taskReserved = 0 && mayTask agent (if 0x100 ≤ agent then some job else none) j
    let old := u.asms.find? fun a => a.page = j && a.agent = agent
    let first : Tile := match old with | some a => a.tile | none => tileOf u.tileSeq j u.now w0
    let tile : Tile := { first with tasks := first.tasks ++ [taskOf ws], since := u.now }
    let rest := u.asms.filter fun b => !(b.page = j && b.agent = agent)
    let stall : Bool := (old.isNone && decide (64 ≤ u.asms.length)) || (decide (tile.need ≤ tile.tasks.length)
      && match u.tileHome tile with | some c => decide (64 ≤ (u.clQueue c).length) | none => false)
    (page = true → may = true → u.jobState j = 2 → stall = false →
      (tile.tasks.length < tile.need → answers (.taskWrite dt agent job addr bytes) s (fun t => t.m.asms = rest ++ [⟨j, agent, tile⟩] ∧ t.m.clq = u.clq
        ∧ keepsRegs u t.m [] ∧ sameData (s.pass dt) t))
      ∧ (∀ c, tile.need ≤ tile.tasks.length → u.tileHome tile = some c → answers (.taskWrite dt agent job addr bytes) s (fun t =>
        t.m.clQueue c = u.clQueue c ++ [tile] ∧ (∀ d, d ≠ c → t.m.clQueue d = u.clQueue d) ∧ t.m.asms = rest
        ∧ (c < 96 → u.get (F.flrStat_STATE c) = 2 → t.m.get (F.flrStat_STATE c) = 3) ∧ keepsRegs u t.m [R.flrStat c, R.schJobWm j] ∧ sameData (s.pass dt) t))
      ∧ (tile.need ≤ tile.tasks.length → u.tileHome tile = none → answers (.taskWrite dt agent job addr bytes) s (fun t =>
        (t.m.jrt tile.job).waiting = (u.jrt tile.job).waiting ++ [tile] ∧ t.m.asms = rest ∧ t.m.clq = u.clq ∧ keepsRegs u t.m [R.schJobWm tile.job]
        ∧ sameData (s.pass dt) t)))
    ∧ (page = true → may = false → answers (.taskWrite dt agent job addr bytes) s (fun t =>
      raises u t.m 0x0C 0x1F 0 [(6, (j : Int)), (12, (agent : Int))] ∧ t.m.asms = u.asms ∧ t.m.clq = u.clq ∧ keepsRegs u t.m [] ∧ sameData (s.pass dt) t))
    ∧ (page = false ∨ (may = true ∧ (u.jobState j ≠ 2 ∨ stall = true)) → idles (.taskWrite dt agent job addr bytes) s))
  ∧ ∀ (s : State) (dt cl : Nat), cl < 96 → s.live dt →
    let u := (s.pass dt).m
    let st := u.get (F.flrStat_STATE cl)
    let idle := u.idleCores cl
    let can (t0 : Tile) : Bool := (st = 0 || st = 1) && decide (t0.need ≤ idle.length) && u.tilesRun t0.job && !u.traceStalls 0x061
    let prey := u.prey cl
    let parks : Bool := st = 0 && !u.reserved cl && u.clEmpty cl
      && ((u.clusterJob cl).isNone || decide (u.idleSince cl + u.get F.schCfg_PARK_US * 1000 ≤ u.now))
    (∀ t0 rest, u.clQueue cl = t0 :: rest → can t0 = true → answers (.tileStart dt cl) s (fun t =>
      let k := t0.job
      let wait := u.now - t0.since
      t.m.clQueue cl = rest ∧ (∀ d, d ≠ cl → t.m.clQueue d = u.clQueue d)
      ∧ (t.m.running.map fun r => (r.tile, r.cluster, r.cores)) = (u.running.map fun r => (r.tile, r.cluster, r.cores)) ++ [(t0, cl, idle.take t0.tasks.length)]
      ∧ (∀ x ∈ (sortTasks t0.tasks).zip (idle.take t0.tasks.length), (t.m.core x.2).running = true
          ∧ (t.m.core x.2).pc = x.1.pc ∧ (t.m.core x.2).plan = x.1.plan ∧ ∀ i < 7, (t.m.core x.2).sreg (i + 1) = x.1.args.getD i 0)
      ∧ (∀ c, c ∉ idle.take t0.tasks.length → t.m.core c = u.core c)
      ∧ (k < 64 → t0.again = false → (t.m.jrt k).waitNs = (u.jrt k).waitNs + wait
        ∧ t.m.get (F.schAccWait_TOTAL k) = ((u.jrt k).waitNs + wait) / 1000 % 2 ^ (F.schAccWait_TOTAL k).w
        ∧ t.m.get (F.schAccWmax_MAX k) = max (u.get (F.schAccWmax_MAX k)) (min (wait / 1000) (2 ^ 32 - 1)))
      ∧ keepsRegs u t.m ([R.flrStat cl, R.schJobWm k, R.schAccWait k, R.schAccWmax k] ++ (List.range 8).map fun i => R.schAccHist k i)
      ∧ sameData (s.pass dt) t))
    ∧ ((∀ t0 rest, u.clQueue cl = t0 :: rest → can t0 = false) → idles (.tileStart dt cl) s)
    ∧ (∀ i d t0, u.clusterJob cl = some i → prey = some (d, t0) → answers (.steal dt cl) s (fun t => t.m.clQueue cl = [t0]
      ∧ t.m.clQueue d = (u.clQueue d).filter (fun x => x.id ≠ t0.id) ∧ (∀ e, e ≠ cl → e ≠ d → t.m.clQueue e = u.clQueue e)
      ∧ t.m.get (F.schAccCnt_STEALS i) = (u.get (F.schAccCnt_STEALS i) + 1) % 2 ^ (F.schAccCnt_STEALS i).w
      ∧ keepsRegs u t.m [R.schAccCnt i, R.flrStat cl, R.schJobWm t0.job] ∧ sameData (s.pass dt) t))
    ∧ (prey = none → idles (.steal dt cl) s)
    ∧ (parks = true → answers (.clusterParked dt cl) s (fun t => raises u t.m 0x09 0x11 cl [(7, (cl : Int))]
      ∧ (t.m.get (F.flrStat_STATE cl) = 2 ∨ t.m.get (F.flrStat_STATE cl) = 3)
      ∧ ((∀ i < 64, (u.jrt i).waiting = []) → t.m.get (F.flrStat_STATE cl) = 2) ∧ t.pending = s.pending))
    ∧ (parks = false → idles (.clusterParked dt cl) s)
    ∧ (st = 3 → answers (.clusterWoken dt cl) s (fun t => raises u t.m 0x09 0x12 cl [(7, (cl : Int))]
      ∧ t.m.get (F.flrStat_STATE cl) = (if ((List.range 64).all fun k => !(u.core (64 * cl + k)).running) then 0 else 1)
      ∧ keepsRegs u t.m [R.flrStat cl] ∧ sameData (s.pass dt) t))
    ∧ (st ≠ 3 → idles (.clusterWoken dt cl) s)

/-- R207, R208, R211: a pre-emption takes place for a class-1 job that pre-empts class 2, or within a class other than 0; it takes the job's tasks off their cores and its
clusters away, counts in PREEMPTS, raises PREEMPTED and opens the switch that ends 200 µs and the copies' time later; the job stays RUNNING with PREEMPTED set, unless a bus
error of the copies faults it. A shed class's job is PAUSED the same way. When the switch is over, and the pages of the incoming job's next steps are back (R180), that job is
neither PREEMPTED nor PAUSED. Where no case of R207 holds, or the switch is not over, nothing happens. -/
def Obligations.PreemptionSwitchesJobs : Prop :=
  ∀ (s : State) (dt j i : Nat), j < 64 → i < 64 → s.live dt →
    let u := (s.pass dt).m
    let off (t : State) : Prop := (∀ r ∈ t.m.running, r.tile.job ≠ j)
      ∧ t.m.get (F.schAccCnt_PREEMPTS j) = (u.get (F.schAccCnt_PREEMPTS j) + 1) % 2 ^ (F.schAccCnt_PREEMPTS j).w
    let bytesIn := match (u.jrt i).saved with | some v => v.bytes | none => 0
    let pauses : Bool := u.jobClass j ≠ 0 && u.classShed j && u.jobActive j && !u.on (F.schJobStat_PAUSED j)
    (u.mayPreempt j i = true → (u.jobClass i = 1 ∧ u.jobClass j = 2) ∨ (u.jobClass i = u.jobClass j ∧ u.jobClass j ≠ 0))
    ∧ (i ≠ 0x3F → u.mayPreempt j i = true → answers (.preempt dt j i) s (fun t => off t ∧ raises u t.m 0x0C 0x13 0 [(6, (j : Int)), (6, (i : Int))]
      ∧ (t.m.jrt j).clusters = [] ∧ t.m.switching = some ⟨i, u.now + 200000 + (u.footprint j + bytesIn) / 64⟩
      ∧ (t.m.jobState j = u.jobState j → t.m.on (F.schJobStat_PREEMPTED j) = true) ∧ t.pending = s.pending))
    ∧ (i ≠ 0x3F → u.mayPreempt j i = false → idles (.preempt dt j i) s)
    ∧ (pauses = true → answers (.preempt dt j 0x3F) s (fun t => off t ∧ raises u t.m 0x0C 0x13 0 [(6, (j : Int)), (6, 0x3F)]
        ∧ (t.m.jrt j).clusters = [] ∧ (t.m.jobState j = u.jobState j → t.m.on (F.schJobStat_PAUSED j) = true) ∧ t.pending = s.pending))
    ∧ (pauses = false → idles (.preempt dt j 0x3F) s)
    ∧ (∀ due, u.switching = some ⟨j, due⟩ → due ≤ u.now →
      (u.jobState j = 2 → u.classShed j = false → u.pagesBack j = true → answers (.jobResumed dt j) s (fun t => t.m.switching = none
        ∧ t.m.on (F.schJobStat_PREEMPTED j) = false ∧ t.m.on (F.schJobStat_PAUSED j) = false ∧ t.pending = s.pending))
      ∧ (u.jobState j ≠ 2 ∨ u.classShed j = true → answers (.jobResumed dt j) s (fun t => t.m = { u with switching := none } ∧ sameData (s.pass dt) t))
      ∧ (u.jobState j = 2 → u.classShed j = false → u.pagesBack j = false → answers (.jobResumed dt j) s (fun t => t.m.switching = u.switching
        ∧ t.m.running = u.running ∧ t.pending = s.pending)))
    ∧ (∀ k due, u.switching = some ⟨k, due⟩ → k ≠ j ∨ u.now < due → idles (.jobResumed dt j) s)

/-- R199, R200: the verdict bucket gains a token each 1,000 ns, up to 196; LOAD clears 120 µs after it last broke with no BACKLOG overdue, and with every condition holding
HELD sets and GUARANTEE_HELD is raised. R201: an engine's slot frame begins at its Reel multiple. R209, R244: at its switch point a block gets its reserve verdict when that
is ready (RESERVE_USED), else none is noted (NO_VERDICT); a main verdict is delivered when it comes first, or held where the choice is another's (R210); a reserve waits, or
is delivered where it is the choice; a main one after the delivery only counts (MAIN_AFTER); the events are raised at the first block of a run (R509). A store that is no
aligned 32 bytes raises TASK_REJECTED. Before its time, for a block or job that is not the monitor's, from a core that does not run, nothing happens. -/
def Obligations.MonitorDeliversVerdicts : Prop :=
  ∀ (s : State) (dt k addr port e : Nat) (bytes : List Byte), isCore k = true → addr < 2 ^ 40 → port < 16 → e < 23 → s.live dt →
    let u := (s.pass dt).m
    let calm : Bool := decide (u.loadAt + 120000 ≤ u.now) && !u.hop.any fun y => y.1 < 1024 && y.2.live && u.overdue y.1
    let load := if calm then 0 else u.get F.schGuar_LOAD
    let whole : Bool := u.started && !u.on F.schGuar_HELD && load = 0 && u.get F.schGuar_CLOCK = 0 && u.get F.schGuar_SUPPLY = 0 && u.get F.schGuar_TRACE = 0
    (u.bucketAt + 1000 ≤ u.now → answers (.bucketRefill dt) s (fun t =>
      t.m.get F.schGuar_BUCKET = min 196 (u.get F.schGuar_BUCKET + 1) ∧ t.m = { u with bucketAt := u.bucketAt + 1000, regs := t.m.regs }
      ∧ keepsRegs u t.m [R.schGuar] ∧ sameData (s.pass dt) t))
    ∧ (u.now < u.bucketAt + 1000 → idles (.bucketRefill dt) s)
    ∧ answers (.guaranteeHeld dt) s (fun t => t.m.get F.schGuar_LOAD = load
        ∧ t.m.on F.schGuar_HELD = (u.on F.schGuar_HELD || whole) ∧ (whole = true → raises u t.m 0x0C 0x18 0 [])
        ∧ keepsRegs u t.m [R.schGuar] ∧ sameData (s.pass dt) t)
    ∧ ((u.engine e).frame + 16000 ≤ u.reel → answers (.frameStart dt e) s (fun t => (t.m.engine e).busy = []
      ∧ (t.m.engine e).frame = u.reel.fdiv 16000 * 16000 ∧ (t.m.engine e).run = (u.engine e).run ∧ (∀ g, g ≠ e → t.m.engine g = u.engine g)
      ∧ t.m = { u with eng := t.m.eng } ∧ sameData (s.pass dt) t))
    ∧ (u.reel < (u.engine e).frame + 16000 → idles (.frameStart dt e) s)
    ∧ (∀ b block, u.monBlk port block = some b → b.job < 64 →
      let due : Bool := !b.delivered && u.choosesItself && match b.switchAt with | some t0 => decide (t0 ≤ u.reel) | none => false
      let args : List (Nat × Int) := monArgs b.job b.port b.block
      let used := F.schAccVerd_RESERVE_USED b.job
      let none' := F.schAccVerd2_NO_VERDICT b.job
      (∀ v, due = true → b.reserve = some v → answers (.switchPoint dt port block) s (fun t =>
        t.m.verdQ = u.verdQ ++ [(b.axis, { v with tag := b.tag, dreel := u.reel })] ∧ t.m.get used = (u.get used + 1) % 2 ^ used.w
        ∧ (u.runs.any (·.is 0x0C 0x14 0 b.job) = false → raises u t.m 0x0C 0x14 0 args)
        ∧ (∀ x, t.m.monBlk port block = some x → x.delivered = true) ∧ sameData (s.pass dt) t))
      ∧ (due = true → b.reserve = none → answers (.switchPoint dt port block) s (fun t => t.m.verdQ = u.verdQ
        ∧ t.m.get none' = (u.get none' + 1) % 2 ^ none'.w ∧ (u.runs.any (·.is 0x0C 0x16 0 b.job) = false → raises u t.m 0x0C 0x16 0 args)
        ∧ t.m.monBlk port block = some { b with switchAt := none } ∧ sameData (s.pass dt) t))
      ∧ (due = false → idles (.switchPoint dt port block) s))
    ∧ (∀ block, u.monBlk port block = none → idles (.switchPoint dt port block) s)
    ∧ (∀ j, u.coreJob k = some j → (u.core k).running = true → 0x1800B40000 ≤ addr → addr < 0x1800B80000 →
      let v := verdictOf j (pageWords 32 bytes)
      let whole' : Bool := decide (addr % 32 = 0) && decide (bytes.length = 32)
      (∀ b, whole' = true → u.monBlk v.port v.block = some b → b.job = j → b.job < 64 →
        let chosen : Bool := (u.choosesItself && b.switchAt.isNone) || b.told = some 1
        let sent (w : Verdict) : List (Nat × Verdict) := u.verdQ ++ [(b.axis, { w with tag := b.tag, dreel := u.reel })]
        let after := F.schAccVerd2_MAIN_AFTER j
        let used := F.schAccVerd_RESERVE_USED j
        (v.kind = 0 → b.delivered = false → u.mainHeld b = false → answers (.verdictStore dt k addr bytes) s (fun t =>
          t.m.verdQ = sent v ∧ t.m.monBlk v.port v.block = none ∧ sameData (s.pass dt) t))
        ∧ (v.kind = 0 → b.delivered = false → u.mainHeld b = true → answers (.verdictStore dt k addr bytes) s (fun t =>
          t.m.verdQ = u.verdQ ∧ t.m.monBlk v.port v.block = some { b with main := some v } ∧ keepsRegs u t.m [] ∧ sameData (s.pass dt) t))
        ∧ (v.kind = 0 → b.delivered = true → answers (.verdictStore dt k addr bytes) s (fun t =>
          t.m.verdQ = u.verdQ ∧ t.m.monBlk v.port v.block = none ∧ t.m.get after = (u.get after + 1) % 2 ^ after.w
          ∧ (u.runs.any (·.is 0x0C 0x15 0 j) = false → raises u t.m 0x0C 0x15 0 (monArgs j v.port v.block)) ∧ sameData (s.pass dt) t))
        ∧ (v.kind = 1 → b.delivered = false → chosen = false → answers (.verdictStore dt k addr bytes) s (fun t =>
          t.m.monBlk v.port v.block = some { b with reserve := some v } ∧ t.m.verdQ = u.verdQ ∧ keepsRegs u t.m [] ∧ sameData (s.pass dt) t))
        ∧ (v.kind = 1 → b.delivered = false → chosen = true → answers (.verdictStore dt k addr bytes) s (fun t =>
          t.m.verdQ = sent v ∧ t.m.get used = (u.get used + 1) % 2 ^ used.w ∧ sameData (s.pass dt) t))
        ∧ (2 ≤ v.kind ∨ (v.kind = 1 ∧ b.delivered = true) → idles (.verdictStore dt k addr bytes) s))
      ∧ (whole' = true → (∀ b, u.monBlk v.port v.block = some b → b.job ≠ j) → idles (.verdictStore dt k addr bytes) s)
      ∧ (whole' = false → answers (.verdictStore dt k addr bytes) s (fun t => t.m.mon = u.mon ∧ t.m.verdQ = u.verdQ ∧ keepsRegs u t.m []
        ∧ raises u t.m 0x0C 0x1F 0 [(6, (addr / 0x1000 % 64 : Int)), (12, (u.coreAgent k : Int))] ∧ sameData (s.pass dt) t)))
    ∧ (u.coreJob k = none ∨ (u.core k).running = false ∨ addr < 0x1800B40000 ∨ 0x1800B80000 ≤ addr → idles (.verdictStore dt k addr bytes) s)

/-- R212: arming a restart whose jobs are LOADED or STOPPED and whose tick lies 1 ms to 10 s ahead, with a MODE that is RUN or (for a global scope) REPLAY, while none is
ARMED, gives it the next ID and STATUS ARMED, and lists the units in scope whose configuration is rejected (R213; a REPLAY's ring check is log entry 70's); any other is
REFUSED; a write without ARM sets MODE alone. R213: a module that is part of its position takes a request; the originator gathers reports by T_R − 200 µs, and decides GO
then when every part has reported without a lag, else ABANDON, which lists the lagging units and raises RESTART_ABANDONED; a module takes the decision of the restart it
holds, and an ABANDON raises the event there too. A report, decision or message that is not awaited does nothing. -/
def Obligations.RestartsArmReportAndDecide : Prop :=
  ∀ (s : State) (dt agent : Nat) (val : Word), s.live dt → (s.pass dt).flips = [] →
    let u := (s.pass dt).m
    let mode := (val.extractLsb' 1 2).toNat
    let scope := u.get F.schRestartScope_JOBS
    let ahead := wrapI 64 ((u.get F.schRestartAt_TICK : Int) - u.reel)
    let named := if scope = 2 ^ 64 - 1 then u.scopeJobs scope else (List.range 64).filter scope.testBit
    let stands : Bool := !u.armed && decide (mode < 2) && (mode = 0 || scope = 2 ^ 64 - 1) && decide (1000000 ≤ ahead) && decide (ahead ≤ 10000000000)
      && named.all fun j => u.jobState j = 1 || u.jobState j = 4
    let units (sc : Nat) : List (Nat × Nat) := (u.scopeUnits sc).filter u.takesPart
    let bad (sc : Nat) : List (Nat × Nat × Nat) := (units sc).filterMap fun x => (u.unitBad (units sc) x).map fun o => (x.1, x.2, o)
    (s.heeds dt agent 11 →
      (val.getLsbD 0 = true → stands = true → answers (.restartArm dt agent val) s (fun t => t.m.get F.schRestartCtl_STATUS = 1
        ∧ t.m.get F.schRestartCtl_ID = (u.get F.schRestartCtl_ID + 1) % 2 ^ F.schRestartCtl_ID.w ∧ t.m.get F.schRestartCtl_MODE = mode
        ∧ t.m.on F.schRestartCtl_ORIGIN = true ∧ (∀ j < 64, t.m.jobState j = u.jobState j) ∧ t.pending = s.pending
        ∧ ∃ r, t.m.restart = some r ∧ r.id = t.m.get F.schRestartCtl_ID ∧ r.tick = u.reel + ahead ∧ r.scope = scope ∧ r.mode = mode ∧ r.origin = true
          ∧ r.go = none ∧ r.started = false ∧ r.units = units scope ∧ r.reports = [(u.chainPos, false)]
          ∧ (mode = 0 → u.follower = false → u.tngIs 6 = false → (r.lags.map fun g => (g.block, g.inst, g.offset)) = bad scope)))
      ∧ (val.getLsbD 0 = true → stands = false → answers (.restartArm dt agent val) s (fun t => t.m.get F.schRestartCtl_STATUS = 4
        ∧ t.m.restart = u.restart ∧ (mode ≠ 1 → keepsRegs u t.m [R.schRestartCtl]) ∧ t.pending = s.pending))
      ∧ (val.getLsbD 0 = false → answers (.restartArm dt agent val) s (fun t => t.m.get F.schRestartCtl_MODE = mode
        ∧ t.m.get F.schRestartCtl_STATUS = u.get F.schRestartCtl_STATUS ∧ t.m = { u with regs := t.m.regs } ∧ keepsRegs u t.m [R.schRestartCtl]
        ∧ sameData (s.pass dt) t)))
    ∧ (∀ id tick (sc : Word) md origin recipes,
      let takes : Bool := !u.armed && !u.tngIs 1 && !u.tngIs 5
      (takes = true → answers (.restartRequest dt id tick sc md origin recipes) s (fun t => t.m.get F.schRestartCtl_STATUS = 1
        ∧ t.m.get F.schRestartCtl_ID = id % 2 ^ F.schRestartCtl_ID.w ∧ t.m.on F.schRestartCtl_ORIGIN = false ∧ t.pending = s.pending
        ∧ ∃ r, t.m.restart = some r ∧ r.id = id ∧ r.tick = tick ∧ r.scope = sc.toNat ∧ r.mode = md ∧ r.origin = false ∧ r.go = none
          ∧ r.units = units sc.toNat
          ∧ (md = 0 → u.follower = false → u.tngIs 6 = false → (r.lags.map fun g => (g.block, g.inst, g.offset)) = bad sc.toNat)))
      ∧ (takes = false → md ≠ 1 → idles (.restartRequest dt id tick sc md origin recipes) s))
    ∧ (∀ pos fol lags, pos < 32 →
      (∀ r, u.restart = some r →
        let awaited : Bool := r.origin && r.go.isNone && !r.reports.contains (pos, fol) && decide (u.reel ≤ r.tick - 200000)
        (awaited = true → answers (.restartReport dt pos fol lags) s (fun t =>
          t.m = { u with restart := some { r with reports := r.reports ++ [(pos, fol)], lags := r.lags ++ lags } } ∧ sameData (s.pass dt) t))
        ∧ (awaited = false → idles (.restartReport dt pos fol lags) s))
      ∧ (u.restart = none → idles (.restartReport dt pos fol lags) s))
    ∧ (∀ r, u.restart = some r →
      let due : Bool := r.origin && r.go.isNone && decide (r.tick - 200000 ≤ u.reel)
      let quiet := u.expected.filter fun p => !r.reports.contains p
      let n := r.lags.length + quiet.length
      (due = true → n = 0 → answers (.restartDecision dt) s (fun t => t.m.restart = some { r with go := some true } ∧ keepsRegs u t.m []
        ∧ sameData (s.pass dt) t))
      ∧ (due = true → n ≠ 0 → answers (.restartDecision dt) s (fun t => t.m.get F.schRestartCtl_STATUS = 3
        ∧ (∃ r', t.m.restart = some r' ∧ r'.go = some false ∧ r'.started = true ∧ r'.id = r.id
          ∧ (r'.lags.map fun g => (g.pos, g.follower, g.reason)) = (r.lags.map fun g => (g.pos, g.follower, g.reason)) ++ quiet.map fun p => (p.1, p.2, 1))
        ∧ t.m.get F.schRestartCtl_LAGS = min n 16 ∧ t.m.on F.schRestartCtl_OVF = decide (16 < n)
        ∧ raises u t.m 0x0C 0x1A 0 [(16, (r.id : Int)), (32, (n : Int))] ∧ (∀ j < 64, t.m.jobState j = u.jobState j) ∧ sameData (s.pass dt) t))
      ∧ (due = false → idles (.restartDecision dt) s)
      ∧ (∀ id go, r.origin = false → r.id = id → r.go = none →
        (go = true → answers (.restartDecisionMsg dt id go) s (fun t => t.m.restart = some { r with go := some true } ∧ keepsRegs u t.m [] ∧ sameData (s.pass dt) t))
        ∧ (go = false → answers (.restartDecisionMsg dt id go) s (fun t => t.m.restart = none ∧ t.m.get F.schRestartCtl_STATUS = 3
          ∧ raises u t.m 0x0C 0x1A 0 [(16, (id : Int)), (32, (r.lags.length : Int))] ∧ keepsRegs u t.m [R.schRestartCtl] ∧ sameData (s.pass dt) t)))
      ∧ (∀ id go, r.origin = true ∨ r.id ≠ id ∨ r.go ≠ none → idles (.restartDecisionMsg dt id go) s))
    ∧ (u.restart = none → idles (.restartDecision dt) s ∧ ∀ id go, idles (.restartDecisionMsg dt id go) s)

/-- R193, R213, R214: at its tick a restart with GO starts: every stopped port, pipeline, position and compare unit of it starts, every job in scope goes RUNNING, STATUS reads
STARTED and RESTART_DONE is raised; without GO the module is ORPHANED, nothing starts, and RESTART_ORPHANED is raised. The originator notes each acknowledgement once, and
50 µs after the tick is done with the restart: where one is missing STATUS reads INCOMPLETE and RESTART_INCOMPLETE is raised. Before its time nothing happens. -/
def Obligations.RestartsStartAtTheirTick : Prop :=
  ∀ (s : State) (dt : Nat), s.live dt →
    let u := (s.pass dt).m
    (∀ r, u.restart = some r →
      let due : Bool := !r.started && decide (r.tick ≤ u.reel)
      (due = true → r.go = some true → answers (.restartTick dt) s (fun t => t.m.get F.schRestartCtl_STATUS = 2
        ∧ raises u t.m 0x0C 0x19 0 [(16, (r.id : Int))] ∧ (∀ j ∈ u.scopeJobs r.scope, t.m.jobState j = 2)
        ∧ (∀ x ∈ r.units, x.1 = 0x01 → x.2 < 16 → t.m.get (F.grsStatus_STATE x.2) ≠ 0)
        ∧ (∀ x ∈ r.units, x.1 = 0x02 → x.2 < 16 → t.m.get (F.mshCtl_STATE x.2) ≠ 0)
        ∧ (∀ x ∈ r.units, x.1 = 0x0F → x.2 < 8 → t.m.get (F.posStat_STATE x.2) = 1)
        ∧ (∀ x ∈ r.units, x.1 = 0x10 → x.2 < 8 → t.m.get (F.cmpCtl_STATE x.2) = 1)
        ∧ t.m.restart = (if r.origin then some { r with started := true, units := [] } else none) ∧ t.pending = s.pending))
      ∧ (due = true → r.go ≠ some true → answers (.restartTick dt) s (fun t => t.m.get F.schRestartCtl_STATUS = 5
        ∧ raises u t.m 0x0C 0x1B 0 [(16, (r.id : Int))] ∧ t.m.restart = none ∧ keepsRegs u t.m [R.schRestartCtl] ∧ sameData (s.pass dt) t))
      ∧ (due = false → idles (.restartTick dt) s)
      ∧ (∀ pos fol, pos < 32 →
        (r.origin = true → (pos, fol) ∉ r.acks → answers (.restartAck dt pos fol) s (fun t =>
          t.m = { u with restart := some { r with acks := r.acks ++ [(pos, fol)] } } ∧ sameData (s.pass dt) t))
        ∧ (r.origin = false ∨ (pos, fol) ∈ r.acks → idles (.restartAck dt pos fol) s))
      ∧ (let overran : Bool := r.origin && r.started && decide (r.tick + 50000 ≤ u.reel)
        let quiet := u.expected.filter fun p => !r.acks.contains p
        (overran = true → quiet = [] → answers (.restartIncomplete dt) s (fun t => t.m = { u with restart := none } ∧ sameData (s.pass dt) t))
        ∧ (overran = true → quiet ≠ [] → answers (.restartIncomplete dt) s (fun t => t.m.restart = none ∧ t.m.get F.schRestartCtl_STATUS = 6
          ∧ raises u t.m 0x0C 0x1C 0 [(16, (r.id : Int)), (32, (quiet.length : Int))] ∧ 1 ≤ t.m.get F.schRestartCtl_LAGS ∧ sameData (s.pass dt) t))
        ∧ (overran = false → idles (.restartIncomplete dt) s)))
    ∧ (u.restart = none → idles (.restartTick dt) s ∧ idles (.restartIncomplete dt) s ∧ ∀ pos fol, idles (.restartAck dt pos fol) s)

/-- R216, R217, R226: SYN_ADD adds its increment modulo 2^32 and satisfies every armed port whose threshold is reached; an increment of 0 is ignored; SYN_OBJ writes an object,
with the same effect on the ports, unless its owner runs: then a write that would change it raises CFG_LOCKED. R220, R221: a mailbox takes a word when empty, stamped with its
sender; a full one refuses it, counts it and raises SEND_REFUSED; a read takes the word once and serves the first sender that waits; a read of an empty one changes nothing. -/
def Obligations.SyncObjectsAndMailboxes : Prop :=
  ∀ (s : State) (dt agent n : Nat) (val : Word), s.live dt → (s.pass dt).m.stepsDone → (s.pass dt).m.violated = [] →
    let u := (s.pass dt).m
    let o := (val.extractLsb' 50 14).toNat
    let inc := (val.extractLsb' 0 8).toNat
    let next := (u.get (F.synObj_VALUE o) + inc) % 2 ^ 32
    let mask : Word := 0xFE000000FFFFFFFF
    let full := u.on (F.mbxSide_FULL n)
    let box := [R.mbxTake n, R.mbxSide n, R.mbxStat]
    let woken := [R.flrStat (u.get (F.mbxCfg_CLUSTER n))]
    (s.heeds dt agent 12 →
      (inc ≠ 0 → answers (.synAdd dt agent val) s (fun t => t.m.get (F.synObj_VALUE o) = next ∧ sameData (s.pass dt) t
        ∧ (∀ i, (t.m.port i) = { u.port i with sat := (u.port i).sat || ((u.port i).armed && (u.port i).obj = o && satisfied next (u.port i).thr) })
        ∧ (∀ k < 16384, k ≠ o → t.m.rd (R.synObj k) = u.rd (R.synObj k)) ∧ keepsWindows u t.m [10, 11, 12, 25]))
      ∧ (inc = 0 → idles (.synAdd dt agent val) s)
      ∧ (n < 16384 → u.jobLocked (u.get (F.synObj_OWNER n)) = false → answers (.synObj dt agent n val) s (fun t =>
        t.m.rd (R.synObj n) = val &&& mask ∧ keepsRegs u t.m [R.synObj n] ∧ sameData (s.pass dt) t
        ∧ ∀ i, (u.port i).armed = true → (u.port i).obj = n → satisfied (val.toNat % 2 ^ 32) (u.port i).thr = true → (t.m.port i).sat = true))
      ∧ (n < 16384 → u.jobLocked (u.get (F.synObj_OWNER n)) = true → (val ^^^ u.rd (R.synObj n)) &&& mask ≠ 0 → answers (.synObj dt agent n val) s (fun t =>
        raises u t.m 0x0D 0x02 0 [] ∧ keepsRegs u t.m [] ∧ t.m.ports = u.ports ∧ sameData (s.pass dt) t))
      ∧ (n < 16384 → u.jobLocked (u.get (F.synObj_OWNER n)) = true → (val ^^^ u.rd (R.synObj n)) &&& mask = 0 → idles (.synObj dt agent n val) s))
    ∧ (s.heeds dt agent 13 → n < 512 →
      (full = false → answers (.mbxSend dt agent n val) s (fun t => t.m.rd (R.mbxTake n) = val ∧ t.m.on (F.mbxSide_FULL n) = true
        ∧ t.m.get (F.mbxSide_SENDER n) = agent % 2 ^ (F.mbxSide_SENDER n).w ∧ t.m = { u with regs := t.m.regs } ∧ keepsRegs u t.m (box ++ woken)
        ∧ sameData (s.pass dt) t))
      ∧ (full = true → answers (.mbxSend dt agent n val) s (fun t => counted u t.m F.mbxStat_REFUSED
        ∧ raises u t.m 0x0E 0x10 0 [(12, (agent : Int)), (9, (n : Int)), (32, 1)] ∧ keepsRegs u t.m [R.mbxStat] ∧ sameData (s.pass dt) t))
      ∧ (full = true → u.mbxWait.find? (fun w => w.mbx = n) = none → answers (.mbxTake dt agent n) s (fun t =>
        t.m.on (F.mbxSide_FULL n) = false ∧ t.m.rd (R.mbxTake n) = 0 ∧ t.m.get (F.mbxSide_SENDER n) = u.get (F.mbxSide_SENDER n)
        ∧ t.m = { u with regs := t.m.regs } ∧ keepsRegs u t.m box ∧ sameData (s.pass dt) t))
      ∧ (∀ w, full = true → u.mbxWait.find? (fun w => w.mbx = n) = some w → answers (.mbxTake dt agent n) s (fun t =>
        t.m.on (F.mbxSide_FULL n) = true ∧ t.m.rd (R.mbxTake n) = w.val ∧ t.m.get (F.mbxSide_SENDER n) = w.agent % 2 ^ (F.mbxSide_SENDER n).w
        ∧ (w.d ≠ 0 → (t.m.core w.core).sreg w.d = 1) ∧ t.m.mbxWait = u.mbxWait.erase w ∧ keepsRegs u t.m (box ++ woken) ∧ sameData (s.pass dt) t))
      ∧ (full = false → idles (.mbxTake dt agent n) s))

/-! ## Hopper -/

/-- R165 to R168, R178: the step of an entry whose row is formed, whose turn has come and whose pages are there issues. Its masks are written, an absent side's object is
signalled LAYERS times, STEP and the ring's index go up by one, the ring holds the 32-byte work item, its list object is signalled, and no other byte of memory changes (said
where memory takes the writes, the job owns the objects, which differ, and the masks do not lie over the item). Without a frame for a page it writes, or with a page not
resident, the step waits, which counts once a step, and raises ISSUE_STALL when every candidate is pinned. A mask that meets a bus error puts the entry in STOPPED and faults
the job (R191). Before its turn nothing happens, nor while the job's tasks have no room. -/
def Obligations.StepsIssueWorkItems : Prop :=
  ∀ (s : State) (dt e : Nat), e < 1024 → s.live dt →
    let u := (s.pass dt).m
    let st := u.hopNext e
    let j := u.hopJob e
    let b := bucketOf (u.rows e st * u.across e)
    let k := u.ringIdx j b
    let slots := max 1 (u.get (F.hopJobList_SLOTS j))
    let a := u.get (F.hopJobList_BASE j) + (b * slots + k % slots) * 32
    let list := (u.get (F.hopJobSync_LIST_OBJ j) + b) % 16384
    let halo (r : Bool) : Nat := u.haloObj e r
    let masks := (List.range (u.layers e)).map fun l => (u.maskAddr e st l, u.maskB e)
    let turn : Bool := u.mayIssue e && u.ringRoom j b && !u.traceStalls 0x060 && !u.outranked e
    let known : Bool := (u.stepPages e st).all fun vp => (u.page e vp).isSome
    let back : Bool := u.pages.all fun p => p.ent ≠ e || p.st = .resident
    let free : Prop := (u.hopEnt e).held = [] ∧ u.violated = [] ∧ (s.pass dt).unflipped ∧ u.on F.hopPoolStat_SPILLING = false
    let reach : Bool := masks.all fun x => (u.reaches (u.hopAcc e) true x.1 x.2).1
    let owns : Bool := [list, halo false, halo true].all (u.synOwns j)
    (turn = true → u.hopClass e = 0 ∨ (known = true ∧ back = true) → free → (u.itemTasks j).isSome = true → reach = true →
      (u.reaches (u.hopAcc e) true a 32).1 = true → st + 1 < 2 ^ 64 → owns = true → list ≠ halo false → list ≠ halo true → halo false ≠ halo true →
      (∀ x ∈ masks, a + 32 ≤ x.1 ∨ x.1 + x.2 ≤ a) → answers (.stepIssue dt e) s (fun t => t.m.hopNext e = st + 1 ∧ t.m.ringIdx j b = (k + 1) % 2 ^ 32
        ∧ (∀ c, c < 4 → c ≠ b → t.m.ringIdx j c = u.ringIdx j c) ∧ t.m.get (F.synObj_VALUE list) = (u.get (F.synObj_VALUE list) + 1) % 2 ^ 32
        ∧ (∀ r, u.nbrType e r = 0 → ((u.hopEnt e).side r).detach = none → ((u.hopEnt e).side r).got = st * u.layers e →
          t.m.get (F.synObj_VALUE (halo r)) = (u.get (F.synObj_VALUE (halo r)) + u.layers e) % 2 ^ 32)
        ∧ (∀ r, u.nbrType e r ≠ 0 → ((u.hopEnt e).side r).detach = none → t.m.get (F.synObj_VALUE (halo r)) = u.get (F.synObj_VALUE (halo r)))
        ∧ (∀ l < u.layers e, t.holds (u.maskAddr e st l) (u.maskBytes e st l)) ∧ t.holds a (u.workItem e st)
        ∧ keepsBytes (s.pass dt) t ((a, 32) :: masks) ∧ keepsWindows u t.m [8, 10, 11, 12, 25] ∧ t.pending = s.pending))
    ∧ (turn = true → u.hopClass e ≠ 0 → free → known = true → back = false → answers (.stepIssue dt e) s (fun t =>
      t.m.hopNext e = st ∧ t.m.widx = u.widx ∧ ((u.hopEnt e).stalled = none → counted u t.m F.hopCnt_ISSUE_STALL)
      ∧ (∀ r, (u.hopEnt e).stalled = some (st, r) → t.m.get F.hopCnt_ISSUE_STALL = u.get F.hopCnt_ISSUE_STALL) ∧ t.pending = s.pending))
    ∧ (turn = true → u.hopClass e ≠ 0 → free → known = false → u.freeFrame = none → answers (.stepIssue dt e) s (fun t =>
      t.m.hopNext e = st ∧ ((u.hopEnt e).stalled = none → counted u t.m F.hopCnt_ISSUE_STALL
        ∧ (u.victims = [] → (∀ p ∈ u.pages, p.st ≠ .spilling) → raises u t.m 0x0B 0x15 0 [(10, (e : Int)), (32, (st : Int))]))
      ∧ keepsRegs u t.m [R.hopCnt] ∧ sameData (s.pass dt) t))
    ∧ (turn = true → u.hopClass e = 0 → free → (u.itemTasks j).isSome = true → reach = false → answers (.stepIssue dt e) s (fun t =>
      t.m.hopNext e = st ∧ t.m.hopState e = 4 ∧ t.m.jobState j = 5 ∧ raises u t.m 0x0B 0x04 0 [] ∧ t.m.widx = u.widx ∧ t.pending = s.pending))
    ∧ (turn = true → u.hopClass e = 0 → free → u.itemTasks j = none → idles (.stepIssue dt e) s)
    ∧ (turn = false → idles (.stepIssue dt e) s)

/-- R183: an edge that EDGE has reached is sent on, by copy or by message; a copy to a local neighbour lands in order and is signalled there.
R185, R190: a halo message or END notice that passes R185's conditions is taken, an END being a detach at (e, 0) that counts in ENDS; any other is discarded, counted and
raised with its reason. R187, R188: a halo that has not come LATE_NS after EDGE reached its count sets LATE, counts and raises HALO_LATE, once a step; TMO_US after it the side
is detached at the halo's step and layer: the masks of the step in flight are rewritten from that layer on, the side's object is signalled for the layers left, DETACHED counts
and HALO_DETACHED is raised; not on a follower or in REPLAY (R189). Tokens whose page is not there stay; a bus error faults (R191). Otherwise nothing happens. -/
def Obligations.HalosMoveOrDetach : Prop :=
  (∀ (s : State) (dt e side : Nat), e < 1024 → side < 2 → s.live dt →
    let u := (s.pass dt).m
    let j := u.hopJob e
    let right : Bool := side = 1
    let h := (u.hopEnt e).side right
    let layers := u.layers e
    let ty := u.nbrType e right
    let dst := u.nbrEnt e right
    let d := (u.hopEnt dst).side !right
    let sends : Bool := decide (h.sent < u.hopNext e * layers) && (u.hopEnt e).live && (ty = 1 || ty = 2)
      && satisfied (u.get (F.synObj_VALUE (u.get (F.hopEntSync_EDGE_OBJ e)))) ((h.sent + 1) % 2 ^ 32)
    let copies : Bool := ty = 1 && decide (h.copied < h.sent) && (u.hopEnt e).live
    let takes : Bool := (u.hopEnt dst).live && !d.shut layers && decide (d.got = h.copied)
    let edge := (s.pass dt).fx.edgeTokens e right (h.sent / layers) (h.sent % layers)
    let tokens := (s.pass dt).fx.edgeTokens e right (h.copied / layers) (h.copied % layers)
    let head := u.haloHeader e dst (!right) (h.sent % layers) false (h.sent / layers + u.stepBase j)
    let faulted (t : State) : Prop := t.m.hopState e = 4 ∧ (u.jobActive j = true → t.m.jobState j = 5) ∧ raises u t.m 0x0B 0x04 0 []
    (sends = true → ty = 1 → answers (.haloSend dt e side) s (fun t => t.m = u.modSide e right (fun h => { h with sent := h.sent + 1 }) ∧ sameData (s.pass dt) t))
    ∧ (∀ b, sends = true → ty = 2 → edge.1 = .ok b → answers (.haloSend dt e side) s (fun t => ((t.m.hopEnt e).side right).sent = h.sent + 1
      ∧ (u.hopState e = 2 → sameData (s.pass dt) t
        ∧ t.m = (edge.2.m.fabricSend (u.nbrPos e right) ⟨2, 0x48, [], head ++ b⟩).modSide e right fun h => { h with sent := h.sent + 1 }) ∧ t.pending = s.pending))
    ∧ (sends = true → ty = 2 → edge.1 = .absent → answers (.haloSend dt e side) s (fun t => t.m = edge.2.m ∧ sameData (s.pass dt) t))
    ∧ (sends = true → ty = 2 → edge.1 = .error → answers (.haloSend dt e side) s (fun t => faulted t ∧ t.pending = s.pending))
    ∧ (sends = false → idles (.haloSend dt e side) s)
    ∧ (∀ b, copies = true → tokens.1 = .ok b →
      (takes = true → dst < 1024 → answers (.haloCopyDone dt e side) s (fun t => ((t.m.hopEnt e).side right).copied = h.copied + 1
        ∧ h.copied + 1 ≤ ((t.m.hopEnt dst).side !right).got
        ∧ (u.hopState e = 2 → dst ≠ e → u.layers dst = layers → haloLands (s.pass dt) t dst (!right) h.copied b) ∧ t.pending = s.pending))
      ∧ (takes = false → u.hopState e = 2 → answers (.haloCopyDone dt e side) s (fun t =>
        t.m = tokens.2.m.modSide e right (fun h => { h with copied := h.copied + 1 }) ∧ sameData (s.pass dt) t)))
    ∧ (copies = true → tokens.1 = .absent → answers (.haloCopyDone dt e side) s (fun t => t.m = tokens.2.m ∧ sameData (s.pass dt) t))
    ∧ (copies = true → tokens.1 = .error → answers (.haloCopyDone dt e side) s (fun t => faulted t ∧ t.pending = s.pending))
    ∧ (copies = false → idles (.haloCopyDone dt e side) s)
    ∧ ∀ (w0 w1 w2 : Word) (payload : List Byte),
      let hd := haloHdr w0
      let step : Int := (w1.toNat : Int) - u.stepBase j
      let halo : Bool := hd.typ = 0x48 && hd.ver = 1 && !hd.fin && payload.length = 2048 && !u.replaying
      let fin : Bool := hd.typ = 0x48 && hd.ver = 1 && hd.fin && !u.replaying
      let dropped (t : State) : Prop := counted u t.m F.hopCntHalo_DISCARDED ∧ t.m = { u with evq := t.m.evq, evDropped := t.m.evDropped, regs := t.m.regs }
        ∧ keepsRegs u t.m [F.hopCntHalo_DISCARDED.off] ∧ sameData (s.pass dt) t
        ∧ ∀ r, u.haloReason hd step w2 = some r → raises u t.m 0x0B 0x13 0 [(10, (e : Int)), (32, (r : Int)), (5, (hd.pos : Int))]
      (hd.dst = e → hd.right = right → halo = true → u.haloReason hd step w2 = none → answers (.haloMessage dt w0 w1 w2 payload) s (fun t =>
        h.got + 1 ≤ ((t.m.hopEnt e).side right).got ∧ haloLands (s.pass dt) t e right h.got payload ∧ t.pending = s.pending))
      ∧ (hd.dst = e → halo = true → u.haloReason hd step w2 ≠ none → answers (.haloMessage dt w0 w1 w2 payload) s dropped)
      ∧ (halo = false → idles (.haloMessage dt w0 w1 w2 payload) s)
      ∧ (hd.dst = e → hd.right = right → fin = true → u.haloReason hd step w2 = none → answers (.endNotice dt w0 w1 w2) s (fun t =>
        detachedAt u t.m e right step.toNat 0 ∧ counted u t.m F.hopCntHalo_ENDS ∧ t.m.get F.hopCntHalo_DETACHED = u.get F.hopCntHalo_DETACHED ∧ t.pending = s.pending))
      ∧ (hd.dst = e → fin = true → u.haloReason hd step w2 ≠ none → answers (.endNotice dt w0 w1 w2) s dropped)
      ∧ (fin = false → idles (.endNotice dt w0 w1 w2) s))
  ∧ ∀ (s : State) (dt e side : Nat), e < 1024 → side < 2 → s.live dt →
    let u := (s.pass dt).m
    let right : Bool := side = 1
    let h := (u.hopEnt e).side right
    let j := u.hopJob e
    let st := h.got / u.layers e
    let l := h.got % u.layers e
    let obj := u.haloObj e right
    let masks := ((List.range (u.layers e)).filter (l ≤ ·)).map fun i => (u.maskAddr e st i, u.maskB e)
    (∀ (at' : Int) (tmo : Nat), u.sideWaits e right = some (at', tmo) →
      let late : Bool := decide (at' + u.get F.hopHaloCfg_LATE_NS ≤ u.reel) && h.lateFor ≠ some st
      let overran : Bool := decide (at' + (tmo : Int) * 1000 ≤ u.reel) && !u.follower && !u.replaying
      (late = true → answers (.haloLate dt e side) s (fun t => t.m.on (if right then F.hopEntStat_R_LATE e else F.hopEntStat_L_LATE e) = true
        ∧ counted u t.m F.hopCntHalo_LATE ∧ raises u t.m 0x0B 0x11 0 [(10, (e : Int)), (1, (side : Int)), (32, ((st + u.stepBase j : Nat) : Int))]
        ∧ t.m.hop = (u.modSide e right fun h => { h with lateFor := some st }).hop
        ∧ t.m = { u with regs := t.m.regs, hop := t.m.hop, evq := t.m.evq, evDropped := t.m.evDropped }
        ∧ keepsRegs u t.m [R.hopEntStat e, F.hopCntHalo_LATE.off] ∧ sameData (s.pass dt) t))
      ∧ (late = false → idles (.haloLate dt e side) s)
      ∧ (overran = true → answers (.haloDetached dt e side) s (fun t => detachedAt u t.m e right st l ∧ counted u t.m F.hopCntHalo_DETACHED
        ∧ raises u t.m 0x0B 0x12 0 [(10, (e : Int)), (1, (side : Int)), (32, ((st + u.stepBase j : Nat) : Int)), (4, (l : Int))]
        ∧ ((s.pass dt).unflipped → u.violated = [] → u.synOwns j obj = true → st + 1 = u.hopNext e →
          (∀ x ∈ masks, (u.reaches (u.hopAcc e) true x.1 x.2).1 = true) →
          (∀ i < u.layers e, l ≤ i → t.holds (u.maskAddr e st i) (t.m.maskBytes e st i)) ∧ keepsBytes (s.pass dt) t masks
          ∧ t.m.get (F.synObj_VALUE obj) = (u.get (F.synObj_VALUE obj) + (u.hopNext e * u.layers e - h.got)) % 2 ^ 32)
        ∧ t.pending = s.pending))
      ∧ (overran = false → idles (.haloDetached dt e side) s))
    ∧ (u.sideWaits e right = none → idles (.haloLate dt e side) s ∧ idles (.haloDetached dt e side) s)

/-- R175, R177, R178, R180: a page whose copy to the spill area completes is SPILLED there, its frame free, its page entry naming the slot; so is the next page of a
pre-empted job's entries, in the order of R177; one fetched back is RESIDENT in its frame, its slot free, its page entry naming the frame; each counts, and no other byte of
memory changes (said while no other page moves). LEAD_US before the row that is predicted, or while its job is pre-empted, the fetch of an entry's spilled pages begins.
Otherwise nothing happens, nor while the DRAM keys are not there (R375). -/
def Obligations.PagesSpillAndReturn : Prop :=
  ∀ (s : State) (dt e vp : Nat), e < 1024 → s.live dt →
    let u := (s.pass dt).m
    let acc : Acc := { agent := 0x060 }
    let still : Prop := (s.pass dt).unflipped ∧ (u.on F.hopPoolStat_SPILLING = false ∨ u.victims = []) ∧ (∀ y ∈ u.hop, y.1 ≠ e → y.2.live = true → y.2.fetching = false ∧ y.2.stalled = none)
    let others (t : State) : Prop := ∀ q ∈ u.pages, ¬(q.ent = e ∧ q.vpage = vp) → q ∈ t.m.pages
    let entry : List (Nat × Nat) := (((s.pass dt).tableAt e vp).map fun pa => (pa, 8)).toList
    (∀ p, u.page e vp = some p → (∀ q ∈ u.pages, q.ent = e → q.vpage = vp → q = p) →
      let next : Bool := p.st = .resident && u.least (u.victims.filter fun q => u.hopJob q.ent = u.hopJob e) = some p
        && u.on (F.schJobStat_PREEMPTED (u.hopJob e)) && u.hopClass e != 0 && decide ((u.pages.filter fun q => q.st = .spilling).length < 8)
      (∀ f n, p.frame = some f → (p.st = .spilling ∧ p.slot = some n) ∨ (next = true ∧ u.freeSlot = some n) → u.stalls (u.slotAddr n) = false → still →
        (s.pass dt).tableOpen e vp = true → (u.hopEnt e).fetching = false → (u.hopEnt e).stalled = none →
        (u.reaches acc false (u.frameAddr f) 16384).1 = true → (u.reaches acc true (u.slotAddr n) 16384).1 = true →
        (∀ pa, (s.pass dt).tableAt e vp = some pa → ∀ r ∈ [u.slotAddr n, u.frameAddr f], pa + 8 ≤ r ∨ r + 16384 ≤ pa) →
        (∀ pa, (s.pass dt).tableAt e vp = some pa → ∀ r ∈ [u.get (F.hopEntPt_ROOT e) * 512 + vp / 64 * 8],
          (pa + 8 ≤ r ∨ r + 8 ≤ pa) ∧ (r + 8 ≤ u.slotAddr n ∨ u.slotAddr n + 16384 ≤ r)) → vp < 4096 → answers (.pageSpill dt e vp) s (fun t =>
          t.m.page e vp = some { p with st := .spilled, frame := none, slot := some n } ∧ counted u t.m F.hopCnt_SPILLS ∧ others t
          ∧ (∀ i < 16384, t.byte (u.slotAddr n + i) = (s.pass dt).byte (u.frameAddr f + i))
          ∧ (∀ pa, (s.pass dt).tableAt e vp = some pa → t.num pa 8 = pageWord (u.slotAddr n) 2)
          ∧ keepsBytes (s.pass dt) t ((u.slotAddr n, 16384) :: entry) ∧ keepsWindows u t.m [10] ∧ t.pending = s.pending))
      ∧ (p.st ≠ .spilling → next = false → idles (.pageSpill dt e vp) s)
      ∧ (∀ n, p.st = .spilling → p.slot = some n → u.stalls (u.slotAddr n) = true → idles (.pageSpill dt e vp) s)
      ∧ (∀ f n, p.frame = some f → p.slot = some n → p.st = .fetching → u.stalls (u.slotAddr n) = false → still → (s.pass dt).tableOpen e vp = true →
        (u.hopEnt e).held = [] → (∀ q ∈ u.pages, q.ent = e → q.st ≠ .spilled) →
        (u.reaches acc false (u.slotAddr n) 16384).1 = true → (u.reaches acc true (u.frameAddr f) 16384).1 = true →
        (∀ pa, (s.pass dt).tableAt e vp = some pa → pa + 8 ≤ u.frameAddr f ∨ u.frameAddr f + 16384 ≤ pa) →
        (∀ r ∈ [u.get (F.hopEntPt_ROOT e) * 512 + vp / 64 * 8], r + 8 ≤ u.frameAddr f ∨ u.frameAddr f + 16384 ≤ r) → vp < 4096 →
        answers (.pageFetch dt e vp) s (fun t => t.m.page e vp = some { p with st := .resident, slot := none } ∧ counted u t.m F.hopCnt_FETCHES ∧ others t
          ∧ (∀ i < 16384, t.byte (u.frameAddr f + i) = (s.pass dt).byte (u.slotAddr n + i))
          ∧ (∀ pa, (s.pass dt).tableAt e vp = some pa → t.num pa 8 = pageWord (u.frameAddr f) 0)
          ∧ keepsBytes (s.pass dt) t ((u.frameAddr f, 16384) :: entry) ∧ keepsWindows u t.m [10] ∧ t.pending = s.pending))
      ∧ (∀ n, p.slot = some n → p.st ≠ .fetching ∨ u.stalls (u.slotAddr n) = true → idles (.pageFetch dt e vp) s))
    ∧ (u.page e vp = none → idles (.pageSpill dt e vp) s ∧ idles (.pageFetch dt e vp) s)
    ∧ (let due : Bool := match (u.hopEnt e).formed with | a :: b :: _ => decide (a + (a - b) - ((u.hopEnt e).lead : Int) * 1000 ≤ u.reel) | _ => false
      let go : Bool := (u.hopEnt e).live && u.hopClass e != 0 && !(u.hopEnt e).fetching && (due || u.on (F.schJobStat_PREEMPTED (u.hopJob e)))
      let away := u.pages.filter fun p => p.ent = e && p.st = .spilled
      (go = true → away = [] → answers (.fetchLead dt e) s (fun t => t.m = u.modHop e (fun h => { h with fetching := true }) ∧ sameData (s.pass dt) t))
      ∧ (go = true → answers (.fetchLead dt e) s (fun t => (t.m.hopEnt e).fetching = true ∧ t.pending = s.pending))
      ∧ (∀ p f n, go = true → away = [p] → u.freeFrame = some f → p.slot = some n → (s.pass dt).tableOpen e p.vpage = true → u.page e p.vpage = some p → answers (.fetchLead dt e) s (fun t =>
        t.m.page e p.vpage = some { p with st := .fetching, frame := some f } ∧ t.pending = s.pending))
      ∧ (go = false → idles (.fetchLead dt e) s))

/-! ## Ponyx lanes and links -/

/-- R296, R300, R302, R308: a lane that is enabled with legal taps begins TRAINING, or LOOPBACK for a near-end loop, with a scrambler that is not zero, and says so in its TRAIN
cells; illegal taps raise an event; a disabled lane is off. R306: FORCE_L2, L1, their exits and the return to L2 move PWR. R299: lock and its loss show; R301: an ACTIVE lane
that loses lock or fails 16 cells in 1 ms leaves its link and trains again, counted and raised. R297, R298: bits that are no good cell are a failure of the lane. R307: in
loopback a checker that has synchronised counts the bits that differ from its pattern. In any other case nothing happens. -/
def Obligations.LanesTrainAndSleep : Prop :=
  ∀ (s : State) (dt agent n : Nat), n < 28 → s.live dt →
    let u := (s.pass dt).m
    let own := [R.pnxCtl n, R.pnxStat n]
    let st := u.laneState n
    let pwr := u.get (F.pnxStat_PWR n)
    let held : Bool := u.on (F.pnxCtl_FORCE_L2 n) || (decide (12 ≤ n) && decide (2 ≤ u.get F.pwrStat_STAGE))
    let quiet : Bool := decide ((u.lane n).idleAt + u.get F.pnxCfg_IDLE_US * 1000 ≤ u.now)
    let near (t : State) : Bool := t.m.get (F.pnxCtl_LOOP n) = 1 || t.m.get (F.pnxCtl_LOOP n) = 2
    let others (t : State) : Prop := u.staysPaired n = true → keepsWindows u t.m [17, 18] ∧ sameData (s.pass dt) t
    let retrained (t : State) : Prop := laneLeft t.m n 1 ∧ counted u t.m (F.pnxCnt_RETRAINS n) ∧ others t
      ∧ raises u t.m 0x12 0x11 n [(5, (n : Int)), (32, ((u.recentFails n).length : Int))]
    (s.heeds dt agent 17 → ∀ val : Word,
      (val.getLsbD 0 = true → u.on (F.pnxCtl_EN n) = false → u.tapsBad n = false → answers (.laneEnable dt agent n val) s (fun t =>
        t.m.on (F.pnxCtl_EN n) = true ∧ t.m.on (F.pnxCtl_FORCE_L2 n) = val.getLsbD 2 ∧ t.m.laneState n = (if near t then 3 else 1)
        ∧ (t.m.lane n).tx.scr ≠ 0 ∧ (near t = false → (t.m.lane n).train = some ⟨Config.idSerial, if u.on F.pnxChain_VALID then some u.chainPos else none, u.isB,
            laneLink n, n - (linkLanes (laneLink n)).headD 0, 0, (t.m.lane n).tx.scr, decide (t.m.get (F.pnxCtl_LOOP n) = 3)⟩)
        ∧ keepsRegs u t.m own ∧ sameData (s.pass dt) t))
      ∧ (val.getLsbD 0 = true → u.on (F.pnxCtl_EN n) = false → u.tapsBad n = true → answers (.laneEnable dt agent n val) s (fun t =>
        t.m.on (F.pnxCtl_EN n) = true ∧ t.m.laneState n = st ∧ raises u t.m 0x12 0x18 n [(5, (n : Int)), (32, (R.pnxTx n : Int) - 0x1100000)]
        ∧ keepsRegs u t.m own ∧ sameData (s.pass dt) t))
      ∧ (val.getLsbD 0 = false → u.on (F.pnxCtl_EN n) = true → answers (.laneEnable dt agent n val) s (fun t =>
        t.m.on (F.pnxCtl_EN n) = false ∧ t.m.laneState n = 0 ∧ t.m.on (F.pnxStat_LOCKED n) = false ∧ t.m.on (F.pnxStat_FRAMED n) = false
        ∧ t.m.on (F.pnxStat_SIGDET n) = false ∧ t.m.lane n = {} ∧ others t))
      ∧ (val.getLsbD 0 = u.on (F.pnxCtl_EN n) → answers (.laneEnable dt agent n val) s (fun t => t.m.laneState n = st
        ∧ t.m.on (F.pnxCtl_FORCE_L2 n) = val.getLsbD 2 ∧ keepsRegs u t.m own ∧ sameData (s.pass dt) t))
      ∧ ∀ on, answers (.forceL2 dt agent n on) s (fun t => t.m.on (F.pnxCtl_FORCE_L2 n) = on ∧ t.m.laneState n = st
        ∧ (let keep : Bool := on || (decide (12 ≤ n) && decide (2 ≤ u.get F.pwrStat_STAGE))
          (st = 2 → keep = true → t.m.get (F.pnxStat_PWR n) = 2) ∧ (st ≠ 2 ∨ keep = false → t.m.get (F.pnxStat_PWR n) = pwr)
          ∧ (st = 2 → keep = false → pwr = 2 → t.m = { u with regs := t.m.regs, lanes := (u.modLane n fun l => { l with wakeAt := some u.now }).lanes })
          ∧ (st ≠ 2 ∨ keep = true ∨ pwr ≠ 2 → t.m = { u with regs := t.m.regs }))
        ∧ keepsRegs u t.m own ∧ sameData (s.pass dt) t))
    ∧ (let wakes : Bool := st = 2 && pwr != 0 && (u.lane n).wakeAt.isSome
      (wakes = true → answers (.laneWake dt n) s (fun t => t.m.get (F.pnxStat_PWR n) = 0 ∧ t.m.lane n = { u.lane n with wakeAt := none, idleAt := u.now }
        ∧ keepsRegs u t.m [R.pnxStat n] ∧ sameData (s.pass dt) t))
      ∧ (wakes = false → idles (.laneWake dt n) s))
    ∧ (let naps : Bool := st = 2 && u.on (F.pnxCtl_L1_EN n) && pwr = 0 && quiet && (u.activeLanes (laneLink n)).head? != some n
      (naps = true → answers (.l1Entry dt n) s (fun t => t.m.get (F.pnxStat_PWR n) = 1 ∧ t.m = { u with regs := t.m.regs }
        ∧ keepsRegs u t.m [R.pnxStat n] ∧ sameData (s.pass dt) t))
      ∧ (naps = false → idles (.l1Entry dt n) s))
    ∧ (let sleeps : Bool := st = 2 && held && pwr = 0 && quiet
      (sleeps = true → answers (.l2Return dt n) s (fun t => t.m.get (F.pnxStat_PWR n) = 2 ∧ t.m = { u with regs := t.m.regs }
        ∧ keepsRegs u t.m [R.pnxStat n] ∧ sameData (s.pass dt) t))
      ∧ (sleeps = false → idles (.l2Return dt n) s))
    ∧ (∀ ppm phase : Word, (st ≠ 0 → st ≠ 4 → answers (.cdrLock dt n ppm phase) s (fun t =>
          t.m.on (F.pnxStat_LOCKED n) = true ∧ t.m.on (F.pnxStat_SIGDET n) = true ∧ t.m.get (F.pnxStat_PPM n) = ppm.toNat % 2 ^ (F.pnxStat_PPM n).w
          ∧ t.m.get (F.pnxStat_PHASE n) = phase.toNat % 2 ^ (F.pnxStat_PHASE n).w ∧ t.m.laneState n = st ∧ keepsRegs u t.m [R.pnxStat n] ∧ sameData (s.pass dt) t))
        ∧ (st = 0 ∨ st = 4 → idles (.cdrLock dt n ppm phase) s))
    ∧ (∀ silent, answers (.lossOfLock dt n silent) s (fun t => t.m.on (F.pnxStat_LOCKED n) = false ∧ t.m.on (F.pnxStat_FRAMED n) = false
        ∧ t.m.on (F.pnxStat_SIGDET n) = (u.on (F.pnxStat_SIGDET n) && !silent) ∧ (t.m.lane n).own = 0 ∧ (st = 2 → retrained t)
        ∧ (st ≠ 2 → t.m.laneState n = st ∧ keepsRegs u t.m [R.pnxStat n] ∧ sameData (s.pass dt) t)))
    ∧ (st = 2 → 16 ≤ (u.recentFails n).length → answers (.laneRetrain dt n) s retrained)
    ∧ (st ≠ 2 ∨ (u.recentFails n).length < 16 → idles (.laneRetrain dt n) s)
    ∧ (∀ bits, let got := (u.lane n).rx.take bits
        (got.2.1 = true → answers (.crcFailure dt n bits) s (fun t => cellFailed u t.m n got.1 ∧ (t.m.lane n).rx = got.2.2 ∧ t.pending = s.pending))
        ∧ (got.2.1 = false → idles (.crcFailure dt n bits) s))
    ∧ (∀ sync bits,
      let checked := prbsCheck (u.get (F.pnxCtl_PATTERN n)) bits (u.lane n).chk
      (st = 3 → answers (.prbsChecker dt n sync bits) s (fun t => t.m.on (F.pnxPrbs_SYNC n) = sync
        ∧ (u.on (F.pnxPrbs_SYNC n) = true → u.get (F.pnxCtl_PATTERN n) < 2 →
            t.m.get (F.pnxPrbs_ERRORS n) = min (u.get (F.pnxPrbs_ERRORS n) + checked.1) (2 ^ (F.pnxPrbs_ERRORS n).w - 1) ∧ (t.m.lane n).chk = checked.2)
        ∧ (u.on (F.pnxPrbs_SYNC n) = false → t.m.get (F.pnxPrbs_ERRORS n) = u.get (F.pnxPrbs_ERRORS n) ∧ (t.m.lane n).chk = (bits.reverse ++ (u.lane n).chk).take 31)
        ∧ keepsRegs u t.m [R.pnxPrbs n] ∧ sameData (s.pass dt) t))
      ∧ (st ≠ 3 → idles (.prbsChecker dt n sync bits) s))

/-- R294: on a lane that is neither off nor MISWIRED a cell of a wrong type, with a reserved field set or a bad CRC is a failure. R303: on an ACTIVE lane of an UP link a
good cell's ACK empties the replay buffer, and a message of one cell that waits goes out as its DATA cell and the TAG cell of its segment (R295, R310); a NAK counts the cells resent. A DATA
cell in order joins its segment; one beyond it waits, and after 100 ns a NAK goes out. R310, R311: a TAG that verifies, with its segment's counter, first LSEQ and cell count,
delivers the plain text; else the segment is asked for again, and the third time in a row the link agrees new keys. R300, R308: a TRAIN cell loads the scrambler and moves
training on, with 16 cells past state 2 at both ends ACTIVE, MISWIRED or LOOPBACK. R296, R314, R315: SYNC cells carry Reel out, measure the delay and count a scrambler that
differs. R304: a link without lanes for 1 ms goes DOWN, its buffers lost. In any other case nothing happens. -/
def Obligations.CellsMoveALink : Prop :=
  ∀ (s : State) (dt n : Nat) (c : Cell), n < 28 → c.payload.length = 64 → s.live dt →
    let u := (s.pass dt).m
    let st := u.laneState n
    let k := laneLink n
    let l := u.link k
    let passes (typ : Nat) : Bool := st != 0 && st != 4 && c.crcOk && c.wellTyped typ
    let left := l.replay.filter fun x => !seqLe x.lseq c.ack
    let up : Bool := st = 2 && u.linkUp k && l.txq.isEmpty && l.opened.isEmpty && !u.rekeyDue k
    let kept (t : State) (os : List Nat) : Prop := (t.m.link k).replay = left ∧ cellPassed u t.m n ∧ keepsRegs u t.m (R.pnxStat n :: os) ∧ sameData (s.pass dt) t
    (∀ x ∈ cellCommands dt n c,
      (st = 0 ∨ st = 4 → idles x.2 s)
      ∧ (st ≠ 0 → st ≠ 4 → c.crcOk = false ∨ c.wellTyped x.1 = false → answers x.2 s (fun t => cellFailed u t.m n false ∧ t.pending = s.pending))
      ∧ (passes x.1 = true → answers x.2 s (fun t => (t.m.lane n).failRun = 0 ∧ t.pending = s.pending)))
    ∧ (up = true → passes 0 = true → answers (.idleCell dt n c) s (fun t => kept t [] ∧ t.m.link k = { l with replay := left }))
    ∧ (passes 0 = true → st ≠ 2 ∨ u.linkUp k = false → answers (.idleCell dt n c) s (fun t => cellPassed u t.m n ∧ t.m.links = u.links
      ∧ keepsRegs u t.m [R.pnxStat n] ∧ sameData (s.pass dt) t))
    ∧ (∀ x, passes 0 = true → st = 2 → u.linkUp k = true → u.rekeyDue k = false → l.opened = [] → l.segTx + 2 < 2 ^ 48 → left.length < 1023 → l.txq = [x] → x.left ≠ [] → x.left.length ≤ 64 →
      answers (.idleCell dt n c) s (fun t => (t.m.link k).txq = [] ∧ (t.m.link k).segTx = l.segTx + 1 ∧ (t.m.link k).next = (l.next + 2) % 65536
        ∧ ((t.m.link k).replay.take left.length) = left
        ∧ (((t.m.link k).replay.drop left.length).map fun y => (y.lseq, y.cell.lseq, y.cell.typ)) = [(l.next, l.next, 1), ((l.next + 1) % 65536, (l.next + 1) % 65536, 2)]
        ∧ (((t.m.link k).replay.drop left.length).map fun y => (y.cell.ack, y.cell.crcOk)) = [(l.good, true), (l.good, true)]
        ∧ (∀ y ∈ ((t.m.link k).replay.drop left.length).take 1, y.cell.ch = x.msg.ch % 8 ∧ y.cell.first = !x.begun ∧ y.cell.last = true ∧ y.cell.len = x.left.length)
        ∧ (∀ y ∈ (t.m.link k).replay.drop (left.length + 1), y.cell.num 0 8 = l.segTx ∧ y.cell.num 8 2 = l.next ∧ y.cell.num 10 1 = 1)))
    ∧ (up = true → passes 1 = true → c.ch < 6 → 1 ≤ c.len → c.len ≤ 64 →
      (c.lseq = l.expect → l.early = [] → answers (.dataCell dt n c) s (fun t => kept t []
        ∧ t.m.link k = { l with replay := left, expect := (l.expect + 1) % 65536, gapAt := none, seg := l.seg ++ [c] }))
      ∧ (c.lseq ≠ l.expect → (c.lseq + 65536 - l.expect) % 65536 < 1024 → (l.early.any fun r => r.lseq = c.lseq) = false → answers (.dataCell dt n c) s (fun t => kept t []
        ∧ t.m.link k = { l with replay := left, early := l.early ++ [⟨c.lseq, c, true⟩], gapAt := if l.gapAt.isSome then l.gapAt else some u.now }))
      ∧ (c.lseq ≠ l.expect → 1024 ≤ (c.lseq + 65536 - l.expect) % 65536 ∨ (l.early.any fun r => r.lseq = c.lseq) = true → answers (.dataCell dt n c) s (fun t =>
        kept t [] ∧ t.m.link k = { l with replay := left })))
    ∧ (∀ ok, up = true → passes 2 = true → c.lseq = l.expect → l.early = [] →
      let first := (l.expect + 65536 - l.seg.length) % 65536
      let whole : Bool := ok && c.num 0 8 = l.segRx && c.num 8 2 = first && c.num 10 1 = l.seg.length
      let plain := l.seg.mapIdx fun i x => { x with payload := Config.gcmOpen k (u.get (F.secLink_GEN k)) l.segRx i x.payload }
      let again (t : State) : Prop := counted u t.m (F.pnxLink_TAG_FAIL k) ∧ raises u t.m 0x12 0x15 k [(3, (k : Int)), (32, (l.segRx : Int))]
      (whole = true → l.expect < 65536 → l.segRx + 2 < 2 ^ 48 → answers (.tagCell dt n c ok) s (fun t => kept t []
        ∧ t.m.link k = { l with replay := left, seg := [], segRx := l.segRx + 1, tagFails := 0, good := c.lseq, asm := plain.foldl deliverCell l.asm, expect := (l.expect + 1) % 65536, gapAt := none }))
      ∧ (whole = false → l.expect < 65536 → l.tagFails < 2 → answers (.tagCell dt n c ok) s (fun t => again t ∧ kept t [R.pnxLink k]
        ∧ (t.m.link k) = { l with replay := left, seg := [], early := [], expect := first, gapAt := none, tagFails := l.tagFails + 1, nak := some first }))
      ∧ (whole = false → 2 ≤ l.tagFails → answers (.tagCell dt n c ok) s (fun t => again t ∧ t.m.get (F.pnxLink_STATE k) = 1 ∧ t.m.get (F.secLink_STATE k) = 1
        ∧ raises u t.m 0x15 0x17 0 [(3, (k : Int)), (16, (u.get (F.secLink_GEN k) + 1 : Nat))] ∧ (t.m.link k).replay = [] ∧ (t.m.link k).keyDue = some (u.now + 50000000)
        ∧ sameData (s.pass dt) t)))
    ∧ (up = true → passes 6 = true → answers (.nakCell dt n c) s (fun t => kept t [R.pnxLink k]
      ∧ t.m.get (F.pnxLink_RESENT k) = min (u.get (F.pnxLink_RESENT k) + (left.filter fun x => seqLe c.lseq x.lseq).length) (2 ^ (F.pnxLink_RESENT k).w - 1)))
    ∧ (passes 4 = true →
      let i := Config.trainOf c.payload
      let loop := u.get (F.pnxCtl_LOOP n)
      let seen : Bool := loop != 3 && !(i.loopFar && u.on (F.pnxCtl_FE_ALLOW n)) && !(u.lane n).loopFar
      let locked : Bool := u.on (F.pnxStat_LOCKED n) && (u.on (F.pnxStat_FRAMED n) || decide (7 ≤ (u.lane n).passRun))
      let own := if !locked then 0 else if 1 ≤ i.state then 2 else 1
      let both : Bool := own = 2 && i.state = 2 && (u.lane n).own = 2 && (u.lane n).peer = 2
      let step : Bool := seen && st = 1 && u.wired n i
      answers (.trainCell dt n c) s (fun t => (t.m.lane n).rx.scr = i.scrambler ∧ (loop = 3 → t.m.laneState n = if i.serial = Config.idSerial then 3 else st)
        ∧ (loop ≠ 3 → i.loopFar = true → u.on (F.pnxCtl_FE_ALLOW n) = true → laneLeft t.m n 3 ∧ (t.m.lane n).loopFar = true)
        ∧ (seen = true → st = 3 → t.m.laneState n = 3) ∧ (seen = true → st ≠ 3 → u.wired n i = false → laneLeft t.m n 4
            ∧ (u.staysPaired n = true → raises u t.m 0x12 0x12 n [(5, (n : Int)), (3, (i.link : Int)), (1, (i.modB.toNat : Int))]))
        ∧ (step = true → (t.m.lane n).own = own ∧ (t.m.lane n).peer = i.state ∧ (t.m.lane n).trains = (if both then (u.lane n).trains + 1 else 0))
        ∧ (step = true → both = true → 15 ≤ (u.lane n).trains → t.m.laneState n = 2 ∧ raises u t.m 0x12 0x10 n [(5, (n : Int))])
        ∧ (step = true → both = false ∨ (u.lane n).trains < 15 → t.m.laneState n = 1) ∧ t.pending = s.pending))
    ∧ (let prev := ofLe ((u.lane n).syncOut.take 8)
      let due : Bool := st = 2 && u.get (F.pnxStat_PWR n) = 0 && u.linkUp k && ((u.lane n).syncOut.isEmpty || decide ((prev : Int) / 1000 < u.reel / 1000))
      let seen := (u.lane n).sync.getD (0, 0)
      let word (v : Int) : List Byte := leBytes 8 (v % 2 ^ 64).toNat
      let role := u.get F.timReelStat_STATE
      (due = true → answers (.syncSend dt n) s (fun t => (t.m.lane n).syncOut = word u.reel ++ word seen.1 ++ word seen.2
          ++ leBytes 8 (if role = 0 then Config.idSerial.toNat else u.get F.timReelRoot_SERIAL)
          ++ leBytes 1 ((if role = 0 then u.chainPos else u.get F.timReelStat_ROOT_POS) + (decide (role = 0) || decide (role = 2)).toNat * 128)
          ++ leBytes 1 (if role = 0 then 0 else u.get F.timReelStat_HOPS) ++ leBytes 8 (t.m.lane n).tx.scr.toNat ++ List.replicate 22 0
        ∧ t.m = { u with lanes := t.m.lanes, fresh := u.fresh + 2 } ∧ (∀ i, i ≠ n → t.m.lane i = u.lane i) ∧ sameData (s.pass dt) t))
      ∧ (due = false → idles (.syncSend dt n) s))
    ∧ (passes 3 = true → answers (.syncCell dt n c) s (fun t =>
      let scr := BitVec.ofNat 58 (c.num 34 8)
      let t1 := wrapI 64 (c.num 8 8)
      (st ≠ 2 → (t.m.lane n).sync = (u.lane n).sync ∧ keepsRegs u t.m [R.pnxStat n])
      ∧ (st = 2 → (t.m.lane n).sync = some (wrapI 64 (c.num 0 8), u.reel) ∧ (t.m.lane n).rx.scr = scr
        ∧ t.m.get (F.pnxCnt_SCR_ERR n) = (if (u.lane n).rx.scr = scr then u.get (F.pnxCnt_SCR_ERR n) else min (u.get (F.pnxCnt_SCR_ERR n) + 1) (2 ^ (F.pnxCnt_SCR_ERR n).w - 1))
        ∧ (t.m.lane n).delays = (if t1 = 0 then (u.lane n).delays else
            (delaySample t1 (wrapI 64 (c.num 16 8)) (wrapI 64 (c.num 0 8)) u.reel :: (u.lane n).delays).take 1024)
        ∧ (t.m.link k).sync = some ⟨BitVec.ofNat 64 (c.num 24 8), c.num 32 1 % 32, decide (128 ≤ c.num 32 1), c.num 33 1, u.now⟩)
      ∧ sameData (s.pass dt) t))
    ∧ ∀ j < 5,
      let late : Bool := u.linkUp j && !(u.link j).early.isEmpty && match (u.link j).gapAt with | some t0 => decide (t0 + 100 ≤ u.now) | none => false
      let gone : Bool := (u.linkUp j || u.get (F.pnxLink_STATE j) = 1) && match (u.link j).emptyAt with | some t0 => decide (t0 + 1000000 ≤ u.now) | none => false
      (late = true → answers (.nakTimeout dt j) s (fun t => t.m.link j = { u.link j with nak := some (u.link j).expect, gapAt := some u.now }
        ∧ keepsRegs u t.m [] ∧ sameData (s.pass dt) t))
      ∧ (late = false → idles (.nakTimeout dt j) s)
      ∧ (gone = true → answers (.linkDown dt j) s (fun t => t.m.get (F.pnxLink_STATE j) = 0 ∧ t.m.get (F.secLink_STATE j) = 0 ∧ (t.m.link j).replay = []
        ∧ (t.m.link j).txq = [] ∧ (t.m.link j).seg = [] ∧ (t.m.link j).keys = false ∧ (u.linkUp j = true → raises u t.m 0x12 0x14 j [(3, (j : Int))])
        ∧ sameData (s.pass dt) t))
      ∧ (gone = false → idles (.linkDown dt j) s)

/-- R304, R380, R381: a first PAIR cell of a keyless link begins the agreement, with 50 ms to end; its confirmation brings the link UP under new keys, LSEQ from 0; a failure or
the 50 ms show why it did not, and a fabric link tries again 100 ms later. R294: a PAIR cell that is no good cell is a failure of the lane. R312: with both UP links DOWN for
CHAIN_WAIT_MS the module takes position 0; an announcement on one gives the next position, or TOO_LONG past 31, and either raises its event. In any other case nothing
happens (what twins tell each other in PAIR cells is TwinsPairBeatAndPart's). -/
def Obligations.KeysAndChain : Prop :=
  ∀ (s : State) (dt n k pos : Nat) (c : Cell) (peer : PeerId), n < 28 → c.payload.length = 64 → k < 5 → pos < 32 → s.live dt →
    let u := (s.pass dt).m
    let j := laneLink n
    let st := u.laneState n
    let passes : Bool := st != 0 && st != 4 && c.crcOk && c.wellTyped 5
    let agreeing (i : Nat) : Bool := u.get (F.secLink_STATE i) = 1
    let due : Bool := match (u.link k).keyDue with | some t0 => decide (t0 ≤ u.now) | none => false
    let begins (t : State) (i : Nat) : Prop := t.m.get (F.secLink_STATE i) = 1 ∧ t.m.get (F.pnxLink_STATE i) = 1 ∧ (t.m.link i).keyDue = some (u.now + 50000000)
    let fails (t : State) (i reason : Nat) : Prop := t.m.get (F.secLink_STATE i) = 3 ∧ t.m.get (F.secLink_LAST_FAIL i) = reason % 2 ^ (F.secLink_LAST_FAIL i).w
      ∧ counted u t.m (F.secLink_FAILS i) ∧ raises u t.m 0x15 0x14 0 [(3, (i : Int)), (32, (reason : Int))]
      ∧ (t.m.link i).keyDue = (if i = 0 then none else some (u.now + 100000000)) ∧ sameData (s.pass dt) t
    let placed (t : State) (p : Nat) : Prop := t.m.on F.pnxChain_VALID = true ∧ t.m.get F.pnxChain_POS = p ∧ raises u t.m 0x12 0x16 0 [(5, (p : Int))]
      ∧ sameData (s.pass dt) t
    let alone : Bool := u.secReady && !u.on F.pnxChain_VALID && !u.linkUp 1 && !u.linkUp 2 && decide (u.keysAt + u.get F.pnxCfg_CHAIN_WAIT_MS * 1000000 ≤ u.now)
    let told : Bool := (k = 1 || k = 2) && u.linkUp k && !u.on F.pnxChain_VALID && !u.on F.pnxChain_TOO_LONG
    (∀ what,
      (st = 0 ∨ st = 4 → idles (.pairCell dt n c peer what) s)
      ∧ (st ≠ 0 → st ≠ 4 → c.crcOk = false ∨ c.wellTyped 5 = false → answers (.pairCell dt n c peer what) s (fun t => cellFailed u t.m n false ∧ t.pending = s.pending))
      ∧ (passes = true → st ≠ 2 → answers (.pairCell dt n c peer what) s (fun t => cellPassed u t.m n ∧ t.m.links = u.links
        ∧ keepsRegs u t.m [R.pnxStat n] ∧ sameData (s.pass dt) t)))
    ∧ (passes = true → st = 2 → u.linkUp j = false → u.secReady = true → agreeing j = false → answers (.pairCell dt n c peer .hello) s (fun t =>
      begins t j ∧ sameData (s.pass dt) t))
    ∧ (passes = true → st = 2 → u.linkUp j = true ∨ u.secReady = false ∨ agreeing j = true → answers (.pairCell dt n c peer .hello) s (fun t => cellPassed u t.m n
      ∧ t.m.links = u.links ∧ keepsRegs u t.m ((if j = 0 then [R.tngStat, R.tngPeer] else []) ++ [R.pnxStat n]) ∧ sameData (s.pass dt) t))
    ∧ (passes = true → st = 2 → u.linkUp j = false → agreeing j = true → answers (.pairCell dt n c peer .confirm) s (fun t => t.m.get (F.secLink_STATE j) = 2 ∧ t.m.linkUp j = true
      ∧ t.m.get (F.secLink_GEN j) = (u.get (F.secLink_GEN j) + 1) % 2 ^ (F.secLink_GEN j).w ∧ (t.m.link j).keys = true ∧ (t.m.link j).expect = 0
      ∧ raises u t.m 0x15 0x13 0 [(3, (j : Int)), (16, (u.get (F.secLink_GEN j) + 1 : Nat))] ∧ sameData (s.pass dt) t))
    ∧ (passes = true → st = 2 → agreeing j = false → 12 ≤ n ∨ u.twinPres = false → answers (.pairCell dt n c peer .confirm) s (fun t => cellPassed u t.m n
      ∧ t.m.links = u.links ∧ keepsRegs u t.m ((if j = 0 then [R.tngStat, R.tngPeer] else []) ++ [R.pnxStat n]) ∧ sameData (s.pass dt) t))
    ∧ (∀ r, passes = true → st = 2 → agreeing j = true → answers (.pairCell dt n c peer (.fail r)) s (fun t => fails t j r))
    ∧ (∀ r, passes = true → st = 2 → agreeing j = false → answers (.pairCell dt n c peer (.fail r)) s (fun t => cellPassed u t.m n
      ∧ t.m.links = u.links ∧ keepsRegs u t.m ((if j = 0 then [R.tngStat, R.tngPeer] else []) ++ [R.pnxStat n]) ∧ sameData (s.pass dt) t))
    ∧ (due = true → agreeing k = true → answers (.keyFail dt k) s (fun t => fails t k 4 ∧ (k ≠ 0 ∨ u.tngIs 1 = false → keepsRegs u t.m [R.secLink k])))
    ∧ (due = false ∨ agreeing k = false → idles (.keyFail dt k) s)
    ∧ (due = true → u.get (F.secLink_STATE k) = 3 → k ≠ 0 → answers (.keyRetry dt k) s (fun t => begins t k ∧ keepsRegs u t.m [R.secLink k, R.pnxLink k] ∧ sameData (s.pass dt) t))
    ∧ (due = false ∨ u.get (F.secLink_STATE k) ≠ 3 ∨ k = 0 → idles (.keyRetry dt k) s)
    ∧ (alone = true → answers (.chainWait dt) s (fun t => placed t 0))
    ∧ (alone = false → idles (.chainWait dt) s)
    ∧ (told = true → pos < 31 → answers (.chainAnnounce dt k pos) s (fun t => placed t (pos + 1)))
    ∧ (told = true → pos = 31 → answers (.chainAnnounce dt k pos) s (fun t => t.m.on F.pnxChain_TOO_LONG = true ∧ t.m.on F.pnxChain_VALID = false
      ∧ raises u t.m 0x12 0x17 0 [] ∧ keepsRegs u t.m [R.pnxChain] ∧ sameData (s.pass dt) t))
    ∧ (told = false → idles (.chainAnnounce dt k pos) s)

/-! ## Twin pairs -/

/-- R318: no partner for PAIR_WAIT_MS makes module A SOLO and B STANDBY; a confirmed partner that passes the checks pairs them, A leading; one that fails is refused with the
reason, and with like straps both become STANDBY. R329: one that is SOLO accepts the module, which becomes JOINING, or only checks it; a SOLO module checks a newcomer and
with ACCEPT joins it. R321, R323: a lead with an answered probe sends a heartbeat at a new multiple of 10,000 ns, restarts its watchdog and counts one without an acknowledgement; an
acknowledgement moves Z_A; the follower acknowledges a heartbeat, takes its Z and counts no miss. R324 to R326: a miss counts, and the third is the takeover: FOLLOW ends with
every compare-sourced channel at 0, uncertain entries count, entries in service end. R327: three without acknowledgement lose the follower, and AUTO_SOLO, SOLO or the follower's
STANDBY make the lead SOLO. R323: 25 µs without a restart set LEADWD. Each does nothing where its conditions fail. -/
def Obligations.TwinsPairBeatAndPart : Prop :=
  ∀ (s : State) (dt agent seq reason n : Nat) (h z : Int) (c : Cell) (peer : PeerId), isAgent agent = true → n < 12 → c.payload.length = 64 → s.live dt →
    let u := (s.pass dt).m
    let beat := u.reel.fdiv 10000 * 10000
    let st (t : State) (x : Nat) : Prop := t.m.get F.tngStat_STATE = x
    let told (t : State) (loc : Nat) (args : List (Nat × Int)) : Prop := raises u t.m 0x13 loc 0 args
    let solo (t : State) (why : Nat) : Prop := st t 4 ∧ t.m.get F.tngStat_REASON = why ∧ t.m.on F.fioStat_FOLLOW = false
    let alone (t : State) (why : Nat) : Prop := solo t why ∧ told t 0x12 [(32, (why : Int))] ∧ sameData (s.pass dt) t
    let noneHeld : Prop := ∀ a < 8, ∀ e ∈ (u.cmpAx a).entries, e.2.held = false
    ( let overran : Bool := u.tngIs 1 && u.tng.peer.isNone && decide (u.tng.startAt + u.get F.tngCfg_PAIR_WAIT_MS * 1000000 ≤ u.now)
      (overran = true → answers (.pairWait dt) s (fun t => t.m.get F.tngStat_REASON = 1 ∧ told t 0x11 [(32, 1)] ∧ t.m.on F.fioStat_FOLLOW = u.isB
        ∧ st t (if u.isB then 5 else 4) ∧ (u.isB = false → u.evLevel 0x13 0 ≠ 63 → told t 0x12 [(32, 1)]) ∧ sameData (s.pass dt) t))
      ∧ (overran = false → idles (.pairWait dt) s))
    ∧ (let fit : Bool := u.twinPres && u.laneState n = 2 && c.wellTyped 5 && c.crcOk && u.linkUp 0 && !u.rekeyDue 0
      let why := u.pairCheck peer
      let own := u.get F.tngStat_STATE
      let accepts := Config.pairAccepts c.payload
      let refused (t : State) : Prop := t.m.get F.tngStat_REASON = why ∧ told t 0x11 [(32, (why : Int))]
      fit = true →
        answers (.pairCell dt n c peer .confirm) s (fun t => t.m.get F.tngPeer_SERIAL = peer.serial.toNat ∧ t.m.on F.tngStat_PEER = true ∧ t.m.tng.peer = some peer
          ∧ (own = 1 → peer.state ≠ 4 → why = 0 → st t (if u.isB then 3 else 2) ∧ t.m.get F.tngStat_MISSED = 0 ∧ t.m.tng.wdAt = u.now ∧ t.m.tng.wdFired = false ∧ t.m.tng.sent = []
              ∧ t.m.on F.fioStat_FOLLOW = u.isB ∧ told t 0x10 [(3, if u.isB then 3 else 2), (32, (peer.serial.toNat : Int))])
          ∧ (own = 1 → peer.state ≠ 4 → why ≠ 0 → refused t ∧ st t (if u.isB || why = 4 then 5 else 4) ∧ (u.isB = false → why ≠ 4 → u.evLevel 0x13 0 ≠ 63 → told t 0x12 [(32, (why : Int))]))
          ∧ (own = 1 ∨ own = 5 → peer.state = 4 → why ≠ 0 → refused t ∧ st t 5)
          ∧ (own = 1 ∨ own = 5 → peer.state = 4 → why = 0 → t.m.tng.checked = true ∧ st t (if accepts then 6 else own)
              ∧ (accepts = true → t.m.on F.fioStat_FOLLOW = true ∧ told t 0x18 [(3, 6), (32, (peer.serial.toNat : Int))]))
          ∧ (own = 4 → peer.state = 1 ∨ peer.state = 5 → why ≠ 0 → refused t ∧ st t 4)
          ∧ (own = 4 → peer.state = 1 ∨ peer.state = 5 → why = 0 → st t 4 ∧ t.m.tng.checked = true ∧ t.m.tng.joined = (u.tng.joined || u.on F.tngCfg_ACCEPT)
              ∧ (u.on F.tngCfg_ACCEPT = true → u.tng.joined = false → told t 0x18 [(3, 4), (32, (peer.serial.toNat : Int))]))
          ∧ (own = 2 ∨ own = 3 ∨ own = 6 ∨ (own = 5 ∧ peer.state ≠ 4) ∨ (own = 4 ∧ peer.state ≠ 1 ∧ peer.state ≠ 5) →
              st t own ∧ t.m.get F.tngStat_REASON = u.get F.tngStat_REASON ∧ t.m.tng = { u.tng with peer := some peer }) ∧ t.pending = s.pending))
    ∧ (∀ ok : Bool, let sends : Bool := u.tngIs 2 && ok && !u.on F.pwrStat_PWRFAIL && !(u.get F.tngHb_H != 0 && decide (beat ≤ u.geti F.tngHb_H))
      (sends = true → answers (.heartbeatSend dt ok) s (fun t => t.m.get F.tngHb_H = (beat % 2 ^ (F.tngHb_H).w).toNat
        ∧ t.m.tng = { u.tng with seq := u.tng.seq + 1, sent := u.tng.sent ++ [(u.tng.seq + 1, beat, beat + 14000)], wdAt := u.now, wdFired := false }
        ∧ (u.tng.sent = [] → t.m.get F.tngStat_MISSED = u.get F.tngStat_MISSED) ∧ (u.tng.sent ≠ [] → counted u t.m F.tngStat_MISSED) ∧ st t 2
        ∧ sendsOn u t.m 0 ⟨0, 0x10, [u.tng.seq + 1, (beat % 2 ^ 64).toNat, ((beat + 14000) % 2 ^ 64).toNat], []⟩ ∧ keepsWindows u t.m [17, 18] ∧ sameData (s.pass dt) t))
      ∧ (sends = false → idles (.heartbeatSend dt ok) s))
    ∧ (u.follower = true → answers (.heartbeat dt seq h z) s (fun t => t.m.tng = { u.tng with lastH := h } ∧ t.m.get F.tngStat_MISSED = 0 ∧ st t 3
        ∧ t.m.get F.tngHb_H = (h % 2 ^ F.tngHb_H.w).toNat ∧ t.m.get F.tngHorizon_Z = (z % 2 ^ F.tngHorizon_Z.w).toNat ∧ sendsOn u t.m 0 ⟨0, 0x11, [seq], []⟩
        ∧ (noneHeld → keepsWindows u t.m [17, 18]) ∧ sameData (s.pass dt) t))
    ∧ (u.follower = false → idles (.heartbeat dt seq h z) s)
    ∧ (∀ h0 z0, u.tngIs 2 = true → u.tng.sent.find? (fun x => x.1 = seq) = some (seq, h0, z0) →
      answers (.heartbeatAck dt seq) s (fun t => t.m.get F.tngHorizon_Z = (z0 % 2 ^ F.tngHorizon_Z.w).toNat ∧ t.m.get F.tngStat_MISSED = 0 ∧ st t 2
        ∧ t.m.tng = { u.tng with sent := u.tng.sent.filter fun x => seq < x.1, ackAt := u.now, lost := false }
        ∧ (noneHeld → keepsRegs u t.m [R.tngHorizon, R.tngStat]) ∧ sameData (s.pass dt) t))
    ∧ (u.tngIs 2 = false ∨ (u.tng.sent.find? fun x => x.1 = seq) = none → idles (.heartbeatAck dt seq) s)
    ∧ (let missed := u.get F.tngStat_MISSED
      let due : Bool := u.follower && decide (u.tng.lastH + 13000 + 10000 * missed ≤ u.reel)
      let fates := (List.range 8).map fun a => ((u.cmpAx a).entries.filter fun e => e.2.fate u.tng.lastH (u.geti F.tngHorizon_Z) = .uncertain).length
      (due = true → missed ≠ 2 → answers (.heartbeatMissed dt) s (fun t => counted u t.m F.tngStat_MISSED ∧ t.m = { u with regs := t.m.regs }
        ∧ keepsRegs u t.m [R.tngStat] ∧ sameData (s.pass dt) t))
      ∧ (due = true → missed = 2 → answers (.heartbeatMissed dt) s (fun t => solo t 0xB ∧ t.m.get F.tngStat_MISSED = 0 ∧ counted u t.m F.tngCnt_TAKEOVERS
        ∧ t.m.get F.tngCnt_UNCERTAIN = min (u.get F.tngCnt_UNCERTAIN + fates.foldl (· + ·) 0) (2 ^ F.tngCnt_UNCERTAIN.w - 1)
        ∧ told t 0x15 [(32, u.tng.lastH), (32, (t.m.get F.tngCnt_UNCERTAIN : Int) - u.get F.tngCnt_UNCERTAIN)] ∧ (u.evLevel 0x13 0 ≠ 63 → told t 0x12 [(32, 0xB)])
        ∧ (u.mon = [] → ∀ a < 8, ∀ e ∈ (t.m.cmpAx a).entries, ∃ e0 ∈ (u.cmpAx a).entries, e0.1 = e.1 ∧ e0.2.fate u.tng.lastH (u.geti F.tngHorizon_Z) = .kept)
        ∧ (∀ q < 96, u.gangHead q = q → u.get (F.fioChCfg_SRC q) = 1 → t.m.on (F.fioChStat_LEVEL q) = false)
        ∧ (∀ p < 16, u.get (F.grsStatus_STATE p) ≠ 0 → (t.m.grsPort p).trigQ = [] ∧ t.m.on (F.grsStatus_INBLOCK p) = false)
        ∧ (∀ y ∈ u.hop, y.1 < 1024 → y.2.live = true → u.hopState y.1 = 2 → t.m.hopState y.1 = 3) ∧ t.pending = s.pending))
      ∧ (due = false → idles (.heartbeatMissed dt) s))
    ∧ (let gone : Bool := u.tngIs 2 && decide (3 ≤ u.get F.tngStat_MISSED) && !u.tng.lost
      (gone = true → answers (.followerLost dt) s (fun t => t.m.tng = { u.tng with lost := true } ∧ told t 0x14 [] ∧ keepsRegs u t.m [] ∧ sameData (s.pass dt) t))
      ∧ (gone = false → idles (.followerLost dt) s))
    ∧ (let overran : Bool := u.tngIs 2 && u.tng.lost && u.on F.tngCfg_AUTO_SOLO && decide (u.tng.ackAt + u.get F.tngCfg_SOLO_US * 1000 ≤ u.now)
      (overran = true → answers (.autoSolo dt) s (fun t => alone t 9)) ∧ (overran = false → idles (.autoSolo dt) s))
    ∧ (let fires : Bool := u.tngIs 2 && !u.tng.wdFired && decide (u.tng.wdAt + 25000 ≤ u.now)
      (fires = true → answers (.leadWatchdog dt) s (fun t => (t.m.get F.fioSafe_CAUSE).testBit 5 = true ∧ ((u.get F.fioSafe_CAUSE).testBit 5 = false → t.m.get F.fioSafe_CAUSE = u.get F.fioSafe_CAUSE + 32)
        ∧ (u.get F.fioSafe_CAUSE = 0 → t.m.on F.fioStat_SAFE = true) ∧ (t.m.get F.rstFault_SRC).testBit 3 = true ∧ t.m.tng = { u.tng with wdFired := true }
        ∧ told t 0x16 [] ∧ (u.get F.fioSafe_CAUSE ≠ 0 → keepsRegs u t.m [R.fioSafe, R.rstFault, R.cmpLate]) ∧ sameData (s.pass dt) t))
      ∧ (fires = false → idles (.leadWatchdog dt) s))
    ∧ (s.heeds dt agent 18 →
      let may : Bool := u.tngIs 5 || (u.tngIs 2 && u.tng.lost)
      let takes : Bool := u.tngIs 4 && u.tng.checked && !u.tng.joined
      (may = true → answers (.solo dt agent) s (fun t => alone t 8)) ∧ (may = false → idles (.solo dt agent) s)
      ∧ (takes = true → answers (.join dt agent) s (fun t => t.m.tng = { u.tng with joined := true } ∧ sendsOn u t.m 0 ⟨0, 0x18, [], []⟩ ∧ told t 0x18 u.roleArgs
        ∧ keepsWindows u t.m [17] ∧ sameData (s.pass dt) t))
      ∧ (takes = false → idles (.join dt agent) s))
    ∧ (u.tngIs 2 = true → answers (.followerStandby dt reason) s (fun t => alone t 0xA ∧ counted u t.m F.tngCnt_BREAKS))
    ∧ (u.tngIs 2 = false → idles (.followerStandby dt reason) s)

/-- R319: a follower takes the lead's lines, edges, field inputs, detaches (R189) and end rows (R164) in place of its own, and R210: the lead's choices of verdicts; a line that the
lead could not forward breaks the pair into STANDBY, with its jobs and ports stopped (R327). Any other module takes none of them. R320: a digest or verdict of a twin in a pair that
meets a different one of the same key is counted, held in TNG_DIV and raised where none was held; one that meets its like is dropped; one that is first waits. -/
def Obligations.FollowersTakeTheLeadsInputs : Prop :=
  ∀ (s : State) (dt p i e side step layer port block choice : Nat) (l : FwdLine) (r : EdgeRec) (w0 w1 : Word),
    p < 16 → i < 32 → e < 1024 → side < 2 → port < 16 → r.axis < 8 → 1 ≤ choice → choice ≤ 3 → s.live dt →
    let u := (s.pass dt).m
    let right : Bool := side = 1
    let t0 := Tag.ofWords l.tag0 l.tag1 l.tag2 l.tag3
    let key := step * 1024 + e
    let rel := step - u.stepBase (u.hopJob e)
    let x := u.posAx r.axis
    (u.follower = false → idles (.forwardedLine dt p l false) s ∧ idles (.forwardedLine dt p l true) s ∧ idles (.forwardedEdge dt r) s
      ∧ idles (.forwardedInput dt true i w0 w1) s ∧ idles (.forwardedInput dt false i w0 w1) s ∧ idles (.forwardedChoice dt port block choice) s
      ∧ idles (.forwardedDetach dt e side step layer) s ∧ idles (.forwardedEndRow dt e step) s)
    ∧ (u.follower = true → answers (.forwardedLine dt p l false) s (fun t =>
        t.m.get (F.grsStatus_BLOCK p) = t0.block % 2 ^ (F.grsStatus_BLOCK p).w
        ∧ (l.marker = false → (t.m.grsPort p).lines = (u.grsPort p).lines + 1 ∧ (t.m.grsPort p).lastTag = t0 ∧ (t.m.grsPort p).ref = t0.reel)
        ∧ (l.marker = true → (t.m.grsPort p).lines = (u.grsPort p).lines ∧ (t.m.grsPort p).lastTag = (u.grsPort p).lastTag ∧ (t.m.grsPort p).ref = (u.grsPort p).ref)
        ∧ (t0.inblock = true → t0.last = true → t.m.on (F.grsStatus_INBLOCK p) = false ∧ t.m.get (F.grsStatus_LINE p) = 0)
        ∧ (t0.inblock = true → t0.last = false → l.marker = false → t.m.get (F.grsStatus_LINE p) = min (t0.line + 1) 0xFFFF
            ∧ (t0.first = true → t.m.on (F.grsStatus_INBLOCK p) = true ∧ (t.m.grsPort p).firstTag = t0))
        ∧ (∀ q, q ≠ p → t.m.grsPort q = u.grsPort q) ∧ t.pending = s.pending))
    ∧ (u.follower = true → answers (.forwardedLine dt p l true) s (fun t => t.m.get F.tngStat_STATE = 5 ∧ t.m.get F.tngStat_REASON = 7 ∧ counted u t.m F.tngCnt_BREAKS
        ∧ raises u t.m 0x13 0x13 0 [(32, 7)] ∧ t.m.on F.fioStat_FOLLOW = true ∧ sendsOn u t.m 0 ⟨0, 0x17, [7], []⟩
        ∧ (∀ a < 8, t.m.get (F.cmpCtl_STATE a) = 0 ∧ (t.m.cmpAx a).entries = []) ∧ (∀ j < 64, u.jobActive j = true → t.m.jobState j = 4)
        ∧ (∀ q < 16, t.m.get (F.grsStatus_STATE q) = 0) ∧ (∀ b ∈ t.m.mon, u.jobActive b.job = false) ∧ t.pending = s.pending))
    ∧ (u.follower = true → answers (.forwardedEdge dt r) s (fun t =>
        (t.m.posAx r.axis).fwd = u.trackRec x.fwd r ∧ (t.m.posAx r.axis).own = x.own
        ∧ (∀ o, (x.ownEdges.find? fun o => o.kind = r.kind ∧ (o.reel - r.reel).natAbs ≤ 100) = some o →
            (t.m.posAx r.axis).diff = some (wrapI 48 (r.count - o.count)) ∧ (t.m.posAx r.axis).ownEdges = x.ownEdges.erase o ∧ (t.m.posAx r.axis).fwdEdges = x.fwdEdges)
        ∧ ((x.ownEdges.find? fun o => o.kind = r.kind ∧ (o.reel - r.reel).natAbs ≤ 100) = none →
            (t.m.posAx r.axis).diff = x.diff ∧ (t.m.posAx r.axis).ownEdges = x.ownEdges ∧ (t.m.posAx r.axis).fwdEdges = (r :: x.fwdEdges).take 64)
        ∧ (∀ a, a ≠ r.axis → t.m.posAx a = u.posAx a) ∧ sameData (s.pass dt) t))
    ∧ (u.follower = true → answers (.forwardedInput dt true i w0 w1) s (fun t => t.m.get (F.fioIcCount_COUNT i) = w0.toNat % 2 ^ 32
        ∧ t.m.get (F.fioIcFreq_FREQ i) = w1.toNat % 2 ^ 32 ∧ t.m.get (F.fioIcFreq_EDGES i) = w0.toNat / 2 ^ 32
        ∧ keepsRegs u t.m [R.fioIcCount i, R.fioIcFreq i, R.trcRecCnt] ∧ sameData (s.pass dt) t))
    ∧ (u.follower = true → answers (.forwardedInput dt false i w0 w1) s (fun t => t.m.inW i = { u.inW i with told := w0.getLsbD 0 }
        ∧ t.m.get (F.fioIwStat_CHANGES i) = (u.get (F.fioIwStat_CHANGES i) + (if u.on (F.fioIwCfg_REC i) then 1 else 0)) % 2 ^ (F.fioIwStat_CHANGES i).w
        ∧ keepsRegs u t.m [R.fioIwStat i, R.trcRecCnt] ∧ sameData (s.pass dt) t))
    ∧ (let rest := u.rplChoices.erase (port, block, choice)
      let one (t : State) (b : MonBlk) : Prop := t.m.monBlk port block = some b ∧ t.m.rplChoices = rest ∧ sameData (s.pass dt) t
      (u.follower = true → u.monBlk port block = none → answers (.forwardedChoice dt port block choice) s (fun t =>
        t.m = { u with rplChoices := rest } ∧ sameData (s.pass dt) t))
      ∧ ∀ b, u.follower = true → u.monBlk port block = some b →
        (b.delivered = true → answers (.forwardedChoice dt port block choice) s (fun t => t.m = { u with rplChoices := rest } ∧ sameData (s.pass dt) t))
        ∧ (b.delivered = false → b.reserve = none → choice = 1 → answers (.forwardedChoice dt port block choice) s (fun t => one t { b with told := some 1 }
            ∧ t.m.verdQ = u.verdQ ∧ keepsRegs u t.m []))
        ∧ (∀ v, b.delivered = false → b.reserve = some v → choice = 1 → answers (.forwardedChoice dt port block choice) s (fun t =>
            t.m.verdQ = u.verdQ ++ [(b.axis, { v with tag := b.tag, dreel := u.reel })] ∧ (∀ y, t.m.monBlk port block = some y → y.delivered = true)
            ∧ t.m.get (F.schAccVerd_RESERVE_USED b.job) = (u.get (F.schAccVerd_RESERVE_USED b.job) + 1) % 2 ^ (F.schAccVerd_RESERVE_USED b.job).w ∧ sameData (s.pass dt) t))
        ∧ (b.delivered = false → b.main = none → choice = 2 → answers (.forwardedChoice dt port block choice) s (fun t => one t { b with switchAt := none }
            ∧ t.m.get (F.schAccVerd2_NO_VERDICT b.job) = (u.get (F.schAccVerd2_NO_VERDICT b.job) + 1) % 2 ^ (F.schAccVerd2_NO_VERDICT b.job).w))
        ∧ (b.delivered = false → b.main = none → choice = 3 → answers (.forwardedChoice dt port block choice) s (fun t => one t { b with delivered := true, switchAt := none }
            ∧ t.m.verdQ = u.verdQ ++ [(b.axis, { u.substitute b.tag b.job b.port b.block with dreel := u.reel })] ∧ t.m.on F.schGuar_LOAD = true)))
    ∧ (let takes : Bool := u.follower && (u.hopEnt e).live && ((u.hopEnt e).side right).detach.isNone
      (takes = true → answers (.forwardedDetach dt e side step layer) s (fun t => detachedAt u t.m e right rel layer ∧ counted u t.m F.hopCntHalo_DETACHED
        ∧ raises u t.m 0x0B 0x12 0 [(10, (e : Int)), (1, (side : Int)), (32, (rel + u.stepBase (u.hopJob e) : Nat)), (4, (layer : Int))] ∧ t.pending = s.pending))
      ∧ (takes = false → idles (.forwardedDetach dt e side step layer) s))
    ∧ (u.follower = true → u.hopState e = 2 → answers (.forwardedEndRow dt e step) s (fun t => t.m.hopState e = 3
        ∧ t.m.get (F.hopEntStat_END_ROW e) = (rel + u.stepBase (u.hopJob e)) % 2 ^ (F.hopEntStat_END_ROW e).w ∧ (t.m.hopEnt e).endRow = some rel
        ∧ raises u t.m 0x0B 0x10 0 [(10, (e : Int)), (32, (rel + u.stepBase (u.hopJob e) : Nat))] ∧ t.pending = s.pending))
    ∧ (u.hopState e ≠ 2 → idles (.forwardedEndRow dt e step) s)
    ∧ (let vtag := (w0.extractLsb' 32 32).toNat
      let vkey (v : Bool) : Nat := if v then vtag else key
      let body (v : Bool) : Nat × Nat := (w0.toNat, if v then w1.toNat else 0)
      let mine (m : Mach) (v : Bool) := if v then m.ownVerdicts else m.ownDigests
      let theirs (m : Mach) (v : Bool) := if v then m.peerVerdicts else m.peerDigests
      let choice' (v : Bool) : Bool := v && w0.toNat / 2 ^ 20 % 4 = 0 && u.follower
      let none' (t : State) (v : Bool) : Prop := choice' v = false → keepsRegs u t.m [] ∧ sameData (s.pass dt) t
      ∀ v : Bool,
        (u.paired = false → idles (.digest dt v e step w0 w1) s)
        ∧ (∀ a b, u.paired = true → (mine u v).find? (fun x => x.1 = vkey v) = some (vkey v, a, b) →
          ((a, b) ≠ body v → answers (.digest dt v e step w0 w1) s (fun t => counted u t.m F.tngCnt_MISMATCH ∧ t.m.on F.tngDiv_VALID = true
            ∧ (u.on F.tngDiv_VALID = false → t.m.get F.tngDiv_ENTRY = (if v then 0 else e) ∧ t.m.get F.tngDiv_STEP = (if v then vtag else step) % 2 ^ F.tngDiv_STEP.w
              ∧ t.m.on F.tngDiv_KIND = v ∧ raises u t.m 0x13 0x17 0 [(1, (v.toNat : Int)), (10, ((if v then 0 else e : Nat) : Int)), (32, ((if v then vtag else step : Nat) : Int))])
            ∧ (u.on F.tngDiv_VALID = true → t.m.rd R.tngDiv = u.rd R.tngDiv)
            ∧ mine t.m v = (mine u v).erase (vkey v, a, b) ∧ (choice' v = false → keepsRegs u t.m [R.tngCnt, R.tngDiv] ∧ sameData (s.pass dt) t)))
          ∧ ((a, b) = body v → answers (.digest dt v e step w0 w1) s (fun t => mine t.m v = (mine u v).erase (vkey v, a, b) ∧ none' t v)))
        ∧ (u.paired = true → (mine u v).find? (fun x => x.1 = vkey v) = none → (theirs u v).length < 4096 → answers (.digest dt v e step w0 w1) s (fun t =>
            theirs t.m v = theirs u v ++ [(vkey v, (body v).1, (body v).2)] ∧ none' t v)))

/-! ## Recording and replay -/

/-- R343, R348, R358: EN begins recording at offset 0, with checkpoint 1 where a ring is there, or ends it; the other fields take a write only while EN was 0, and FREEZE with them
freezes. R347: every CKPT_MS, 10 at least, a recording TRC writes a checkpoint of the state of that moment. R343: once the buffer has room, the GAP record holds the number dropped and the
REEL of the first, and REC_GAP is raised. R348: FREEZE, or a trigger POST_MS before, freezes a ring that EN has opened, what waits reaching it first: R344: a record goes where the
ring stands, or past a PAD record to its begin. Nothing else of the kind happens otherwise. -/
def Obligations.RecordingStartsCheckpointsAndFreezes : Prop :=
  ∀ (s : State) (dt agent : Nat) (val : Word), s.live dt →
    let u := (s.pass dt).m
    let en := u.on F.trcRecCtl_EN
    let held : Bool := u.on F.trcRecCtl_FROZEN
    let open' : Bool := en && !held
    let conf := [F.trcRecCtl_KINDS, F.trcRecCtl_CKPT_MS, F.trcRecCtl_POST_MS, F.trcRecCtl_FRZ_MISMATCH, F.trcRecCtl_FRZ_LATE, F.trcRecCtl_FRZ_FAULT]
    let ring : Bool := u.get F.trcRecRing_SIZE != 0 && !u.replaying
    let buffered : Nat := u.recBuf.foldl (fun a x => a + x.bytes) 0
    let frozen (t : State) (cause : Nat) : Prop := t.m.on F.trcRecCtl_FROZEN = true ∧ t.m.on F.trcRecCtl_EN = true ∧ t.m.recBuf = [] ∧ t.m.recFreeze = none
      ∧ t.pending = s.pending ∧ (u.recBuf = [] → raises u t.m 0x1A 0x41 0 [(32, (cause : Int))] ∧ keepsRegs u t.m [R.trcRecCtl] ∧ sameData (s.pass dt) t)
    (s.heeds dt agent 25 →
      (let starts : Bool := val.getLsbD 0 && !en
       let stops : Bool := !val.getLsbD 0 && en
       answers (.recordEnable dt agent val) s (fun t => t.m.on F.trcRecCtl_EN = val.getLsbD 0
        ∧ t.m.on F.trcRecCtl_FROZEN = ((val.getLsbD 0 && val.getLsbD 63) || (!starts && held)) ∧ t.m.on F.trcRecCtl_FREEZE = (val.getLsbD 63 || (!starts && u.on F.trcRecCtl_FREEZE))
        ∧ (∀ f ∈ conf, t.m.get f = if en then u.get f else val.toNat / 2 ^ f.lo % 2 ^ f.w)
        ∧ (starts = true → val.getLsbD 63 = false → t.m.get F.trcRecWptr_BYTES = 0 ∧ t.m.recDropped = (if t.m.recBuf = [] ∧ ring = true then 1 else 0) ∧ t.m.recFreeze = none
          ∧ (ring = true → t.m.ckptN = 1 ∧ t.m.ckptAt = u.now ∧ counted u t.m F.trcRecCnt_CKPTS
              ∧ ∀ r ∈ t.m.recBuf, r.typ = 1 ∧ r.job = 0x3F ∧ r.reel = u.reel ∧ r.num 0 8 = u.digestNat % 2 ^ 64 ∧ r.num 16 8 = 1)
          ∧ (ring = false → t.m.recBuf = [] ∧ t.m.ckptN = 0 ∧ t.m.get F.trcRecCnt_CKPTS = u.get F.trcRecCnt_CKPTS) ∧ keepsWindows u t.m [25] ∧ sameData (s.pass dt) t)
        ∧ (stops = true → t.m.recFreeze = none) ∧ (starts = false → stops = false → val.getLsbD 63 = false → keepsRegs u t.m [R.trcRecCtl] ∧ sameData (s.pass dt) t)
        ∧ t.pending = s.pending))
      ∧ (open' = false → answers (.freeze dt agent) s (fun t => t.m = { u with regs := t.m.regs } ∧ t.m.on F.trcRecCtl_FREEZE = true ∧ t.m.on F.trcRecCtl_FROZEN = held
        ∧ t.m.on F.trcRecCtl_EN = en ∧ keepsRegs u t.m [R.trcRecCtl] ∧ sameData (s.pass dt) t))
      ∧ (open' = true → answers (.freeze dt agent) s (fun t => frozen t 0 ∧ t.m.on F.trcRecCtl_FREEZE = true))
      ∧ ∀ r, open' = true → u.recBuf = [r] → u.ringSize ≠ 0 → u.stalls u.ringBase = false → (s.pass dt).unflipped →
        let off := u.get F.trcRecWptr_BYTES % u.ringSize
        let pad : Bool := u.ringSize < off + r.bytes
        let at' := u.ringBase + if pad then 0 else off
        16 ≤ u.ringSize - off → r.bytes ≤ u.ringSize → (u.reaches trcAcc true at' r.bytes).1 = true →
        (pad = true → (u.reaches trcAcc true (u.ringBase + off) (u.ringSize - off)).1 = true) → u.get F.trcRecWptr_BYTES + u.ringSize + r.bytes < 2 ^ 64 →
        answers (.freeze dt agent) s (fun t => frozen t 0 ∧ raises u t.m 0x1A 0x41 0 [(32, 0)] ∧ t.holds at' r.raw
          ∧ t.m.get F.trcRecWptr_BYTES = u.get F.trcRecWptr_BYTES + (if pad then u.ringSize - off else 0) + r.bytes
          ∧ (pad = true → off ≠ 0 → r.bytes ≤ off → t.byte (u.ringBase + off + 7) = 0x0E)
          ∧ keepsBytes (s.pass dt) t [(u.ringBase, u.ringSize)]))
    ∧ (let room : Bool := u.recording && u.recDropped != 0 && decide (buffered + 32 ≤ 0x800000)
      (room = true → answers (.recGap dt) s (fun t => t.m.recDropped = 0 ∧ t.m.recFirst = 0
        ∧ t.m.recBuf = u.recBuf ++ [⟨0x0D, 0x3F, 0, false, u.reel, leBytes 8 u.recDropped ++ leBytes 8 (u.recFirst % 2 ^ 64).toNat⟩]
        ∧ counted u t.m F.trcRecCnt_GAPS ∧ raises u t.m 0x1A 0x40 0 [(32, (u.recDropped : Int)), (32, u.recFirst)] ∧ keepsRegs u t.m [R.trcRecCnt] ∧ sameData (s.pass dt) t))
      ∧ (room = false → idles (.recGap dt) s))
    ∧ (let due : Bool := u.recording && decide (u.ckptAt + max 10 (u.get F.trcRecCtl_CKPT_MS) * 1000000 ≤ u.now)
      let r : Rec := ⟨0x01, 0x3F, 0, false, u.reel, ({ u with ckptAt := u.now, ckptN := u.ckptN + 1 }).ckBody⟩
      let fits : Bool := u.recDropped = 0 && decide (buffered + r.bytes ≤ 0x800000)
      (due = true → answers (.checkpoint dt) s (fun t => t.m.ckptAt = u.now ∧ t.m.ckptN = u.ckptN + 1 ∧ counted u t.m F.trcRecCnt_CKPTS
        ∧ (fits = true → t.m.recBuf = u.recBuf ++ [r] ∧ t.m.recDropped = 0) ∧ (fits = false → t.m.recBuf = u.recBuf ∧ t.m.recDropped = u.recDropped + 1 ∧ counted u t.m F.trcRecCnt_DROPPED)
        ∧ keepsRegs u t.m [R.trcRecCnt] ∧ sameData (s.pass dt) t))
      ∧ (due = false → idles (.checkpoint dt) s))
    ∧ (∀ t0 cause, u.recFreeze = some (t0, cause) → t0 ≤ u.now → open' = true → answers (.recFrozen dt) s (fun t => frozen t cause
        ∧ t.m.on F.trcRecCtl_FREEZE = u.on F.trcRecCtl_FREEZE))
    ∧ ((open' = false ∨ ∀ x ∈ u.recFreeze, u.now < x.1) → idles (.recFrozen dt) s)

/-- R349: GO on a frozen ring starts an export of the range written with it; its end clears BUSY, raises EXPORT_DONE and the vector, and one record that begins in the range has left
whole, or as a GAP record where its job has no permission. R351, R353: a replay passes each record when Reel reaches its instant shifted by OFFSET, and its unit takes it: inputs,
edges, lines, detaches, commits; PAD and CHECKPOINT records are only passed. R355, R356: at TO or at a GAP it ends, items without counterpart are mismatches, every port is
STOPPED and its entries end. Nothing happens otherwise. -/
def Obligations.RingsExportAndReplay : Prop :=
  ∀ (s : State) (dt agent : Nat) (val : Word), s.live dt →
    let u := (s.pass dt).m
    let next := ((s.pass dt).fx.ringRead u.rplPos).1
    let busy : Bool := u.on F.trcExportCtl_BUSY
    let size := u.get F.trcExportCtl_LEN * 1024
    let runs : Bool := u.get F.trcRplStat_STATE = 1
    let at' : Bool := u.rplPos = u.get F.trcRplTo_OFF
    (s.heeds dt agent 25 → answers (.exportGo dt agent val) s (fun t =>
        t.m.on F.trcExportCtl_BUSY = (busy || (val.getLsbD 63 && u.on F.trcRecCtl_FROZEN)) ∧ t.m.get F.trcExportCtl_LEN = (val.extractLsb' 36 26).toNat
        ∧ t.m.get F.trcExportCtl_FROM = (val.extractLsb' 0 36).toNat ∧ t.m = { u with regs := t.m.regs } ∧ keepsRegs u t.m [R.trcExportCtl] ∧ sameData (s.pass dt) t))
    ∧ (busy = true → answers (.exportDone dt) s (fun t => t.m.on F.trcExportCtl_BUSY = false ∧ t.m.get F.trcExportCtl_LEN = u.get F.trcExportCtl_LEN
        ∧ t.m.pcieOut = some (u.get F.trcExportAddr_ADDR, t.m.hostOut) ∧ (size = 0 → t.m.hostOut = [] ∧ raises u t.m 0x1A 0x44 0 [(64, 0)] ∧ keepsRegs u t.m [R.trcExportCtl] ∧ sameData (s.pass dt) t)
        ∧ (∀ r, ((s.pass dt).fx.ringRead (u.get F.trcExportCtl_FROM / 16 * 16 % u.ringSize)).1 = some r → 0 < size → u.ringSize ≠ 0 → size ≤ r.bytes → r.typ ≠ 1 →
            let leaves : Bool := if r.typ = 2 then (u.portCtx r.unit).all fun c => u.mayExport (u.cxOwner c) else r.job = 0x3F || u.mayExport r.job
            let gap : Rec := ⟨0x0D, 0x3F, 0, false, u.reel, leBytes 8 1 ++ leBytes 8 (u.reel % 2 ^ 64).toNat⟩
            t.m.hostOut = (if leaves then r.raw else gap.raw) ∧ raises u t.m 0x1A 0x44 0 [(64, (t.m.hostOut.length : Int))] ∧ (leaves = false → u.evLevel 0x1A 0 ≠ 63 → raises u t.m 0x1A 0x45 0 [(32, 1)]))
        ∧ (u.on F.mgtPcieStat_UP = false → t.m.pba.getLsbD (u.get F.mgtIrq_EXPORT_VEC % 64) = true) ∧ t.pending = s.pending))
    ∧ (busy = false → idles (.exportDone dt) s)
    ∧ (∀ r, runs = true → at' = false → next = some r → r.typ ≠ 0x0D →
      let num (i n : Nat) : Nat := r.num i n
      let j := (u.portJobs (r.unit % 16)).headD 0
      let e := num 0 4 % 1024
      (r.typ = 0x0E ∨ r.reel + u.rplOff ≤ u.reel → answers (.replayRecord dt) s (fun t => t.m.rplPos = u.ringNext u.rplPos r.bytes ∧ t.pending = s.pending
        ∧ (r.typ = 0x0E ∨ r.typ = 1 → (s.pass dt).unflipped → t.m = { u with rplPos := t.m.rplPos } ∧ sameData (s.pass dt) t)
        ∧ (r.typ = 2 → 32 < r.body.length → u.get (F.grsFmt_NEXP (r.unit % 16)) = 0 → (u.rplExp.find? fun x => x.1 = r.unit % 16) = none →
            (t.m.grsPort (r.unit % 16)).lines = (u.grsPort (r.unit % 16)).lines + 1)
        ∧ (r.typ = 2 → (u.grsPort (r.unit % 16)).lines < 64 * (u.jrt j).base → t.m.mon = u.mon ∧ t.m.hop = u.hop)
        ∧ (r.typ = 3 → (t.m.posAx (edgeOfBytes r.body).axis).fwd = u.trackRec (u.posAx (edgeOfBytes r.body).axis).fwd { edgeOfBytes r.body with reel := (edgeOfBytes r.body).reel + u.rplOff })
        ∧ (r.typ = 4 → 32 ≤ r.unit → t.m.get (F.fioIcCount_COUNT (r.unit % 32)) = num 0 4 ∧ t.m.get (F.fioIcFreq_EDGES (r.unit % 32)) = num 4 4
            ∧ t.m.get (F.fioIcFreq_FREQ (r.unit % 32)) = num 8 4)
        ∧ (r.typ = 4 → r.unit < 32 → (t.m.inW r.unit).told = (num 0 1 % 2 = 1 : Bool))
        ∧ (r.typ = 5 → num 0 4 = 1 → u.jobState (num 4 4 % 64) = 2 → t.m.jobState (num 4 4 % 64) = 3)
        ∧ (r.typ = 6 → let c := num 0 4 % 32
            t.m.get (cxf F.mshCxTook_SEQ c) = (u.get (cxf F.mshCxTook_SEQ c) + 1) % 2 ^ 16 ∧ t.m.get (cxf F.mshCxTook_BLOCK c) = num 4 4 % 2 ^ 32
            ∧ raises u t.m 0x02 0x10 (u.cxInst c) [(5, (c : Int)), (32, (num 4 4 : Int))])
        ∧ (r.typ = 8 → detachedAt u t.m e (num 4 4 = 1) (num 8 8 - u.stepBase (u.hopJob e)) (num 16 8))
        ∧ (r.typ = 9 → t.m.rplChoices = u.rplChoices.erase (r.unit, num 0 4, num 4 4))))
      ∧ (r.typ ≠ 0x0E → u.reel < r.reel + u.rplOff → (s.pass dt).unflipped → idles (.replayRecord dt) s))
    ∧ (runs = false ∨ at' = true → idles (.replayRecord dt) s)
    ∧ (∀ r, runs = true → next = some r → r.typ = 0x0D → (s.pass dt).unflipped → idles (.replayRecord dt) s)
    ∧ (let gap : Bool := next.any fun r => r.typ = 0x0D
      (runs = true → (at' || gap) = true → answers (.replayDone dt) s (fun t => t.m.get F.trcRplStat_STATE = (if at' then 2 else 3) ∧ t.m.rplRec = [] ∧ t.m.rplSeen = [] ∧ t.m.rplChoices = []
        ∧ t.m.get F.trcRplStat_MISMATCHES = min (u.get F.trcRplStat_MISMATCHES + u.rplRec.length) (2 ^ F.trcRplStat_MISMATCHES.w - 1)
        ∧ (u.rplRec = [] → (s.pass dt).unflipped → next.isSome = true → raises u t.m 0x1A 0x42 0 [(32, if at' then 0 else 1)]) ∧ (u.rplRec ≠ [] → t.m.on F.trcRplDiv_VALID = true)
        ∧ (∀ p < 16, t.m.get (F.grsStatus_STATE p) = 0)
        ∧ (∀ y ∈ u.hop, y.1 < 1024 → y.2.live = true → u.hopState y.1 = 2 → u.get (F.grsStatus_STATE (u.get (F.hopEntCfg_PORT y.1))) ≠ 0 → u.follower = false → t.m.hopState y.1 = 3)
        ∧ t.pending = s.pending))
      ∧ (runs = false → idles (.replayDone dt) s) ∧ (runs = true → (at' || gap) = false → next.isSome = true → (s.pass dt).unflipped → idles (.replayDone dt) s))

/-! ## Memory integrity, security, power and resets -/

/-- R366, R367: GO starts a pass over a good range and clears the summary, or is refused; a pass ends at STOP, or once its rate has covered the range, with the words it read and what it
found; R368, R386: a flip mask is armed where its region has a name. R374 to R377: entropy makes SEC READY with its keys; health failures count, and the fourth in a row at start or
the third after makes it FAILED; a second or 2^20 requests reseed; a read takes 32 new bits while SEC is READY, else it shows 0. Nothing happens otherwise. -/
def Obligations.SpargeFlipsAndRandomBits : Prop :=
  ∀ (s : State) (dt agent test : Nat) (val : Word), (test = 1 ∨ test = 2) → s.live dt →
    let u := (s.pass dt).m
    let lo := u.get F.memSpgFrom_ADDR
    let hi := u.get F.memSpgTo_ADDR
    let sums := [R.memSpgCtl, R.memSpgSum0, R.memSpgSum1, R.memSpgSum2, R.memSpgSum3, R.memSpgSum4]
    let st := u.get F.secStat_STATE
    let region := (val.extractLsb' 40 8).toNat
    let found (p : Pass) : List (Nat × BitVec 72) := (s.pass dt).flips.filter fun f => p.lo ≤ f.1 * 8 ∧ f.1 * 8 < p.hi ∧ u.spgSkips (f.1 * 8) = false
    let overran (p : Pass) : Bool := decide ((p.hi - p.lo) / 8 ≤ (u.now - p.since) * spgRate ((spgKind p.lo).getD 0))
    let ended (t : State) (x : Nat) : Prop := t.m.spg = none ∧ t.m.get F.memSpgCtl_STATE = x
      ∧ raises u t.m 0x14 0x12 0 [(3, (x : Int)), (32, (t.m.get F.memSpgSum0_CE : Int)), (32, (t.m.get F.memSpgSum0_UE : Int))] ∧ keepsRegs u t.m sums ∧ sameData (s.pass dt) t
    (s.heeds dt agent 19 →
      (u.spgGood lo hi = true → answers (.spgGo dt agent) s (fun t => t.m = { u with spg := some { since := u.now, lo, hi }, regs := t.m.regs }
        ∧ t.m.get F.memSpgCtl_STATE = 1 ∧ (∀ o ∈ sums.tail, t.m.rd o = 0) ∧ keepsRegs u t.m sums ∧ sameData (s.pass dt) t))
      ∧ (u.spgGood lo hi = false → answers (.spgGo dt agent) s (fun t => t.m = { u with regs := t.m.regs } ∧ t.m.get F.memSpgCtl_STATE = 4
        ∧ keepsRegs u t.m [R.memSpgCtl] ∧ sameData (s.pass dt) t))
      ∧ (∀ p, u.spg = some p → answers (.spgStop dt agent) s (fun t => ended t 3 ∧ t.m.get F.memSpgSum4_WORDS ≤ (p.hi - p.lo) / 8))
      ∧ (u.spg = none → idles (.spgStop dt agent) s)
      ∧ (let named : Bool := region = 0 || (decide (0x10 ≤ region) && decide (region ≤ 0x13)) || (decide (0x20 ≤ region) && decide (region ≤ 0x7F))
        answers (.flipArm dt agent val) s (fun t => t.m.rd R.memFlipCtl = (if val.getLsbD 62 || named then val &&& 0xC0FFFFFFFFFFFFFF else val &&& 0x40FFFFFFFFFFFFFF)
          ∧ t.m = { u with regs := t.m.regs } ∧ keepsRegs u t.m [R.memFlipCtl] ∧ sameData (s.pass dt) t)))
    ∧ (∀ p, u.spg = some p →
      let f := found p
      let a := f.map fun x => x.1 * 8
      (overran p = true → answers (.spargeDone dt) s (fun t => ended t 2 ∧ t.m.get F.memSpgSum4_WORDS ≤ (p.hi - p.lo) / 8
        ∧ (f = [] → t.m.get F.memSpgSum3_WORST_CNT = 0)
        ∧ ((∀ x ∈ f, popcount x.2 = 1) → t.m.get F.memSpgSum0_CE = min f.length (2 ^ 32 - 1) ∧ t.m.get F.memSpgSum0_UE = 0)
        ∧ ((∀ x ∈ f, popcount x.2 = 2) → t.m.get F.memSpgSum0_UE = min f.length (2 ^ 32 - 1) ∧ t.m.get F.memSpgSum0_CE = 0)
        ∧ t.m.get F.memSpgSum1_ADDR = a.foldl min (a.headD 0) % 2 ^ 40 ∧ t.m.get F.memSpgSum2_ADDR = a.foldl max 0 % 2 ^ 40))
      ∧ (overran p = false → idles (.spargeDone dt) s))
    ∧ (u.spg = none → idles (.spargeDone dt) s)
    ∧ (st = 0 → answers (.entropyReady dt) s (fun t => t.m.secReady = true ∧ t.m.dramKeys = true ∧ t.m.keysAt = u.now ∧ t.m.drbgAt = u.now ∧ t.m.drbgN = 0 ∧ t.m.healthRun = 0
      ∧ raises u t.m 0x15 0x10 0 [] ∧ keepsRegs u t.m [R.secStat] ∧ sameData (s.pass dt) t))
    ∧ (st ≠ 0 → idles (.entropyReady dt) s)
    ∧ (let fails : Bool := (st = 0 && decide (4 ≤ u.healthRun + 1)) || (st = 1 && decide (3 ≤ u.healthRun + 1))
      (st < 2 → answers (.healthFail dt test) s (fun t => t.m.healthRun = u.healthRun + 1 ∧ counted u t.m F.secStat_HEALTH_FAILS ∧ raises u t.m 0x15 0x11 0 [(32, (test : Int))]
        ∧ (fails = true → t.m.get F.secStat_STATE = 2 ∧ t.m.on F.secRng_VALID = false ∧ (t.m.get F.rstFault_SRC).testBit 1 = true ∧ keepsRegs u t.m [R.secStat, R.secRng, R.rstFault, R.cmpLate]
            ∧ (u.evLevel 0x15 0 ≠ 63 → raises u t.m 0x15 0x12 0 []))
        ∧ (fails = false → t.m.get F.secStat_STATE = st ∧ keepsRegs u t.m [R.secStat]) ∧ sameData (s.pass dt) t))
      ∧ (2 ≤ st → idles (.healthFail dt test) s))
    ∧ (let due : Bool := u.secReady && (decide (u.drbgAt + 1000000000 ≤ u.now) || decide (2 ^ 20 ≤ u.drbgN))
      (due = true → answers (.reseed dt) s (fun t => t = { s.pass dt with m := { u with drbgAt := u.now, drbgN := 0, healthRun := 0 } }))
      ∧ (due = false → idles (.reseed dt) s))
    ∧ (s.heeds dt agent 20 →
      (u.secReady = true → answers (.rngRead dt agent) s (fun t => t.m.on F.secRng_VALID = true ∧ t.m.get F.secRng_DATA = (u.free.1.extractLsb' 0 32).toNat
        ∧ t.m = { u with regs := t.m.regs, drbgN := u.drbgN + 1, fresh := u.fresh + 1 } ∧ keepsRegs u t.m [R.secRng] ∧ sameData (s.pass dt) t))
      ∧ (u.secReady = false → answers (.rngRead dt agent) s (fun t => t.m.rd R.secRng = 0 ∧ t.m = { u with regs := t.m.regs } ∧ keepsRegs u t.m [R.secRng] ∧ sameData (s.pass dt) t)))

/-- R389 to R393: V is the mean of the last 10 samples; the stages are entered below 20.4, 19.2 and 18.0 V and left at 18.4, 19.6 and 20.8 V, each raised, shedding tracing and
the guarantee at stage 1, fabric lanes at 2 and boost at 3; above 32.5 V SUPPLY_HIGH is raised once. R394, R395: 1 ms of samples below 16.8 V, or a store at its reserve, is the
power-fail stop: every stage, its causes, no jobs, the keys and data memory below 0x1106000000 gone. R396: 100 ms of good supply after it, and 60 s after a trip, run a cold reset. Otherwise
nothing of it happens. -/
def Obligations.SupplyShedsFailsAndRecovers : Prop :=
  ∀ (s : State) (dt mv10 : Nat) (reserve : Bool), s.live dt →
    let u := (s.pass dt).m
    let l := (mv10 :: u.supply.samples).take 10
    let v := l.foldl (· + ·) 0 / l.length
    let st := u.get F.pwrStat_STAGE
    let enters := if v < 1800 then 3 else if v < 1920 then 2 else if v < 2040 then 1 else 0
    let stays := if 2080 ≤ v then 0 else if 1960 ≤ v then 1 else if 1840 ≤ v then 2 else 3
    let now' := if u.on F.pwrStat_PWRFAIL then st else min (max st enters) stays
    let high := [(16, (v : Int))]
    let cleared (t : State) : Prop := ∀ a < 0x1106000000, t.byte a = memDflt a
    let noJobs (t : State) : Prop := ∀ j < 64, t.m.jobState j = 0
    (mv10 < 65536 → (∀ x ∈ u.supply.samples, x < 65536) → st ≤ 3 → answers (.supplySample dt mv10) s (fun t => t.m.get F.pwrStat_VIN = v ∧ t.m.get F.pwrStat_STAGE = now'
      ∧ t.m.get F.pwrMinmax_VMAX = max v (u.get F.pwrMinmax_VMAX) ∧ t.m.get F.pwrMinmax_VMIN = min v (u.get F.pwrMinmax_VMIN) ∧ t.m.supply.samples = l
      ∧ t.m.supply.low = (if mv10 < 1680 then (if u.supply.low.isSome then u.supply.low else some u.now) else none)
      ∧ (3250 < v → u.supply.high = false → raises u t.m 0x16 0x13 0 high ∧ t.m.supply.high = true) ∧ (v ≤ 3200 → t.m.supply.high = false)
      ∧ (now' = st + 1 → (v ≤ 3250 ∨ u.supply.high = true) → t.m.on F.pwrStat_NOTICE = true ∧ raises u t.m 0x16 0x10 0 [(3, (now' : Int)), (16, (v : Int))])
      ∧ (now' + 1 = st → (v ≤ 3250 ∨ u.supply.high = true) → raises u t.m 0x16 0x11 0 [(3, (st : Int)), (16, (v : Int))])
      ∧ (st = 0 → 1 ≤ now' → t.m.shed.testBit 2 = true ∧ t.m.on F.schGuar_SUPPLY = true ∧ t.m.on F.schGuar_HELD = false ∧ counted u t.m F.pwrCnt_ST1)
      ∧ (st < 2 → 2 ≤ now' → t.m.shed.testBit 1 = true ∧ counted u t.m F.pwrCnt_ST2) ∧ (st < 3 → now' = 3 → t.m.kiln.boost = none ∧ counted u t.m F.pwrCnt_ST3)
      ∧ (1 ≤ st → now' = 0 → t.m.shed.testBit 2 = false ∧ t.m.on F.schGuar_SUPPLY = false) ∧ (2 ≤ st → now' < 2 → t.m.shed.testBit 1 = false)
      ∧ (now' = st → t.m.shed = u.shed ∧ keepsRegs u t.m [R.pwrStat, R.pwrMinmax]) ∧ sameData (s.pass dt) t))
    ∧ (let low : Bool := match u.supply.low with | some t0 => decide (t0 + 1000000 ≤ u.now) | none => false
      let fails : Bool := !u.on F.pwrStat_PWRFAIL && (reserve || low)
      (fails = true → answers (.powerFail dt reserve) s (fun t => t.m.on F.pwrStat_PWRFAIL = true ∧ t.m.get F.pwrStat_STAGE = max 4 st
        ∧ (t.m.get F.fioSafe_CAUSE).testBit 2 = true ∧ (t.m.get F.rstFault_SRC).testBit 2 = true ∧ t.m.supply.failAt = some u.now ∧ t.m.supply.trip = false
        ∧ t.m.get F.celBkp0_PWRFAILS = (u.get F.celBkp0_PWRFAILS + 1) % 2 ^ (F.celBkp0_PWRFAILS).w ∧ t.m.rd R.celBkp3 = BitVec.ofInt 64 u.reel
        ∧ (∀ i < 40, t.m.rd (R.kilnIsl i) = 0) ∧ t.m.dramKeys = false ∧ noJobs t ∧ cleared t ∧ t.pending = s.pending))
      ∧ (fails = false → idles (.powerFail dt reserve) s))
    ∧ (∀ t0, u.supply.failAt = some t0 →
      let fine : Bool := match u.supply.good with | some g => decide (g + 100000000 ≤ u.now) | none => false
      let back : Bool := fine && (!u.supply.trip || decide (t0 + 60000000000 ≤ u.now))
      (back = true → answers (.pwrfailRecover dt) s (fun t => t.m.on F.pwrStat_PWRFAIL = false ∧ t.m.get F.rstCause_SRC = (0x80 ||| u.supply.held) % 256 ∧ t.m.get F.rstCause_REACH = 0
        ∧ t.m.get F.rstStat_PHASE = 0 ∧ t.m.supply = {} ∧ t.m.nvm = u.nvm ∧ noJobs t ∧ cleared t ∧ (u.rst.low = false → t.m.halted = false) ∧ t.pending = s.pending))
      ∧ (back = false → idles (.pwrfailRecover dt) s))
    ∧ (u.supply.failAt = none → idles (.pwrfailRecover dt) s)

/-- R397 to R399: with the key a warm, cold or compute reset clears what its reach names, gives its source in RST_CAUSE and starts again at its phase; a compute reset leaves DRAM and the
camera, security and memory registers. R395, R400: a source is held in a power-fail stop, joins one that waits, and waits while an NVM pulse runs, whether one does being open while a store is
in progress; a deferred reset runs when the pulse ends. R405, R406: a block reset returns a unit to reset, its package registers loaded, what it held lost and counted. R398: a wrong
key, kind or block is refused. nRESET_IN low asserts a cold reset and holds it. -/
def Obligations.ResetsReachWhatTheyName : Prop :=
  ∀ (s : State) (dt agent : Nat) (val : Word), s.live dt →
    let u := (s.pass dt).m
    let kind := (val.extractLsb' 0 3).toNat
    let blk := (val.extractLsb' 40 8).toNat
    let inst := (val.extractLsb' 30 10).toNat
    let keyed : Bool := (val.extractLsb' 48 16).toNat = 0x5A17
    let fail := u.on F.pwrStat_PWRFAIL
    let alone : Bool := !fail && u.rst.asserted.isNone
    let runs : Bool := alone && !u.nvmBusy
    let valid : Bool := keyed && kind = 4 && blockOk blk inst
    let n := u.blockItems blk inst
    let span (o : Nat) : Bool := decide ((unitSpan blk inst).1 ≤ o) && decide (o < (unitSpan blk inst).2)
    let held (t : State) (n : Nat) : Prop := t = { s.pass dt with m := { u with supply := { u.supply with held := u.supply.held ||| n } } }
    let caused (t : State) (src reach : Nat) : Prop := t.m.get F.rstCause_SRC = src ∧ t.m.get F.rstCause_REACH = reach
      ∧ t.m.get F.celBkp0_CAUSE = u.get F.rstCause_SRC ∧ t.m.get F.celBkp0_REACH = u.get F.rstCause_REACH
    let cleared (t : State) (lo : Nat) : Prop := ∀ a, lo ≤ a → a < 0x1106000000 → t.byte a = memDflt a
    let noJobs (t : State) : Prop := ∀ j < 64, t.m.jobState j = 0
    let refused (t : State) : Prop := raises u t.m 0x17 0x12 0 [(3, (kind : Int)), (8, (blk : Int))] ∧ keepsRegs u t.m [] ∧ t.m.rst = u.rst ∧ sameData (s.pass dt) t
    let waiting (t : State) (n src reach : Nat) : Prop := t = { s.pass dt with m := { u with fresh := u.fresh + n, rst := { u.rst with asserted := some (src, reach), waits := true } } }
    (s.heeds dt agent 22 →
      ((kind ≠ 1 → idles (.globalWarmReset dt agent val) s) ∧ (kind = 1 → keyed = false → answers (.globalWarmReset dt agent val) s refused)
        ∧ (kind = 1 → keyed = true → fail = true → answers (.globalWarmReset dt agent val) s (fun t => held t 8))
        ∧ (∀ s0 r0, kind = 1 → keyed = true → fail = false → u.rst.asserted = some (s0, r0) → answers (.globalWarmReset dt agent val) s (fun t => waiting t 0 (s0 ||| 8) (min r0 1)))
        ∧ (kind = 1 → keyed = true → alone = true → u.nvmBusy = true → answers (.globalWarmReset dt agent val) s (fun t => if u.free.1.getLsbD 0 then waiting t 1 8 1 else caused t 8 1 ∧ noJobs t))
        ∧ (kind = 1 → keyed = true → runs = true → answers (.globalWarmReset dt agent val) s (fun t => caused t 8 1 ∧ t.m.on F.rstCause_DEFERRED = false ∧ noJobs t ∧ t.pending = s.pending))
        ∧ (kind ≠ 2 → idles (.globalColdReset dt agent val) s) ∧ (kind = 2 → keyed = false → answers (.globalColdReset dt agent val) s refused)
        ∧ (kind = 2 → keyed = true → fail = true → answers (.globalColdReset dt agent val) s (fun t => held t 8))
        ∧ (∀ s0 r0, kind = 2 → keyed = true → fail = false → u.rst.asserted = some (s0, r0) → answers (.globalColdReset dt agent val) s (fun t => waiting t 0 (s0 ||| 8) (min r0 0)))
        ∧ (kind = 2 → keyed = true → alone = true → u.nvmBusy = true → answers (.globalColdReset dt agent val) s (fun t => if u.free.1.getLsbD 0 then waiting t 1 8 0 else caused t 8 0 ∧ noJobs t))
        ∧ (kind = 2 → keyed = true → runs = true → answers (.globalColdReset dt agent val) s (fun t => caused t 8 0 ∧ t.m.on F.rstCause_DEFERRED = false ∧ noJobs t ∧ t.pending = s.pending))
        ∧ (kind ≠ 3 → idles (.computeReset dt agent val) s) ∧ (kind = 3 → keyed = false → answers (.computeReset dt agent val) s refused)
        ∧ (kind = 3 → keyed = true → fail = true → answers (.computeReset dt agent val) s (fun t => held t 16))
        ∧ (∀ s0 r0, kind = 3 → keyed = true → fail = false → u.rst.asserted = some (s0, r0) → answers (.computeReset dt agent val) s (fun t => waiting t 0 (s0 ||| 16) (min r0 2)))
        ∧ (kind = 3 → keyed = true → alone = true → u.nvmBusy = true → answers (.computeReset dt agent val) s (fun t => if u.free.1.getLsbD 0 then waiting t 1 16 2 else caused t 16 2 ∧ noJobs t))
        ∧ (kind = 3 → keyed = true → runs = true → answers (.computeReset dt agent val) s (fun t => caused t 16 2 ∧ t.m.on F.rstCause_DEFERRED = false ∧ noJobs t ∧ t.pending = s.pending)))
      ∧ (keyed = true → runs = true → u.rst.low = false →
        (kind = 1 → answers (.globalWarmReset dt agent val) s (fun t => (u.on F.rstStat_MINIMAL = false → t.m.get F.rstStat_PHASE = 1) ∧ t.m.nvm = u.nvm
          ∧ t.m.now = u.now ∧ cleared t 0))
        ∧ (kind = 2 → answers (.globalColdReset dt agent val) s (fun t => t.m.get F.rstStat_PHASE = 0 ∧ t.m.nvm = u.nvm ∧ t.m.now = 0 ∧ cleared t 0))
        ∧ (kind = 3 → answers (.computeReset dt agent val) s (fun t => t.m.nvm = u.nvm ∧ cleared t 0x1000000000 ∧ (∀ a < 0x1000000000, t.byte a = (s.pass dt).byte a)
          ∧ (∀ a < 8, t.m.get (F.cmpCtl_STATE a) = 0) ∧ ∀ o, o / 0x100000 ∈ [0, 19, 20] → t.m.rd o = u.rd o)))
      ∧ (kind = 0 ∨ 4 ≤ kind → valid = false → answers (.blockReset dt agent val) s refused)
      ∧ (valid = true → fail = true → answers (.blockReset dt agent val) s (fun t => held t 0x20))
      ∧ (valid = true → fail = false → answers (.blockReset dt agent val) s (fun t => caused t 0x20 3 ∧ t.m.on F.rstCause_DEFERRED = false
          ∧ (blk ≠ 0x12 → t.m.get F.rstBlk_LOST = min (u.get F.rstBlk_LOST + n) (2 ^ (F.rstBlk_LOST).w - 1) ∧ raises u t.m 0x17 0x11 0 [(8, (blk : Int)), (16, (inst : Int)), (32, (n : Int))]
              ∧ sameData (s.pass dt) t)
          ∧ (blk ≠ 9 → u.pkg.regs = [] → ∀ o, span o = true → t.m.rd o = regReset o)
          ∧ (∀ r, u.pkg.regs = [r] → blk ≠ 9 → span r.1 = true → ∀ row ix, regAt r.1 = some (row, ix) →
              let k : Word := BitVec.ofNat 64 (row.cfg ||| row.shadow)
              t.m.rd r.1 = (regReset r.1 &&& ~~~k) ||| (r.2 &&& k))
          ∧ (blk = 9 → t.m.clQueue inst = [] ∧ (∀ x ∈ t.m.running, x.cluster ≠ inst) ∧ ∀ i < 64, t.m.core (64 * inst + i) = {})
          ∧ (∀ e, engOf blk inst = some e → t.m.engine e = {}) ∧ (blk = 2 → t.m.pipe inst = {}) ∧ (blk = 0xF → t.m.posAx inst = {}) ∧ (blk = 0x10 → t.m.cmpAx inst = {}))))
    ∧ (u.rst.low = true → idles (.nresetIn dt) s)
    ∧ (runs = true → u.rst.low = false → answers (.nresetIn dt) s (fun t => caused t 2 0 ∧ t.m.halted = true ∧ t.m.rst.low = true ∧ noJobs t ∧ cleared t 0 ∧ t.pending = s.pending))
    ∧ (alone = true → u.nvmBusy = true → u.rst.low = false → answers (.nresetIn dt) s (fun t => t.m.rst.low = true ∧ if u.free.1.getLsbD 0 then t.m.rst.asserted = some (2, 0) ∧ t.m.rst.waits = true ∧ sameData (s.pass dt) t
        else caused t 2 0 ∧ t.m.halted = true ∧ noJobs t))
    ∧ (fail = true → u.rst.low = false → answers (.nresetIn dt) s (fun t =>
        t = { s.pass dt with m := { u with rst := { u.rst with low := true }, supply := { u.supply with held := u.supply.held ||| 2 } } }))
    ∧ (∀ src r, u.rst.asserted = some (src, r) → u.rst.waits = true → answers (.deferredReset dt) s (fun t => caused t (src % 256) (r % 4)
        ∧ t.m.on F.rstCause_DEFERRED = true ∧ t.m.rst.waits = false ∧ t.m.halted = u.rst.low ∧ (u.rst.low = false → r = 0 → t.m.get F.rstStat_PHASE = 0) ∧ t.pending = s.pending))
    ∧ (u.rst.asserted = none → idles (.deferredReset dt) s)
    ∧ answers (.resetRelease dt) s (fun t => t = { s.pass dt with m := { u with rst := { u.rst with low := false } } })

/-- R398, R399, R401, in reset or out of it: power-on runs a cold reset that keeps the NVM; a reset that nRESET_IN holds ends when the pin rises and starts again at the phase of its
reach; a source that comes while one holds joins it; a loss of retention latches. -/
def Obligations.PowerOnAndPinReleaseStartAgain : Prop :=
  ∀ (s : State) (dt : Nat),
    let u := (s.pass dt).m
    let frees (r : Nat) : Prop := ∃ src < 256, u.rst.asserted = some (src, r)
    let back (t : State) : Prop := t.m.halted = u.rst.frozen ∧ t.m.rst.asserted = none ∧ t.m.rst.low = false ∧ sameData (s.pass dt) t
    answers (.powerOn dt) s (fun t => t.m.halted = false ∧ t.m.get F.rstCause_SRC = 1 ∧ t.m.get F.rstCause_REACH = 0
        ∧ t.m.get F.rstStat_PHASE = 0 ∧ t.m.on F.pwrStat_PWRFAIL = false ∧ t.m.nvm = u.nvm ∧ (∀ j < 64, t.m.jobState j = 0)
        ∧ (∀ a < 0x1106000000, t.byte a = memDflt a) ∧ t.pending = s.pending)
    ∧ answers (.retentionLoss dt) s (fun t => t = { s.pass dt with m := { u with rst := { u.rst with latched := true } } })
    ∧ (u.rst.low = true → u.rst.waits = false →
      (frees 0 → answers (.resetRelease dt) s (fun t => back t ∧ t.m.get F.rstStat_PHASE = 0 ∧ t.m.rst.startAt = u.now))
      ∧ (frees 1 → answers (.resetRelease dt) s (fun t => back t ∧ (u.on F.rstStat_MINIMAL = false → t.m.get F.rstStat_PHASE = 1 ∧ t.m.rst.startAt = u.now)))
      ∧ (frees 2 → answers (.resetRelease dt) s (fun t => back t ∧ (u.on F.rstStat_MINIMAL = false → t.m.get F.rstStat_PHASE = min 4 (u.get F.rstStat_PHASE)))))
    ∧ (∀ src r, u.on F.pwrStat_PWRFAIL = false → u.rst.low = false → u.rst.waits = false → u.rst.asserted = some (src, r) → answers (.nresetIn dt) s (fun t =>
        t.m.get F.rstCause_SRC = (src ||| 2) % 256 ∧ t.m.rst = { u.rst with low := true, asserted := some (src ||| 2, min r 0) } ∧ keepsRegs u t.m [R.rstCause] ∧ sameData (s.pass dt) t))

/-! ## Starts -/

/-- R404, R408, R414 to R418: each phase of a start does its work and ends in the next: BOOT takes the backup, the boot table and the dump, NVM checks the package, POWERUP
starts the islands, ENTROPY waits for SEC, LOAD loads the jobs, CHECK admits and checks the windows, LINKS ends in READY or waits. A reason of R415 or the timeout is recorded, counted and
asserts FAULT, the third goes to MINIMAL; 100 ms later a cold reset tries again, the other package first when it verifies; MINIMAL flashes its code; the autorun arms a restart 200 ms
ahead, or counts a refusal. Nothing of it happens otherwise. What writes of a package's registers do is left to the register statements. -/
def Obligations.StartsEndInReadyOrFail : Prop :=
  ∀ (s : State) (dt reason : Nat) (f : PhaseFacts), s.live dt →
    let u := (s.pass dt).m
    let ph := u.get F.rstStat_PHASE
    let fails := u.get F.celBkp0_FAILS
    let slot := u.get F.rstStat_PKG_SLOT
    let whole : Bool := !u.rst.latched && cellarGood ((List.range 64).map fun i => (s.pass dt).byte (cellar + i))
    let held := u.nvmBytes dumpBase 256
    let c := u.pkgCheck slot (decide (f.reason ≠ 5))
    let empty : Bool := !u.nvmUsed (pkgBase 0) (pkgBase 0 + pkgSize) && !u.nvmUsed (pkgBase 1) (pkgBase 1 + pkgSize)
    let bytes := (u.nvmPart (pkgBase slot) (pkgBase slot + pkgSize)).filter fun b => !c.skipped.any fun r => decide (r.1 ≤ b.1) && decide (b.1 < r.2)
    let admits := u.admission ⟨(s.pass dt).mem, (s.pass dt).flips⟩
    let fell (t : State) (why : Nat) : Prop := t.m.get F.rstStat_REASON = why % 256 ∧ t.m.rst.failedAt = some u.now ∧ (t.m.get F.rstFault_SRC).testBit 5 = true
    let failed (t : State) (why : Nat) : Prop := fell t why ∧ t.m.get F.celBkp0_FAILS = min (fails + 1) 255 ∧ t.m.get F.celBkp1_REASONS = (u.get F.celBkp1_REASONS * 256 + why % 256) % 2 ^ 64
      ∧ (fails = 2 → t.m.on F.rstStat_MINIMAL = true ∧ t.m.get F.rstFault_CODE = why % 2 ^ F.rstFault_CODE.w ∧ (t.m.get F.fioSafe_CAUSE).testBit 3 = true ∧ t.m.dramKeys = false
          ∧ (u.evLevel 0x17 0 < 64 → raises u t.m 0x17 0x15 0 [(8, (why : Int))])
          ∧ (u.evq = [] → u.logBuf.length < 2048 → (t.m.logBuf.any fun e => decide (e.blk = 0x17) && decide (e.loc = 0x14) && decide (e.args = packArgs [(8, (why : Int)), (8, (fails : Int))])) = true) ∧ (∀ a < 0x1106000000, t.byte a = memDflt a) ∧ t.pending = s.pending)
      ∧ (fails ≠ 2 → raises u t.m 0x17 0x14 0 [(8, (why : Int)), (8, (fails : Int))] ∧ keepsRegs u t.m [R.celBkp0, R.celBkp1, R.rstStat, R.rstFault, R.cmpLate] ∧ sameData (s.pass dt) t)
    let loaded (t : State) : Prop := t.m.on F.rstStat_MINIMAL = false → ∀ p ∈ u.pkg.jobs, p.job < 64 → t.m.jobState p.job = 1
    let ready (t : State) : Prop := t.m.get F.rstStat_PHASE = 7 ∧ t.m.get F.celBkp0_FAILS = 0 ∧ t.m.get F.rstStat_FAILS = 0 ∧ t.m.rst.part = false ∧ t.m.rst.tries = 0 ∧ t.m.rst.pkgSlot = none
      ∧ t.m.rst.autoAt = (if u.pkg.autorun && decide (u.chainPos = 0) && !u.isB then some (u.now + u.pkg.autorunMs * 1000000) else none)
    (u.starting = true →
      (ph = 0 → (s.pass dt).unflipped →
        (f.reason = 0 → u.bootBad = false → answers (.startPhase dt f) s (fun t => t.m.get F.rstStat_PHASE = 1 ∧ t.m.on F.celStat_VALID = whole ∧ t.m.on F.celStat_LOST = !whole
          ∧ (whole = false → raises u t.m 0x17 0x1E 0 [] ∧ t.m.get F.celBkp0_FAILS = 0) ∧ t.m.rst.latched = false ∧ t.m.mgt.kickAt = u.now
          ∧ t.num (cellar + 4) 4 = (if whole then ((s.pass dt).num (cellar + 4) 4 + 1) % 2 ^ 32 else 1)
          ∧ (f.cellarEcc.map (·.2) = [1] → counted u t.m F.celStat_CE) ∧ (f.cellarEcc.map (·.2) = [2] → counted u t.m F.celStat_UE)
          ∧ t.m.get F.rstStat_PKG_SLOT = (u.rst.pkgSlot.getD u.boot.pkg) % 2 ^ F.rstStat_PKG_SLOT.w ∧ t.m.get F.rstStat_FW_SLOT = (u.rst.fwSlot.getD u.boot.fw) % 2 ^ F.rstStat_FW_SLOT.w
          ∧ (u.rst.fallback = true → whole = true → f.cellarEcc = [] → raises u t.m 0x17 0x1A 0 [(1, ((u.rst.pkgSlot.getD u.boot.pkg : Nat) : Int))]) ∧ t.m.mgt.ip = u.boot.addr
          ∧ t.m.get F.mgtDump_STATE = (if numAt held 0 4 = 0x444D5031 && numAt held 252 4 = crc32c (held.take 252) then 1 else 0) ∧ t.pending = s.pending))
        ∧ (f.reason = 0 → u.bootBad = true → answers (.startPhase dt f) s (fun t => fell t 2)) ∧ (f.reason ≠ 0 → answers (.startPhase dt f) s (fun t => fell t f.reason)))
      ∧ (ph = 1 →
        (f.reason ≠ 0 → f.reason ≠ 5 → answers (.startPhase dt f) s (fun t => fell t f.reason ∧ (f.nvmSingle = true → fails ≠ 2 → t.m.on F.rstStat_NVM_SINGLE = true ∧ raises u t.m 0x17 0x19 0 [])
          ∧ (f.nvmSingle = false → f.unknown = [] → failed t f.reason)))
        ∧ ((f.reason = 0 ∨ f.reason = 5) → answers (.startPhase dt f) s (fun t => (empty = true → fell t 0x11) ∧ (empty = false → c.reason ≠ 0 → fell t c.reason)
          ∧ (empty = false → c.reason = 0 → if (Config.packageOf bytes).arithRev = u.get F.idPart_ARITH_REV then t.m.get F.rstStat_PHASE = 2
              ∧ t.m.pkg = { Config.packageOf bytes with digest := BitVec.ofNat 64 (ofLe (c.digest.take 8)) } else fell t 8)
          ∧ (f.nvmSingle = false → f.unknown = [] → fails ≠ 2 → ∀ d ∈ c.damaged.take 1, raises u t.m 0x17 (if d.2.2 then 0x17 else 0x16) 0 [(16, (d.1 : Int)), (32, (d.2.1 : Int))])
          ∧ (f.nvmSingle = false → ∀ r ∈ f.unknown.take 1, fails ≠ 2 → raises u t.m 0x17 0x18 0 [(16, (r.1 : Int)), (32, (r.2 : Int))]))))
      ∧ (ph = 2 → f.reason = 0 → answers (.startPhase dt f) s (fun t => t.m.get F.rstStat_PHASE = 3 ∧ (∀ i < 40, t.m.get (F.kilnIsl_STATE i) = 2) ∧ (∀ i < 29, t.m.get (F.kilnIsl_MHZ i) = 1500)
          ∧ keepsRegs u t.m (R.rstStat :: (List.range 40).map R.kilnIsl) ∧ sameData (s.pass dt) t))
      ∧ (ph = 2 → f.reason ≠ 0 → answers (.startPhase dt f) s (fun t => failed t f.reason))
      ∧ (ph = 3 → u.get F.secStat_STATE = 2 → answers (.startPhase dt f) s (fun t => failed t 0xD))
      ∧ (ph = 3 → u.get F.secStat_STATE ≠ 2 → f.reason ≠ 0 → answers (.startPhase dt f) s (fun t => failed t f.reason))
      ∧ (ph = 3 → u.secReady = true → f.reason = 0 → answers (.startPhase dt f) s (fun t => t.m.get F.rstStat_PHASE = 4 ∧ keepsRegs u t.m [R.rstStat] ∧ sameData (s.pass dt) t))
      ∧ (ph = 3 → u.get F.secStat_STATE ≠ 2 → u.secReady = false → f.reason = 0 → idles (.startPhase dt f) s)
      ∧ (ph = 4 → f.reason ≠ 0 → answers (.startPhase dt f) s (fun t => failed t f.reason))
      ∧ (ph = 4 → f.reason = 0 → answers (.startPhase dt f) s (fun t => t.pending = s.pending ∧ (u.pkg.regs = [] → u.rst.part = true → loaded t ∧ (t.m.get F.rstStat_PHASE = 7 ∨ fell t 0xB))
          ∧ (u.pkg.regs = [] → u.rst.part = false → u.calBest = none → loaded t ∧ (t.m.get F.rstStat_PHASE = 5 ∨ fell t 0xB)
            ∧ (t.m.on F.rstStat_MINIMAL = false → t.m.on F.secStat_SERVICE = (u.on F.secStat_SERVICE || u.pkg.service.contains Config.idSerial) ∧ (u.evLevel 0x17 0 < 62 → raises u t.m 0x17 0x1C 0 [])
              ∧ (u.pkg.images.length = 1 → u.dramKeys = true → (s.pass dt).unflipped → ∀ im ∈ u.pkg.images, im.1 + im.2.length ≤ 0x1000000000 → t.holds im.1 im.2)))))
      ∧ (∀ j r, ph = 5 → admits = some (j, r) → answers (.startPhase dt f) s (fun t => fell t 9 ∧ (fails ≠ 2 → raises u t.m 0x0C 0x12 0 [(6, (j : Int)), (32, (r : Int))])))
      ∧ (ph = 5 → admits = none → f.reason ≠ 0 → answers (.startPhase dt f) s (fun t => failed t f.reason))
      ∧ (ph = 5 → admits = none → f.reason = 0 → u.windowsGood u.imageRanges = false → answers (.startPhase dt f) s (fun t => failed t 0xA))
      ∧ (ph = 5 → admits = none → f.reason = 0 → u.windowsGood u.imageRanges = true → answers (.startPhase dt f) s (fun t => t.m.get F.rstStat_PHASE = 6 ∧ sameData (s.pass dt) t
          ∧ (u.twinPres = true → t.m.tngIs 1 = true ∧ t.m.tng.startAt = u.now) ∧ (u.twinPres = false → keepsRegs u t.m [R.rstStat])))
      ∧ (ph = 6 → f.reason ≠ 0 → answers (.startPhase dt f) s (fun t => failed t f.reason))
      ∧ (ph = 6 → f.reason = 0 → u.on F.pnxChain_TOO_LONG = true → answers (.startPhase dt f) s (fun t => failed t 0xE))
      ∧ (ph = 6 → f.reason = 0 → u.on F.pnxChain_TOO_LONG = false → (u.on F.pnxChain_VALID = false ∨ u.tngIs 1 = true) → idles (.startPhase dt f) s)
      ∧ (ph = 6 → f.reason = 0 → u.on F.pnxChain_TOO_LONG = false → u.on F.pnxChain_VALID = true → u.tngIs 1 = false →
        (u.pkg.parts.find? (fun q => q.1 = u.chainPos) = none → answers (.startPhase dt f) s (fun t => failed t 0xF))
        ∧ (∀ p, u.pkg.parts.find? (fun q => q.1 = u.chainPos) = some (p, []) → u.loadCheck.1 = false → answers (.startPhase dt f) s (fun t => ready t
            ∧ raises u t.m 0x17 0x13 0 [(32, (((u.now - u.rst.startAt) / 1000000 : Nat) : Int))] ∧ keepsRegs u t.m [R.rstStat, R.celBkp0] ∧ sameData (s.pass dt) t
            ∧ t.m.boot.fw = u.get F.rstStat_FW_SLOT ∧ t.m.boot.pkg = slot ∧ t.m.boot.trial = false))
        ∧ (∀ p, u.pkg.parts.find? (fun q => q.1 = u.chainPos) = some (p, []) → u.loadCheck.1 = true → answers (.startPhase dt f) s (fun t => fell t 0xB))))
    ∧ (u.starting = false → idles (.startPhase dt f) s ∧ idles (.startFailed dt reason) s ∧ idles (.startTimeout dt) s)
    ∧ (u.starting = true → answers (.startFailed dt reason) s (fun t => failed t reason))
    ∧ (u.starting = true → u.rst.startAt + u.pkg.startTmoS * 1000000000 ≤ u.now → answers (.startTimeout dt) s (fun t => failed t 0x12))
    ∧ (u.now < u.rst.startAt + u.pkg.startTmoS * 1000000000 → idles (.startTimeout dt) s)
    ∧ (∀ t0 signed, u.rst.failedAt = some t0 →
      let due : Bool := !u.on F.rstStat_MINIMAL && decide (t0 + 100000000 ≤ u.now)
      let why := (u.pkgCheck (1 - slot) signed).reason
      let other : Bool := signed && decide (why ≠ 4) && decide (why ≠ 5)
      (due = false → idles (.startRetry dt signed) s)
      ∧ (due = true → u.on F.pwrStat_PWRFAIL = false → u.rst.asserted = none → u.rst.low = false → u.nvmBusy = false →
        answers (.startRetry dt signed) s (fun t => t.m.get F.rstCause_SRC = 0x40 ∧ t.m.get F.rstCause_REACH = 0 ∧ t.m.get F.rstStat_PHASE = 0
          ∧ t.m.rst.pkgSlot = some (if other then 1 - slot else slot) ∧ t.m.rst.fallback = (u.boot.trial || other) ∧ t.m.get F.celBkp0_FAILS = fails
          ∧ (u.boot.trial = true → t.m.rst.fwSlot = some (1 - u.get F.rstStat_FW_SLOT) ∧ t.m.boot.trial = false ∧ t.m.boot.fw = 1 - u.get F.rstStat_FW_SLOT)
          ∧ (u.boot.trial = false → t.m.nvm = u.nvm ∧ t.m.rst.fwSlot = u.rst.fwSlot) ∧ t.pending = s.pending)))
    ∧ (u.rst.failedAt = none → ∀ signed, idles (.startRetry dt signed) s)
    ∧ (let code := u.get F.rstFault_CODE
      let due : Bool := u.on F.rstStat_MINIMAL && decide (u.rst.flashAt + (flashPart code u.rst.flash).1 * 1000000 ≤ u.now)
      (due = true → answers (.faultFlash dt) s (fun t => t = { s.pass dt with m := { u with rst := { u.rst with flash := (u.rst.flash + 1) % flashLen code, flashAt := u.rst.flashAt + (flashPart code u.rst.flash).1 * 1000000 } } }))
      ∧ (due = false → idles (.faultFlash dt) s))
    ∧ (∀ t0, u.rst.autoAt = some t0 →
      let can : Bool := !u.armed && (u.scopeJobs (2 ^ 64 - 1)).all fun j => decide (u.jobState j = 1) || decide (u.jobState j = 4)
      (u.now < t0 → idles (.autorun dt) s)
      ∧ (t0 ≤ u.now → answers (.autorun dt) s (fun t => t.m.rd R.schRestartAt = BitVec.ofInt 64 (u.reel + 200000000) ∧ t.m.get F.schRestartScope_JOBS = 2 ^ 64 - 1 ∧ t.m.get F.schRestartCtl_MODE = 0
          ∧ (can = true → t.m.get F.schRestartCtl_STATUS = 1 ∧ t.m.rst.autoAt = none ∧ t.m.rst.tries = u.rst.tries + 1)
          ∧ (can = false → t.m.get F.schRestartCtl_STATUS = 4 ∧ (u.rst.tries < 2 → t.m.rst.autoAt = some (u.now + u.pkg.autorunMs * 1000000) ∧ t.m.rst.tries = u.rst.tries + 1)
              ∧ (2 ≤ u.rst.tries → t.m.rst.autoAt = none ∧ t.m.rst.tries = 0 ∧ raises u t.m 0x17 0x20 0 [(32, ((u.rst.tries + 1 : Nat) : Int))]))
          ∧ sameData (s.pass dt) t)))
    ∧ (u.rst.autoAt = none → idles (.autorun dt) s)

/-! ## The watchdog, the dump and calibration stores -/

/-- R421: STORE reads a calibration record for the slot not in force; its end writes the slot with its header, leaves it when the record is invalid, or leaves it without a header when it
was abandoned. R425, R462, R463: only agent 1 with the key restarts the watchdog; its expiry, a lockstep difference, FORCE and a hang with ACT write a dump when none is held and run a cold
reset from READY, or fail a start; a held dump is erased on CLEAR; a job without progress for HANG_MS is reported once. Nothing of it happens otherwise. -/
def Obligations.WatchdogDumpsAndCalibration : Prop :=
  ∀ (s : State) (dt agent j : Nat) (val : Word), s.live dt →
    let u := (s.pass dt).m
    let keyed : Bool := agent = 1 && (val.extractLsb' 48 16).toNat = 0x4B49
    let busy := u.on F.celCalCtl_BUSY
    let len := (val.extractLsb' 0 22).toNat
    let src := u.get F.celCalSrc_ADDR / 64 * 64
    let other := match u.calBest with | some (x, _) => 1 - x | none => 0
    let ms := u.get (F.mgtHang_HANG_MS j)
    let told : Bool := match (u.jrt j).hung with | some t => decide ((u.jrt j).progressAt ≤ t) | none => false
    let hangs : Bool := decide (j < 64) && ms != 0 && decide (u.jobState j = 2) && !u.on (F.schJobStat_PREEMPTED j) && !u.on (F.schJobStat_PAUSED j) && u.jobHolds j
      && decide ((u.jrt j).progressAt + ms * 1000000 ≤ u.now) && !told
    let up : Bool := !u.on F.rstStat_MINIMAL && !u.on F.pwrStat_PWRFAIL
    let ready : Bool := up && decide (u.get F.rstStat_PHASE = 7) && u.rst.asserted.isNone && !u.rst.low
    let dumps : Bool := u.on F.mgtWdogCfg_DUMP_EN && decide (u.get F.mgtDump_STATE = 0)
    let seq := (u.get F.celBkp2_DUMP_SEQ + 1) % 2 ^ 32
    let expired (t : State) (cause job : Nat) : Prop := t.m.get F.rstCause_SRC = 4 ∧ t.m.get F.rstCause_REACH = 0 ∧ t.m.get F.rstStat_PHASE = 0 ∧ t.m.halted = false ∧ t.pending = s.pending
      ∧ (dumps = true → t.m.get F.celBkp2_DUMP_SEQ = seq ∧ numAt (t.m.nvmBytes dumpBase 24) 0 4 = 0x444D5031 ∧ numAt (t.m.nvmBytes dumpBase 24) 12 4 = seq
          ∧ numAt (t.m.nvmBytes dumpBase 24) 16 4 = cause ∧ numAt (t.m.nvmBytes dumpBase 24) 20 4 = job)
      ∧ (dumps = false → t.m.get F.celBkp2_DUMP_SEQ = u.get F.celBkp2_DUMP_SEQ)
    let pulse : Bool := busy || decide (u.get F.mgtUpdStat_STATE = 1) || decide (u.get F.mgtDump_STATE = 3) || u.on F.mgtNetCtl_BUSY
    let runsOut (t : State) (cause job : Nat) : Prop := expired t cause job ∨ (pulse = true ∧ t.m.rst.asserted = some (4, 0) ∧ t.m.rst.waits = true)
    let fell (t : State) : Prop := t.m.get F.rstStat_REASON = 0x10 ∧ t.m.rst.failedAt = some u.now ∧ (t.m.get F.rstFault_SRC).testBit 5 = true
    let slotOnly (t : State) (slot : Nat) : Prop := (∀ a, calBase slot + 0x300000 ≤ a → a < calBase slot + 0x600000 → t.m.nvmByte a = u.nvmByte a)
      ∧ t.m.on F.celCalCtl_BUSY = false ∧ t.m.mgt = { u.mgt with cal := none } ∧ keepsRegs u t.m [R.celCalCtl, R.celCalStat] ∧ sameData (s.pass dt) t
    (s.heeds dt agent 28 →
      ((val.getLsbD 63 = false ∨ busy = true) → answers (.calStore dt agent val) s (fun t => t.m.get F.celCalCtl_LEN = len ∧ t.m = { u with regs := t.m.regs } ∧ keepsRegs u t.m [R.celCalCtl]
        ∧ sameData (s.pass dt) t))
      ∧ (val.getLsbD 63 = true → busy = false → answers (.calStore dt agent val) s (fun t => t.m.get F.celCalCtl_LEN = len ∧ t.m.on F.celCalCtl_BUSY = true ∧ t.m.mgt.cal.map (·.1) = some other
        ∧ ((s.pass dt).unflipped → (u.reaches mgtAcc false src (min 3145664 len)).1 = true →
            t.m.mgt.cal = some (other, (List.range (min 3145664 len)).map fun i => (s.pass dt).byte (src + i)) ∧ keepsRegs u t.m [R.celCalCtl] ∧ sameData (s.pass dt) t))))
    ∧ (∀ slot b result, u.mgt.cal = some (slot, b) →
      (busy = false → idles (.calStored dt result) s)
      ∧ (busy = true → result = 3 → answers (.calStored dt result) s (fun t => t.m.get F.celCalCtl_RESULT = 3 ∧ (∀ a, calBase slot ≤ a → a < calBase slot + 64 → t.m.nvmByte a = 0xFF)
        ∧ t.m.get (if slot = 0 then F.celCalStat_SEQ0 else F.celCalStat_SEQ1) = 0 ∧ (b.length ≤ 0x2FFFC0 → slotOnly t slot)))
      ∧ (busy = true → result ≠ 3 → calGood (recOfBytes b) = false → answers (.calStored dt result) s (fun t => t.m.get F.celCalCtl_RESULT = 2 ∧ t.m.nvm = u.nvm
        ∧ t.m.get F.celCalStat_SEQ0 = u.get F.celCalStat_SEQ0 ∧ t.m.get F.celCalStat_SEQ1 = u.get F.celCalStat_SEQ1 ∧ slotOnly t slot))
      ∧ (busy = true → result ≠ 3 → calGood (recOfBytes b) = true → answers (.calStored dt result) s (fun t =>
        let q := match u.calBest with | some (_, q) => (q + 1) % 2 ^ 32 | none => 1
        t.m.get F.celCalCtl_RESULT = 1 ∧ t.m.get (if slot = 0 then F.celCalStat_SEQ0 else F.celCalStat_SEQ1) = q ∧ t.m.nvmBytes (calBase slot) 64 = calHeader q b.length (crc32c b)
          ∧ t.m.nvmBytes (calBase slot + 64) b.length = b ∧ raises u t.m 0x17 0x1D 0 [(1, (slot : Int)), (32, (q : Int))] ∧ (b.length ≤ 0x2FFFC0 → slotOnly t slot))))
    ∧ (u.mgt.cal = none → ∀ result, idles (.calStored dt result) s)
    ∧ (s.heeds dt agent 23 →
      (keyed = true → answers (.wdogKick dt agent val) s (fun t => t = { s.pass dt with m := { u with mgt := { u.mgt with kickAt := u.now, wdMs := clampN 10 60000 (u.get F.mgtWdogCfg_WD_MS) } } }))
      ∧ (keyed = false → idles (.wdogKick dt agent val) s)
      ∧ (up = false → idles (.force dt agent) s) ∧ (up = true → u.starting = true → answers (.force dt agent) s fell)
      ∧ (ready = true → answers (.force dt agent) s (fun t => runsOut t 4 0))
      ∧ (u.get F.mgtDump_STATE = 1 → answers (.dumpClear dt agent) s (fun t => t.m.get F.mgtDump_STATE = 3 ∧ t.m = { u with regs := t.m.regs } ∧ keepsRegs u t.m [R.mgtDump] ∧ sameData (s.pass dt) t))
      ∧ (u.get F.mgtDump_STATE ≠ 1 → idles (.dumpClear dt agent) s))
    ∧ (up = false → ∀ cause, idles (.wdogExpired dt cause) s) ∧ (∀ cause, cause ≠ 1 → cause ≠ 2 → idles (.wdogExpired dt cause) s)
    ∧ (u.now < u.mgt.kickAt + u.mgt.wdMs * 1000000 → idles (.wdogExpired dt 1) s)
    ∧ (u.mgt.kickAt + u.mgt.wdMs * 1000000 ≤ u.now → up = true → u.starting = true → answers (.wdogExpired dt 1) s fell) ∧ (up = true → u.starting = true → answers (.wdogExpired dt 2) s fell)
    ∧ (u.mgt.kickAt + u.mgt.wdMs * 1000000 ≤ u.now → ready = true → answers (.wdogExpired dt 1) s (fun t => runsOut t 1 0)) ∧ (ready = true → answers (.wdogExpired dt 2) s (fun t => runsOut t 2 0))
    ∧ (u.get F.mgtDump_STATE = 3 → answers (.dumpErased dt) s (fun t => t.m.get F.mgtDump_STATE = 0 ∧ t.m.get F.mgtDump_SEQ = 0 ∧ (∀ a, dumpBase ≤ a → a < dumpBase + 0x400000 → t.m.nvmByte a = 0xFF)
      ∧ t.m = { u with regs := t.m.regs, nvm := t.m.nvm } ∧ keepsRegs u t.m [R.mgtDump] ∧ sameData (s.pass dt) t))
    ∧ (u.get F.mgtDump_STATE ≠ 3 → idles (.dumpErased dt) s)
    ∧ (hangs = true → (u.on (F.mgtHang_ACT j) = false ∨ up = false) → answers (.jobHang dt j) s (fun t => (t.m.jrt j).hung = some u.now
        ∧ raises u t.m 0x18 0x11 0 [(6, (j : Int)), (1, ((u.on (F.mgtHang_ACT j)).toNat : Int))] ∧ keepsRegs u t.m [] ∧ sameData (s.pass dt) t))
    ∧ (hangs = true → u.on (F.mgtHang_ACT j) = true → ready = true → answers (.jobHang dt j) s (fun t => runsOut t 3 j)) ∧ (hangs = false → idles (.jobHang dt j) s)

/-! ## Management, time and thermal commands -/

/-- R428 to R432: an operation of a datagram from a source not allowed, malformed, answered already, too long to answer, out of turn or behind a failed one is dropped, answered again or
refused without effect, and counted; else it runs and its status and words join the kept response: R430, R433: registers read and written as by agent 3 unless barred, MGT_STAT, held log
entries; R467, R468: an update begins on the inactive slot, takes words at its write pointer, is committed when whole, verified and named in the boot table, or abandoned; the network
settings are stored. Whether a firmware image's signature verifies is the command's own. -/
def Obligations.NcpOperationsAndUpdates : Prop :=
  ∀ (s : State) (dt agent addr n first : Nat) (h : NcpHdr) (val : Word) (words : List Word), n < 65536 → s.live dt →
    let u := (s.pass dt).m
    let taken : Bool := !u.ncpFiltered h.srcIp && !ncpBad h
    let runs := u.ncpRuns h
    let none' : Prop := ncpAnswers s dt h addr n first val words (fun t => t = s.pass dt)
    let stat (f : Fld) : Prop := ncpAnswers s dt h addr n first val words (fun t => counted u t.m f ∧ t.m.mgt = u.mgt ∧ keepsRegs u t.m [R.mgtNcpStat] ∧ sameData (s.pass dt) t)
    let replies (t : State) (st : Nat) (ws : List Word) : Prop := ncpReplies u t.m h st ws
    let only (t : State) (os : List Nat) : Prop := (h.index + 1 = h.nops → t.m.get F.mgtNcpStat_REQUESTS = (u.get F.mgtNcpStat_REQUESTS + 1) % 2 ^ F.mgtNcpStat_REQUESTS.w)
      ∧ keepsRegs u t.m (R.mgtNcpStat :: os) ∧ sameData (s.pass dt) t
    let bad : Nat := if n = 0 ∨ 64 < n then 4 else if addr % 8 ≠ 0 then 3 else if (List.range n).any (fun i => u.barred (addr + 8 * i)) then 5 else 0
    let kind := (val.extractLsb' 32 1).toNat
    let len := (val.extractLsb' 0 32).toNat
    let slot := 1 - (if kind = 0 then u.boot.fw else u.boot.pkg)
    let took (t : State) (st : Nat) : Prop := replies t st [] ∧ t.m.get F.mgtUpdStat_RESULT = st
    let stays (t : State) (st : Nat) : Prop := took t st ∧ t.m.mgt.upd = u.mgt.upd ∧ t.m.nvm = u.nvm ∧ t.m.get F.mgtUpdStat_STATE = u.get F.mgtUpdStat_STATE ∧ only t [R.mgtUpdStat]
    (u.ncpFiltered h.srcIp = true → h.index = 0 → stat F.mgtNcpStat_FILTERED)
    ∧ (u.ncpFiltered h.srcIp = false → ncpBad h = true → h.index = 0 → stat F.mgtNcpStat_BAD_FRAME)
    ∧ (taken = false → h.index ≠ 0 → none')
    ∧ (∀ r, taken = true → u.ncpKept h = some r → h.index = 0 → r.ops.length = r.nops → u.now ≤ r.sent + 2000000000 → stat F.mgtNcpStat_RESENT)
    ∧ (taken = true → u.ncpKept h = none → h.index = 0 → 1472 < h.respLen → ncpAnswers s dt h addr n first val words (fun t => keepsRegs u t.m [] ∧ sameData (s.pass dt) t
        ∧ t.m.ncpKept h = some { ip := h.srcIp, port := h.srcPort, seq := h.seq, sent := u.now, nops := h.nops, status := 4, ops := List.replicate h.nops (4, []) }))
    ∧ (taken = true → u.ncpKept h = none → h.index ≠ 0 → none')
    ∧ (∀ r, taken = true → u.ncpKept h = some r → h.index ≠ 0 → (r.ops.length ≠ h.index ∨ r.nops ≤ h.index) → none')
    ∧ (∀ r, taken = true → u.ncpKept h = some r → h.index ≠ 0 → r.ops.length = h.index → h.index < r.nops → r.status ≠ 0 → ncpAnswers s dt h addr n first val words (fun t =>
        t.m.ncpKept h = some { r with ops := r.ops ++ [(0x0F, [])], sent := u.now } ∧ only t []))
    ∧ (runs = true →
      (addr % 8 = 0 → u.barred addr = false → answers (.ncpRead dt h addr) s (fun t => replies t (if ctlMapped addr then 0 else 1) [(u.ctlRead addr).1]))
      ∧ (addr % 8 ≠ 0 → answers (.ncpRead dt h addr) s (fun t => replies t 3 [] ∧ only t []) ∧ answers (.ncpWrite dt h addr val) s (fun t => replies t 3 [] ∧ only t []))
      ∧ (addr % 8 = 0 → u.barred addr = true → answers (.ncpRead dt h addr) s (fun t => replies t 5 [] ∧ only t []))
      ∧ (addr % 8 = 0 → (u.barred addr = true ∨ addr = R.mgtWdog) → answers (.ncpWrite dt h addr val) s (fun t => replies t 5 [] ∧ only t []))
      ∧ (addr % 8 = 0 → u.barred addr = false → addr ≠ R.mgtWdog → (∀ r ∈ u.runs, r.is 0x18 0x18 0 0 = false) → answers (.ncpWrite dt h addr val) s (fun t => replies t (if ctlMapped addr then 0 else 1) []
          ∧ ∀ v, exec (.registerWrite dt 3 addr val) s = .next v → ∀ o, o ≠ R.mgtNcpStat → t.m.rd o = v.m.rd o))
      ∧ (bad = 0 → answers (.ncpReadN dt h addr n) s (fun t => replies t (if (ncpReadWords addr n u).2.1 then 0 else 1) (ncpReadWords addr n u).1))
      ∧ (bad ≠ 0 → answers (.ncpReadN dt h addr n) s (fun t => replies t bad [] ∧ only t []))
      ∧ answers (.ncpStatus dt h) s (fun t => replies t 0 [BitVec.ofNat 64 u.mgtStatNat] ∧ only t [])
      ∧ ((n = 0 ∨ 16 < n) → answers (.ncpLogRead dt h first n) s (fun t => replies t 4 [] ∧ only t []))
      ∧ (1 ≤ n → n ≤ 16 → (List.range n).mapM (fun i => u.logEntry ((first + i) % 2 ^ 32)) = none → answers (.ncpLogRead dt h first n) s (fun t => replies t 8 [] ∧ only t []))
      ∧ (∀ l, 1 ≤ n → n ≤ 16 → (List.range n).mapM (fun i => u.logEntry ((first + i) % 2 ^ 32)) = some l →
          answers (.ncpLogRead dt h first n) s (fun t => replies t 0 (l.flatMap fun b => wordsOfBytes 8 b) ∧ only t []))
      ∧ (u.mgt.upd.isSome = true → answers (.updBegin dt h val) s (fun t => stays t 6))
      ∧ (u.mgt.upd = none → (len = 0 ∨ (slotSpan kind slot).2 < len ∨ len % 8 ≠ 0) → answers (.updBegin dt h val) s (fun t => stays t 4))
      ∧ (u.mgt.upd = none → 0 < len → len ≤ (slotSpan kind slot).2 → len % 8 = 0 → answers (.updBegin dt h val) s (fun t => took t 0 ∧ t.m.get F.mgtUpdStat_STATE = 1
          ∧ t.m.get F.mgtUpdStat_WPTR = 0 ∧ t.m.mgt.upd = some { kind, slot, len, wptr := 0 } ∧ only t [R.mgtUpdStat]
          ∧ (∀ a, (slotSpan kind slot).1 ≤ a → a < (slotSpan kind slot).1 + (slotSpan kind slot).2 → t.m.nvmByte a = 0xFF)
          ∧ ∀ a, (slotSpan kind slot).1 + (slotSpan kind slot).2 ≤ a → a < (slotSpan kind slot).1 + 2 * (slotSpan kind slot).2 → t.m.nvmByte a = u.nvmByte a))
      ∧ ((words.length = 0 ∨ 128 < words.length) → answers (.updData dt h addr words) s (fun t => stays t 4))
      ∧ (1 ≤ words.length → words.length ≤ 128 → u.mgt.upd = none → answers (.updData dt h addr words) s (fun t => stays t 8))
      ∧ (u.mgt.upd = none → answers (.updCommit dt h) s (fun t => stays t 8))
      ∧ (∀ w, u.mgt.upd = some w →
        (1 ≤ words.length → words.length ≤ 128 → u.updBusy = true → answers (.updData dt h addr words) s (fun t => stays t 6))
        ∧ (1 ≤ words.length → words.length ≤ 128 → u.updBusy = false → (addr ≠ w.wptr ∨ w.len < addr + 8 * words.length) → answers (.updData dt h addr words) s (fun t => stays t 8))
        ∧ (1 ≤ words.length → words.length ≤ 128 → u.updBusy = false → addr = w.wptr → addr + 8 * words.length ≤ w.len → w.len < 2 ^ 32 → answers (.updData dt h addr words) s (fun t => took t 0
            ∧ t.m.get F.mgtUpdStat_WPTR = addr + 8 * words.length ∧ t.m.mgt.upd = some { w with wptr := addr + 8 * words.length } ∧ only t [R.mgtUpdStat]
            ∧ t.m.nvmBytes ((slotSpan w.kind w.slot).1 + addr) (8 * words.length) = wordBytes words))
        ∧ (u.updBusy = true → answers (.updCommit dt h) s (fun t => stays t 6)) ∧ (u.updBusy = false → w.wptr ≠ w.len → answers (.updCommit dt h) s (fun t => stays t 4))
        ∧ (u.updBusy = false → w.wptr = w.len → answers (.updCommit dt h) s (fun t => took t 0 ∧ t.m.get F.mgtUpdStat_STATE = 3 ∧ t.m.mgt.upd = some w ∧ only t [R.mgtUpdStat])))
      ∧ answers (.updAbort dt h) s (fun t => took t 0 ∧ t.m.mgt.upd = none ∧ t.m.get F.mgtUpdStat_STATE = 0 ∧ t.m.nvm = u.nvm ∧ only t [R.mgtUpdStat]))
    ∧ (u.get F.mgtUpdStat_STATE = 1 → answers (.updEraseDone dt) s (fun t => t.m.get F.mgtUpdStat_STATE = 2 ∧ t.m = { u with regs := t.m.regs } ∧ keepsRegs u t.m [R.mgtUpdStat] ∧ sameData (s.pass dt) t))
    ∧ (u.get F.mgtUpdStat_STATE ≠ 1 → idles (.updEraseDone dt) s)
    ∧ (∀ signed, (u.mgt.upd = none ∨ u.get F.mgtUpdStat_STATE ≠ 3) → idles (.updateDone dt signed) s)
    ∧ (∀ w signed, u.mgt.upd = some w → u.get F.mgtUpdStat_STATE = 3 →
      (u.updGood w signed = true → w.slot < 2 → answers (.updateDone dt signed) s (fun t => t.m.mgt.upd = none ∧ t.m.get F.mgtUpdStat_STATE = 4 ∧ t.m.get F.mgtUpdStat_RESULT = 0
        ∧ (w.kind = 0 → t.m.boot.fw = w.slot ∧ t.m.boot.trial = true ∧ t.m.boot.pkg = u.boot.pkg) ∧ (w.kind ≠ 0 → t.m.boot.pkg = w.slot ∧ t.m.boot.fw = u.boot.fw ∧ t.m.boot.trial = u.boot.trial)
        ∧ raises u t.m 0x18 0x16 0 [(1, (w.kind : Int)), (1, (w.slot : Int))] ∧ keepsRegs u t.m [R.mgtUpdStat] ∧ sameData (s.pass dt) t))
      ∧ (u.updGood w signed = false → answers (.updateDone dt signed) s (fun t => t.m.mgt.upd = none ∧ t.m.get F.mgtUpdStat_STATE = 5 ∧ t.m.get F.mgtUpdStat_RESULT = 7 ∧ t.m.nvm = u.nvm
        ∧ raises u t.m 0x18 0x17 0 [(1, (w.kind : Int)), (8, 7)] ∧ keepsRegs u t.m [R.mgtUpdStat] ∧ sameData (s.pass dt) t)))
    ∧ (s.heeds dt agent 23 → answers (.netStore dt agent) s (fun t => t.m.on F.mgtNetCtl_BUSY = true ∧ t.m = { u with regs := t.m.regs } ∧ keepsRegs u t.m [R.mgtNetCtl] ∧ sameData (s.pass dt) t))
    ∧ (u.on F.mgtNetCtl_BUSY = true → answers (.netStoreDone dt) s (fun t => t.m.on F.mgtNetCtl_BUSY = false ∧ t.m.boot.addr = u.get F.mgtNet_ADDR ∧ t.m.boot.pref = u.get F.mgtNet_PREFIX
      ∧ t.m.boot.gw = u.get F.mgtNetGw_GW ∧ t.m.boot.fw = u.boot.fw ∧ t.m.boot.pkg = u.boot.pkg ∧ keepsRegs u t.m [R.mgtNetCtl] ∧ sameData (s.pass dt) t))
    ∧ (u.on F.mgtNetCtl_BUSY = false → idles (.netStoreDone dt) s)

/-- R13, R433, R439, R440: an SPI command frame outside a sequence returns the status, a read its word in its response frames, a write of two data frames acts as by agent 4; early, wrong,
long and short frames and late sequences count and set ERR, as do barred and unmapped offsets; a frame that is due to a sequence is no command. R434, R435, R437: the host link shows and
raises its state; PERST# and a function reset clear its tables, D3hot stops it; a host write or read of DRAM goes through when the port runs and the window allows it, else it has no effect
on memory and reads nothing. R428: ARP, echo and the Ethernet link are answered and shown. Nothing of it happens otherwise. -/
def Obligations.SpiHostAndEthernetPorts : Prop :=
  ∀ (s : State) (dt : Nat) (frame hi lo : BitVec 32), s.live dt →
    let u := (s.pass dt).m
    let cmd := (frame.extractLsb' 28 4).toNat
    let status := BitVec.ofNat 32 u.mgtStatNat
    let o := spiOff frame
    let wrong : Bool := u.barred o || !ctlMapped o
    let w : Word := if u.barred o then 0 else (u.ctlRead o).1
    let shut : Bool := u.on F.rstStat_MINIMAL || u.on F.pwrStat_PWRFAIL
    let erred (t : State) (f : Fld) (kind : Int) : Prop := counted u t.m f ∧ t.m.on F.mgtSpiStat_ERR = true ∧ raises u t.m 0x18 0x19 0 [(32, kind)] ∧ keepsRegs u t.m [R.mgtSpiStat] ∧ sameData (s.pass dt) t
    let busy : Prop := ∃ t0, u.mgt.spiOpen = some t0 ∧ u.now ≤ t0 + 100000
    let linked (t : State) (w sp : Int) : Prop := raises u t.m 0x18 0x1A 0 [(4, w), (3, sp)] ∧ keepsRegs u t.m [R.mgtPcieStat] ∧ sameData (s.pass dt) t
    (u.mgt.spiOpen = none →
      (cmd = 0 → answers (.spiNop dt frame false) s (fun t => t = { s.pass dt with m := { u with mgt := { u.mgt with miso := [status] } } })
        ∧ answers (.spiNop dt frame true) s (fun t => erred t F.mgtSpiStat_LONG 2 ∧ t.m.mgt = { u.mgt with miso := [status] }))
      ∧ (∀ long, cmd ≠ 0 → idles (.spiNop dt frame long) s)
      ∧ (∀ frames early, cmd = 1 → frames ≤ 2 → answers (.spiRead dt frame frames early) s (fun t =>
          let r : Word := if early && frames != 0 then 0 else w
          t.m.mgt.miso = status :: ([r.extractLsb' 32 32, r.extractLsb' 0 32] : List (BitVec 32)).take frames ∧ t.m.mgt.spiOpen = (if frames < 2 then some u.now else none)
          ∧ (wrong = true → t.m.on F.mgtSpiStat_ERR = true) ∧ (early = true → frames ≠ 0 → u.barred o = true → erred t F.mgtSpiStat_EARLY 5)
          ∧ (early = false → u.barred o = true → keepsRegs u t.m [R.mgtSpiStat] ∧ sameData (s.pass dt) t)))
      ∧ (∀ frames early, (cmd ≠ 1 ∨ 2 < frames) → idles (.spiRead dt frame frames early) s)
      ∧ (cmd = 2 → u.barred o = false → answers (.spiWrite dt frame [hi, lo]) s (fun t => ∀ v, exec (.registerWrite dt 4 o (hi ++ lo)) s = .next v →
          ∀ x, (ctlMapped o = true ∨ x ≠ R.mgtSpiStat) → t.m.rd x = v.m.rd x))
      ∧ (cmd = 2 → u.barred o = true → answers (.spiWrite dt frame [hi, lo]) s (fun t => t.m.mgt = { u.mgt with miso := [status, status, status] } ∧ t.m.on F.mgtSpiStat_ERR = true
          ∧ keepsRegs u t.m [R.mgtSpiStat] ∧ sameData (s.pass dt) t))
      ∧ (cmd = 2 → ∀ (l : List (BitVec 32)), l.length ≤ 1 → answers (.spiWrite dt frame l) s (fun t =>
          t = { s.pass dt with m := { u with mgt := { u.mgt with miso := status :: l.map (fun _ => status), spiOpen := some u.now } } }))
      ∧ (∀ (l : List (BitVec 32)), (cmd ≠ 2 ∨ 2 < l.length) → idles (.spiWrite dt frame l) s)
      ∧ (3 ≤ cmd → answers (.spiInvalid dt frame) s (fun t => erred t F.mgtSpiStat_BADCMD 3 ∧ t.m.mgt = { u.mgt with miso := [status] }))
      ∧ (∀ edges < 32, answers (.spiPartial dt edges) s (fun t => erred t F.mgtSpiStat_PARTIAL 1 ∧ t.m.mgt.spiOpen = none)) ∧ idles (.spiAbandoned dt) s)
    ∧ (cmd < 3 → idles (.spiInvalid dt frame) s) ∧ (∀ edges, 32 ≤ edges → idles (.spiPartial dt edges) s)
    ∧ (busy → (∀ long, idles (.spiNop dt frame long) s) ∧ (∀ frames early, idles (.spiRead dt frame frames early) s) ∧ (∀ (l : List (BitVec 32)), idles (.spiWrite dt frame l) s) ∧ idles (.spiInvalid dt frame) s ∧ idles (.spiAbandoned dt) s)
    ∧ (busy → ∀ edges < 32, answers (.spiPartial dt edges) s (fun t => t.m.mgt.spiOpen = none ∧ counted u t.m F.mgtSpiStat_PARTIAL ∧ counted u t.m F.mgtSpiStat_ABANDONED ∧ t.m.on F.mgtSpiStat_ERR = true
        ∧ raises u t.m 0x18 0x19 0 [(32, 4)] ∧ keepsRegs u t.m [R.mgtSpiStat] ∧ sameData (s.pass dt) t))
    ∧ (∀ t0, u.mgt.spiOpen = some t0 → t0 + 100000 < u.now → answers (.spiAbandoned dt) s (fun t => erred t F.mgtSpiStat_ABANDONED 4 ∧ t.m.mgt = { u.mgt with spiOpen := none })
        ∧ (cmd = 0 → answers (.spiNop dt frame false) s (fun t => erred t F.mgtSpiStat_ABANDONED 4 ∧ t.m.mgt.spiOpen = none)))
    ∧ (∀ width speed, width < 16 → speed < 8 →
      let same : Bool := u.on F.mgtPcieStat_UP && decide (u.get F.mgtPcieStat_WIDTH = width) && decide (u.get F.mgtPcieStat_SPEED = speed)
      (shut = true → idles (.pcieLink dt (.up width speed)) s)
      ∧ (shut = false → same = true → answers (.pcieLink dt (.up width speed)) s (fun t => t = { s.pass dt with m := { u with mgt := { u.mgt with d3 := false } } }))
      ∧ (shut = false → same = false → answers (.pcieLink dt (.up width speed)) s (fun t => t.m.on F.mgtPcieStat_UP = true ∧ t.m.get F.mgtPcieStat_WIDTH = width ∧ t.m.get F.mgtPcieStat_SPEED = speed
          ∧ t.m.mgt = { u.mgt with d3 := false } ∧ linked t width speed)))
    ∧ answers (.pcieLink dt .down) s (fun t => t.m.on F.mgtPcieStat_UP = false ∧ t.m.mgt.d3 = false ∧ t.m.msix = u.msix ∧ (u.on F.mgtPcieStat_UP = true → linked t 0 0))
    ∧ answers (.pcieLink dt .perst) s (fun t => t.m.on F.mgtPcieStat_UP = false ∧ t.m.msix = [] ∧ t.m.pba = 0 ∧ t.m.mgt.d3 = false ∧ (u.on F.mgtPcieStat_UP = true → linked t 0 0))
    ∧ answers (.pcieLink dt .flr) s (fun t => t = { s.pass dt with m := { u with msix := [], pba := 0, mgt := { u.mgt with d3 := false } } })
    ∧ (u.on F.mgtPcieStat_UP = true → answers (.pcieLink dt .d3hot) s (fun t => t = { s.pass dt with m := { u with mgt := { u.mgt with d3 := true } } })) ∧ (u.on F.mgtPcieStat_UP = false → idles (.pcieLink dt .d3hot) s)
    ∧ (∀ off bytes, (s.pass dt).unflipped → u.hostReach off bytes.length = true → (u.reaches hostAcc true off bytes.length).1 = true → answers (.hostDmaWrite dt off bytes) s (fun t => t.holds off bytes
        ∧ keepsBytes (s.pass dt) t [(off, bytes.length)] ∧ keepsRegs u t.m [] ∧ t.pending = s.pending))
    ∧ (∀ off bytes, u.hostReach off bytes.length = false → idles (.hostDmaWrite dt off bytes) s)
    ∧ (∀ off len, (s.pass dt).unflipped → u.hostReach off len = true → (u.reaches hostAcc false off len).1 = true → answers (.hostDmaRead dt off len) s (fun t =>
        t.m.hostIn = some ((List.range len).map fun i => (s.pass dt).byte (off + i)) ∧ keepsRegs u t.m [] ∧ sameData (s.pass dt) t))
    ∧ (∀ off len, u.hostReach off len = true → (u.reaches hostAcc false off len).1 = false → answers (.hostDmaRead dt off len) s (fun t => t.m.hostIn = none ∧ t.mem = (s.pass dt).mem ∧ t.pending = s.pending))
    ∧ (∀ off len, u.hostReach off len = false → answers (.hostDmaRead dt off len) s (fun t => t = { s.pass dt with m := { u with hostIn := none } }))
    ∧ (∀ mac ip, answers (.arp dt u.mgt.ip mac ip) s (fun t => t = { s.pass dt with m := { u with mgt := { u.mgt with arp := some (mac, ip) } } }) ∧ ∀ x, x ≠ u.mgt.ip → idles (.arp dt x mac ip) s)
    ∧ (∀ src ident seq data, answers (.icmpEcho dt src ident seq data) s (fun t => t = { s.pass dt with m := { u with mgt := { u.mgt with echo := some (src, ident, seq, data) } } }))
    ∧ idles (.netLink dt u.mgt.netUp) s
    ∧ (∀ up : Bool, up ≠ u.mgt.netUp → answers (.netLink dt up) s (fun t => t.m.mgt = { u.mgt with netUp := up } ∧ raises u t.m 0x18 0x1B 0 [(1, (up.toNat : Int))] ∧ keepsRegs u t.m [] ∧ sameData (s.pass dt) t))

/-- R442, R443, R448: LATCH captures the three times at one count; a rate change does not step wall time and a step steps it. R445: 10 µs without SYNC put Reel in HOLDOVER. R449, R450: PTP
messages of types 0 to 3 are stamped with their latency while their FIFO has room, else counted; a Sync tells of its master, its absence is HOLDOVER, a read removes the oldest stamp. R456: a
snapshot is armed for a tick 20 µs to 10 s ahead, or refused, and copies the counters there, or is missed. R458 to R460: a read index frees the ring for held records, and dropped ones are
told. Nothing of it happens otherwise. -/
def Obligations.ClocksStampsAndSnapshots : Prop :=
  ∀ (s : State) (dt agent id : Nat) (val : Word) (tick : Int), s.live dt →
    let u := (s.pass dt).m
    let ahead := wrapI 64 ((u.get F.trcSnapTick_TICK : Int) - u.reel)
    let want := (val.extractLsb' 0 16).toNat
    let may : Bool := u.snap.armed.isNone && want != 0 && decide (20000 ≤ ahead) && decide (ahead ≤ 10000000000)
    let same (t : State) (os : List Nat) : Prop := keepsRegs u t.m os ∧ sameData (s.pass dt) t
    let seen (t : State) : Prop := t.m.on F.timWallStat_SEEN = false ∧ (u.on F.timWallStat_SEEN = true → t.m.on F.timWallStat_HOLDOVER = false)
      ∧ (u.on F.timWallStat_SEEN = false → t.m.on F.timWallStat_HOLDOVER = u.on F.timWallStat_HOLDOVER)
    (s.heeds dt agent 24 →
      answers (.latch dt agent) s (fun t => t.m.rd R.timLatchB = BitVec.ofNat 64 u.now ∧ t.m.rd R.timLatchR = BitVec.ofInt 64 u.reel ∧ t.m.rd R.timLatchW = BitVec.ofInt 64 u.wall
        ∧ t.m = { u with regs := t.m.regs } ∧ same t [R.timLatchB, R.timLatchR, R.timLatchW])
      ∧ answers (.wallRate dt agent val) s (fun t => t.m.wallRate = clampRate (val.extractLsb' 0 48).toNat ∧ t.m.wall = u.wall ∧ t.m.get F.timWallRate_RATE = (val.extractLsb' 0 48).toNat ∧ seen t
        ∧ same t [R.timWallRate, R.timWallStat])
      ∧ answers (.wallAdj dt agent val) s (fun t => t.m.wall = u.wall + val.toInt ∧ t.m.wallRate = u.wallRate ∧ seen t ∧ same t [R.timWallStat])
      ∧ ∀ rx, answers (.ptpStampRead dt agent rx) s (fun t => t.m.tim.rx = (if rx then u.tim.rx.tail else u.tim.rx) ∧ t.m.tim.tx = (if rx then u.tim.tx else u.tim.tx.tail) ∧ same t []))
    ∧ (let st := u.get F.timReelStat_STATE
      let due : Bool := (decide (st = 1) || decide (st = 2)) && decide (u.reelSeen + 10000 ≤ u.now)
      (due = true → answers (.reelHoldover dt) s (fun t => t.m.get F.timReelStat_STATE = 3 ∧ raises u t.m 0x19 0x12 0 [(3, (u.get F.timReelStat_SRC : Int))] ∧ same t [R.timReelStat]))
      ∧ (due = false → idles (.reelHoldover dt) s))
    ∧ (∀ rx typ domain clock port seq, (u.on F.timPtpCfg_EN = false ∨ 3 < typ) → idles (.ptpEventMessage dt rx typ domain clock port seq) s)
    ∧ (∀ rx typ domain clock port seq, u.on F.timPtpCfg_EN = true → typ ≤ 3 →
      let base : Int := if rx then (u.now : Int) - u.get F.timPtpLat_RX_LAT else (u.now : Int) + u.get F.timPtpLat_TX_LAT
      let stamp : Stamp := { wall := u.wallAt base, base, clock, typ, domain, port, seq }
      let sync : Bool := rx && decide (typ = 0) && decide (domain = u.get F.timPtpCfg_DOMAIN)
      answers (.ptpEventMessage dt rx typ domain clock port seq) s (fun t =>
        t.m.tim.rx = (if rx ∧ u.tim.rx.length < 64 then u.tim.rx ++ [stamp] else u.tim.rx) ∧ t.m.tim.tx = (if rx = false ∧ u.tim.tx.length < 16 then u.tim.tx ++ [stamp] else u.tim.tx)
        ∧ (rx = true → 64 ≤ u.tim.rx.length → counted u t.m F.timWallStat_RX_DROP) ∧ (rx = false → 16 ≤ u.tim.tx.length → counted u t.m F.timWallStat_TX_DROP)
        ∧ (sync = true → u.isMaster clock port = true → t.m.on F.timWallStat_SEEN = true ∧ t.m.tim.syncAt = u.now)
        ∧ (sync = true → u.isMaster clock port = false → t.m.on F.timWallStat_HOLDOVER = true ∧ t.m.tim.syncAt = u.tim.syncAt ∧ raises u t.m 0x19 0x16 0 [(32, ((clock.extractLsb' 0 32).toNat : Int))])
        ∧ (sync = false → t.m.tim.syncAt = u.tim.syncAt ∧ t.m.on F.timWallStat_SEEN = u.on F.timWallStat_SEEN ∧ t.m.on F.timWallStat_HOLDOVER = u.on F.timWallStat_HOLDOVER) ∧ same t [R.timWallStat]))
    ∧ (let due : Bool := u.on F.timPtpCfg_EN && decide (u.tim.syncAt + u.get F.timPtpCfg_SYNC_TMO_MS * 1000000 ≤ u.now) && !u.on F.timWallStat_HOLDOVER
      (due = true → answers (.wallHoldover dt) s (fun t => t.m.on F.timWallStat_HOLDOVER = true ∧ raises u t.m 0x19 0x15 0 [(2, 1)] ∧ same t [R.timWallStat]))
      ∧ (due = false → idles (.wallHoldover dt) s))
    ∧ (s.heeds dt agent 25 →
      (val.getLsbD 63 = true → may = true → answers (.snapArm dt agent val) s (fun t => t.m.snap = { u.snap with armed := some (want, u.reel + ahead, false) } ∧ t.m.get F.trcSnapCtl_STATE = 1
        ∧ t.m.get F.trcSnapCtl_ID = want ∧ t.m.on F.trcSnapCtl_CHAIN = val.getLsbD 62 ∧ (val.getLsbD 62 = false → t.m = { u with regs := t.m.regs, snap := t.m.snap } ∧ same t [R.trcSnapCtl])
        ∧ (val.getLsbD 62 = true → u.follower = false → ∀ k < 5, u.linkUp k = true → sendsOn u t.m k ⟨1, 6, [want, u.get F.trcSnapTick_TICK], []⟩)))
      ∧ ((val.getLsbD 63 = false ∨ may = false) → answers (.snapArm dt agent val) s (fun t => t.m = { u with regs := t.m.regs } ∧ t.m.get F.trcSnapCtl_ID = want ∧ t.m.on F.trcSnapCtl_CHAIN = val.getLsbD 62
        ∧ t.m.get F.trcSnapCtl_STATE = (if val.getLsbD 63 then 4 else u.get F.trcSnapCtl_STATE) ∧ same t [R.trcSnapCtl]))
      ∧ (u.tracer.held = [] → answers (.ridxWrite dt agent val) s (fun t => t.m.rd R.trcTraceRidx = val ∧ t.m.tracer = u.tracer ∧ same t [R.trcTraceRidx]))
      ∧ (u.tracer.held ≠ [] → (u.traceCap = 0 ∨ u.traceCap ≤ u.tracer.widx - (val.extractLsb' 0 (F.trcTraceRidx_IDX).w).toNat) → answers (.ridxWrite dt agent val) s (fun t => t.m.rd R.trcTraceRidx = val
          ∧ t.m.tracer = u.tracer ∧ same t [R.trcTraceRidx]))
      ∧ (∀ x, u.tracer.held = [x] → u.traceCap ≠ 0 → u.tracer.widx - (val.extractLsb' 0 (F.trcTraceRidx_IDX).w).toNat < u.traceCap → answers (.ridxWrite dt agent val) s (fun t =>
          t.m.tracer.held = [] ∧ t.m.tracer.widx = u.tracer.widx + 1 ∧ t.m.tracer.stallUs = min (u.tracer.stallUs + (u.now - x.1) / 1000) (2 ^ 32 - 1) ∧ t.m.rd R.trcTraceRidx = val ∧ same t [R.trcTraceRidx])))
    ∧ answers (.snapCommand dt id tick) s (fun t => t.m.snap = { u.snap with armed := some (id, tick, decide (tick < u.reel + 20000)) }
        ∧ t.m.get F.trcSnapCtl_STATE = (if tick < u.reel + 20000 then 3 else 1) ∧ t.m = { u with regs := t.m.regs, snap := t.m.snap } ∧ same t [R.trcSnapCtl])
    ∧ (u.snap.armed = none → idles (.snapshot dt) s) ∧ (∀ late, u.snap.armed = some (id, tick, late) → u.reel < tick → idles (.snapshot dt) s)
    ∧ (u.snap.armed = some (id, tick, true) → tick ≤ u.reel → answers (.snapshot dt) s (fun t => t.m.snap = { u.snap with armed := none } ∧ t.m.get F.trcSnapCtl_MISSED = snapUnits % 2 ^ F.trcSnapCtl_MISSED.w
        ∧ raises u t.m 0x1A 0x12 0 [(16, (id : Int)), (16, (snapUnits : Int))] ∧ same t [R.trcSnapCtl]))
    ∧ (u.snap.armed = some (id, tick, false) → tick ≤ u.reel → answers (.snapshot dt) s (fun t => t.m.snap.armed = none ∧ t.m.snap.id = id ∧ t.m.get F.trcSnapCtl_STATE = 2
        ∧ t.m.get F.trcSnapCtl_MISSED = 0 ∧ raises u t.m 0x1A 0x11 0 [(16, (id : Int))] ∧ (∀ x ∈ t.m.snap.shadows, x.2 = u.lookRaw x.1)
        ∧ (∀ o ∈ u.regs.map (·.1), snapReg o = true → o ∈ t.m.snap.shadows.map (·.1)) ∧ same t [R.trcSnapCtl]))
    ∧ (let g := u.tracer.gain u.now
      let due : Bool := decide (u.get F.trcTraceCtl_MODE = 1) && u.tracer.lost != 0 && decide (1000 ≤ g.tok) && u.traceCap != 0
      (due = false → answers (.lost dt) s (fun t => t = { s.pass dt with m := { u with tracer := g } }))
      ∧ (due = true → (u.get F.trcTraceCtl_SRC).testBit 6 = false → answers (.lost dt) s (fun t => t.m.tracer.lost = 0 ∧ t.m.tracer.tok = g.tok - 1000 ∧ t.m.tracer.widx = u.tracer.widx + 1
          ∧ (∀ r ∈ u.runs.take 1, u.runs.length = 1 → r.is 0x1A 0x10 0 0 = true → t.m.runs = [] ∧ (r.counted = true → raises u t.m 0x1A 0x10 0 (r.args ++ [(32, (r.count : Int))]))) ∧ same t []))
      ∧ (due = true → (u.get F.trcTraceCtl_SRC).testBit 6 = true → answers (.lost dt) s (fun t => u.tracer.widx + 1 ≤ t.m.tracer.widx ∧ same t [])))

/-- R424, R496, R499 to R502: readings are stored, and from level 0 with every sensor working the level follows the hottest one, which trips at 125 °C; in a power-fail stop they are only
stored; a die without a reading keeps its value and is timed; a cold plate above its mark is raised once. A sensor without a reading for 10 ms fails, more than four force level 3. R497,
R498: a request starts boost when nothing bars it, extends it, or is counted as refused with its reason; END and the timeout end it with 60 s of cool-down, which then ends. Nothing of it
happens otherwise. -/
def Obligations.SensorsLevelsAndBoost : Prop :=
  ∀ (s : State) (dt agent k : Nat) (val : Word), k < 24 → s.live dt →
    let u := (s.pass dt).m
    let secs := min (val.extractLsb' 0 7).toNat 120
    let same (t : State) (os : List Nat) : Prop := keepsRegs u t.m os ∧ sameData (s.pass dt) t
    let isl := R.kilnStat :: R.kilnCnt :: (List.range 29).map R.kilnIsl
    let ended (t : State) (why : Int) : Prop := t.m.on F.kilnStat_BOOST = false ∧ t.m.on F.kilnStat_COOLDOWN = true ∧ t.m.kiln.boost = none
      ∧ t.m.kiln.cool = some (u.now + 60000000000) ∧ (∀ i < 29, u.get (F.kilnIsl_STATE i) ≠ 0 → t.m.get (F.kilnIsl_MHZ i) = 1500) ∧ raises u t.m 0x1B 0x11 0 [(3, why)] ∧ same t isl
    let bar := u.boostBar
    let failing : Bool := (u.kiln.missing.any fun x => decide (x.1 = k) && decide (x.2 + 10000000 ≤ u.now)) && !u.sensFailed k
    let few : Bool := decide (((List.range 24).countP fun i => decide (i = k) || u.sensFailed i) ≤ 4)
    (∀ (dies : List (Option Int)) (r : Nat → Int) (tcp tj : Int) (rails : List (Nat × Nat)) (a b c d : Nat),
      (∀ i < 24, dies.getD i none = some (r i) ∧ -32768 ≤ r i ∧ r i ≤ tj) → (∃ i < 24, r i = tj) → -32768 ≤ tcp → tcp < 32768 → tj < 32768 →
      u.get F.kilnSensFail_FAILED = 0 → u.on F.pwrStat_PWRFAIL = false → u.get F.kilnStat_LEVEL = 0 →
      answers (.sensorSample dt dies tcp rails a b c d) s (fun t =>
        (tj < 2000 → (∀ i < 24, t.m.geti (tempFld i) = r i) ∧ t.m.geti F.kilnStat_TCP = tcp ∧ t.m.geti F.kilnStat_TJ = tj ∧ (∀ i < 12, t.m.get (F.mgtSensRail_VOLT i) = (rails.getD i (0, 0)).1 % 2 ^ (F.mgtSensRail_VOLT i).w)
          ∧ t.m.get F.kilnStat_LEVEL = (if 1888 ≤ tj then 3 else if 1760 ≤ tj then 2 else if 1600 ≤ tj then 1 else 0) ∧ (640 < tcp → t.m.kiln.boost = none) ∧ sameData (s.pass dt) t)
        ∧ (2000 ≤ tj → t.m.on F.pwrStat_PWRFAIL = true ∧ t.m.supply.trip = true ∧ t.m.supply.failAt = some u.now)))
    ∧ (∀ (dies : List (Option Int)) (tcp : Int) (rails : List (Nat × Nat)) (a b c d : Nat), -32768 ≤ tcp → tcp < 32768 → u.on F.pwrStat_PWRFAIL = true →
      let mark := u.geti F.kilnCfg_COLD_MARK
      answers (.sensorSample dt dies tcp rails a b c d) s (fun t => t.m.geti F.kilnStat_TCP = tcp ∧ t.m.kiln.boost = u.kiln.boost ∧ t.m.get F.kilnStat_LEVEL = u.get F.kilnStat_LEVEL
        ∧ (∀ i < 24, dies.getD i none = none → t.m.geti (tempFld i) = u.geti (tempFld i) ∧ (u.kiln.missing.any (fun x => x.1 = i) = false → (i, u.now) ∈ t.m.kiln.missing))
        ∧ (mark < tcp → u.kiln.cold = false → raises u t.m 0x1B 0x15 0 [(16, tcp)]) ∧ (mark < tcp → t.m.kiln.cold = true) ∧ (tcp ≤ mark - 32 → t.m.kiln.cold = false)
        ∧ keepsWindows u t.m [23, 27] ∧ sameData (s.pass dt) t))
    ∧ (failing = true → answers (.sensorFail dt k) s (fun t => t.m.get F.kilnSensFail_FAILED = u.get F.kilnSensFail_FAILED + 2 ^ k ∧ raises u t.m 0x1B 0x16 0 [(5, (k : Int))] ∧ sameData (s.pass dt) t
      ∧ (few = false → u.on F.pwrStat_PWRFAIL = false → t.m.get F.kilnStat_LEVEL = 3) ∧ (u.on F.pwrStat_PWRFAIL = true → same t [R.kilnSensFail, R.kilnStat] ∧ t.m.get F.kilnStat_LEVEL = u.get F.kilnStat_LEVEL)))
    ∧ (failing = false → idles (.sensorFail dt k) s) ∧ (∀ x, 24 ≤ x → idles (.sensorFail dt x) s)
    ∧ (s.heeds dt agent 27 →
      (0 < secs → u.kiln.boost = none → bar = 0 → answers (.boostS dt agent val) s (fun t =>
        t.m.on F.kilnStat_BOOST = true ∧ t.m.kiln = { u.kiln with boost := some (u.now, u.now + secs * 1000000000) } ∧ counted u t.m F.kilnCnt_BOOSTS
        ∧ (∀ i < 29, u.get (F.kilnIsl_STATE i) ≠ 0 → t.m.get (F.kilnIsl_MHZ i) = 1650) ∧ raises u t.m 0x1B 0x10 0 [(7, (secs : Int))] ∧ same t isl))
      ∧ (0 < secs → u.kiln.boost = none → bar ≠ 0 → answers (.boostS dt agent val) s (fun t =>
        t.m.kiln = u.kiln ∧ counted u t.m F.kilnCnt_REFUSED ∧ raises u t.m 0x1B 0x12 0 [(3, (bar : Int))] ∧ same t [R.kilnCnt]))
      ∧ (∀ since stop, val.getLsbD 63 = false → 0 < secs → u.kiln.boost = some (since, stop) → answers (.boostS dt agent val) s (fun t =>
        t = { s.pass dt with m := { u with kiln := { u.kiln with boost := some (since, min (u.now + secs * 1000000000) (since + 120000000000)) } } }))
      ∧ (secs = 0 → (val.getLsbD 63 = false ∨ u.kiln.boost = none) → idles (.boostS dt agent val) s)
      ∧ (val.getLsbD 63 = true → u.kiln.boost.isSome = true → answers (.boostS dt agent val) s (fun t => ended t 2 ∧ (0 < secs → counted u t.m F.kilnCnt_REFUSED)))
      ∧ (u.kiln.boost.isSome = true → answers (.endBoost dt agent) s (fun t => ended t 2)) ∧ (u.kiln.boost = none → idles (.endBoost dt agent) s))
    ∧ (∀ since stop, u.kiln.boost = some (since, stop) → stop ≤ u.now → answers (.boostTimeout dt) s (fun t => ended t 1))
    ∧ (∀ since stop, u.kiln.boost = some (since, stop) → u.now < stop → idles (.boostTimeout dt) s) ∧ (u.kiln.boost = none → idles (.boostTimeout dt) s)
    ∧ (∀ t0, u.kiln.cool = some t0 → t0 ≤ u.now → answers (.cooldownEnd dt) s (fun t => t.m.on F.kilnStat_COOLDOWN = false ∧ t.m.kiln = { u.kiln with cool := none } ∧ same t [R.kilnStat]))
    ∧ (∀ t0, u.kiln.cool = some t0 → u.now < t0 → idles (.cooldownEnd dt) s) ∧ (u.kiln.cool = none → idles (.cooldownEnd dt) s)

/-! ## Registers, events, the log, and the whole machine -/

/-- R13, R14, R25, R34, R35, R89, R433, R435, R465, R509: the word of a write to a register that has no row of its own takes the run-time fields, the configuration
fields while its function is STOPPED and not held by a restart check, and the shadow fields while no commit is pending; it clears the W1C bits and sets the W1S bits
it has as 1; no other register changes, but those that follow a leading one in its window and the count of ignored shadow writes; a refused change of a configuration
field raises CFG_LOCKED. One to an unmapped offset raises ACCESS_ERROR and changes no register; one of the host off the 8-byte grid is counted; one that is
barred does nothing; the MSI-X table takes its words. Lost events are told once the queue has room; a counted run of 10 ms raises its event with its count; the
oldest buffered log entry goes to the write point, or past a slot, or into the next sector when its programming fails. Where the event, run or entry is not there, or
has not its time, only time passes. -/
def Obligations.RegistersEventsAndLog : Prop :=
  ∀ (s : State) (dt : Nat), s.live dt →
    let u := (s.pass dt).m
    let bits (n : Nat) : Word := BitVec.ofNat 64 n
    (∀ (agent off : Nat) (val : Word), isAgent agent = true →
      let old := u.rd off
      let aligned := ¬(agent = 2 ∧ off % 8 ≠ 0)
      (s.lets dt agent (off / 0x100000) = false → idles (.registerWrite dt agent off val) s)
      ∧ (s.lets dt agent (off / 0x100000) = true →
        (¬aligned → answers (.registerWrite dt agent off val) s (fun t =>
          t.m.get F.mgtPcieStat_BADSIZE = min (u.get F.mgtPcieStat_BADSIZE + 1) (2 ^ F.mgtPcieStat_BADSIZE.w - 1)
          ∧ keepsRegs u t.m [R.mgtPcieStat] ∧ sameData (s.pass dt) t))
        ∧ (aligned → msixTable off = false → off ≠ msixPba →
          (∀ r ix, regAt off = some (r, ix) → regMapped off = true → r.base ∉ ownCommand →
            let c := ix.headD 0 + 16 * ix.getD 1 0
            let count := cxf F.mshCxCnt_BUSY_WRITES c
            let barred : Bool := r.cfg != 0 && (u.fnRuns r.lock off ix || u.regFrozen off ix)
            let busy : Bool := r.shadow != 0 && u.on (cxf F.mshCxTook_PENDING c)
            let kept : Word := bits (r.run ||| (if barred then 0 else r.cfg) ||| (if busy then 0 else r.shadow))
            let new : Word := (((old &&& ~~~kept) ||| (val &&& kept)) &&& ~~~(bits r.w1c &&& val)) ||| (bits r.w1s &&& val)
            answers (.registerWrite dt agent off val) s (fun t => sameData (s.pass dt) t
              ∧ (r.base ∉ leading → (busy = true → off ≠ count.off) → t.m.rd off = new)
              ∧ (r.base ∈ leading → t.m.rd off &&& bits (r.run ||| r.cfg) = new &&& bits (r.run ||| r.cfg))
              ∧ (if r.base ∈ leading then keepsWindows u t.m [off / 0x100000] else keepsRegs u t.m ([off] ++ (if busy then [count.off] else [])))
              ∧ (busy = true → off ≠ count.off → t.m.get count = min (u.get count + 1) (2 ^ count.w - 1))
              ∧ (barred = true → (old ^^^ val) &&& bits r.cfg ≠ 0 → busy = false → r.base ∉ leading →
                  raises u t.m ((winBlock (off / 0x100000)).getD 0) 0x02 (winInst off) [])))
          ∧ (regMapped off = false → answers (.registerWrite dt agent off val) s (fun t => keepsRegs u t.m [] ∧ sameData (s.pass dt) t
              ∧ ∀ b, winBlock (off / 0x100000) = some b → raises u t.m b 0x01 (winInst off) [])))
        ∧ (aligned → msixTable off = true → answers (.registerWrite dt agent off val) s (fun t => keepsRegs u t.m [] ∧ sameData (s.pass dt) t
            ∧ ∀ k, spGet msixReset t.m.msix k = if k = (off - 0x1780000) / 8 then (if k % 2 = 1 then val &&& 0x1FFFFFFFF else val &&& 0xFFFFFFFFFFFFFFFC)
                else spGet msixReset u.msix k))
        ∧ (aligned → off = msixPba → idles (.registerWrite dt agent off val) s)))
    ∧ (∀ blk inst : Nat,
      (u.evLost blk inst ≠ 0 → u.evLevel blk inst < 64 → answers (.eventsLost dt blk inst) s (fun t =>
        t.m.evLost blk inst = 0 ∧ raises u t.m blk 3 inst [(32, (u.evLost blk inst : Int))] ∧ keepsRegs u t.m [] ∧ sameData (s.pass dt) t))
      ∧ (u.evLost blk inst = 0 ∨ 64 ≤ u.evLevel blk inst → idles (.eventsLost dt blk inst) s))
    ∧ (∀ blk loc inst unit : Nat,
      (∀ r, u.runs.find? (·.is blk loc inst unit) = some r → r.counted = true → r.start + 10000000 ≤ u.now →
        answers (.runTimeout dt blk loc inst unit) s (fun t => ((blk, loc) ≠ (0x1A, 0x10) → t.m.runs.find? (·.is blk loc inst unit) = none)
          ∧ raises u t.m blk loc inst (r.args ++ [(32, (r.count : Int))]) ∧ keepsRegs u t.m [] ∧ sameData (s.pass dt) t))
      ∧ ((∀ r, u.runs.find? (·.is blk loc inst unit) = some r → r.counted = true → u.now < r.start + 10000000) →
        idles (.runTimeout dt blk loc inst unit) s))
    ∧ ∀ fails : Nat,
      (∀ e rest, u.logBuf = e :: rest → u.on F.pwrStat_PWRFAIL = false →
        let slot := if fails = 0 then u.log.pos else (u.log.pos + 1) % 65536
        (fails < 2 → answers (.logWrite dt fails) s (fun t => t.m.log.pos = (slot + 1) % 65536
          ∧ t.m.logBuf = rest ++ (if u.logLost = 0 then [] else [⟨0x18, 0x14, 0, packArgs [(32, (u.logLost : Int))], u.reel, u.wall⟩])
          ∧ t.m.logLost = 0
          ∧ (∃ q, t.m.log.held.getLast? = some (slot, q) ∧ t.m.logSlot slot = entryBytes q e)
          ∧ keepsRegs u t.m [R.logStat] ∧ sameData (s.pass dt) t))
        ∧ (2 ≤ fails → answers (.logWrite dt fails) s (fun t => t.m.logBuf = u.logBuf ∧ t.m.log.pos = (u.log.pos / 1024 + 1) % 64 * 1024
          ∧ raises u t.m 0x18 0x15 0 [(32, ((u.log.pos / 1024 : Nat) : Int))] ∧ keepsRegs u t.m [R.logStat] ∧ sameData (s.pass dt) t)))
      ∧ (u.logBuf = [] ∨ u.on F.pwrStat_PWRFAIL = true → idles (.logWrite dt fails) s)

/-- The block's step (the model's own form, no rule of the spec): it takes the command at the front of its queue and runs it with the
rest; on an empty queue it idles. -/
def Obligations.StepRunsFront : Prop :=
  (∀ (c : Instr) (s : State), step { s with pending := c :: s.pending } = exec c s)
  ∧ ∀ s : State, s.pending = [] → step s = .next s

/-- R35, R398, R425, R433, R441: every command answers a next state and leaves the queue as it is (its own effect is stated of each by its family's statement); one
with operands that the spec does not give, one that comes while the machine is held in reset, and one whose agent's access is barred, lets time pass and does nothing
else (log entries 3 and 150); passing time of `dt` ns adds `dt` to the base counter and empties the event queues into the log's buffer (log entry 13). -/
def Obligations.CommandsCompleteAndTimePasses : Prop :=
  (∀ (i : Instr) (s : State), ∃ t, exec i s = .next t ∧ t.pending = s.pending)
  ∧ (∀ (i : Instr) (s : State), i.wf = false → idles i s)
  ∧ (∀ (i : Instr) (s : State) (a w : Nat), sender i = some (a, w) → s.lets i.dt a w = false → idles i s)
  ∧ (∀ (i : Instr) (s : State), (s.pass i.dt).m.halted = true → (∀ dt, i ≠ .powerOn dt ∧ i ≠ .nresetIn dt ∧ i ≠ .resetRelease dt
      ∧ i ≠ .deferredReset dt ∧ i ≠ .retentionLoss dt) → idles i s)
  ∧ ∀ (s : State) (dt : Nat), (s.pass dt).m.now = s.m.now + dt ∧ (s.pass dt).pending = s.pending
      ∧ (0 < dt → (s.pass dt).m.evq = [])

/-- Every step keeps the data memory and its flipped bits in their canonical form, so that equal memories are equal data. -/
def Obligations.StepsKeepMemoryCanonical : Prop :=
  ∀ s t : State, s.memWf → step s = .next t → t.memWf

/-- R16, R441: right after reset memory lists nothing, no command waits, every register reads its reset value, the base counter
is 0, no job is loaded and every port and axis is STOPPED. -/
def Obligations.ResetState : Prop :=
  let s := State.reset
  s.memWf ∧ s.mem = [] ∧ s.flips = [] ∧ s.pending = [] ∧ (∀ o, s.m.rd o = regReset o) ∧ s.m.now = 0 ∧ (∀ j < 64, s.m.jobState j = 0)
    ∧ (∀ p < 16, s.m.get (F.grsStatus_STATE p) = 0) ∧ ∀ a < 8, s.m.get (F.cmpCtl_STATE a) = 0
end

