-- ==== Sys2Proof/Laws/Sparse.lean ====
section
/-!
SUPPORT. The laws of sparse tables: a read after a write, the frame of a write, and that a write keeps the canonical form.
-/

namespace Sys2Proof.Machine

variable {α : Type}

theorem spGet_ins_same (d : Nat → α) (l : List (Nat × α)) (k : Nat) (v : α) : spGet d (spIns l k v) k = v := by
  induction l with
  | nil => simp [spIns, spGet]
  | cons h t ih =>
    obtain ⟨a, x⟩ := h
    simp only [spIns]
    split
    · next hlt => simp [spGet, ih, Nat.ne_of_lt hlt]
    · split <;> simp [spGet]

theorem spGet_ins_ne (d : Nat → α) (l : List (Nat × α)) {k j : Nat} (v : α) (h : j ≠ k) :
    spGet d (spIns l k v) j = spGet d l j := by
  induction l with
  | nil => simp [spIns, spGet, h.symm]
  | cons hd t ih =>
    obtain ⟨a, x⟩ := hd
    simp only [spIns]
    split
    · simp [spGet, ih]
    · split
      · next e => subst e; simp [spGet, h.symm]
      · simp [spGet, h.symm]

theorem spGet_del_same (d : Nat → α) (l : List (Nat × α)) (k : Nat) : spGet d (spDel l k) k = d k := by
  induction l with
  | nil => rfl
  | cons h t ih =>
    obtain ⟨a, x⟩ := h
    simp only [spDel]
    split
    · exact ih
    · next hne => simp [spGet, hne, ih]

theorem spGet_del_ne (d : Nat → α) (l : List (Nat × α)) {k j : Nat} (h : j ≠ k) :
    spGet d (spDel l k) j = spGet d l j := by
  induction l with
  | nil => rfl
  | cons hd t ih =>
    obtain ⟨a, x⟩ := hd
    simp only [spDel]
    split
    · next e => subst e; simp [spGet, h.symm, ih]
    · simp [spGet, ih]

/-- A read after a write of the same key gives the value written. -/
@[simp] theorem spGet_put_same [DecidableEq α] (d : Nat → α) (l : List (Nat × α)) (k : Nat) (v : α) :
    spGet d (spPut d l k v) k = v := by
  unfold spPut
  split
  · next h => rw [spGet_del_same, h]
  · exact spGet_ins_same d l k v

/-- A write leaves every other key as it was. -/
theorem spGet_put_ne [DecidableEq α] (d : Nat → α) (l : List (Nat × α)) {k j : Nat} (v : α) (h : j ≠ k) :
    spGet d (spPut d l k v) j = spGet d l j := by
  unfold spPut
  split
  · exact spGet_del_ne d l h
  · exact spGet_ins_ne d l v h

theorem spAbove_mono {lo lo' : Nat} (hle : lo' ≤ lo) (l : List (Nat × α)) (h : spAbove lo l = true) :
    spAbove lo' l = true := by
  cases l with
  | nil => rfl
  | cons hd t =>
    obtain ⟨a, x⟩ := hd
    simp only [spAbove, Bool.and_eq_true, decide_eq_true_eq] at h ⊢
    exact ⟨by omega, h.2⟩

theorem spAbove_del {lo : Nat} (l : List (Nat × α)) (k : Nat) (h : spAbove lo l = true) :
    spAbove lo (spDel l k) = true := by
  induction l generalizing lo with
  | nil => rfl
  | cons hd t ih =>
    obtain ⟨a, x⟩ := hd
    simp only [spAbove, Bool.and_eq_true, decide_eq_true_eq] at h
    simp only [spDel]
    split
    · exact ih (spAbove_mono (by omega) t h.2)
    · simp only [spAbove, Bool.and_eq_true, decide_eq_true_eq]; exact ⟨h.1, ih h.2⟩

theorem spAbove_ins {lo : Nat} (l : List (Nat × α)) (k : Nat) (v : α) (hk : lo < k) (h : spAbove lo l = true) :
    spAbove lo (spIns l k v) = true := by
  induction l generalizing lo with
  | nil => simp [spIns, spAbove, hk]
  | cons hd t ih =>
    obtain ⟨a, x⟩ := hd
    simp only [spAbove, Bool.and_eq_true, decide_eq_true_eq] at h
    simp only [spIns]
    split
    · next hlt => simp only [spAbove, Bool.and_eq_true, decide_eq_true_eq]; exact ⟨h.1, ih hlt h.2⟩
    · split
      · next e => subst e; simp only [spAbove, Bool.and_eq_true, decide_eq_true_eq]; exact ⟨hk, h.2⟩
      · simp only [spAbove, Bool.and_eq_true, decide_eq_true_eq]; exact ⟨hk, by omega, h.2⟩

theorem spSorted_of_above {lo : Nat} (l : List (Nat × α)) (h : spAbove lo l = true) : spSorted l = true := by
  cases l with
  | nil => rfl
  | cons hd t => simp only [spAbove, Bool.and_eq_true] at h; exact h.2

theorem spSorted_del (l : List (Nat × α)) (k : Nat) (h : spSorted l = true) : spSorted (spDel l k) = true := by
  cases l with
  | nil => rfl
  | cons hd t =>
    obtain ⟨a, x⟩ := hd
    simp only [spDel]
    split
    · exact spSorted_of_above _ (spAbove_del t k h)
    · exact spAbove_del t k h

theorem spSorted_ins (l : List (Nat × α)) (k : Nat) (v : α) (h : spSorted l = true) : spSorted (spIns l k v) = true := by
  cases l with
  | nil => rfl
  | cons hd t =>
    obtain ⟨a, x⟩ := hd
    simp only [spIns]
    split
    · next hlt => exact spAbove_ins t k v hlt h
    · split
      · next e => subst e; exact h
      · simp only [spSorted, spAbove, Bool.and_eq_true, decide_eq_true_eq]; exact ⟨by omega, h⟩

theorem spLean_del [DecidableEq α] (d : Nat → α) (l : List (Nat × α)) (k : Nat) (h : spLean d l = true) :
    spLean d (spDel l k) = true := by
  induction l with
  | nil => rfl
  | cons hd t ih =>
    obtain ⟨a, x⟩ := hd
    simp only [spLean, Bool.and_eq_true] at h
    simp only [spDel]
    split
    · exact ih h.2
    · simp only [spLean, Bool.and_eq_true]; exact ⟨h.1, ih h.2⟩

theorem spLean_ins [DecidableEq α] (d : Nat → α) (l : List (Nat × α)) (k : Nat) (v : α) (hv : v ≠ d k)
    (h : spLean d l = true) : spLean d (spIns l k v) = true := by
  induction l with
  | nil => simp [spIns, spLean, hv]
  | cons hd t ih =>
    obtain ⟨a, x⟩ := hd
    simp only [spLean, Bool.and_eq_true] at h
    simp only [spIns]
    split
    · simp only [spLean, Bool.and_eq_true]; exact ⟨h.1, ih h.2⟩
    · split
      · simp only [spLean, Bool.and_eq_true, decide_eq_true_eq]; exact ⟨hv, h.2⟩
      · simp only [spLean, Bool.and_eq_true, decide_eq_true_eq]; exact ⟨hv, by simpa using h.1, h.2⟩

/-- A write keeps the canonical form. -/
theorem spWf_put [DecidableEq α] (d : Nat → α) (l : List (Nat × α)) (k : Nat) (v : α) (h : spWf d l = true) :
    spWf d (spPut d l k v) = true := by
  simp only [spWf, Bool.and_eq_true] at h ⊢
  unfold spPut
  split
  · exact ⟨spSorted_del l k h.1, spLean_del d l k h.2⟩
  · next hv => exact ⟨spSorted_ins l k v h.1, spLean_ins d l k v hv h.2⟩

end Sys2Proof.Machine
end

