-- ==== Sys2Proof/Laws/Regs.lean ====
section
/-!
SUPPORT. Registers and fields: a read after a write, in the register and in any other, in the field and beside it.
-/

namespace Sys2Proof.Machine

theorem setField_bit (w : Word) (lo n v i : Nat) (h : lo + n ≤ 64) (hi : i < 64) :
    (setField w lo n v).getLsbD i = if lo ≤ i ∧ i < lo + n then v.testBit (i - lo) else w.getLsbD i := by
  simp only [setField, BitVec.getLsbD_or, BitVec.getLsbD_and, BitVec.getLsbD_not, BitVec.getLsbD_shiftLeft, BitVec.getLsbD_setWidth,
    BitVec.getLsbD_allOnes, BitVec.getLsbD_ofNat]
  by_cases h1 : i < lo
  · have : ¬ lo ≤ i := by omega
    simp [h1, hi, this]
  · by_cases h2 : i < lo + n
    · have a : i - lo < n := by omega
      have b : i - lo < 64 := by omega
      have c : lo ≤ i := by omega
      simp [h1, hi, h2, a, b, c]
    · have a : ¬ i - lo < n := by omega
      have c : lo ≤ i := by omega
      simp [h1, hi, h2, a, c]

/-- The field written reads as the low bits of the value. -/
theorem setField_same (w : Word) (lo n v : Nat) (h : lo + n ≤ 64) :
    (setField w lo n v).extractLsb' lo n = BitVec.ofNat n v := by
  apply BitVec.eq_of_getLsbD_eq
  intro i hi
  have h1 : lo + i < 64 := by omega
  rw [BitVec.getLsbD_extractLsb', setField_bit w lo n v _ h h1]
  have h2 : lo + i < lo + n := by omega
  rw [if_pos ⟨by omega, h2⟩, BitVec.getLsbD_ofNat]
  simp [hi]

/-- A field beside it keeps its value. -/
theorem setField_ne (w : Word) (lo n v lo' n' : Nat) (h : lo + n ≤ 64) (h' : lo' + n' ≤ 64) (hd : lo + n ≤ lo' ∨ lo' + n' ≤ lo) :
    (setField w lo n v).extractLsb' lo' n' = w.extractLsb' lo' n' := by
  apply BitVec.eq_of_getLsbD_eq
  intro i hi
  have h1 : lo' + i < 64 := by omega
  rw [BitVec.getLsbD_extractLsb', BitVec.getLsbD_extractLsb', setField_bit w lo n v _ h h1]
  have h2 : ¬ (lo ≤ lo' + i ∧ lo' + i < lo + n) := by omega
  simp [hi, h2]

/-! ## Reading the register file -/

@[simp] theorem Mach.rd_wr_same (m : Mach) (o : Nat) (w : Word) : (m.wr o w).rd o = w := spGet_put_same _ _ _ _

theorem Mach.rd_wr_ne (m : Mach) {o o' : Nat} (w : Word) (h : o' ≠ o) : (m.wr o w).rd o' = m.rd o' := spGet_put_ne _ _ _ h

/-- A field lies within its register's 64 bits. -/
def Fld.fits (f : Fld) : Prop := f.lo + f.w ≤ 64

/-- Two fields share no bit of a register. -/
def Fld.apart (f g : Fld) : Prop := f.off ≠ g.off ∨ f.lo + f.w ≤ g.lo ∨ g.lo + g.w ≤ f.lo

theorem Mach.get_set_same (m : Mach) (f : Fld) (v : Nat) (h : f.fits) : (m.set f v).get f = v % 2 ^ f.w := by
  simp [Mach.set, Mach.get, setField_same _ _ _ _ h]

theorem Mach.get_set_apart (m : Mach) (f g : Fld) (v : Nat) (hf : f.fits) (hg : g.fits) (h : f.apart g) :
    (m.set f v).get g = m.get g := by
  simp only [Mach.set, Mach.get]
  by_cases ho : g.off = f.off
  · rw [← ho, Mach.rd_wr_same]
    rcases h with h | h
    · exact absurd ho.symm h
    · rw [setField_ne _ _ _ _ _ _ hf hg h]
  · rw [Mach.rd_wr_ne _ _ ho]

theorem Mach.rd_set_ne (m : Mach) (f : Fld) (v o : Nat) (h : o ≠ f.off) : (m.set f v).rd o = m.rd o := Mach.rd_wr_ne _ _ h

theorem Mach.on_setb_same (m : Mach) (f : Fld) (b : Bool) (h : f.fits) (hw : f.w = 1) : (m.setb f b).on f = b := by
  simp only [Mach.on, Mach.setb, Mach.get_set_same m f _ h, hw]
  cases b <;> rfl

theorem Mach.on_setb_apart (m : Mach) (f g : Fld) (b : Bool) (hf : f.fits) (hg : g.fits) (h : f.apart g) :
    (m.setb f b).on g = m.on g := by
  simp only [Mach.on, Mach.setb, Mach.get_set_apart m f g _ hf hg h]

theorem Mach.get_bump_same (m : Mach) (f : Fld) (n : Nat) (h : f.fits) :
    (m.bump f n).get f = min (m.get f + n) (2 ^ f.w - 1) := by
  rw [Mach.bump, Mach.get_set_same m f _ h, Nat.mod_eq_of_lt]
  have := Nat.two_pow_pos f.w
  omega

theorem Mach.get_lt (m : Mach) (f : Fld) : m.get f < 2 ^ f.w := BitVec.isLt _

/-! ## Field reads only see the register file -/

theorem Mach.rd_of_regs {m m' : Mach} (h : m'.regs = m.regs) (o : Nat) : m'.rd o = m.rd o := by simp [Mach.rd, h]

theorem Mach.get_of_regs {m m' : Mach} (h : m'.regs = m.regs) (f : Fld) : m'.get f = m.get f := by simp [Mach.get, Mach.rd, h]

end Sys2Proof.Machine
end

