-- ==== Sys2Proof/Laws/Ops.lean ====
section
/-!
SUPPORT. What each shared operation can change, said once: a statement about a meaning cites these and unfolds none of them.
-/

namespace Sys2Proof.Machine

/-! ## Register writes change the register file alone -/

theorem Mach.set_eq (m : Mach) (f : Fld) (v : Nat) : ∃ r, m.set f v = { m with regs := r } := ⟨_, rfl⟩

theorem Mach.setb_eq (m : Mach) (f : Fld) (b : Bool) : ∃ r, m.setb f b = { m with regs := r } := ⟨_, rfl⟩

theorem Mach.bump_eq (m : Mach) (f : Fld) (n : Nat) : ∃ r, m.bump f n = { m with regs := r } := ⟨_, rfl⟩

/-! ## Trace records and events change no register -/

theorem Mach.trace_eq (m : Mach) (src : Nat) (stall : Bool) (job : Option Nat) (r : TRec) :
    ∃ t q, m.trace src stall job r = { m with tracer := t, runs := q } := by
  unfold Mach.trace
  split
  · exact ⟨_, _, rfl⟩
  · exact ⟨_, _, rfl⟩

/-- An event changes the event queue, its dropped counts, the trace writer and the trace writer's run of drops; nothing else. -/
theorem Mach.emit_eq (m : Mach) (b l i : Nat) (a : List (Nat × Int)) :
    ∃ q d t r, m.emit b l i a = { m with evq := q, evDropped := d, tracer := t, runs := r } := by
  obtain ⟨t, r, h⟩ : ∃ t r, m.traceEvent b l i a = { m with tracer := t, runs := r } := Mach.trace_eq _ _ _ _ _
  unfold Mach.emit
  rw [h]
  exact ⟨_, _, _, _, rfl⟩

theorem Mach.runHit_eq (m : Mach) (c : Bool) (b l i u : Nat) (a : List (Nat × Int)) (n : Nat) :
    ∃ q d t r, m.runHit c b l i u a n = { m with evq := q, evDropped := d, tracer := t, runs := r } := by
  unfold Mach.runHit
  dsimp only
  split
  · obtain ⟨q, d, t, r, h⟩ := Mach.emit_eq (m.runGrow c b l i u a n) b l i a
    rw [h]
    exact ⟨_, _, _, _, rfl⟩
  · exact ⟨_, _, _, _, rfl⟩

theorem Mach.runEnd_eq (m : Mach) (b l i u : Nat) :
    ∃ q d t r, m.runEnd b l i u = { m with evq := q, evDropped := d, tracer := t, runs := r } := by
  unfold Mach.runEnd
  split
  · exact ⟨_, _, _, _, rfl⟩
  · dsimp only
    split
    · next r _ _ =>
      obtain ⟨q, d, t, r', h⟩ := Mach.emit_eq { m with runs := m.runs.filter fun r => !r.is b l i u } b l i
        (r.args ++ [(32, (r.count : Int))])
      rw [h]
      exact ⟨_, _, _, _, rfl⟩
    · exact ⟨_, _, _, _, rfl⟩

@[simp] theorem Mach.emit_regs (m : Mach) (b l i : Nat) (a : List (Nat × Int)) : (m.emit b l i a).regs = m.regs := by
  obtain ⟨_, _, _, _, h⟩ := m.emit_eq b l i a; rw [h]

@[simp] theorem Mach.runHit_regs (m : Mach) (c : Bool) (b l i u : Nat) (a : List (Nat × Int)) (n : Nat) :
    (m.runHit c b l i u a n).regs = m.regs := by
  obtain ⟨_, _, _, _, h⟩ := m.runHit_eq c b l i u a n; rw [h]

@[simp] theorem Mach.runEnd_regs (m : Mach) (b l i u : Nat) : (m.runEnd b l i u).regs = m.regs := by
  obtain ⟨_, _, _, _, h⟩ := m.runEnd_eq b l i u; rw [h]

@[simp] theorem Mach.trace_regs (m : Mach) (src : Nat) (stall : Bool) (job : Option Nat) (r : TRec) :
    (m.trace src stall job r).regs = m.regs := by
  obtain ⟨_, _, h⟩ := m.trace_eq src stall job r; rw [h]

@[simp] theorem Mach.get_emit (m : Mach) (b l i : Nat) (a : List (Nat × Int)) (f : Fld) : (m.emit b l i a).get f = m.get f :=
  Mach.get_of_regs (m.emit_regs b l i a) f

@[simp] theorem Mach.rd_emit (m : Mach) (b l i : Nat) (a : List (Nat × Int)) (o : Nat) : (m.emit b l i a).rd o = m.rd o :=
  Mach.rd_of_regs (m.emit_regs b l i a) o

@[simp] theorem Mach.on_emit (m : Mach) (b l i : Nat) (a : List (Nat × Int)) (f : Fld) : (m.emit b l i a).on f = m.on f := by
  simp [Mach.on]

/-! ## The tables of instances -/

@[simp] theorem Mach.fioChan_mod (m : Mach) (p : Nat) (f : FioCh → FioCh) : (m.modFioCh p f).fioChan p = f (m.fioChan p) := spGet_put_same _ _ _ _
@[simp] theorem Mach.modFioCh_regs (m : Mach) (q : Nat) (f : FioCh → FioCh) : (m.modFioCh q f).regs = m.regs := rfl
@[simp] theorem Mach.inW_mod (m : Mach) (i : Nat) (f : FioIn → FioIn) : (m.modInW i f).inW i = f (m.inW i) := spGet_put_same _ _ _ _
@[simp] theorem Mach.modInW_regs (m : Mach) (i : Nat) (f : FioIn → FioIn) : (m.modInW i f).regs = m.regs := rfl
@[simp] theorem Mach.inC_mod (m : Mach) (i : Nat) (f : FioIn → FioIn) : (m.modInC i f).inC i = f (m.inC i) := spGet_put_same _ _ _ _
@[simp] theorem Mach.modInC_regs (m : Mach) (i : Nat) (f : FioIn → FioIn) : (m.modInC i f).regs = m.regs := rfl
@[simp] theorem Mach.posAx_mod (m : Mach) (a : Nat) (f : PosAx → PosAx) : (m.modPos a f).posAx a = f (m.posAx a) := spGet_put_same _ _ _ _
@[simp] theorem Mach.modPos_regs (m : Mach) (a : Nat) (f : PosAx → PosAx) : (m.modPos a f).regs = m.regs := rfl
@[simp] theorem Mach.cmpAx_mod (m : Mach) (a : Nat) (f : CmpAx → CmpAx) : (m.modCmp a f).cmpAx a = f (m.cmpAx a) := spGet_put_same _ _ _ _
@[simp] theorem Mach.modCmp_regs (m : Mach) (a : Nat) (f : CmpAx → CmpAx) : (m.modCmp a f).regs = m.regs := rfl
@[simp] theorem Mach.lane_mod (m : Mach) (n : Nat) (f : Lane → Lane) : (m.modLane n f).lane n = f (m.lane n) := spGet_put_same _ _ _ _
@[simp] theorem Mach.modLane_regs (m : Mach) (n : Nat) (f : Lane → Lane) : (m.modLane n f).regs = m.regs := rfl
@[simp] theorem Mach.link_mod (m : Mach) (k : Nat) (f : Link → Link) : (m.modLink k f).link k = f (m.link k) := spGet_put_same _ _ _ _
@[simp] theorem Mach.modLink_regs (m : Mach) (k : Nat) (f : Link → Link) : (m.modLink k f).regs = m.regs := rfl

end Sys2Proof.Machine
end

