-- ==== Sys2Proof/Laws/Fio.lean ====
section
/-!
SUPPORT. Field I/O: what taking a target, an edge or a switch's action can change of the machine, said once.
-/

namespace Sys2Proof.Machine

/-- `m'` differs from `m` in registers, the field channels, the switches that are to act and the event machinery alone. -/
def FioOnly (m m' : Mach) : Prop :=
  ∃ r c a q d t u, m' = { m with regs := r, fioCh := c, swActs := a, evq := q, evDropped := d, tracer := t, runs := u }

theorem FioOnly.refl (m : Mach) : FioOnly m m := ⟨_, _, _, _, _, _, _, rfl⟩

theorem FioOnly.trans {a b c : Mach} (h : FioOnly a b) (k : FioOnly b c) : FioOnly a c := by
  obtain ⟨_, _, _, _, _, _, _, rfl⟩ := h
  obtain ⟨_, _, _, _, _, _, _, rfl⟩ := k
  exact ⟨_, _, _, _, _, _, _, rfl⟩

/-- A fold of steps that each stay within `FioOnly` stays within it. -/
theorem FioOnly.foldl {α : Type} (f : Mach → α → Mach) (h : ∀ m x, FioOnly m (f m x)) (l : List α) (m : Mach) : FioOnly m (l.foldl f m) := by
  induction l generalizing m with
  | nil => exact .refl m
  | cons x t ih => exact (h m x).trans (ih _)

theorem FioOnly.set (m : Mach) (f : Fld) (v : Nat) : FioOnly m (m.set f v) := ⟨_, _, _, _, _, _, _, rfl⟩
theorem FioOnly.bump (m : Mach) (f : Fld) (n : Nat) : FioOnly m (m.bump f n) := ⟨_, _, _, _, _, _, _, rfl⟩
theorem FioOnly.setb (m : Mach) (f : Fld) (b : Bool) : FioOnly m (m.setb f b) := ⟨_, _, _, _, _, _, _, rfl⟩
theorem FioOnly.modFioCh (m : Mach) (q : Nat) (f : FioCh → FioCh) : FioOnly m (m.modFioCh q f) := ⟨_, _, _, _, _, _, _, rfl⟩
theorem FioOnly.swAt (m : Mach) (q : Nat) (low on' : Bool) (t : Int) : FioOnly m (m.swAt q low on' t) := ⟨_, _, _, _, _, _, _, rfl⟩

theorem FioOnly.cond (m : Mach) (c : Bool) (f : Mach → Mach) (h : ∀ m, FioOnly m (f m)) : FioOnly m (m.cond c f) := by
  unfold Mach.cond
  split
  · exact h m
  · exact .refl m

theorem FioOnly.runHit (m : Mach) (c : Bool) (b l i u : Nat) (a : List (Nat × Int)) (n : Nat) : FioOnly m (m.runHit c b l i u a n) := by
  obtain ⟨_, _, _, _, h⟩ := m.runHit_eq c b l i u a n
  exact h ▸ ⟨_, _, _, _, _, _, _, rfl⟩

theorem FioOnly.runEnd (m : Mach) (b l i u : Nat) : FioOnly m (m.runEnd b l i u) := by
  obtain ⟨_, _, _, _, h⟩ := m.runEnd_eq b l i u
  exact h ▸ ⟨_, _, _, _, _, _, _, rfl⟩

theorem FioOnly.swShow (m : Mach) (a : SwAct) : FioOnly m (m.swShow a) := by
  unfold Mach.swShow
  split <;> exact .setb m _ _

/-- The switches that act now show it in FIO_CH_STAT and leave the list of those to come. -/
theorem FioOnly.swFlush (m : Mach) : FioOnly m m.swFlush :=
  FioOnly.trans (b := { m with swActs := m.swActs.filter fun a => decide (m.now < a.due) }) ⟨_, _, _, _, _, _, _, rfl⟩
    (.foldl _ .swShow _ _)

theorem FioOnly.chMove (m : Mach) (h : Nat) (tg : Bool × Bool) (t : Int) (p : Bool) : FioOnly m (m.chMove h tg t p) :=
  FioOnly.trans
    (.foldl _ (fun m q => ((FioOnly.modFioCh m q _).trans (.cond _ _ _ fun m => .swAt m ..)).trans (.cond _ _ _ fun m => .swAt m ..)) _ m) (.swFlush _)

theorem FioOnly.chCrowd (m : Mach) (h : Nat) (t : Int) : FioOnly m (m.chCrowd h t).2 := by
  have late : FioOnly m ((m.bump (F.fioChCnt_CROWDED h)).runHit true 0x11 0x1D 0 h [(7, (h : Int))]) := (FioOnly.bump m _ _).trans (.runHit ..)
  have free : FioOnly m (m.runEnd 0x11 0x1D 0 h) := .runEnd m ..
  unfold Mach.chCrowd
  split
  · split
    · exact late.trans ⟨_, _, _, _, _, _, _, rfl⟩
    · exact free.trans ⟨_, _, _, _, _, _, _, rfl⟩
  · exact free.trans ⟨_, _, _, _, _, _, _, rfl⟩

/-- Taking a target (R267, R269, R271, R276) changes nothing but registers, the field channels, their switches and the events. -/
theorem FioOnly.chApply (m : Mach) (h : Nat) (t : Int) (p : Bool) : FioOnly m (m.chApply h t p) := by
  have shown : FioOnly m ((m.gangMembers h).foldl (fun m' q => (m'.setb (F.fioChStat_LEVEL q) (m.on (F.fioChStat_LEVEL h))).setb
      (F.fioChStat_FORCED q) (m.chForced h)) m) := .foldl _ (fun m q => (FioOnly.setb m _ _).trans (.setb _ _ _)) _ m
  refine shown.trans ?_
  unfold Mach.chApply
  dsimp only
  split
  · split
    · exact .refl _
    · exact (FioOnly.chCrowd _ h t).trans (.chMove _ ..)
  · split
    · exact .refl _
    · exact (FioOnly.trans ⟨_, _, _, _, _, _, _, rfl⟩ (.foldl _ (fun m q => .modFioCh m q _) _ _)).trans (.chMove _ ..)

end Sys2Proof.Machine
end

