-- ==== Sys2Proof/Laws/Memory.lean ====
section
/-!
SUPPORT. The data memory keeps its canonical form under every operation, and what one write does to a byte's read.
-/

namespace Sys2Proof.Machine

theorem storeBytes_wf (bs : List Byte) (mem : List Host.Cell) (a : Nat) (h : Memory.wf mem = true) :
    Memory.wf (storeBytes mem a bs) = true := by
  induction bs generalizing mem a with
  | nil => exact h
  | cons b t ih => exact ih _ _ (spWf_put _ _ _ _ h)

theorem spAbove_filter {α : Type} (p : Nat × α → Bool) (l : List (Nat × α)) (lo : Nat) (h : spAbove lo l = true) :
    spAbove lo (l.filter p) = true := by
  induction l generalizing lo with
  | nil => rfl
  | cons c t ih =>
    obtain ⟨a, x⟩ := c
    simp only [spAbove, Bool.and_eq_true, decide_eq_true_eq] at h
    simp only [List.filter_cons]
    split
    · simp only [spAbove, Bool.and_eq_true, decide_eq_true_eq]
      exact ⟨h.1, ih _ h.2⟩
    · exact spAbove_mono (by omega) _ (ih _ h.2)

theorem spSorted_filter {α : Type} (p : Nat × α → Bool) (l : List (Nat × α)) (h : spSorted l = true) :
    spSorted (l.filter p) = true := by
  cases l with
  | nil => rfl
  | cons c t =>
    obtain ⟨a, x⟩ := c
    simp only [List.filter_cons]
    split
    · exact spAbove_filter p t a h
    · exact spSorted_of_above _ (spAbove_filter p t a h)

theorem spLean_filter {α : Type} [DecidableEq α] (d : Nat → α) (p : Nat × α → Bool) (l : List (Nat × α)) (h : spLean d l = true) :
    spLean d (l.filter p) = true := by
  induction l with
  | nil => rfl
  | cons c t ih =>
    obtain ⟨a, x⟩ := c
    simp only [spLean, Bool.and_eq_true] at h
    simp only [List.filter_cons]
    split
    · simp only [spLean, Bool.and_eq_true]; exact ⟨h.1, ih h.2⟩
    · exact ih h.2

/-- Dropping entries keeps the canonical form. -/
theorem spWf_filter {α : Type} [DecidableEq α] (d : Nat → α) (p : Nat × α → Bool) (l : List (Nat × α)) (h : spWf d l = true) :
    spWf d (l.filter p) = true := by
  simp only [spWf, Bool.and_eq_true] at h ⊢
  exact ⟨spSorted_filter p l h.1, spLean_filter d p l h.2⟩

/-- Both tables of a view are canonical. -/
def View.wf (v : View) : Prop := Memory.wf v.mem = true ∧ Flips.wf v.flips = true

theorem Wr.apply_wf (w : Wr) (v : View) (h : v.wf) : (w.apply v).wf := by
  cases w with
  | data a bs lo hi => exact ⟨storeBytes_wf _ _ _ h.1, spWf_filter _ _ _ h.2⟩
  | flip k mask => exact ⟨h.1, spWf_put _ _ _ _ h.2⟩
  | clear lo hi => exact ⟨spWf_filter _ _ _ h.1, spWf_filter _ _ _ h.2⟩

theorem applyAll_wf (ws : List Wr) (v : View) (h : v.wf) : (ws.foldl (fun v w => w.apply v) v).wf := by
  induction ws generalizing v with
  | nil => exact h
  | cons w t ih => exact ih _ (w.apply_wf v h)

theorem State.after_wf (s : State) (x : Fx) (h : s.memWf) : (s.after x).memWf := applyAll_wf _ _ h

theorem State.pass_wf (s : State) (dt : Nat) (h : s.memWf) : (s.pass dt).memWf := by
  unfold State.pass
  split
  · exact h
  · exact s.after_wf _ h

/-! ## One byte -/

theorem storeBytes_out (bs : List Byte) (mem : List Host.Cell) (a b : Nat) (h : b < a ∨ a + bs.length ≤ b) :
    spGet memDflt (storeBytes mem a bs) b = spGet memDflt mem b := by
  induction bs generalizing mem a with
  | nil => rfl
  | cons x t ih =>
    simp only [List.length_cons] at h
    rw [storeBytes, ih _ _ (by omega), spGet_put_ne _ _ _ (by omega)]

/-- A data write leaves every byte outside it as it was. -/
theorem Wr.data_out (a : Nat) (bs : List Byte) (lo hi : Nat) (v : View) (b : Nat) (h : b < a ∨ a + bs.length ≤ b) :
    ((Wr.data a bs lo hi).apply v).byte b = v.byte b := storeBytes_out _ _ _ _ h

theorem storeBytes_in (bs : List Byte) (mem : List Host.Cell) (a i : Nat) (h : i < bs.length) :
    spGet memDflt (storeBytes mem a bs) (a + i) = bs[i] := by
  induction bs generalizing mem a i with
  | nil => exact absurd h (by simp)
  | cons x t ih =>
    cases i with
    | zero => rw [storeBytes, storeBytes_out _ _ _ _ (by omega)]; simp
    | succ j =>
      have hj : j < t.length := by simpa using h
      have := ih (spPut memDflt mem a x) (a + 1) j hj
      rw [storeBytes, show a + (j + 1) = a + 1 + j by omega, this]
      simp

/-- A data write puts its bytes one after the other. -/
theorem Wr.data_in (a : Nat) (bs : List Byte) (lo hi : Nat) (v : View) (i : Nat) (h : i < bs.length) :
    ((Wr.data a bs lo hi).apply v).byte (a + i) = bs[i] := storeBytes_in _ _ _ _ h

end Sys2Proof.Machine
end

