-- ==== Sys2Proof/Laws/PerInstr.lean ====
section
/-!
SUPPORT. Families of statements made per constructor: the model names none (LAWS.json's per_instruction is empty).
-/
end

