-- ==== Sys2Proof/Laws/State.lean ====
section
/-!
SUPPORT. Each named update of the machine keeps every other part of it: one lemma a part, so that no proof unfolds a record update.
-/

namespace Sys2Proof.Machine

variable (m : Mach)

/-! ## `wr` -/

@[simp] theorem Mach.wr_now (o : Nat) (w : Word) : (m.wr o w).now = m.now := rfl
@[simp] theorem Mach.wr_reelB (o : Nat) (w : Word) : (m.wr o w).reelB = m.reelB := rfl
@[simp] theorem Mach.wr_reelT (o : Nat) (w : Word) : (m.wr o w).reelT = m.reelT := rfl
@[simp] theorem Mach.wr_reelRate (o : Nat) (w : Word) : (m.wr o w).reelRate = m.reelRate := rfl
@[simp] theorem Mach.wr_wallB (o : Nat) (w : Word) : (m.wr o w).wallB = m.wallB := rfl
@[simp] theorem Mach.wr_wallT (o : Nat) (w : Word) : (m.wr o w).wallT = m.wallT := rfl
@[simp] theorem Mach.wr_wallRate (o : Nat) (w : Word) : (m.wr o w).wallRate = m.wallRate := rfl
@[simp] theorem Mach.wr_fresh (o : Nat) (w : Word) : (m.wr o w).fresh = m.fresh := rfl
@[simp] theorem Mach.wr_twinPres (o : Nat) (w : Word) : (m.wr o w).twinPres = m.twinPres := rfl
@[simp] theorem Mach.wr_twinB (o : Nat) (w : Word) : (m.wr o w).twinB = m.twinB := rfl
@[simp] theorem Mach.wr_evq (o : Nat) (w : Word) : (m.wr o w).evq = m.evq := rfl
@[simp] theorem Mach.wr_evDropped (o : Nat) (w : Word) : (m.wr o w).evDropped = m.evDropped := rfl
@[simp] theorem Mach.wr_runs (o : Nat) (w : Word) : (m.wr o w).runs = m.runs := rfl
@[simp] theorem Mach.wr_logBuf (o : Nat) (w : Word) : (m.wr o w).logBuf = m.logBuf := rfl
@[simp] theorem Mach.wr_logLost (o : Nat) (w : Word) : (m.wr o w).logLost = m.logLost := rfl
@[simp] theorem Mach.wr_fioCh (o : Nat) (w : Word) : (m.wr o w).fioCh = m.fioCh := rfl
@[simp] theorem Mach.wr_swActs (o : Nat) (w : Word) : (m.wr o w).swActs = m.swActs := rfl
@[simp] theorem Mach.wr_fioW (o : Nat) (w : Word) : (m.wr o w).fioW = m.fioW := rfl
@[simp] theorem Mach.wr_fioC (o : Nat) (w : Word) : (m.wr o w).fioC = m.fioC := rfl
@[simp] theorem Mach.wr_pos (o : Nat) (w : Word) : (m.wr o w).pos = m.pos := rfl
@[simp] theorem Mach.wr_cmp (o : Nat) (w : Word) : (m.wr o w).cmp = m.cmp := rfl
@[simp] theorem Mach.wr_pulses (o : Nat) (w : Word) : (m.wr o w).pulses = m.pulses := rfl
@[simp] theorem Mach.wr_lateUntil (o : Nat) (w : Word) : (m.wr o w).lateUntil = m.lateUntil := rfl
@[simp] theorem Mach.wr_mon (o : Nat) (w : Word) : (m.wr o w).mon = m.mon := rfl
@[simp] theorem Mach.wr_verdQ (o : Nat) (w : Word) : (m.wr o w).verdQ = m.verdQ := rfl
@[simp] theorem Mach.wr_loadAt (o : Nat) (w : Word) : (m.wr o w).loadAt = m.loadAt := rfl
@[simp] theorem Mach.wr_bucketAt (o : Nat) (w : Word) : (m.wr o w).bucketAt = m.bucketAt := rfl
@[simp] theorem Mach.wr_started (o : Nat) (w : Word) : (m.wr o w).started = m.started := rfl
@[simp] theorem Mach.wr_ownVerdicts (o : Nat) (w : Word) : (m.wr o w).ownVerdicts = m.ownVerdicts := rfl
@[simp] theorem Mach.wr_peerVerdicts (o : Nat) (w : Word) : (m.wr o w).peerVerdicts = m.peerVerdicts := rfl
@[simp] theorem Mach.wr_ownDigests (o : Nat) (w : Word) : (m.wr o w).ownDigests = m.ownDigests := rfl
@[simp] theorem Mach.wr_peerDigests (o : Nat) (w : Word) : (m.wr o w).peerDigests = m.peerDigests := rfl
@[simp] theorem Mach.wr_recBuf (o : Nat) (w : Word) : (m.wr o w).recBuf = m.recBuf := rfl
@[simp] theorem Mach.wr_recDropped (o : Nat) (w : Word) : (m.wr o w).recDropped = m.recDropped := rfl
@[simp] theorem Mach.wr_recFirst (o : Nat) (w : Word) : (m.wr o w).recFirst = m.recFirst := rfl
@[simp] theorem Mach.wr_recFreeze (o : Nat) (w : Word) : (m.wr o w).recFreeze = m.recFreeze := rfl
@[simp] theorem Mach.wr_grs (o : Nat) (w : Word) : (m.wr o w).grs = m.grs := rfl
@[simp] theorem Mach.wr_pipes (o : Nat) (w : Word) : (m.wr o w).pipes = m.pipes := rfl
@[simp] theorem Mach.wr_cxs (o : Nat) (w : Word) : (m.wr o w).cxs = m.cxs := rfl
@[simp] theorem Mach.wr_eng (o : Nat) (w : Word) : (m.wr o w).eng = m.eng := rfl
@[simp] theorem Mach.wr_cores (o : Nat) (w : Word) : (m.wr o w).cores = m.cores := rfl
@[simp] theorem Mach.wr_istore (o : Nat) (w : Word) : (m.wr o w).istore = m.istore := rfl
@[simp] theorem Mach.wr_ports (o : Nat) (w : Word) : (m.wr o w).ports = m.ports := rfl
@[simp] theorem Mach.wr_mbxWait (o : Nat) (w : Word) : (m.wr o w).mbxWait = m.mbxWait := rfl
@[simp] theorem Mach.wr_jobs (o : Nat) (w : Word) : (m.wr o w).jobs = m.jobs := rfl
@[simp] theorem Mach.wr_msix (o : Nat) (w : Word) : (m.wr o w).msix = m.msix := rfl
@[simp] theorem Mach.wr_pba (o : Nat) (w : Word) : (m.wr o w).pba = m.pba := rfl
@[simp] theorem Mach.wr_violated (o : Nat) (w : Word) : (m.wr o w).violated = m.violated := rfl
@[simp] theorem Mach.wr_clJob (o : Nat) (w : Word) : (m.wr o w).clJob = m.clJob := rfl
@[simp] theorem Mach.wr_asms (o : Nat) (w : Word) : (m.wr o w).asms = m.asms := rfl
@[simp] theorem Mach.wr_clq (o : Nat) (w : Word) : (m.wr o w).clq = m.clq := rfl
@[simp] theorem Mach.wr_running (o : Nat) (w : Word) : (m.wr o w).running = m.running := rfl
@[simp] theorem Mach.wr_tileSeq (o : Nat) (w : Word) : (m.wr o w).tileSeq = m.tileSeq := rfl
@[simp] theorem Mach.wr_clIdle (o : Nat) (w : Word) : (m.wr o w).clIdle = m.clIdle := rfl
@[simp] theorem Mach.wr_jobRt (o : Nat) (w : Word) : (m.wr o w).jobRt = m.jobRt := rfl
@[simp] theorem Mach.wr_switching (o : Nat) (w : Word) : (m.wr o w).switching = m.switching := rfl
@[simp] theorem Mach.wr_restart (o : Nat) (w : Word) : (m.wr o w).restart = m.restart := rfl
@[simp] theorem Mach.wr_chain (o : Nat) (w : Word) : (m.wr o w).chain = m.chain := rfl
@[simp] theorem Mach.wr_shed (o : Nat) (w : Word) : (m.wr o w).shed = m.shed := rfl
@[simp] theorem Mach.wr_hop (o : Nat) (w : Word) : (m.wr o w).hop = m.hop := rfl
@[simp] theorem Mach.wr_pages (o : Nat) (w : Word) : (m.wr o w).pages = m.pages := rfl
@[simp] theorem Mach.wr_widx (o : Nat) (w : Word) : (m.wr o w).widx = m.widx := rfl
@[simp] theorem Mach.wr_tbuf (o : Nat) (w : Word) : (m.wr o w).tbuf = m.tbuf := rfl
@[simp] theorem Mach.wr_lanes (o : Nat) (w : Word) : (m.wr o w).lanes = m.lanes := rfl
@[simp] theorem Mach.wr_links (o : Nat) (w : Word) : (m.wr o w).links = m.links := rfl
@[simp] theorem Mach.wr_tng (o : Nat) (w : Word) : (m.wr o w).tng = m.tng := rfl
@[simp] theorem Mach.wr_pkgDigest (o : Nat) (w : Word) : (m.wr o w).pkgDigest = m.pkgDigest := rfl
@[simp] theorem Mach.wr_lastMode (o : Nat) (w : Word) : (m.wr o w).lastMode = m.lastMode := rfl
@[simp] theorem Mach.wr_rplSeen (o : Nat) (w : Word) : (m.wr o w).rplSeen = m.rplSeen := rfl
@[simp] theorem Mach.wr_rplRec (o : Nat) (w : Word) : (m.wr o w).rplRec = m.rplRec := rfl
@[simp] theorem Mach.wr_spg (o : Nat) (w : Word) : (m.wr o w).spg = m.spg := rfl
@[simp] theorem Mach.wr_drbgAt (o : Nat) (w : Word) : (m.wr o w).drbgAt = m.drbgAt := rfl
@[simp] theorem Mach.wr_drbgN (o : Nat) (w : Word) : (m.wr o w).drbgN = m.drbgN := rfl
@[simp] theorem Mach.wr_healthRun (o : Nat) (w : Word) : (m.wr o w).healthRun = m.healthRun := rfl
@[simp] theorem Mach.wr_reelGood (o : Nat) (w : Word) : (m.wr o w).reelGood = m.reelGood := rfl
@[simp] theorem Mach.wr_reelOff (o : Nat) (w : Word) : (m.wr o w).reelOff = m.reelOff := rfl
@[simp] theorem Mach.wr_reelSeen (o : Nat) (w : Word) : (m.wr o w).reelSeen = m.reelSeen := rfl
@[simp] theorem Mach.wr_keysAt (o : Nat) (w : Word) : (m.wr o w).keysAt = m.keysAt := rfl
@[simp] theorem Mach.wr_recCkpts (o : Nat) (w : Word) : (m.wr o w).recCkpts = m.recCkpts := rfl
@[simp] theorem Mach.wr_ckptAt (o : Nat) (w : Word) : (m.wr o w).ckptAt = m.ckptAt := rfl
@[simp] theorem Mach.wr_ckptN (o : Nat) (w : Word) : (m.wr o w).ckptN = m.ckptN := rfl
@[simp] theorem Mach.wr_rplPos (o : Nat) (w : Word) : (m.wr o w).rplPos = m.rplPos := rfl
@[simp] theorem Mach.wr_rplOff (o : Nat) (w : Word) : (m.wr o w).rplOff = m.rplOff := rfl
@[simp] theorem Mach.wr_rplExp (o : Nat) (w : Word) : (m.wr o w).rplExp = m.rplExp := rfl
@[simp] theorem Mach.wr_rplCov (o : Nat) (w : Word) : (m.wr o w).rplCov = m.rplCov := rfl
@[simp] theorem Mach.wr_rplChoices (o : Nat) (w : Word) : (m.wr o w).rplChoices = m.rplChoices := rfl
@[simp] theorem Mach.wr_rplPre (o : Nat) (w : Word) : (m.wr o w).rplPre = m.rplPre := rfl
@[simp] theorem Mach.wr_hostOut (o : Nat) (w : Word) : (m.wr o w).hostOut = m.hostOut := rfl
@[simp] theorem Mach.wr_pcieOut (o : Nat) (w : Word) : (m.wr o w).pcieOut = m.pcieOut := rfl
@[simp] theorem Mach.wr_tracer (o : Nat) (w : Word) : (m.wr o w).tracer = m.tracer := rfl
@[simp] theorem Mach.wr_prof (o : Nat) (w : Word) : (m.wr o w).prof = m.prof := rfl
@[simp] theorem Mach.wr_evtAt (o : Nat) (w : Word) : (m.wr o w).evtAt = m.evtAt := rfl
@[simp] theorem Mach.wr_nvm (o : Nat) (w : Word) : (m.wr o w).nvm = m.nvm := rfl
@[simp] theorem Mach.wr_pkg (o : Nat) (w : Word) : (m.wr o w).pkg = m.pkg := rfl
@[simp] theorem Mach.wr_supply (o : Nat) (w : Word) : (m.wr o w).supply = m.supply := rfl
@[simp] theorem Mach.wr_rst (o : Nat) (w : Word) : (m.wr o w).rst = m.rst := rfl
@[simp] theorem Mach.wr_log (o : Nat) (w : Word) : (m.wr o w).log = m.log := rfl
@[simp] theorem Mach.wr_mgt (o : Nat) (w : Word) : (m.wr o w).mgt = m.mgt := rfl
@[simp] theorem Mach.wr_tim (o : Nat) (w : Word) : (m.wr o w).tim = m.tim := rfl
@[simp] theorem Mach.wr_kiln (o : Nat) (w : Word) : (m.wr o w).kiln = m.kiln := rfl
@[simp] theorem Mach.wr_snap (o : Nat) (w : Word) : (m.wr o w).snap = m.snap := rfl
@[simp] theorem Mach.wr_hostIn (o : Nat) (w : Word) : (m.wr o w).hostIn = m.hostIn := rfl
@[simp] theorem Mach.wr_dramKeys (o : Nat) (w : Word) : (m.wr o w).dramKeys = m.dramKeys := rfl

/-! ## `set` -/

@[simp] theorem Mach.set_now (f : Fld) (v : Nat) : (m.set f v).now = m.now := rfl
@[simp] theorem Mach.set_reelB (f : Fld) (v : Nat) : (m.set f v).reelB = m.reelB := rfl
@[simp] theorem Mach.set_reelT (f : Fld) (v : Nat) : (m.set f v).reelT = m.reelT := rfl
@[simp] theorem Mach.set_reelRate (f : Fld) (v : Nat) : (m.set f v).reelRate = m.reelRate := rfl
@[simp] theorem Mach.set_wallB (f : Fld) (v : Nat) : (m.set f v).wallB = m.wallB := rfl
@[simp] theorem Mach.set_wallT (f : Fld) (v : Nat) : (m.set f v).wallT = m.wallT := rfl
@[simp] theorem Mach.set_wallRate (f : Fld) (v : Nat) : (m.set f v).wallRate = m.wallRate := rfl
@[simp] theorem Mach.set_fresh (f : Fld) (v : Nat) : (m.set f v).fresh = m.fresh := rfl
@[simp] theorem Mach.set_twinPres (f : Fld) (v : Nat) : (m.set f v).twinPres = m.twinPres := rfl
@[simp] theorem Mach.set_twinB (f : Fld) (v : Nat) : (m.set f v).twinB = m.twinB := rfl
@[simp] theorem Mach.set_evq (f : Fld) (v : Nat) : (m.set f v).evq = m.evq := rfl
@[simp] theorem Mach.set_evDropped (f : Fld) (v : Nat) : (m.set f v).evDropped = m.evDropped := rfl
@[simp] theorem Mach.set_runs (f : Fld) (v : Nat) : (m.set f v).runs = m.runs := rfl
@[simp] theorem Mach.set_logBuf (f : Fld) (v : Nat) : (m.set f v).logBuf = m.logBuf := rfl
@[simp] theorem Mach.set_logLost (f : Fld) (v : Nat) : (m.set f v).logLost = m.logLost := rfl
@[simp] theorem Mach.set_fioCh (f : Fld) (v : Nat) : (m.set f v).fioCh = m.fioCh := rfl
@[simp] theorem Mach.set_swActs (f : Fld) (v : Nat) : (m.set f v).swActs = m.swActs := rfl
@[simp] theorem Mach.set_fioW (f : Fld) (v : Nat) : (m.set f v).fioW = m.fioW := rfl
@[simp] theorem Mach.set_fioC (f : Fld) (v : Nat) : (m.set f v).fioC = m.fioC := rfl
@[simp] theorem Mach.set_pos (f : Fld) (v : Nat) : (m.set f v).pos = m.pos := rfl
@[simp] theorem Mach.set_cmp (f : Fld) (v : Nat) : (m.set f v).cmp = m.cmp := rfl
@[simp] theorem Mach.set_pulses (f : Fld) (v : Nat) : (m.set f v).pulses = m.pulses := rfl
@[simp] theorem Mach.set_lateUntil (f : Fld) (v : Nat) : (m.set f v).lateUntil = m.lateUntil := rfl
@[simp] theorem Mach.set_mon (f : Fld) (v : Nat) : (m.set f v).mon = m.mon := rfl
@[simp] theorem Mach.set_verdQ (f : Fld) (v : Nat) : (m.set f v).verdQ = m.verdQ := rfl
@[simp] theorem Mach.set_loadAt (f : Fld) (v : Nat) : (m.set f v).loadAt = m.loadAt := rfl
@[simp] theorem Mach.set_bucketAt (f : Fld) (v : Nat) : (m.set f v).bucketAt = m.bucketAt := rfl
@[simp] theorem Mach.set_started (f : Fld) (v : Nat) : (m.set f v).started = m.started := rfl
@[simp] theorem Mach.set_ownVerdicts (f : Fld) (v : Nat) : (m.set f v).ownVerdicts = m.ownVerdicts := rfl
@[simp] theorem Mach.set_peerVerdicts (f : Fld) (v : Nat) : (m.set f v).peerVerdicts = m.peerVerdicts := rfl
@[simp] theorem Mach.set_ownDigests (f : Fld) (v : Nat) : (m.set f v).ownDigests = m.ownDigests := rfl
@[simp] theorem Mach.set_peerDigests (f : Fld) (v : Nat) : (m.set f v).peerDigests = m.peerDigests := rfl
@[simp] theorem Mach.set_recBuf (f : Fld) (v : Nat) : (m.set f v).recBuf = m.recBuf := rfl
@[simp] theorem Mach.set_recDropped (f : Fld) (v : Nat) : (m.set f v).recDropped = m.recDropped := rfl
@[simp] theorem Mach.set_recFirst (f : Fld) (v : Nat) : (m.set f v).recFirst = m.recFirst := rfl
@[simp] theorem Mach.set_recFreeze (f : Fld) (v : Nat) : (m.set f v).recFreeze = m.recFreeze := rfl
@[simp] theorem Mach.set_grs (f : Fld) (v : Nat) : (m.set f v).grs = m.grs := rfl
@[simp] theorem Mach.set_pipes (f : Fld) (v : Nat) : (m.set f v).pipes = m.pipes := rfl
@[simp] theorem Mach.set_cxs (f : Fld) (v : Nat) : (m.set f v).cxs = m.cxs := rfl
@[simp] theorem Mach.set_eng (f : Fld) (v : Nat) : (m.set f v).eng = m.eng := rfl
@[simp] theorem Mach.set_cores (f : Fld) (v : Nat) : (m.set f v).cores = m.cores := rfl
@[simp] theorem Mach.set_istore (f : Fld) (v : Nat) : (m.set f v).istore = m.istore := rfl
@[simp] theorem Mach.set_ports (f : Fld) (v : Nat) : (m.set f v).ports = m.ports := rfl
@[simp] theorem Mach.set_mbxWait (f : Fld) (v : Nat) : (m.set f v).mbxWait = m.mbxWait := rfl
@[simp] theorem Mach.set_jobs (f : Fld) (v : Nat) : (m.set f v).jobs = m.jobs := rfl
@[simp] theorem Mach.set_msix (f : Fld) (v : Nat) : (m.set f v).msix = m.msix := rfl
@[simp] theorem Mach.set_pba (f : Fld) (v : Nat) : (m.set f v).pba = m.pba := rfl
@[simp] theorem Mach.set_violated (f : Fld) (v : Nat) : (m.set f v).violated = m.violated := rfl
@[simp] theorem Mach.set_clJob (f : Fld) (v : Nat) : (m.set f v).clJob = m.clJob := rfl
@[simp] theorem Mach.set_asms (f : Fld) (v : Nat) : (m.set f v).asms = m.asms := rfl
@[simp] theorem Mach.set_clq (f : Fld) (v : Nat) : (m.set f v).clq = m.clq := rfl
@[simp] theorem Mach.set_running (f : Fld) (v : Nat) : (m.set f v).running = m.running := rfl
@[simp] theorem Mach.set_tileSeq (f : Fld) (v : Nat) : (m.set f v).tileSeq = m.tileSeq := rfl
@[simp] theorem Mach.set_clIdle (f : Fld) (v : Nat) : (m.set f v).clIdle = m.clIdle := rfl
@[simp] theorem Mach.set_jobRt (f : Fld) (v : Nat) : (m.set f v).jobRt = m.jobRt := rfl
@[simp] theorem Mach.set_switching (f : Fld) (v : Nat) : (m.set f v).switching = m.switching := rfl
@[simp] theorem Mach.set_restart (f : Fld) (v : Nat) : (m.set f v).restart = m.restart := rfl
@[simp] theorem Mach.set_chain (f : Fld) (v : Nat) : (m.set f v).chain = m.chain := rfl
@[simp] theorem Mach.set_shed (f : Fld) (v : Nat) : (m.set f v).shed = m.shed := rfl
@[simp] theorem Mach.set_hop (f : Fld) (v : Nat) : (m.set f v).hop = m.hop := rfl
@[simp] theorem Mach.set_pages (f : Fld) (v : Nat) : (m.set f v).pages = m.pages := rfl
@[simp] theorem Mach.set_widx (f : Fld) (v : Nat) : (m.set f v).widx = m.widx := rfl
@[simp] theorem Mach.set_tbuf (f : Fld) (v : Nat) : (m.set f v).tbuf = m.tbuf := rfl
@[simp] theorem Mach.set_lanes (f : Fld) (v : Nat) : (m.set f v).lanes = m.lanes := rfl
@[simp] theorem Mach.set_links (f : Fld) (v : Nat) : (m.set f v).links = m.links := rfl
@[simp] theorem Mach.set_tng (f : Fld) (v : Nat) : (m.set f v).tng = m.tng := rfl
@[simp] theorem Mach.set_pkgDigest (f : Fld) (v : Nat) : (m.set f v).pkgDigest = m.pkgDigest := rfl
@[simp] theorem Mach.set_lastMode (f : Fld) (v : Nat) : (m.set f v).lastMode = m.lastMode := rfl
@[simp] theorem Mach.set_rplSeen (f : Fld) (v : Nat) : (m.set f v).rplSeen = m.rplSeen := rfl
@[simp] theorem Mach.set_rplRec (f : Fld) (v : Nat) : (m.set f v).rplRec = m.rplRec := rfl
@[simp] theorem Mach.set_spg (f : Fld) (v : Nat) : (m.set f v).spg = m.spg := rfl
@[simp] theorem Mach.set_drbgAt (f : Fld) (v : Nat) : (m.set f v).drbgAt = m.drbgAt := rfl
@[simp] theorem Mach.set_drbgN (f : Fld) (v : Nat) : (m.set f v).drbgN = m.drbgN := rfl
@[simp] theorem Mach.set_healthRun (f : Fld) (v : Nat) : (m.set f v).healthRun = m.healthRun := rfl
@[simp] theorem Mach.set_reelGood (f : Fld) (v : Nat) : (m.set f v).reelGood = m.reelGood := rfl
@[simp] theorem Mach.set_reelOff (f : Fld) (v : Nat) : (m.set f v).reelOff = m.reelOff := rfl
@[simp] theorem Mach.set_reelSeen (f : Fld) (v : Nat) : (m.set f v).reelSeen = m.reelSeen := rfl
@[simp] theorem Mach.set_keysAt (f : Fld) (v : Nat) : (m.set f v).keysAt = m.keysAt := rfl
@[simp] theorem Mach.set_recCkpts (f : Fld) (v : Nat) : (m.set f v).recCkpts = m.recCkpts := rfl
@[simp] theorem Mach.set_ckptAt (f : Fld) (v : Nat) : (m.set f v).ckptAt = m.ckptAt := rfl
@[simp] theorem Mach.set_ckptN (f : Fld) (v : Nat) : (m.set f v).ckptN = m.ckptN := rfl
@[simp] theorem Mach.set_rplPos (f : Fld) (v : Nat) : (m.set f v).rplPos = m.rplPos := rfl
@[simp] theorem Mach.set_rplOff (f : Fld) (v : Nat) : (m.set f v).rplOff = m.rplOff := rfl
@[simp] theorem Mach.set_rplExp (f : Fld) (v : Nat) : (m.set f v).rplExp = m.rplExp := rfl
@[simp] theorem Mach.set_rplCov (f : Fld) (v : Nat) : (m.set f v).rplCov = m.rplCov := rfl
@[simp] theorem Mach.set_rplChoices (f : Fld) (v : Nat) : (m.set f v).rplChoices = m.rplChoices := rfl
@[simp] theorem Mach.set_rplPre (f : Fld) (v : Nat) : (m.set f v).rplPre = m.rplPre := rfl
@[simp] theorem Mach.set_hostOut (f : Fld) (v : Nat) : (m.set f v).hostOut = m.hostOut := rfl
@[simp] theorem Mach.set_pcieOut (f : Fld) (v : Nat) : (m.set f v).pcieOut = m.pcieOut := rfl
@[simp] theorem Mach.set_tracer (f : Fld) (v : Nat) : (m.set f v).tracer = m.tracer := rfl
@[simp] theorem Mach.set_prof (f : Fld) (v : Nat) : (m.set f v).prof = m.prof := rfl
@[simp] theorem Mach.set_evtAt (f : Fld) (v : Nat) : (m.set f v).evtAt = m.evtAt := rfl
@[simp] theorem Mach.set_nvm (f : Fld) (v : Nat) : (m.set f v).nvm = m.nvm := rfl
@[simp] theorem Mach.set_pkg (f : Fld) (v : Nat) : (m.set f v).pkg = m.pkg := rfl
@[simp] theorem Mach.set_supply (f : Fld) (v : Nat) : (m.set f v).supply = m.supply := rfl
@[simp] theorem Mach.set_rst (f : Fld) (v : Nat) : (m.set f v).rst = m.rst := rfl
@[simp] theorem Mach.set_log (f : Fld) (v : Nat) : (m.set f v).log = m.log := rfl
@[simp] theorem Mach.set_mgt (f : Fld) (v : Nat) : (m.set f v).mgt = m.mgt := rfl
@[simp] theorem Mach.set_tim (f : Fld) (v : Nat) : (m.set f v).tim = m.tim := rfl
@[simp] theorem Mach.set_kiln (f : Fld) (v : Nat) : (m.set f v).kiln = m.kiln := rfl
@[simp] theorem Mach.set_snap (f : Fld) (v : Nat) : (m.set f v).snap = m.snap := rfl
@[simp] theorem Mach.set_hostIn (f : Fld) (v : Nat) : (m.set f v).hostIn = m.hostIn := rfl
@[simp] theorem Mach.set_dramKeys (f : Fld) (v : Nat) : (m.set f v).dramKeys = m.dramKeys := rfl

/-! ## `seti` -/

@[simp] theorem Mach.seti_now (f : Fld) (v : Int) : (m.seti f v).now = m.now := rfl
@[simp] theorem Mach.seti_fresh (f : Fld) (v : Int) : (m.seti f v).fresh = m.fresh := rfl
@[simp] theorem Mach.seti_evq (f : Fld) (v : Int) : (m.seti f v).evq = m.evq := rfl

/-! ## `setb` -/

@[simp] theorem Mach.setb_now (f : Fld) (b : Bool) : (m.setb f b).now = m.now := rfl
@[simp] theorem Mach.setb_reelB (f : Fld) (b : Bool) : (m.setb f b).reelB = m.reelB := rfl
@[simp] theorem Mach.setb_reelT (f : Fld) (b : Bool) : (m.setb f b).reelT = m.reelT := rfl
@[simp] theorem Mach.setb_reelRate (f : Fld) (b : Bool) : (m.setb f b).reelRate = m.reelRate := rfl
@[simp] theorem Mach.setb_wallB (f : Fld) (b : Bool) : (m.setb f b).wallB = m.wallB := rfl
@[simp] theorem Mach.setb_wallT (f : Fld) (b : Bool) : (m.setb f b).wallT = m.wallT := rfl
@[simp] theorem Mach.setb_wallRate (f : Fld) (b : Bool) : (m.setb f b).wallRate = m.wallRate := rfl
@[simp] theorem Mach.setb_fresh (f : Fld) (b : Bool) : (m.setb f b).fresh = m.fresh := rfl
@[simp] theorem Mach.setb_twinPres (f : Fld) (b : Bool) : (m.setb f b).twinPres = m.twinPres := rfl
@[simp] theorem Mach.setb_twinB (f : Fld) (b : Bool) : (m.setb f b).twinB = m.twinB := rfl
@[simp] theorem Mach.setb_evq (f : Fld) (b : Bool) : (m.setb f b).evq = m.evq := rfl
@[simp] theorem Mach.setb_evDropped (f : Fld) (b : Bool) : (m.setb f b).evDropped = m.evDropped := rfl
@[simp] theorem Mach.setb_runs (f : Fld) (b : Bool) : (m.setb f b).runs = m.runs := rfl
@[simp] theorem Mach.setb_logBuf (f : Fld) (b : Bool) : (m.setb f b).logBuf = m.logBuf := rfl
@[simp] theorem Mach.setb_logLost (f : Fld) (b : Bool) : (m.setb f b).logLost = m.logLost := rfl
@[simp] theorem Mach.setb_fioCh (f : Fld) (b : Bool) : (m.setb f b).fioCh = m.fioCh := rfl
@[simp] theorem Mach.setb_swActs (f : Fld) (b : Bool) : (m.setb f b).swActs = m.swActs := rfl
@[simp] theorem Mach.setb_fioW (f : Fld) (b : Bool) : (m.setb f b).fioW = m.fioW := rfl
@[simp] theorem Mach.setb_fioC (f : Fld) (b : Bool) : (m.setb f b).fioC = m.fioC := rfl
@[simp] theorem Mach.setb_pos (f : Fld) (b : Bool) : (m.setb f b).pos = m.pos := rfl
@[simp] theorem Mach.setb_cmp (f : Fld) (b : Bool) : (m.setb f b).cmp = m.cmp := rfl
@[simp] theorem Mach.setb_pulses (f : Fld) (b : Bool) : (m.setb f b).pulses = m.pulses := rfl
@[simp] theorem Mach.setb_lateUntil (f : Fld) (b : Bool) : (m.setb f b).lateUntil = m.lateUntil := rfl
@[simp] theorem Mach.setb_mon (f : Fld) (b : Bool) : (m.setb f b).mon = m.mon := rfl
@[simp] theorem Mach.setb_verdQ (f : Fld) (b : Bool) : (m.setb f b).verdQ = m.verdQ := rfl
@[simp] theorem Mach.setb_loadAt (f : Fld) (b : Bool) : (m.setb f b).loadAt = m.loadAt := rfl
@[simp] theorem Mach.setb_bucketAt (f : Fld) (b : Bool) : (m.setb f b).bucketAt = m.bucketAt := rfl
@[simp] theorem Mach.setb_started (f : Fld) (b : Bool) : (m.setb f b).started = m.started := rfl
@[simp] theorem Mach.setb_ownVerdicts (f : Fld) (b : Bool) : (m.setb f b).ownVerdicts = m.ownVerdicts := rfl
@[simp] theorem Mach.setb_peerVerdicts (f : Fld) (b : Bool) : (m.setb f b).peerVerdicts = m.peerVerdicts := rfl
@[simp] theorem Mach.setb_ownDigests (f : Fld) (b : Bool) : (m.setb f b).ownDigests = m.ownDigests := rfl
@[simp] theorem Mach.setb_peerDigests (f : Fld) (b : Bool) : (m.setb f b).peerDigests = m.peerDigests := rfl
@[simp] theorem Mach.setb_recBuf (f : Fld) (b : Bool) : (m.setb f b).recBuf = m.recBuf := rfl
@[simp] theorem Mach.setb_recDropped (f : Fld) (b : Bool) : (m.setb f b).recDropped = m.recDropped := rfl
@[simp] theorem Mach.setb_recFirst (f : Fld) (b : Bool) : (m.setb f b).recFirst = m.recFirst := rfl
@[simp] theorem Mach.setb_recFreeze (f : Fld) (b : Bool) : (m.setb f b).recFreeze = m.recFreeze := rfl
@[simp] theorem Mach.setb_grs (f : Fld) (b : Bool) : (m.setb f b).grs = m.grs := rfl
@[simp] theorem Mach.setb_pipes (f : Fld) (b : Bool) : (m.setb f b).pipes = m.pipes := rfl
@[simp] theorem Mach.setb_cxs (f : Fld) (b : Bool) : (m.setb f b).cxs = m.cxs := rfl
@[simp] theorem Mach.setb_eng (f : Fld) (b : Bool) : (m.setb f b).eng = m.eng := rfl
@[simp] theorem Mach.setb_cores (f : Fld) (b : Bool) : (m.setb f b).cores = m.cores := rfl
@[simp] theorem Mach.setb_istore (f : Fld) (b : Bool) : (m.setb f b).istore = m.istore := rfl
@[simp] theorem Mach.setb_ports (f : Fld) (b : Bool) : (m.setb f b).ports = m.ports := rfl
@[simp] theorem Mach.setb_mbxWait (f : Fld) (b : Bool) : (m.setb f b).mbxWait = m.mbxWait := rfl
@[simp] theorem Mach.setb_jobs (f : Fld) (b : Bool) : (m.setb f b).jobs = m.jobs := rfl
@[simp] theorem Mach.setb_msix (f : Fld) (b : Bool) : (m.setb f b).msix = m.msix := rfl
@[simp] theorem Mach.setb_pba (f : Fld) (b : Bool) : (m.setb f b).pba = m.pba := rfl
@[simp] theorem Mach.setb_violated (f : Fld) (b : Bool) : (m.setb f b).violated = m.violated := rfl
@[simp] theorem Mach.setb_clJob (f : Fld) (b : Bool) : (m.setb f b).clJob = m.clJob := rfl
@[simp] theorem Mach.setb_asms (f : Fld) (b : Bool) : (m.setb f b).asms = m.asms := rfl
@[simp] theorem Mach.setb_clq (f : Fld) (b : Bool) : (m.setb f b).clq = m.clq := rfl
@[simp] theorem Mach.setb_running (f : Fld) (b : Bool) : (m.setb f b).running = m.running := rfl
@[simp] theorem Mach.setb_tileSeq (f : Fld) (b : Bool) : (m.setb f b).tileSeq = m.tileSeq := rfl
@[simp] theorem Mach.setb_clIdle (f : Fld) (b : Bool) : (m.setb f b).clIdle = m.clIdle := rfl
@[simp] theorem Mach.setb_jobRt (f : Fld) (b : Bool) : (m.setb f b).jobRt = m.jobRt := rfl
@[simp] theorem Mach.setb_switching (f : Fld) (b : Bool) : (m.setb f b).switching = m.switching := rfl
@[simp] theorem Mach.setb_restart (f : Fld) (b : Bool) : (m.setb f b).restart = m.restart := rfl
@[simp] theorem Mach.setb_chain (f : Fld) (b : Bool) : (m.setb f b).chain = m.chain := rfl
@[simp] theorem Mach.setb_shed (f : Fld) (b : Bool) : (m.setb f b).shed = m.shed := rfl
@[simp] theorem Mach.setb_hop (f : Fld) (b : Bool) : (m.setb f b).hop = m.hop := rfl
@[simp] theorem Mach.setb_pages (f : Fld) (b : Bool) : (m.setb f b).pages = m.pages := rfl
@[simp] theorem Mach.setb_widx (f : Fld) (b : Bool) : (m.setb f b).widx = m.widx := rfl
@[simp] theorem Mach.setb_tbuf (f : Fld) (b : Bool) : (m.setb f b).tbuf = m.tbuf := rfl
@[simp] theorem Mach.setb_lanes (f : Fld) (b : Bool) : (m.setb f b).lanes = m.lanes := rfl
@[simp] theorem Mach.setb_links (f : Fld) (b : Bool) : (m.setb f b).links = m.links := rfl
@[simp] theorem Mach.setb_tng (f : Fld) (b : Bool) : (m.setb f b).tng = m.tng := rfl
@[simp] theorem Mach.setb_pkgDigest (f : Fld) (b : Bool) : (m.setb f b).pkgDigest = m.pkgDigest := rfl
@[simp] theorem Mach.setb_lastMode (f : Fld) (b : Bool) : (m.setb f b).lastMode = m.lastMode := rfl
@[simp] theorem Mach.setb_rplSeen (f : Fld) (b : Bool) : (m.setb f b).rplSeen = m.rplSeen := rfl
@[simp] theorem Mach.setb_rplRec (f : Fld) (b : Bool) : (m.setb f b).rplRec = m.rplRec := rfl
@[simp] theorem Mach.setb_spg (f : Fld) (b : Bool) : (m.setb f b).spg = m.spg := rfl
@[simp] theorem Mach.setb_drbgAt (f : Fld) (b : Bool) : (m.setb f b).drbgAt = m.drbgAt := rfl
@[simp] theorem Mach.setb_drbgN (f : Fld) (b : Bool) : (m.setb f b).drbgN = m.drbgN := rfl
@[simp] theorem Mach.setb_healthRun (f : Fld) (b : Bool) : (m.setb f b).healthRun = m.healthRun := rfl
@[simp] theorem Mach.setb_reelGood (f : Fld) (b : Bool) : (m.setb f b).reelGood = m.reelGood := rfl
@[simp] theorem Mach.setb_reelOff (f : Fld) (b : Bool) : (m.setb f b).reelOff = m.reelOff := rfl
@[simp] theorem Mach.setb_reelSeen (f : Fld) (b : Bool) : (m.setb f b).reelSeen = m.reelSeen := rfl
@[simp] theorem Mach.setb_keysAt (f : Fld) (b : Bool) : (m.setb f b).keysAt = m.keysAt := rfl
@[simp] theorem Mach.setb_recCkpts (f : Fld) (b : Bool) : (m.setb f b).recCkpts = m.recCkpts := rfl
@[simp] theorem Mach.setb_ckptAt (f : Fld) (b : Bool) : (m.setb f b).ckptAt = m.ckptAt := rfl
@[simp] theorem Mach.setb_ckptN (f : Fld) (b : Bool) : (m.setb f b).ckptN = m.ckptN := rfl
@[simp] theorem Mach.setb_rplPos (f : Fld) (b : Bool) : (m.setb f b).rplPos = m.rplPos := rfl
@[simp] theorem Mach.setb_rplOff (f : Fld) (b : Bool) : (m.setb f b).rplOff = m.rplOff := rfl
@[simp] theorem Mach.setb_rplExp (f : Fld) (b : Bool) : (m.setb f b).rplExp = m.rplExp := rfl
@[simp] theorem Mach.setb_rplCov (f : Fld) (b : Bool) : (m.setb f b).rplCov = m.rplCov := rfl
@[simp] theorem Mach.setb_rplChoices (f : Fld) (b : Bool) : (m.setb f b).rplChoices = m.rplChoices := rfl
@[simp] theorem Mach.setb_rplPre (f : Fld) (b : Bool) : (m.setb f b).rplPre = m.rplPre := rfl
@[simp] theorem Mach.setb_hostOut (f : Fld) (b : Bool) : (m.setb f b).hostOut = m.hostOut := rfl
@[simp] theorem Mach.setb_pcieOut (f : Fld) (b : Bool) : (m.setb f b).pcieOut = m.pcieOut := rfl
@[simp] theorem Mach.setb_tracer (f : Fld) (b : Bool) : (m.setb f b).tracer = m.tracer := rfl
@[simp] theorem Mach.setb_prof (f : Fld) (b : Bool) : (m.setb f b).prof = m.prof := rfl
@[simp] theorem Mach.setb_evtAt (f : Fld) (b : Bool) : (m.setb f b).evtAt = m.evtAt := rfl
@[simp] theorem Mach.setb_nvm (f : Fld) (b : Bool) : (m.setb f b).nvm = m.nvm := rfl
@[simp] theorem Mach.setb_pkg (f : Fld) (b : Bool) : (m.setb f b).pkg = m.pkg := rfl
@[simp] theorem Mach.setb_supply (f : Fld) (b : Bool) : (m.setb f b).supply = m.supply := rfl
@[simp] theorem Mach.setb_rst (f : Fld) (b : Bool) : (m.setb f b).rst = m.rst := rfl
@[simp] theorem Mach.setb_log (f : Fld) (b : Bool) : (m.setb f b).log = m.log := rfl
@[simp] theorem Mach.setb_mgt (f : Fld) (b : Bool) : (m.setb f b).mgt = m.mgt := rfl
@[simp] theorem Mach.setb_tim (f : Fld) (b : Bool) : (m.setb f b).tim = m.tim := rfl
@[simp] theorem Mach.setb_kiln (f : Fld) (b : Bool) : (m.setb f b).kiln = m.kiln := rfl
@[simp] theorem Mach.setb_snap (f : Fld) (b : Bool) : (m.setb f b).snap = m.snap := rfl
@[simp] theorem Mach.setb_hostIn (f : Fld) (b : Bool) : (m.setb f b).hostIn = m.hostIn := rfl
@[simp] theorem Mach.setb_dramKeys (f : Fld) (b : Bool) : (m.setb f b).dramKeys = m.dramKeys := rfl

/-! ## `bump` -/

@[simp] theorem Mach.bump_now (f : Fld) (n : Nat) : (m.bump f n).now = m.now := rfl
@[simp] theorem Mach.bump_reelB (f : Fld) (n : Nat) : (m.bump f n).reelB = m.reelB := rfl
@[simp] theorem Mach.bump_reelT (f : Fld) (n : Nat) : (m.bump f n).reelT = m.reelT := rfl
@[simp] theorem Mach.bump_reelRate (f : Fld) (n : Nat) : (m.bump f n).reelRate = m.reelRate := rfl
@[simp] theorem Mach.bump_wallB (f : Fld) (n : Nat) : (m.bump f n).wallB = m.wallB := rfl
@[simp] theorem Mach.bump_wallT (f : Fld) (n : Nat) : (m.bump f n).wallT = m.wallT := rfl
@[simp] theorem Mach.bump_wallRate (f : Fld) (n : Nat) : (m.bump f n).wallRate = m.wallRate := rfl
@[simp] theorem Mach.bump_fresh (f : Fld) (n : Nat) : (m.bump f n).fresh = m.fresh := rfl
@[simp] theorem Mach.bump_twinPres (f : Fld) (n : Nat) : (m.bump f n).twinPres = m.twinPres := rfl
@[simp] theorem Mach.bump_twinB (f : Fld) (n : Nat) : (m.bump f n).twinB = m.twinB := rfl
@[simp] theorem Mach.bump_evq (f : Fld) (n : Nat) : (m.bump f n).evq = m.evq := rfl
@[simp] theorem Mach.bump_evDropped (f : Fld) (n : Nat) : (m.bump f n).evDropped = m.evDropped := rfl
@[simp] theorem Mach.bump_runs (f : Fld) (n : Nat) : (m.bump f n).runs = m.runs := rfl
@[simp] theorem Mach.bump_logBuf (f : Fld) (n : Nat) : (m.bump f n).logBuf = m.logBuf := rfl
@[simp] theorem Mach.bump_logLost (f : Fld) (n : Nat) : (m.bump f n).logLost = m.logLost := rfl
@[simp] theorem Mach.bump_fioCh (f : Fld) (n : Nat) : (m.bump f n).fioCh = m.fioCh := rfl
@[simp] theorem Mach.bump_swActs (f : Fld) (n : Nat) : (m.bump f n).swActs = m.swActs := rfl
@[simp] theorem Mach.bump_fioW (f : Fld) (n : Nat) : (m.bump f n).fioW = m.fioW := rfl
@[simp] theorem Mach.bump_fioC (f : Fld) (n : Nat) : (m.bump f n).fioC = m.fioC := rfl
@[simp] theorem Mach.bump_pos (f : Fld) (n : Nat) : (m.bump f n).pos = m.pos := rfl
@[simp] theorem Mach.bump_cmp (f : Fld) (n : Nat) : (m.bump f n).cmp = m.cmp := rfl
@[simp] theorem Mach.bump_pulses (f : Fld) (n : Nat) : (m.bump f n).pulses = m.pulses := rfl
@[simp] theorem Mach.bump_lateUntil (f : Fld) (n : Nat) : (m.bump f n).lateUntil = m.lateUntil := rfl
@[simp] theorem Mach.bump_mon (f : Fld) (n : Nat) : (m.bump f n).mon = m.mon := rfl
@[simp] theorem Mach.bump_verdQ (f : Fld) (n : Nat) : (m.bump f n).verdQ = m.verdQ := rfl
@[simp] theorem Mach.bump_loadAt (f : Fld) (n : Nat) : (m.bump f n).loadAt = m.loadAt := rfl
@[simp] theorem Mach.bump_bucketAt (f : Fld) (n : Nat) : (m.bump f n).bucketAt = m.bucketAt := rfl
@[simp] theorem Mach.bump_started (f : Fld) (n : Nat) : (m.bump f n).started = m.started := rfl
@[simp] theorem Mach.bump_ownVerdicts (f : Fld) (n : Nat) : (m.bump f n).ownVerdicts = m.ownVerdicts := rfl
@[simp] theorem Mach.bump_peerVerdicts (f : Fld) (n : Nat) : (m.bump f n).peerVerdicts = m.peerVerdicts := rfl
@[simp] theorem Mach.bump_ownDigests (f : Fld) (n : Nat) : (m.bump f n).ownDigests = m.ownDigests := rfl
@[simp] theorem Mach.bump_peerDigests (f : Fld) (n : Nat) : (m.bump f n).peerDigests = m.peerDigests := rfl
@[simp] theorem Mach.bump_recBuf (f : Fld) (n : Nat) : (m.bump f n).recBuf = m.recBuf := rfl
@[simp] theorem Mach.bump_recDropped (f : Fld) (n : Nat) : (m.bump f n).recDropped = m.recDropped := rfl
@[simp] theorem Mach.bump_recFirst (f : Fld) (n : Nat) : (m.bump f n).recFirst = m.recFirst := rfl
@[simp] theorem Mach.bump_recFreeze (f : Fld) (n : Nat) : (m.bump f n).recFreeze = m.recFreeze := rfl
@[simp] theorem Mach.bump_grs (f : Fld) (n : Nat) : (m.bump f n).grs = m.grs := rfl
@[simp] theorem Mach.bump_pipes (f : Fld) (n : Nat) : (m.bump f n).pipes = m.pipes := rfl
@[simp] theorem Mach.bump_cxs (f : Fld) (n : Nat) : (m.bump f n).cxs = m.cxs := rfl
@[simp] theorem Mach.bump_eng (f : Fld) (n : Nat) : (m.bump f n).eng = m.eng := rfl
@[simp] theorem Mach.bump_cores (f : Fld) (n : Nat) : (m.bump f n).cores = m.cores := rfl
@[simp] theorem Mach.bump_istore (f : Fld) (n : Nat) : (m.bump f n).istore = m.istore := rfl
@[simp] theorem Mach.bump_ports (f : Fld) (n : Nat) : (m.bump f n).ports = m.ports := rfl
@[simp] theorem Mach.bump_mbxWait (f : Fld) (n : Nat) : (m.bump f n).mbxWait = m.mbxWait := rfl
@[simp] theorem Mach.bump_jobs (f : Fld) (n : Nat) : (m.bump f n).jobs = m.jobs := rfl
@[simp] theorem Mach.bump_msix (f : Fld) (n : Nat) : (m.bump f n).msix = m.msix := rfl
@[simp] theorem Mach.bump_pba (f : Fld) (n : Nat) : (m.bump f n).pba = m.pba := rfl
@[simp] theorem Mach.bump_violated (f : Fld) (n : Nat) : (m.bump f n).violated = m.violated := rfl
@[simp] theorem Mach.bump_clJob (f : Fld) (n : Nat) : (m.bump f n).clJob = m.clJob := rfl
@[simp] theorem Mach.bump_asms (f : Fld) (n : Nat) : (m.bump f n).asms = m.asms := rfl
@[simp] theorem Mach.bump_clq (f : Fld) (n : Nat) : (m.bump f n).clq = m.clq := rfl
@[simp] theorem Mach.bump_running (f : Fld) (n : Nat) : (m.bump f n).running = m.running := rfl
@[simp] theorem Mach.bump_tileSeq (f : Fld) (n : Nat) : (m.bump f n).tileSeq = m.tileSeq := rfl
@[simp] theorem Mach.bump_clIdle (f : Fld) (n : Nat) : (m.bump f n).clIdle = m.clIdle := rfl
@[simp] theorem Mach.bump_jobRt (f : Fld) (n : Nat) : (m.bump f n).jobRt = m.jobRt := rfl
@[simp] theorem Mach.bump_switching (f : Fld) (n : Nat) : (m.bump f n).switching = m.switching := rfl
@[simp] theorem Mach.bump_restart (f : Fld) (n : Nat) : (m.bump f n).restart = m.restart := rfl
@[simp] theorem Mach.bump_chain (f : Fld) (n : Nat) : (m.bump f n).chain = m.chain := rfl
@[simp] theorem Mach.bump_shed (f : Fld) (n : Nat) : (m.bump f n).shed = m.shed := rfl
@[simp] theorem Mach.bump_hop (f : Fld) (n : Nat) : (m.bump f n).hop = m.hop := rfl
@[simp] theorem Mach.bump_pages (f : Fld) (n : Nat) : (m.bump f n).pages = m.pages := rfl
@[simp] theorem Mach.bump_widx (f : Fld) (n : Nat) : (m.bump f n).widx = m.widx := rfl
@[simp] theorem Mach.bump_tbuf (f : Fld) (n : Nat) : (m.bump f n).tbuf = m.tbuf := rfl
@[simp] theorem Mach.bump_lanes (f : Fld) (n : Nat) : (m.bump f n).lanes = m.lanes := rfl
@[simp] theorem Mach.bump_links (f : Fld) (n : Nat) : (m.bump f n).links = m.links := rfl
@[simp] theorem Mach.bump_tng (f : Fld) (n : Nat) : (m.bump f n).tng = m.tng := rfl
@[simp] theorem Mach.bump_pkgDigest (f : Fld) (n : Nat) : (m.bump f n).pkgDigest = m.pkgDigest := rfl
@[simp] theorem Mach.bump_lastMode (f : Fld) (n : Nat) : (m.bump f n).lastMode = m.lastMode := rfl
@[simp] theorem Mach.bump_rplSeen (f : Fld) (n : Nat) : (m.bump f n).rplSeen = m.rplSeen := rfl
@[simp] theorem Mach.bump_rplRec (f : Fld) (n : Nat) : (m.bump f n).rplRec = m.rplRec := rfl
@[simp] theorem Mach.bump_spg (f : Fld) (n : Nat) : (m.bump f n).spg = m.spg := rfl
@[simp] theorem Mach.bump_drbgAt (f : Fld) (n : Nat) : (m.bump f n).drbgAt = m.drbgAt := rfl
@[simp] theorem Mach.bump_drbgN (f : Fld) (n : Nat) : (m.bump f n).drbgN = m.drbgN := rfl
@[simp] theorem Mach.bump_healthRun (f : Fld) (n : Nat) : (m.bump f n).healthRun = m.healthRun := rfl
@[simp] theorem Mach.bump_reelGood (f : Fld) (n : Nat) : (m.bump f n).reelGood = m.reelGood := rfl
@[simp] theorem Mach.bump_reelOff (f : Fld) (n : Nat) : (m.bump f n).reelOff = m.reelOff := rfl
@[simp] theorem Mach.bump_reelSeen (f : Fld) (n : Nat) : (m.bump f n).reelSeen = m.reelSeen := rfl
@[simp] theorem Mach.bump_keysAt (f : Fld) (n : Nat) : (m.bump f n).keysAt = m.keysAt := rfl
@[simp] theorem Mach.bump_recCkpts (f : Fld) (n : Nat) : (m.bump f n).recCkpts = m.recCkpts := rfl
@[simp] theorem Mach.bump_ckptAt (f : Fld) (n : Nat) : (m.bump f n).ckptAt = m.ckptAt := rfl
@[simp] theorem Mach.bump_ckptN (f : Fld) (n : Nat) : (m.bump f n).ckptN = m.ckptN := rfl
@[simp] theorem Mach.bump_rplPos (f : Fld) (n : Nat) : (m.bump f n).rplPos = m.rplPos := rfl
@[simp] theorem Mach.bump_rplOff (f : Fld) (n : Nat) : (m.bump f n).rplOff = m.rplOff := rfl
@[simp] theorem Mach.bump_rplExp (f : Fld) (n : Nat) : (m.bump f n).rplExp = m.rplExp := rfl
@[simp] theorem Mach.bump_rplCov (f : Fld) (n : Nat) : (m.bump f n).rplCov = m.rplCov := rfl
@[simp] theorem Mach.bump_rplChoices (f : Fld) (n : Nat) : (m.bump f n).rplChoices = m.rplChoices := rfl
@[simp] theorem Mach.bump_rplPre (f : Fld) (n : Nat) : (m.bump f n).rplPre = m.rplPre := rfl
@[simp] theorem Mach.bump_hostOut (f : Fld) (n : Nat) : (m.bump f n).hostOut = m.hostOut := rfl
@[simp] theorem Mach.bump_pcieOut (f : Fld) (n : Nat) : (m.bump f n).pcieOut = m.pcieOut := rfl
@[simp] theorem Mach.bump_tracer (f : Fld) (n : Nat) : (m.bump f n).tracer = m.tracer := rfl
@[simp] theorem Mach.bump_prof (f : Fld) (n : Nat) : (m.bump f n).prof = m.prof := rfl
@[simp] theorem Mach.bump_evtAt (f : Fld) (n : Nat) : (m.bump f n).evtAt = m.evtAt := rfl
@[simp] theorem Mach.bump_nvm (f : Fld) (n : Nat) : (m.bump f n).nvm = m.nvm := rfl
@[simp] theorem Mach.bump_pkg (f : Fld) (n : Nat) : (m.bump f n).pkg = m.pkg := rfl
@[simp] theorem Mach.bump_supply (f : Fld) (n : Nat) : (m.bump f n).supply = m.supply := rfl
@[simp] theorem Mach.bump_rst (f : Fld) (n : Nat) : (m.bump f n).rst = m.rst := rfl
@[simp] theorem Mach.bump_log (f : Fld) (n : Nat) : (m.bump f n).log = m.log := rfl
@[simp] theorem Mach.bump_mgt (f : Fld) (n : Nat) : (m.bump f n).mgt = m.mgt := rfl
@[simp] theorem Mach.bump_tim (f : Fld) (n : Nat) : (m.bump f n).tim = m.tim := rfl
@[simp] theorem Mach.bump_kiln (f : Fld) (n : Nat) : (m.bump f n).kiln = m.kiln := rfl
@[simp] theorem Mach.bump_snap (f : Fld) (n : Nat) : (m.bump f n).snap = m.snap := rfl
@[simp] theorem Mach.bump_hostIn (f : Fld) (n : Nat) : (m.bump f n).hostIn = m.hostIn := rfl
@[simp] theorem Mach.bump_dramKeys (f : Fld) (n : Nat) : (m.bump f n).dramKeys = m.dramKeys := rfl

/-! ## `count` -/

@[simp] theorem Mach.count_now (f : Fld) (n : Nat) : (m.count f n).now = m.now := rfl
@[simp] theorem Mach.count_fresh (f : Fld) (n : Nat) : (m.count f n).fresh = m.fresh := rfl
@[simp] theorem Mach.count_evq (f : Fld) (n : Nat) : (m.count f n).evq = m.evq := rfl

/-! ## `setReelRate` -/

@[simp] theorem Mach.setReelRate_now (r : Nat) : (m.setReelRate r).now = m.now := rfl
@[simp] theorem Mach.setReelRate_regs (r : Nat) : (m.setReelRate r).regs = m.regs := rfl
@[simp] theorem Mach.setReelRate_fresh (r : Nat) : (m.setReelRate r).fresh = m.fresh := rfl
@[simp] theorem Mach.setReelRate_evq (r : Nat) : (m.setReelRate r).evq = m.evq := rfl

/-! ## `stepReel` -/

@[simp] theorem Mach.stepReel_now (e : Int) : (m.stepReel e).now = m.now := rfl
@[simp] theorem Mach.stepReel_regs (e : Int) : (m.stepReel e).regs = m.regs := rfl
@[simp] theorem Mach.stepReel_fresh (e : Int) : (m.stepReel e).fresh = m.fresh := rfl
@[simp] theorem Mach.stepReel_evq (e : Int) : (m.stepReel e).evq = m.evq := rfl

/-! ## `setWallRate` -/

@[simp] theorem Mach.setWallRate_now (r : Nat) : (m.setWallRate r).now = m.now := rfl
@[simp] theorem Mach.setWallRate_regs (r : Nat) : (m.setWallRate r).regs = m.regs := rfl
@[simp] theorem Mach.setWallRate_fresh (r : Nat) : (m.setWallRate r).fresh = m.fresh := rfl
@[simp] theorem Mach.setWallRate_evq (r : Nat) : (m.setWallRate r).evq = m.evq := rfl

/-! ## `stepWall` -/

@[simp] theorem Mach.stepWall_now (e : Int) : (m.stepWall e).now = m.now := rfl
@[simp] theorem Mach.stepWall_regs (e : Int) : (m.stepWall e).regs = m.regs := rfl
@[simp] theorem Mach.stepWall_fresh (e : Int) : (m.stepWall e).fresh = m.fresh := rfl
@[simp] theorem Mach.stepWall_evq (e : Int) : (m.stepWall e).evq = m.evq := rfl

/-! ## `modFioCh` -/

@[simp] theorem Mach.modFioCh_now (i : Nat) (f : FioCh → FioCh) : (m.modFioCh i f).now = m.now := rfl
@[simp] theorem Mach.modFioCh_reelB (i : Nat) (f : FioCh → FioCh) : (m.modFioCh i f).reelB = m.reelB := rfl
@[simp] theorem Mach.modFioCh_reelT (i : Nat) (f : FioCh → FioCh) : (m.modFioCh i f).reelT = m.reelT := rfl
@[simp] theorem Mach.modFioCh_reelRate (i : Nat) (f : FioCh → FioCh) : (m.modFioCh i f).reelRate = m.reelRate := rfl
@[simp] theorem Mach.modFioCh_wallB (i : Nat) (f : FioCh → FioCh) : (m.modFioCh i f).wallB = m.wallB := rfl
@[simp] theorem Mach.modFioCh_wallT (i : Nat) (f : FioCh → FioCh) : (m.modFioCh i f).wallT = m.wallT := rfl
@[simp] theorem Mach.modFioCh_wallRate (i : Nat) (f : FioCh → FioCh) : (m.modFioCh i f).wallRate = m.wallRate := rfl
@[simp] theorem Mach.modFioCh_fresh (i : Nat) (f : FioCh → FioCh) : (m.modFioCh i f).fresh = m.fresh := rfl
@[simp] theorem Mach.modFioCh_twinPres (i : Nat) (f : FioCh → FioCh) : (m.modFioCh i f).twinPres = m.twinPres := rfl
@[simp] theorem Mach.modFioCh_twinB (i : Nat) (f : FioCh → FioCh) : (m.modFioCh i f).twinB = m.twinB := rfl
@[simp] theorem Mach.modFioCh_evq (i : Nat) (f : FioCh → FioCh) : (m.modFioCh i f).evq = m.evq := rfl
@[simp] theorem Mach.modFioCh_evDropped (i : Nat) (f : FioCh → FioCh) : (m.modFioCh i f).evDropped = m.evDropped := rfl
@[simp] theorem Mach.modFioCh_runs (i : Nat) (f : FioCh → FioCh) : (m.modFioCh i f).runs = m.runs := rfl
@[simp] theorem Mach.modFioCh_logBuf (i : Nat) (f : FioCh → FioCh) : (m.modFioCh i f).logBuf = m.logBuf := rfl
@[simp] theorem Mach.modFioCh_logLost (i : Nat) (f : FioCh → FioCh) : (m.modFioCh i f).logLost = m.logLost := rfl
@[simp] theorem Mach.modFioCh_swActs (i : Nat) (f : FioCh → FioCh) : (m.modFioCh i f).swActs = m.swActs := rfl
@[simp] theorem Mach.modFioCh_fioW (i : Nat) (f : FioCh → FioCh) : (m.modFioCh i f).fioW = m.fioW := rfl
@[simp] theorem Mach.modFioCh_fioC (i : Nat) (f : FioCh → FioCh) : (m.modFioCh i f).fioC = m.fioC := rfl
@[simp] theorem Mach.modFioCh_pos (i : Nat) (f : FioCh → FioCh) : (m.modFioCh i f).pos = m.pos := rfl
@[simp] theorem Mach.modFioCh_cmp (i : Nat) (f : FioCh → FioCh) : (m.modFioCh i f).cmp = m.cmp := rfl
@[simp] theorem Mach.modFioCh_pulses (i : Nat) (f : FioCh → FioCh) : (m.modFioCh i f).pulses = m.pulses := rfl
@[simp] theorem Mach.modFioCh_lateUntil (i : Nat) (f : FioCh → FioCh) : (m.modFioCh i f).lateUntil = m.lateUntil := rfl
@[simp] theorem Mach.modFioCh_mon (i : Nat) (f : FioCh → FioCh) : (m.modFioCh i f).mon = m.mon := rfl
@[simp] theorem Mach.modFioCh_verdQ (i : Nat) (f : FioCh → FioCh) : (m.modFioCh i f).verdQ = m.verdQ := rfl
@[simp] theorem Mach.modFioCh_loadAt (i : Nat) (f : FioCh → FioCh) : (m.modFioCh i f).loadAt = m.loadAt := rfl
@[simp] theorem Mach.modFioCh_bucketAt (i : Nat) (f : FioCh → FioCh) : (m.modFioCh i f).bucketAt = m.bucketAt := rfl
@[simp] theorem Mach.modFioCh_started (i : Nat) (f : FioCh → FioCh) : (m.modFioCh i f).started = m.started := rfl
@[simp] theorem Mach.modFioCh_ownVerdicts (i : Nat) (f : FioCh → FioCh) : (m.modFioCh i f).ownVerdicts = m.ownVerdicts := rfl
@[simp] theorem Mach.modFioCh_peerVerdicts (i : Nat) (f : FioCh → FioCh) : (m.modFioCh i f).peerVerdicts = m.peerVerdicts := rfl
@[simp] theorem Mach.modFioCh_ownDigests (i : Nat) (f : FioCh → FioCh) : (m.modFioCh i f).ownDigests = m.ownDigests := rfl
@[simp] theorem Mach.modFioCh_peerDigests (i : Nat) (f : FioCh → FioCh) : (m.modFioCh i f).peerDigests = m.peerDigests := rfl
@[simp] theorem Mach.modFioCh_recBuf (i : Nat) (f : FioCh → FioCh) : (m.modFioCh i f).recBuf = m.recBuf := rfl
@[simp] theorem Mach.modFioCh_recDropped (i : Nat) (f : FioCh → FioCh) : (m.modFioCh i f).recDropped = m.recDropped := rfl
@[simp] theorem Mach.modFioCh_recFirst (i : Nat) (f : FioCh → FioCh) : (m.modFioCh i f).recFirst = m.recFirst := rfl
@[simp] theorem Mach.modFioCh_recFreeze (i : Nat) (f : FioCh → FioCh) : (m.modFioCh i f).recFreeze = m.recFreeze := rfl
@[simp] theorem Mach.modFioCh_grs (i : Nat) (f : FioCh → FioCh) : (m.modFioCh i f).grs = m.grs := rfl
@[simp] theorem Mach.modFioCh_pipes (i : Nat) (f : FioCh → FioCh) : (m.modFioCh i f).pipes = m.pipes := rfl
@[simp] theorem Mach.modFioCh_cxs (i : Nat) (f : FioCh → FioCh) : (m.modFioCh i f).cxs = m.cxs := rfl
@[simp] theorem Mach.modFioCh_eng (i : Nat) (f : FioCh → FioCh) : (m.modFioCh i f).eng = m.eng := rfl
@[simp] theorem Mach.modFioCh_cores (i : Nat) (f : FioCh → FioCh) : (m.modFioCh i f).cores = m.cores := rfl
@[simp] theorem Mach.modFioCh_istore (i : Nat) (f : FioCh → FioCh) : (m.modFioCh i f).istore = m.istore := rfl
@[simp] theorem Mach.modFioCh_ports (i : Nat) (f : FioCh → FioCh) : (m.modFioCh i f).ports = m.ports := rfl
@[simp] theorem Mach.modFioCh_mbxWait (i : Nat) (f : FioCh → FioCh) : (m.modFioCh i f).mbxWait = m.mbxWait := rfl
@[simp] theorem Mach.modFioCh_jobs (i : Nat) (f : FioCh → FioCh) : (m.modFioCh i f).jobs = m.jobs := rfl
@[simp] theorem Mach.modFioCh_msix (i : Nat) (f : FioCh → FioCh) : (m.modFioCh i f).msix = m.msix := rfl
@[simp] theorem Mach.modFioCh_pba (i : Nat) (f : FioCh → FioCh) : (m.modFioCh i f).pba = m.pba := rfl
@[simp] theorem Mach.modFioCh_violated (i : Nat) (f : FioCh → FioCh) : (m.modFioCh i f).violated = m.violated := rfl
@[simp] theorem Mach.modFioCh_clJob (i : Nat) (f : FioCh → FioCh) : (m.modFioCh i f).clJob = m.clJob := rfl
@[simp] theorem Mach.modFioCh_asms (i : Nat) (f : FioCh → FioCh) : (m.modFioCh i f).asms = m.asms := rfl
@[simp] theorem Mach.modFioCh_clq (i : Nat) (f : FioCh → FioCh) : (m.modFioCh i f).clq = m.clq := rfl
@[simp] theorem Mach.modFioCh_running (i : Nat) (f : FioCh → FioCh) : (m.modFioCh i f).running = m.running := rfl
@[simp] theorem Mach.modFioCh_tileSeq (i : Nat) (f : FioCh → FioCh) : (m.modFioCh i f).tileSeq = m.tileSeq := rfl
@[simp] theorem Mach.modFioCh_clIdle (i : Nat) (f : FioCh → FioCh) : (m.modFioCh i f).clIdle = m.clIdle := rfl
@[simp] theorem Mach.modFioCh_jobRt (i : Nat) (f : FioCh → FioCh) : (m.modFioCh i f).jobRt = m.jobRt := rfl
@[simp] theorem Mach.modFioCh_switching (i : Nat) (f : FioCh → FioCh) : (m.modFioCh i f).switching = m.switching := rfl
@[simp] theorem Mach.modFioCh_restart (i : Nat) (f : FioCh → FioCh) : (m.modFioCh i f).restart = m.restart := rfl
@[simp] theorem Mach.modFioCh_chain (i : Nat) (f : FioCh → FioCh) : (m.modFioCh i f).chain = m.chain := rfl
@[simp] theorem Mach.modFioCh_shed (i : Nat) (f : FioCh → FioCh) : (m.modFioCh i f).shed = m.shed := rfl
@[simp] theorem Mach.modFioCh_hop (i : Nat) (f : FioCh → FioCh) : (m.modFioCh i f).hop = m.hop := rfl
@[simp] theorem Mach.modFioCh_pages (i : Nat) (f : FioCh → FioCh) : (m.modFioCh i f).pages = m.pages := rfl
@[simp] theorem Mach.modFioCh_widx (i : Nat) (f : FioCh → FioCh) : (m.modFioCh i f).widx = m.widx := rfl
@[simp] theorem Mach.modFioCh_tbuf (i : Nat) (f : FioCh → FioCh) : (m.modFioCh i f).tbuf = m.tbuf := rfl
@[simp] theorem Mach.modFioCh_lanes (i : Nat) (f : FioCh → FioCh) : (m.modFioCh i f).lanes = m.lanes := rfl
@[simp] theorem Mach.modFioCh_links (i : Nat) (f : FioCh → FioCh) : (m.modFioCh i f).links = m.links := rfl
@[simp] theorem Mach.modFioCh_tng (i : Nat) (f : FioCh → FioCh) : (m.modFioCh i f).tng = m.tng := rfl
@[simp] theorem Mach.modFioCh_pkgDigest (i : Nat) (f : FioCh → FioCh) : (m.modFioCh i f).pkgDigest = m.pkgDigest := rfl
@[simp] theorem Mach.modFioCh_lastMode (i : Nat) (f : FioCh → FioCh) : (m.modFioCh i f).lastMode = m.lastMode := rfl
@[simp] theorem Mach.modFioCh_rplSeen (i : Nat) (f : FioCh → FioCh) : (m.modFioCh i f).rplSeen = m.rplSeen := rfl
@[simp] theorem Mach.modFioCh_rplRec (i : Nat) (f : FioCh → FioCh) : (m.modFioCh i f).rplRec = m.rplRec := rfl
@[simp] theorem Mach.modFioCh_spg (i : Nat) (f : FioCh → FioCh) : (m.modFioCh i f).spg = m.spg := rfl
@[simp] theorem Mach.modFioCh_drbgAt (i : Nat) (f : FioCh → FioCh) : (m.modFioCh i f).drbgAt = m.drbgAt := rfl
@[simp] theorem Mach.modFioCh_drbgN (i : Nat) (f : FioCh → FioCh) : (m.modFioCh i f).drbgN = m.drbgN := rfl
@[simp] theorem Mach.modFioCh_healthRun (i : Nat) (f : FioCh → FioCh) : (m.modFioCh i f).healthRun = m.healthRun := rfl
@[simp] theorem Mach.modFioCh_reelGood (i : Nat) (f : FioCh → FioCh) : (m.modFioCh i f).reelGood = m.reelGood := rfl
@[simp] theorem Mach.modFioCh_reelOff (i : Nat) (f : FioCh → FioCh) : (m.modFioCh i f).reelOff = m.reelOff := rfl
@[simp] theorem Mach.modFioCh_reelSeen (i : Nat) (f : FioCh → FioCh) : (m.modFioCh i f).reelSeen = m.reelSeen := rfl
@[simp] theorem Mach.modFioCh_keysAt (i : Nat) (f : FioCh → FioCh) : (m.modFioCh i f).keysAt = m.keysAt := rfl
@[simp] theorem Mach.modFioCh_recCkpts (i : Nat) (f : FioCh → FioCh) : (m.modFioCh i f).recCkpts = m.recCkpts := rfl
@[simp] theorem Mach.modFioCh_ckptAt (i : Nat) (f : FioCh → FioCh) : (m.modFioCh i f).ckptAt = m.ckptAt := rfl
@[simp] theorem Mach.modFioCh_ckptN (i : Nat) (f : FioCh → FioCh) : (m.modFioCh i f).ckptN = m.ckptN := rfl
@[simp] theorem Mach.modFioCh_rplPos (i : Nat) (f : FioCh → FioCh) : (m.modFioCh i f).rplPos = m.rplPos := rfl
@[simp] theorem Mach.modFioCh_rplOff (i : Nat) (f : FioCh → FioCh) : (m.modFioCh i f).rplOff = m.rplOff := rfl
@[simp] theorem Mach.modFioCh_rplExp (i : Nat) (f : FioCh → FioCh) : (m.modFioCh i f).rplExp = m.rplExp := rfl
@[simp] theorem Mach.modFioCh_rplCov (i : Nat) (f : FioCh → FioCh) : (m.modFioCh i f).rplCov = m.rplCov := rfl
@[simp] theorem Mach.modFioCh_rplChoices (i : Nat) (f : FioCh → FioCh) : (m.modFioCh i f).rplChoices = m.rplChoices := rfl
@[simp] theorem Mach.modFioCh_rplPre (i : Nat) (f : FioCh → FioCh) : (m.modFioCh i f).rplPre = m.rplPre := rfl
@[simp] theorem Mach.modFioCh_hostOut (i : Nat) (f : FioCh → FioCh) : (m.modFioCh i f).hostOut = m.hostOut := rfl
@[simp] theorem Mach.modFioCh_pcieOut (i : Nat) (f : FioCh → FioCh) : (m.modFioCh i f).pcieOut = m.pcieOut := rfl
@[simp] theorem Mach.modFioCh_tracer (i : Nat) (f : FioCh → FioCh) : (m.modFioCh i f).tracer = m.tracer := rfl
@[simp] theorem Mach.modFioCh_prof (i : Nat) (f : FioCh → FioCh) : (m.modFioCh i f).prof = m.prof := rfl
@[simp] theorem Mach.modFioCh_evtAt (i : Nat) (f : FioCh → FioCh) : (m.modFioCh i f).evtAt = m.evtAt := rfl
@[simp] theorem Mach.modFioCh_nvm (i : Nat) (f : FioCh → FioCh) : (m.modFioCh i f).nvm = m.nvm := rfl
@[simp] theorem Mach.modFioCh_pkg (i : Nat) (f : FioCh → FioCh) : (m.modFioCh i f).pkg = m.pkg := rfl
@[simp] theorem Mach.modFioCh_supply (i : Nat) (f : FioCh → FioCh) : (m.modFioCh i f).supply = m.supply := rfl
@[simp] theorem Mach.modFioCh_rst (i : Nat) (f : FioCh → FioCh) : (m.modFioCh i f).rst = m.rst := rfl
@[simp] theorem Mach.modFioCh_log (i : Nat) (f : FioCh → FioCh) : (m.modFioCh i f).log = m.log := rfl
@[simp] theorem Mach.modFioCh_mgt (i : Nat) (f : FioCh → FioCh) : (m.modFioCh i f).mgt = m.mgt := rfl
@[simp] theorem Mach.modFioCh_tim (i : Nat) (f : FioCh → FioCh) : (m.modFioCh i f).tim = m.tim := rfl
@[simp] theorem Mach.modFioCh_kiln (i : Nat) (f : FioCh → FioCh) : (m.modFioCh i f).kiln = m.kiln := rfl
@[simp] theorem Mach.modFioCh_snap (i : Nat) (f : FioCh → FioCh) : (m.modFioCh i f).snap = m.snap := rfl
@[simp] theorem Mach.modFioCh_hostIn (i : Nat) (f : FioCh → FioCh) : (m.modFioCh i f).hostIn = m.hostIn := rfl
@[simp] theorem Mach.modFioCh_dramKeys (i : Nat) (f : FioCh → FioCh) : (m.modFioCh i f).dramKeys = m.dramKeys := rfl

/-! ## `modInW` -/

@[simp] theorem Mach.modInW_now (i : Nat) (f : FioIn → FioIn) : (m.modInW i f).now = m.now := rfl
@[simp] theorem Mach.modInW_reelB (i : Nat) (f : FioIn → FioIn) : (m.modInW i f).reelB = m.reelB := rfl
@[simp] theorem Mach.modInW_reelT (i : Nat) (f : FioIn → FioIn) : (m.modInW i f).reelT = m.reelT := rfl
@[simp] theorem Mach.modInW_reelRate (i : Nat) (f : FioIn → FioIn) : (m.modInW i f).reelRate = m.reelRate := rfl
@[simp] theorem Mach.modInW_wallB (i : Nat) (f : FioIn → FioIn) : (m.modInW i f).wallB = m.wallB := rfl
@[simp] theorem Mach.modInW_wallT (i : Nat) (f : FioIn → FioIn) : (m.modInW i f).wallT = m.wallT := rfl
@[simp] theorem Mach.modInW_wallRate (i : Nat) (f : FioIn → FioIn) : (m.modInW i f).wallRate = m.wallRate := rfl
@[simp] theorem Mach.modInW_fresh (i : Nat) (f : FioIn → FioIn) : (m.modInW i f).fresh = m.fresh := rfl
@[simp] theorem Mach.modInW_twinPres (i : Nat) (f : FioIn → FioIn) : (m.modInW i f).twinPres = m.twinPres := rfl
@[simp] theorem Mach.modInW_twinB (i : Nat) (f : FioIn → FioIn) : (m.modInW i f).twinB = m.twinB := rfl
@[simp] theorem Mach.modInW_evq (i : Nat) (f : FioIn → FioIn) : (m.modInW i f).evq = m.evq := rfl
@[simp] theorem Mach.modInW_evDropped (i : Nat) (f : FioIn → FioIn) : (m.modInW i f).evDropped = m.evDropped := rfl
@[simp] theorem Mach.modInW_runs (i : Nat) (f : FioIn → FioIn) : (m.modInW i f).runs = m.runs := rfl
@[simp] theorem Mach.modInW_logBuf (i : Nat) (f : FioIn → FioIn) : (m.modInW i f).logBuf = m.logBuf := rfl
@[simp] theorem Mach.modInW_logLost (i : Nat) (f : FioIn → FioIn) : (m.modInW i f).logLost = m.logLost := rfl
@[simp] theorem Mach.modInW_fioCh (i : Nat) (f : FioIn → FioIn) : (m.modInW i f).fioCh = m.fioCh := rfl
@[simp] theorem Mach.modInW_swActs (i : Nat) (f : FioIn → FioIn) : (m.modInW i f).swActs = m.swActs := rfl
@[simp] theorem Mach.modInW_fioC (i : Nat) (f : FioIn → FioIn) : (m.modInW i f).fioC = m.fioC := rfl
@[simp] theorem Mach.modInW_pos (i : Nat) (f : FioIn → FioIn) : (m.modInW i f).pos = m.pos := rfl
@[simp] theorem Mach.modInW_cmp (i : Nat) (f : FioIn → FioIn) : (m.modInW i f).cmp = m.cmp := rfl
@[simp] theorem Mach.modInW_pulses (i : Nat) (f : FioIn → FioIn) : (m.modInW i f).pulses = m.pulses := rfl
@[simp] theorem Mach.modInW_lateUntil (i : Nat) (f : FioIn → FioIn) : (m.modInW i f).lateUntil = m.lateUntil := rfl
@[simp] theorem Mach.modInW_mon (i : Nat) (f : FioIn → FioIn) : (m.modInW i f).mon = m.mon := rfl
@[simp] theorem Mach.modInW_verdQ (i : Nat) (f : FioIn → FioIn) : (m.modInW i f).verdQ = m.verdQ := rfl
@[simp] theorem Mach.modInW_loadAt (i : Nat) (f : FioIn → FioIn) : (m.modInW i f).loadAt = m.loadAt := rfl
@[simp] theorem Mach.modInW_bucketAt (i : Nat) (f : FioIn → FioIn) : (m.modInW i f).bucketAt = m.bucketAt := rfl
@[simp] theorem Mach.modInW_started (i : Nat) (f : FioIn → FioIn) : (m.modInW i f).started = m.started := rfl
@[simp] theorem Mach.modInW_ownVerdicts (i : Nat) (f : FioIn → FioIn) : (m.modInW i f).ownVerdicts = m.ownVerdicts := rfl
@[simp] theorem Mach.modInW_peerVerdicts (i : Nat) (f : FioIn → FioIn) : (m.modInW i f).peerVerdicts = m.peerVerdicts := rfl
@[simp] theorem Mach.modInW_ownDigests (i : Nat) (f : FioIn → FioIn) : (m.modInW i f).ownDigests = m.ownDigests := rfl
@[simp] theorem Mach.modInW_peerDigests (i : Nat) (f : FioIn → FioIn) : (m.modInW i f).peerDigests = m.peerDigests := rfl
@[simp] theorem Mach.modInW_recBuf (i : Nat) (f : FioIn → FioIn) : (m.modInW i f).recBuf = m.recBuf := rfl
@[simp] theorem Mach.modInW_recDropped (i : Nat) (f : FioIn → FioIn) : (m.modInW i f).recDropped = m.recDropped := rfl
@[simp] theorem Mach.modInW_recFirst (i : Nat) (f : FioIn → FioIn) : (m.modInW i f).recFirst = m.recFirst := rfl
@[simp] theorem Mach.modInW_recFreeze (i : Nat) (f : FioIn → FioIn) : (m.modInW i f).recFreeze = m.recFreeze := rfl
@[simp] theorem Mach.modInW_grs (i : Nat) (f : FioIn → FioIn) : (m.modInW i f).grs = m.grs := rfl
@[simp] theorem Mach.modInW_pipes (i : Nat) (f : FioIn → FioIn) : (m.modInW i f).pipes = m.pipes := rfl
@[simp] theorem Mach.modInW_cxs (i : Nat) (f : FioIn → FioIn) : (m.modInW i f).cxs = m.cxs := rfl
@[simp] theorem Mach.modInW_eng (i : Nat) (f : FioIn → FioIn) : (m.modInW i f).eng = m.eng := rfl
@[simp] theorem Mach.modInW_cores (i : Nat) (f : FioIn → FioIn) : (m.modInW i f).cores = m.cores := rfl
@[simp] theorem Mach.modInW_istore (i : Nat) (f : FioIn → FioIn) : (m.modInW i f).istore = m.istore := rfl
@[simp] theorem Mach.modInW_ports (i : Nat) (f : FioIn → FioIn) : (m.modInW i f).ports = m.ports := rfl
@[simp] theorem Mach.modInW_mbxWait (i : Nat) (f : FioIn → FioIn) : (m.modInW i f).mbxWait = m.mbxWait := rfl
@[simp] theorem Mach.modInW_jobs (i : Nat) (f : FioIn → FioIn) : (m.modInW i f).jobs = m.jobs := rfl
@[simp] theorem Mach.modInW_msix (i : Nat) (f : FioIn → FioIn) : (m.modInW i f).msix = m.msix := rfl
@[simp] theorem Mach.modInW_pba (i : Nat) (f : FioIn → FioIn) : (m.modInW i f).pba = m.pba := rfl
@[simp] theorem Mach.modInW_violated (i : Nat) (f : FioIn → FioIn) : (m.modInW i f).violated = m.violated := rfl
@[simp] theorem Mach.modInW_clJob (i : Nat) (f : FioIn → FioIn) : (m.modInW i f).clJob = m.clJob := rfl
@[simp] theorem Mach.modInW_asms (i : Nat) (f : FioIn → FioIn) : (m.modInW i f).asms = m.asms := rfl
@[simp] theorem Mach.modInW_clq (i : Nat) (f : FioIn → FioIn) : (m.modInW i f).clq = m.clq := rfl
@[simp] theorem Mach.modInW_running (i : Nat) (f : FioIn → FioIn) : (m.modInW i f).running = m.running := rfl
@[simp] theorem Mach.modInW_tileSeq (i : Nat) (f : FioIn → FioIn) : (m.modInW i f).tileSeq = m.tileSeq := rfl
@[simp] theorem Mach.modInW_clIdle (i : Nat) (f : FioIn → FioIn) : (m.modInW i f).clIdle = m.clIdle := rfl
@[simp] theorem Mach.modInW_jobRt (i : Nat) (f : FioIn → FioIn) : (m.modInW i f).jobRt = m.jobRt := rfl
@[simp] theorem Mach.modInW_switching (i : Nat) (f : FioIn → FioIn) : (m.modInW i f).switching = m.switching := rfl
@[simp] theorem Mach.modInW_restart (i : Nat) (f : FioIn → FioIn) : (m.modInW i f).restart = m.restart := rfl
@[simp] theorem Mach.modInW_chain (i : Nat) (f : FioIn → FioIn) : (m.modInW i f).chain = m.chain := rfl
@[simp] theorem Mach.modInW_shed (i : Nat) (f : FioIn → FioIn) : (m.modInW i f).shed = m.shed := rfl
@[simp] theorem Mach.modInW_hop (i : Nat) (f : FioIn → FioIn) : (m.modInW i f).hop = m.hop := rfl
@[simp] theorem Mach.modInW_pages (i : Nat) (f : FioIn → FioIn) : (m.modInW i f).pages = m.pages := rfl
@[simp] theorem Mach.modInW_widx (i : Nat) (f : FioIn → FioIn) : (m.modInW i f).widx = m.widx := rfl
@[simp] theorem Mach.modInW_tbuf (i : Nat) (f : FioIn → FioIn) : (m.modInW i f).tbuf = m.tbuf := rfl
@[simp] theorem Mach.modInW_lanes (i : Nat) (f : FioIn → FioIn) : (m.modInW i f).lanes = m.lanes := rfl
@[simp] theorem Mach.modInW_links (i : Nat) (f : FioIn → FioIn) : (m.modInW i f).links = m.links := rfl
@[simp] theorem Mach.modInW_tng (i : Nat) (f : FioIn → FioIn) : (m.modInW i f).tng = m.tng := rfl
@[simp] theorem Mach.modInW_pkgDigest (i : Nat) (f : FioIn → FioIn) : (m.modInW i f).pkgDigest = m.pkgDigest := rfl
@[simp] theorem Mach.modInW_lastMode (i : Nat) (f : FioIn → FioIn) : (m.modInW i f).lastMode = m.lastMode := rfl
@[simp] theorem Mach.modInW_rplSeen (i : Nat) (f : FioIn → FioIn) : (m.modInW i f).rplSeen = m.rplSeen := rfl
@[simp] theorem Mach.modInW_rplRec (i : Nat) (f : FioIn → FioIn) : (m.modInW i f).rplRec = m.rplRec := rfl
@[simp] theorem Mach.modInW_spg (i : Nat) (f : FioIn → FioIn) : (m.modInW i f).spg = m.spg := rfl
@[simp] theorem Mach.modInW_drbgAt (i : Nat) (f : FioIn → FioIn) : (m.modInW i f).drbgAt = m.drbgAt := rfl
@[simp] theorem Mach.modInW_drbgN (i : Nat) (f : FioIn → FioIn) : (m.modInW i f).drbgN = m.drbgN := rfl
@[simp] theorem Mach.modInW_healthRun (i : Nat) (f : FioIn → FioIn) : (m.modInW i f).healthRun = m.healthRun := rfl
@[simp] theorem Mach.modInW_reelGood (i : Nat) (f : FioIn → FioIn) : (m.modInW i f).reelGood = m.reelGood := rfl
@[simp] theorem Mach.modInW_reelOff (i : Nat) (f : FioIn → FioIn) : (m.modInW i f).reelOff = m.reelOff := rfl
@[simp] theorem Mach.modInW_reelSeen (i : Nat) (f : FioIn → FioIn) : (m.modInW i f).reelSeen = m.reelSeen := rfl
@[simp] theorem Mach.modInW_keysAt (i : Nat) (f : FioIn → FioIn) : (m.modInW i f).keysAt = m.keysAt := rfl
@[simp] theorem Mach.modInW_recCkpts (i : Nat) (f : FioIn → FioIn) : (m.modInW i f).recCkpts = m.recCkpts := rfl
@[simp] theorem Mach.modInW_ckptAt (i : Nat) (f : FioIn → FioIn) : (m.modInW i f).ckptAt = m.ckptAt := rfl
@[simp] theorem Mach.modInW_ckptN (i : Nat) (f : FioIn → FioIn) : (m.modInW i f).ckptN = m.ckptN := rfl
@[simp] theorem Mach.modInW_rplPos (i : Nat) (f : FioIn → FioIn) : (m.modInW i f).rplPos = m.rplPos := rfl
@[simp] theorem Mach.modInW_rplOff (i : Nat) (f : FioIn → FioIn) : (m.modInW i f).rplOff = m.rplOff := rfl
@[simp] theorem Mach.modInW_rplExp (i : Nat) (f : FioIn → FioIn) : (m.modInW i f).rplExp = m.rplExp := rfl
@[simp] theorem Mach.modInW_rplCov (i : Nat) (f : FioIn → FioIn) : (m.modInW i f).rplCov = m.rplCov := rfl
@[simp] theorem Mach.modInW_rplChoices (i : Nat) (f : FioIn → FioIn) : (m.modInW i f).rplChoices = m.rplChoices := rfl
@[simp] theorem Mach.modInW_rplPre (i : Nat) (f : FioIn → FioIn) : (m.modInW i f).rplPre = m.rplPre := rfl
@[simp] theorem Mach.modInW_hostOut (i : Nat) (f : FioIn → FioIn) : (m.modInW i f).hostOut = m.hostOut := rfl
@[simp] theorem Mach.modInW_pcieOut (i : Nat) (f : FioIn → FioIn) : (m.modInW i f).pcieOut = m.pcieOut := rfl
@[simp] theorem Mach.modInW_tracer (i : Nat) (f : FioIn → FioIn) : (m.modInW i f).tracer = m.tracer := rfl
@[simp] theorem Mach.modInW_prof (i : Nat) (f : FioIn → FioIn) : (m.modInW i f).prof = m.prof := rfl
@[simp] theorem Mach.modInW_evtAt (i : Nat) (f : FioIn → FioIn) : (m.modInW i f).evtAt = m.evtAt := rfl
@[simp] theorem Mach.modInW_nvm (i : Nat) (f : FioIn → FioIn) : (m.modInW i f).nvm = m.nvm := rfl
@[simp] theorem Mach.modInW_pkg (i : Nat) (f : FioIn → FioIn) : (m.modInW i f).pkg = m.pkg := rfl
@[simp] theorem Mach.modInW_supply (i : Nat) (f : FioIn → FioIn) : (m.modInW i f).supply = m.supply := rfl
@[simp] theorem Mach.modInW_rst (i : Nat) (f : FioIn → FioIn) : (m.modInW i f).rst = m.rst := rfl
@[simp] theorem Mach.modInW_log (i : Nat) (f : FioIn → FioIn) : (m.modInW i f).log = m.log := rfl
@[simp] theorem Mach.modInW_mgt (i : Nat) (f : FioIn → FioIn) : (m.modInW i f).mgt = m.mgt := rfl
@[simp] theorem Mach.modInW_tim (i : Nat) (f : FioIn → FioIn) : (m.modInW i f).tim = m.tim := rfl
@[simp] theorem Mach.modInW_kiln (i : Nat) (f : FioIn → FioIn) : (m.modInW i f).kiln = m.kiln := rfl
@[simp] theorem Mach.modInW_snap (i : Nat) (f : FioIn → FioIn) : (m.modInW i f).snap = m.snap := rfl
@[simp] theorem Mach.modInW_hostIn (i : Nat) (f : FioIn → FioIn) : (m.modInW i f).hostIn = m.hostIn := rfl
@[simp] theorem Mach.modInW_dramKeys (i : Nat) (f : FioIn → FioIn) : (m.modInW i f).dramKeys = m.dramKeys := rfl

/-! ## `modInC` -/

@[simp] theorem Mach.modInC_now (i : Nat) (f : FioIn → FioIn) : (m.modInC i f).now = m.now := rfl
@[simp] theorem Mach.modInC_reelB (i : Nat) (f : FioIn → FioIn) : (m.modInC i f).reelB = m.reelB := rfl
@[simp] theorem Mach.modInC_reelT (i : Nat) (f : FioIn → FioIn) : (m.modInC i f).reelT = m.reelT := rfl
@[simp] theorem Mach.modInC_reelRate (i : Nat) (f : FioIn → FioIn) : (m.modInC i f).reelRate = m.reelRate := rfl
@[simp] theorem Mach.modInC_wallB (i : Nat) (f : FioIn → FioIn) : (m.modInC i f).wallB = m.wallB := rfl
@[simp] theorem Mach.modInC_wallT (i : Nat) (f : FioIn → FioIn) : (m.modInC i f).wallT = m.wallT := rfl
@[simp] theorem Mach.modInC_wallRate (i : Nat) (f : FioIn → FioIn) : (m.modInC i f).wallRate = m.wallRate := rfl
@[simp] theorem Mach.modInC_fresh (i : Nat) (f : FioIn → FioIn) : (m.modInC i f).fresh = m.fresh := rfl
@[simp] theorem Mach.modInC_twinPres (i : Nat) (f : FioIn → FioIn) : (m.modInC i f).twinPres = m.twinPres := rfl
@[simp] theorem Mach.modInC_twinB (i : Nat) (f : FioIn → FioIn) : (m.modInC i f).twinB = m.twinB := rfl
@[simp] theorem Mach.modInC_evq (i : Nat) (f : FioIn → FioIn) : (m.modInC i f).evq = m.evq := rfl
@[simp] theorem Mach.modInC_evDropped (i : Nat) (f : FioIn → FioIn) : (m.modInC i f).evDropped = m.evDropped := rfl
@[simp] theorem Mach.modInC_runs (i : Nat) (f : FioIn → FioIn) : (m.modInC i f).runs = m.runs := rfl
@[simp] theorem Mach.modInC_logBuf (i : Nat) (f : FioIn → FioIn) : (m.modInC i f).logBuf = m.logBuf := rfl
@[simp] theorem Mach.modInC_logLost (i : Nat) (f : FioIn → FioIn) : (m.modInC i f).logLost = m.logLost := rfl
@[simp] theorem Mach.modInC_fioCh (i : Nat) (f : FioIn → FioIn) : (m.modInC i f).fioCh = m.fioCh := rfl
@[simp] theorem Mach.modInC_swActs (i : Nat) (f : FioIn → FioIn) : (m.modInC i f).swActs = m.swActs := rfl
@[simp] theorem Mach.modInC_fioW (i : Nat) (f : FioIn → FioIn) : (m.modInC i f).fioW = m.fioW := rfl
@[simp] theorem Mach.modInC_pos (i : Nat) (f : FioIn → FioIn) : (m.modInC i f).pos = m.pos := rfl
@[simp] theorem Mach.modInC_cmp (i : Nat) (f : FioIn → FioIn) : (m.modInC i f).cmp = m.cmp := rfl
@[simp] theorem Mach.modInC_pulses (i : Nat) (f : FioIn → FioIn) : (m.modInC i f).pulses = m.pulses := rfl
@[simp] theorem Mach.modInC_lateUntil (i : Nat) (f : FioIn → FioIn) : (m.modInC i f).lateUntil = m.lateUntil := rfl
@[simp] theorem Mach.modInC_mon (i : Nat) (f : FioIn → FioIn) : (m.modInC i f).mon = m.mon := rfl
@[simp] theorem Mach.modInC_verdQ (i : Nat) (f : FioIn → FioIn) : (m.modInC i f).verdQ = m.verdQ := rfl
@[simp] theorem Mach.modInC_loadAt (i : Nat) (f : FioIn → FioIn) : (m.modInC i f).loadAt = m.loadAt := rfl
@[simp] theorem Mach.modInC_bucketAt (i : Nat) (f : FioIn → FioIn) : (m.modInC i f).bucketAt = m.bucketAt := rfl
@[simp] theorem Mach.modInC_started (i : Nat) (f : FioIn → FioIn) : (m.modInC i f).started = m.started := rfl
@[simp] theorem Mach.modInC_ownVerdicts (i : Nat) (f : FioIn → FioIn) : (m.modInC i f).ownVerdicts = m.ownVerdicts := rfl
@[simp] theorem Mach.modInC_peerVerdicts (i : Nat) (f : FioIn → FioIn) : (m.modInC i f).peerVerdicts = m.peerVerdicts := rfl
@[simp] theorem Mach.modInC_ownDigests (i : Nat) (f : FioIn → FioIn) : (m.modInC i f).ownDigests = m.ownDigests := rfl
@[simp] theorem Mach.modInC_peerDigests (i : Nat) (f : FioIn → FioIn) : (m.modInC i f).peerDigests = m.peerDigests := rfl
@[simp] theorem Mach.modInC_recBuf (i : Nat) (f : FioIn → FioIn) : (m.modInC i f).recBuf = m.recBuf := rfl
@[simp] theorem Mach.modInC_recDropped (i : Nat) (f : FioIn → FioIn) : (m.modInC i f).recDropped = m.recDropped := rfl
@[simp] theorem Mach.modInC_recFirst (i : Nat) (f : FioIn → FioIn) : (m.modInC i f).recFirst = m.recFirst := rfl
@[simp] theorem Mach.modInC_recFreeze (i : Nat) (f : FioIn → FioIn) : (m.modInC i f).recFreeze = m.recFreeze := rfl
@[simp] theorem Mach.modInC_grs (i : Nat) (f : FioIn → FioIn) : (m.modInC i f).grs = m.grs := rfl
@[simp] theorem Mach.modInC_pipes (i : Nat) (f : FioIn → FioIn) : (m.modInC i f).pipes = m.pipes := rfl
@[simp] theorem Mach.modInC_cxs (i : Nat) (f : FioIn → FioIn) : (m.modInC i f).cxs = m.cxs := rfl
@[simp] theorem Mach.modInC_eng (i : Nat) (f : FioIn → FioIn) : (m.modInC i f).eng = m.eng := rfl
@[simp] theorem Mach.modInC_cores (i : Nat) (f : FioIn → FioIn) : (m.modInC i f).cores = m.cores := rfl
@[simp] theorem Mach.modInC_istore (i : Nat) (f : FioIn → FioIn) : (m.modInC i f).istore = m.istore := rfl
@[simp] theorem Mach.modInC_ports (i : Nat) (f : FioIn → FioIn) : (m.modInC i f).ports = m.ports := rfl
@[simp] theorem Mach.modInC_mbxWait (i : Nat) (f : FioIn → FioIn) : (m.modInC i f).mbxWait = m.mbxWait := rfl
@[simp] theorem Mach.modInC_jobs (i : Nat) (f : FioIn → FioIn) : (m.modInC i f).jobs = m.jobs := rfl
@[simp] theorem Mach.modInC_msix (i : Nat) (f : FioIn → FioIn) : (m.modInC i f).msix = m.msix := rfl
@[simp] theorem Mach.modInC_pba (i : Nat) (f : FioIn → FioIn) : (m.modInC i f).pba = m.pba := rfl
@[simp] theorem Mach.modInC_violated (i : Nat) (f : FioIn → FioIn) : (m.modInC i f).violated = m.violated := rfl
@[simp] theorem Mach.modInC_clJob (i : Nat) (f : FioIn → FioIn) : (m.modInC i f).clJob = m.clJob := rfl
@[simp] theorem Mach.modInC_asms (i : Nat) (f : FioIn → FioIn) : (m.modInC i f).asms = m.asms := rfl
@[simp] theorem Mach.modInC_clq (i : Nat) (f : FioIn → FioIn) : (m.modInC i f).clq = m.clq := rfl
@[simp] theorem Mach.modInC_running (i : Nat) (f : FioIn → FioIn) : (m.modInC i f).running = m.running := rfl
@[simp] theorem Mach.modInC_tileSeq (i : Nat) (f : FioIn → FioIn) : (m.modInC i f).tileSeq = m.tileSeq := rfl
@[simp] theorem Mach.modInC_clIdle (i : Nat) (f : FioIn → FioIn) : (m.modInC i f).clIdle = m.clIdle := rfl
@[simp] theorem Mach.modInC_jobRt (i : Nat) (f : FioIn → FioIn) : (m.modInC i f).jobRt = m.jobRt := rfl
@[simp] theorem Mach.modInC_switching (i : Nat) (f : FioIn → FioIn) : (m.modInC i f).switching = m.switching := rfl
@[simp] theorem Mach.modInC_restart (i : Nat) (f : FioIn → FioIn) : (m.modInC i f).restart = m.restart := rfl
@[simp] theorem Mach.modInC_chain (i : Nat) (f : FioIn → FioIn) : (m.modInC i f).chain = m.chain := rfl
@[simp] theorem Mach.modInC_shed (i : Nat) (f : FioIn → FioIn) : (m.modInC i f).shed = m.shed := rfl
@[simp] theorem Mach.modInC_hop (i : Nat) (f : FioIn → FioIn) : (m.modInC i f).hop = m.hop := rfl
@[simp] theorem Mach.modInC_pages (i : Nat) (f : FioIn → FioIn) : (m.modInC i f).pages = m.pages := rfl
@[simp] theorem Mach.modInC_widx (i : Nat) (f : FioIn → FioIn) : (m.modInC i f).widx = m.widx := rfl
@[simp] theorem Mach.modInC_tbuf (i : Nat) (f : FioIn → FioIn) : (m.modInC i f).tbuf = m.tbuf := rfl
@[simp] theorem Mach.modInC_lanes (i : Nat) (f : FioIn → FioIn) : (m.modInC i f).lanes = m.lanes := rfl
@[simp] theorem Mach.modInC_links (i : Nat) (f : FioIn → FioIn) : (m.modInC i f).links = m.links := rfl
@[simp] theorem Mach.modInC_tng (i : Nat) (f : FioIn → FioIn) : (m.modInC i f).tng = m.tng := rfl
@[simp] theorem Mach.modInC_pkgDigest (i : Nat) (f : FioIn → FioIn) : (m.modInC i f).pkgDigest = m.pkgDigest := rfl
@[simp] theorem Mach.modInC_lastMode (i : Nat) (f : FioIn → FioIn) : (m.modInC i f).lastMode = m.lastMode := rfl
@[simp] theorem Mach.modInC_rplSeen (i : Nat) (f : FioIn → FioIn) : (m.modInC i f).rplSeen = m.rplSeen := rfl
@[simp] theorem Mach.modInC_rplRec (i : Nat) (f : FioIn → FioIn) : (m.modInC i f).rplRec = m.rplRec := rfl
@[simp] theorem Mach.modInC_spg (i : Nat) (f : FioIn → FioIn) : (m.modInC i f).spg = m.spg := rfl
@[simp] theorem Mach.modInC_drbgAt (i : Nat) (f : FioIn → FioIn) : (m.modInC i f).drbgAt = m.drbgAt := rfl
@[simp] theorem Mach.modInC_drbgN (i : Nat) (f : FioIn → FioIn) : (m.modInC i f).drbgN = m.drbgN := rfl
@[simp] theorem Mach.modInC_healthRun (i : Nat) (f : FioIn → FioIn) : (m.modInC i f).healthRun = m.healthRun := rfl
@[simp] theorem Mach.modInC_reelGood (i : Nat) (f : FioIn → FioIn) : (m.modInC i f).reelGood = m.reelGood := rfl
@[simp] theorem Mach.modInC_reelOff (i : Nat) (f : FioIn → FioIn) : (m.modInC i f).reelOff = m.reelOff := rfl
@[simp] theorem Mach.modInC_reelSeen (i : Nat) (f : FioIn → FioIn) : (m.modInC i f).reelSeen = m.reelSeen := rfl
@[simp] theorem Mach.modInC_keysAt (i : Nat) (f : FioIn → FioIn) : (m.modInC i f).keysAt = m.keysAt := rfl
@[simp] theorem Mach.modInC_recCkpts (i : Nat) (f : FioIn → FioIn) : (m.modInC i f).recCkpts = m.recCkpts := rfl
@[simp] theorem Mach.modInC_ckptAt (i : Nat) (f : FioIn → FioIn) : (m.modInC i f).ckptAt = m.ckptAt := rfl
@[simp] theorem Mach.modInC_ckptN (i : Nat) (f : FioIn → FioIn) : (m.modInC i f).ckptN = m.ckptN := rfl
@[simp] theorem Mach.modInC_rplPos (i : Nat) (f : FioIn → FioIn) : (m.modInC i f).rplPos = m.rplPos := rfl
@[simp] theorem Mach.modInC_rplOff (i : Nat) (f : FioIn → FioIn) : (m.modInC i f).rplOff = m.rplOff := rfl
@[simp] theorem Mach.modInC_rplExp (i : Nat) (f : FioIn → FioIn) : (m.modInC i f).rplExp = m.rplExp := rfl
@[simp] theorem Mach.modInC_rplCov (i : Nat) (f : FioIn → FioIn) : (m.modInC i f).rplCov = m.rplCov := rfl
@[simp] theorem Mach.modInC_rplChoices (i : Nat) (f : FioIn → FioIn) : (m.modInC i f).rplChoices = m.rplChoices := rfl
@[simp] theorem Mach.modInC_rplPre (i : Nat) (f : FioIn → FioIn) : (m.modInC i f).rplPre = m.rplPre := rfl
@[simp] theorem Mach.modInC_hostOut (i : Nat) (f : FioIn → FioIn) : (m.modInC i f).hostOut = m.hostOut := rfl
@[simp] theorem Mach.modInC_pcieOut (i : Nat) (f : FioIn → FioIn) : (m.modInC i f).pcieOut = m.pcieOut := rfl
@[simp] theorem Mach.modInC_tracer (i : Nat) (f : FioIn → FioIn) : (m.modInC i f).tracer = m.tracer := rfl
@[simp] theorem Mach.modInC_prof (i : Nat) (f : FioIn → FioIn) : (m.modInC i f).prof = m.prof := rfl
@[simp] theorem Mach.modInC_evtAt (i : Nat) (f : FioIn → FioIn) : (m.modInC i f).evtAt = m.evtAt := rfl
@[simp] theorem Mach.modInC_nvm (i : Nat) (f : FioIn → FioIn) : (m.modInC i f).nvm = m.nvm := rfl
@[simp] theorem Mach.modInC_pkg (i : Nat) (f : FioIn → FioIn) : (m.modInC i f).pkg = m.pkg := rfl
@[simp] theorem Mach.modInC_supply (i : Nat) (f : FioIn → FioIn) : (m.modInC i f).supply = m.supply := rfl
@[simp] theorem Mach.modInC_rst (i : Nat) (f : FioIn → FioIn) : (m.modInC i f).rst = m.rst := rfl
@[simp] theorem Mach.modInC_log (i : Nat) (f : FioIn → FioIn) : (m.modInC i f).log = m.log := rfl
@[simp] theorem Mach.modInC_mgt (i : Nat) (f : FioIn → FioIn) : (m.modInC i f).mgt = m.mgt := rfl
@[simp] theorem Mach.modInC_tim (i : Nat) (f : FioIn → FioIn) : (m.modInC i f).tim = m.tim := rfl
@[simp] theorem Mach.modInC_kiln (i : Nat) (f : FioIn → FioIn) : (m.modInC i f).kiln = m.kiln := rfl
@[simp] theorem Mach.modInC_snap (i : Nat) (f : FioIn → FioIn) : (m.modInC i f).snap = m.snap := rfl
@[simp] theorem Mach.modInC_hostIn (i : Nat) (f : FioIn → FioIn) : (m.modInC i f).hostIn = m.hostIn := rfl
@[simp] theorem Mach.modInC_dramKeys (i : Nat) (f : FioIn → FioIn) : (m.modInC i f).dramKeys = m.dramKeys := rfl

/-! ## `modPos` -/

@[simp] theorem Mach.modPos_now (i : Nat) (f : PosAx → PosAx) : (m.modPos i f).now = m.now := rfl
@[simp] theorem Mach.modPos_reelB (i : Nat) (f : PosAx → PosAx) : (m.modPos i f).reelB = m.reelB := rfl
@[simp] theorem Mach.modPos_reelT (i : Nat) (f : PosAx → PosAx) : (m.modPos i f).reelT = m.reelT := rfl
@[simp] theorem Mach.modPos_reelRate (i : Nat) (f : PosAx → PosAx) : (m.modPos i f).reelRate = m.reelRate := rfl
@[simp] theorem Mach.modPos_wallB (i : Nat) (f : PosAx → PosAx) : (m.modPos i f).wallB = m.wallB := rfl
@[simp] theorem Mach.modPos_wallT (i : Nat) (f : PosAx → PosAx) : (m.modPos i f).wallT = m.wallT := rfl
@[simp] theorem Mach.modPos_wallRate (i : Nat) (f : PosAx → PosAx) : (m.modPos i f).wallRate = m.wallRate := rfl
@[simp] theorem Mach.modPos_fresh (i : Nat) (f : PosAx → PosAx) : (m.modPos i f).fresh = m.fresh := rfl
@[simp] theorem Mach.modPos_twinPres (i : Nat) (f : PosAx → PosAx) : (m.modPos i f).twinPres = m.twinPres := rfl
@[simp] theorem Mach.modPos_twinB (i : Nat) (f : PosAx → PosAx) : (m.modPos i f).twinB = m.twinB := rfl
@[simp] theorem Mach.modPos_evq (i : Nat) (f : PosAx → PosAx) : (m.modPos i f).evq = m.evq := rfl
@[simp] theorem Mach.modPos_evDropped (i : Nat) (f : PosAx → PosAx) : (m.modPos i f).evDropped = m.evDropped := rfl
@[simp] theorem Mach.modPos_runs (i : Nat) (f : PosAx → PosAx) : (m.modPos i f).runs = m.runs := rfl
@[simp] theorem Mach.modPos_logBuf (i : Nat) (f : PosAx → PosAx) : (m.modPos i f).logBuf = m.logBuf := rfl
@[simp] theorem Mach.modPos_logLost (i : Nat) (f : PosAx → PosAx) : (m.modPos i f).logLost = m.logLost := rfl
@[simp] theorem Mach.modPos_fioCh (i : Nat) (f : PosAx → PosAx) : (m.modPos i f).fioCh = m.fioCh := rfl
@[simp] theorem Mach.modPos_swActs (i : Nat) (f : PosAx → PosAx) : (m.modPos i f).swActs = m.swActs := rfl
@[simp] theorem Mach.modPos_fioW (i : Nat) (f : PosAx → PosAx) : (m.modPos i f).fioW = m.fioW := rfl
@[simp] theorem Mach.modPos_fioC (i : Nat) (f : PosAx → PosAx) : (m.modPos i f).fioC = m.fioC := rfl
@[simp] theorem Mach.modPos_cmp (i : Nat) (f : PosAx → PosAx) : (m.modPos i f).cmp = m.cmp := rfl
@[simp] theorem Mach.modPos_pulses (i : Nat) (f : PosAx → PosAx) : (m.modPos i f).pulses = m.pulses := rfl
@[simp] theorem Mach.modPos_lateUntil (i : Nat) (f : PosAx → PosAx) : (m.modPos i f).lateUntil = m.lateUntil := rfl
@[simp] theorem Mach.modPos_mon (i : Nat) (f : PosAx → PosAx) : (m.modPos i f).mon = m.mon := rfl
@[simp] theorem Mach.modPos_verdQ (i : Nat) (f : PosAx → PosAx) : (m.modPos i f).verdQ = m.verdQ := rfl
@[simp] theorem Mach.modPos_loadAt (i : Nat) (f : PosAx → PosAx) : (m.modPos i f).loadAt = m.loadAt := rfl
@[simp] theorem Mach.modPos_bucketAt (i : Nat) (f : PosAx → PosAx) : (m.modPos i f).bucketAt = m.bucketAt := rfl
@[simp] theorem Mach.modPos_started (i : Nat) (f : PosAx → PosAx) : (m.modPos i f).started = m.started := rfl
@[simp] theorem Mach.modPos_ownVerdicts (i : Nat) (f : PosAx → PosAx) : (m.modPos i f).ownVerdicts = m.ownVerdicts := rfl
@[simp] theorem Mach.modPos_peerVerdicts (i : Nat) (f : PosAx → PosAx) : (m.modPos i f).peerVerdicts = m.peerVerdicts := rfl
@[simp] theorem Mach.modPos_ownDigests (i : Nat) (f : PosAx → PosAx) : (m.modPos i f).ownDigests = m.ownDigests := rfl
@[simp] theorem Mach.modPos_peerDigests (i : Nat) (f : PosAx → PosAx) : (m.modPos i f).peerDigests = m.peerDigests := rfl
@[simp] theorem Mach.modPos_recBuf (i : Nat) (f : PosAx → PosAx) : (m.modPos i f).recBuf = m.recBuf := rfl
@[simp] theorem Mach.modPos_recDropped (i : Nat) (f : PosAx → PosAx) : (m.modPos i f).recDropped = m.recDropped := rfl
@[simp] theorem Mach.modPos_recFirst (i : Nat) (f : PosAx → PosAx) : (m.modPos i f).recFirst = m.recFirst := rfl
@[simp] theorem Mach.modPos_recFreeze (i : Nat) (f : PosAx → PosAx) : (m.modPos i f).recFreeze = m.recFreeze := rfl
@[simp] theorem Mach.modPos_grs (i : Nat) (f : PosAx → PosAx) : (m.modPos i f).grs = m.grs := rfl
@[simp] theorem Mach.modPos_pipes (i : Nat) (f : PosAx → PosAx) : (m.modPos i f).pipes = m.pipes := rfl
@[simp] theorem Mach.modPos_cxs (i : Nat) (f : PosAx → PosAx) : (m.modPos i f).cxs = m.cxs := rfl
@[simp] theorem Mach.modPos_eng (i : Nat) (f : PosAx → PosAx) : (m.modPos i f).eng = m.eng := rfl
@[simp] theorem Mach.modPos_cores (i : Nat) (f : PosAx → PosAx) : (m.modPos i f).cores = m.cores := rfl
@[simp] theorem Mach.modPos_istore (i : Nat) (f : PosAx → PosAx) : (m.modPos i f).istore = m.istore := rfl
@[simp] theorem Mach.modPos_ports (i : Nat) (f : PosAx → PosAx) : (m.modPos i f).ports = m.ports := rfl
@[simp] theorem Mach.modPos_mbxWait (i : Nat) (f : PosAx → PosAx) : (m.modPos i f).mbxWait = m.mbxWait := rfl
@[simp] theorem Mach.modPos_jobs (i : Nat) (f : PosAx → PosAx) : (m.modPos i f).jobs = m.jobs := rfl
@[simp] theorem Mach.modPos_msix (i : Nat) (f : PosAx → PosAx) : (m.modPos i f).msix = m.msix := rfl
@[simp] theorem Mach.modPos_pba (i : Nat) (f : PosAx → PosAx) : (m.modPos i f).pba = m.pba := rfl
@[simp] theorem Mach.modPos_violated (i : Nat) (f : PosAx → PosAx) : (m.modPos i f).violated = m.violated := rfl
@[simp] theorem Mach.modPos_clJob (i : Nat) (f : PosAx → PosAx) : (m.modPos i f).clJob = m.clJob := rfl
@[simp] theorem Mach.modPos_asms (i : Nat) (f : PosAx → PosAx) : (m.modPos i f).asms = m.asms := rfl
@[simp] theorem Mach.modPos_clq (i : Nat) (f : PosAx → PosAx) : (m.modPos i f).clq = m.clq := rfl
@[simp] theorem Mach.modPos_running (i : Nat) (f : PosAx → PosAx) : (m.modPos i f).running = m.running := rfl
@[simp] theorem Mach.modPos_tileSeq (i : Nat) (f : PosAx → PosAx) : (m.modPos i f).tileSeq = m.tileSeq := rfl
@[simp] theorem Mach.modPos_clIdle (i : Nat) (f : PosAx → PosAx) : (m.modPos i f).clIdle = m.clIdle := rfl
@[simp] theorem Mach.modPos_jobRt (i : Nat) (f : PosAx → PosAx) : (m.modPos i f).jobRt = m.jobRt := rfl
@[simp] theorem Mach.modPos_switching (i : Nat) (f : PosAx → PosAx) : (m.modPos i f).switching = m.switching := rfl
@[simp] theorem Mach.modPos_restart (i : Nat) (f : PosAx → PosAx) : (m.modPos i f).restart = m.restart := rfl
@[simp] theorem Mach.modPos_chain (i : Nat) (f : PosAx → PosAx) : (m.modPos i f).chain = m.chain := rfl
@[simp] theorem Mach.modPos_shed (i : Nat) (f : PosAx → PosAx) : (m.modPos i f).shed = m.shed := rfl
@[simp] theorem Mach.modPos_hop (i : Nat) (f : PosAx → PosAx) : (m.modPos i f).hop = m.hop := rfl
@[simp] theorem Mach.modPos_pages (i : Nat) (f : PosAx → PosAx) : (m.modPos i f).pages = m.pages := rfl
@[simp] theorem Mach.modPos_widx (i : Nat) (f : PosAx → PosAx) : (m.modPos i f).widx = m.widx := rfl
@[simp] theorem Mach.modPos_tbuf (i : Nat) (f : PosAx → PosAx) : (m.modPos i f).tbuf = m.tbuf := rfl
@[simp] theorem Mach.modPos_lanes (i : Nat) (f : PosAx → PosAx) : (m.modPos i f).lanes = m.lanes := rfl
@[simp] theorem Mach.modPos_links (i : Nat) (f : PosAx → PosAx) : (m.modPos i f).links = m.links := rfl
@[simp] theorem Mach.modPos_tng (i : Nat) (f : PosAx → PosAx) : (m.modPos i f).tng = m.tng := rfl
@[simp] theorem Mach.modPos_pkgDigest (i : Nat) (f : PosAx → PosAx) : (m.modPos i f).pkgDigest = m.pkgDigest := rfl
@[simp] theorem Mach.modPos_lastMode (i : Nat) (f : PosAx → PosAx) : (m.modPos i f).lastMode = m.lastMode := rfl
@[simp] theorem Mach.modPos_rplSeen (i : Nat) (f : PosAx → PosAx) : (m.modPos i f).rplSeen = m.rplSeen := rfl
@[simp] theorem Mach.modPos_rplRec (i : Nat) (f : PosAx → PosAx) : (m.modPos i f).rplRec = m.rplRec := rfl
@[simp] theorem Mach.modPos_spg (i : Nat) (f : PosAx → PosAx) : (m.modPos i f).spg = m.spg := rfl
@[simp] theorem Mach.modPos_drbgAt (i : Nat) (f : PosAx → PosAx) : (m.modPos i f).drbgAt = m.drbgAt := rfl
@[simp] theorem Mach.modPos_drbgN (i : Nat) (f : PosAx → PosAx) : (m.modPos i f).drbgN = m.drbgN := rfl
@[simp] theorem Mach.modPos_healthRun (i : Nat) (f : PosAx → PosAx) : (m.modPos i f).healthRun = m.healthRun := rfl
@[simp] theorem Mach.modPos_reelGood (i : Nat) (f : PosAx → PosAx) : (m.modPos i f).reelGood = m.reelGood := rfl
@[simp] theorem Mach.modPos_reelOff (i : Nat) (f : PosAx → PosAx) : (m.modPos i f).reelOff = m.reelOff := rfl
@[simp] theorem Mach.modPos_reelSeen (i : Nat) (f : PosAx → PosAx) : (m.modPos i f).reelSeen = m.reelSeen := rfl
@[simp] theorem Mach.modPos_keysAt (i : Nat) (f : PosAx → PosAx) : (m.modPos i f).keysAt = m.keysAt := rfl
@[simp] theorem Mach.modPos_recCkpts (i : Nat) (f : PosAx → PosAx) : (m.modPos i f).recCkpts = m.recCkpts := rfl
@[simp] theorem Mach.modPos_ckptAt (i : Nat) (f : PosAx → PosAx) : (m.modPos i f).ckptAt = m.ckptAt := rfl
@[simp] theorem Mach.modPos_ckptN (i : Nat) (f : PosAx → PosAx) : (m.modPos i f).ckptN = m.ckptN := rfl
@[simp] theorem Mach.modPos_rplPos (i : Nat) (f : PosAx → PosAx) : (m.modPos i f).rplPos = m.rplPos := rfl
@[simp] theorem Mach.modPos_rplOff (i : Nat) (f : PosAx → PosAx) : (m.modPos i f).rplOff = m.rplOff := rfl
@[simp] theorem Mach.modPos_rplExp (i : Nat) (f : PosAx → PosAx) : (m.modPos i f).rplExp = m.rplExp := rfl
@[simp] theorem Mach.modPos_rplCov (i : Nat) (f : PosAx → PosAx) : (m.modPos i f).rplCov = m.rplCov := rfl
@[simp] theorem Mach.modPos_rplChoices (i : Nat) (f : PosAx → PosAx) : (m.modPos i f).rplChoices = m.rplChoices := rfl
@[simp] theorem Mach.modPos_rplPre (i : Nat) (f : PosAx → PosAx) : (m.modPos i f).rplPre = m.rplPre := rfl
@[simp] theorem Mach.modPos_hostOut (i : Nat) (f : PosAx → PosAx) : (m.modPos i f).hostOut = m.hostOut := rfl
@[simp] theorem Mach.modPos_pcieOut (i : Nat) (f : PosAx → PosAx) : (m.modPos i f).pcieOut = m.pcieOut := rfl
@[simp] theorem Mach.modPos_tracer (i : Nat) (f : PosAx → PosAx) : (m.modPos i f).tracer = m.tracer := rfl
@[simp] theorem Mach.modPos_prof (i : Nat) (f : PosAx → PosAx) : (m.modPos i f).prof = m.prof := rfl
@[simp] theorem Mach.modPos_evtAt (i : Nat) (f : PosAx → PosAx) : (m.modPos i f).evtAt = m.evtAt := rfl
@[simp] theorem Mach.modPos_nvm (i : Nat) (f : PosAx → PosAx) : (m.modPos i f).nvm = m.nvm := rfl
@[simp] theorem Mach.modPos_pkg (i : Nat) (f : PosAx → PosAx) : (m.modPos i f).pkg = m.pkg := rfl
@[simp] theorem Mach.modPos_supply (i : Nat) (f : PosAx → PosAx) : (m.modPos i f).supply = m.supply := rfl
@[simp] theorem Mach.modPos_rst (i : Nat) (f : PosAx → PosAx) : (m.modPos i f).rst = m.rst := rfl
@[simp] theorem Mach.modPos_log (i : Nat) (f : PosAx → PosAx) : (m.modPos i f).log = m.log := rfl
@[simp] theorem Mach.modPos_mgt (i : Nat) (f : PosAx → PosAx) : (m.modPos i f).mgt = m.mgt := rfl
@[simp] theorem Mach.modPos_tim (i : Nat) (f : PosAx → PosAx) : (m.modPos i f).tim = m.tim := rfl
@[simp] theorem Mach.modPos_kiln (i : Nat) (f : PosAx → PosAx) : (m.modPos i f).kiln = m.kiln := rfl
@[simp] theorem Mach.modPos_snap (i : Nat) (f : PosAx → PosAx) : (m.modPos i f).snap = m.snap := rfl
@[simp] theorem Mach.modPos_hostIn (i : Nat) (f : PosAx → PosAx) : (m.modPos i f).hostIn = m.hostIn := rfl
@[simp] theorem Mach.modPos_dramKeys (i : Nat) (f : PosAx → PosAx) : (m.modPos i f).dramKeys = m.dramKeys := rfl

/-! ## `modCmp` -/

@[simp] theorem Mach.modCmp_now (i : Nat) (f : CmpAx → CmpAx) : (m.modCmp i f).now = m.now := rfl
@[simp] theorem Mach.modCmp_reelB (i : Nat) (f : CmpAx → CmpAx) : (m.modCmp i f).reelB = m.reelB := rfl
@[simp] theorem Mach.modCmp_reelT (i : Nat) (f : CmpAx → CmpAx) : (m.modCmp i f).reelT = m.reelT := rfl
@[simp] theorem Mach.modCmp_reelRate (i : Nat) (f : CmpAx → CmpAx) : (m.modCmp i f).reelRate = m.reelRate := rfl
@[simp] theorem Mach.modCmp_wallB (i : Nat) (f : CmpAx → CmpAx) : (m.modCmp i f).wallB = m.wallB := rfl
@[simp] theorem Mach.modCmp_wallT (i : Nat) (f : CmpAx → CmpAx) : (m.modCmp i f).wallT = m.wallT := rfl
@[simp] theorem Mach.modCmp_wallRate (i : Nat) (f : CmpAx → CmpAx) : (m.modCmp i f).wallRate = m.wallRate := rfl
@[simp] theorem Mach.modCmp_fresh (i : Nat) (f : CmpAx → CmpAx) : (m.modCmp i f).fresh = m.fresh := rfl
@[simp] theorem Mach.modCmp_twinPres (i : Nat) (f : CmpAx → CmpAx) : (m.modCmp i f).twinPres = m.twinPres := rfl
@[simp] theorem Mach.modCmp_twinB (i : Nat) (f : CmpAx → CmpAx) : (m.modCmp i f).twinB = m.twinB := rfl
@[simp] theorem Mach.modCmp_evq (i : Nat) (f : CmpAx → CmpAx) : (m.modCmp i f).evq = m.evq := rfl
@[simp] theorem Mach.modCmp_evDropped (i : Nat) (f : CmpAx → CmpAx) : (m.modCmp i f).evDropped = m.evDropped := rfl
@[simp] theorem Mach.modCmp_runs (i : Nat) (f : CmpAx → CmpAx) : (m.modCmp i f).runs = m.runs := rfl
@[simp] theorem Mach.modCmp_logBuf (i : Nat) (f : CmpAx → CmpAx) : (m.modCmp i f).logBuf = m.logBuf := rfl
@[simp] theorem Mach.modCmp_logLost (i : Nat) (f : CmpAx → CmpAx) : (m.modCmp i f).logLost = m.logLost := rfl
@[simp] theorem Mach.modCmp_fioCh (i : Nat) (f : CmpAx → CmpAx) : (m.modCmp i f).fioCh = m.fioCh := rfl
@[simp] theorem Mach.modCmp_swActs (i : Nat) (f : CmpAx → CmpAx) : (m.modCmp i f).swActs = m.swActs := rfl
@[simp] theorem Mach.modCmp_fioW (i : Nat) (f : CmpAx → CmpAx) : (m.modCmp i f).fioW = m.fioW := rfl
@[simp] theorem Mach.modCmp_fioC (i : Nat) (f : CmpAx → CmpAx) : (m.modCmp i f).fioC = m.fioC := rfl
@[simp] theorem Mach.modCmp_pos (i : Nat) (f : CmpAx → CmpAx) : (m.modCmp i f).pos = m.pos := rfl
@[simp] theorem Mach.modCmp_pulses (i : Nat) (f : CmpAx → CmpAx) : (m.modCmp i f).pulses = m.pulses := rfl
@[simp] theorem Mach.modCmp_lateUntil (i : Nat) (f : CmpAx → CmpAx) : (m.modCmp i f).lateUntil = m.lateUntil := rfl
@[simp] theorem Mach.modCmp_mon (i : Nat) (f : CmpAx → CmpAx) : (m.modCmp i f).mon = m.mon := rfl
@[simp] theorem Mach.modCmp_verdQ (i : Nat) (f : CmpAx → CmpAx) : (m.modCmp i f).verdQ = m.verdQ := rfl
@[simp] theorem Mach.modCmp_loadAt (i : Nat) (f : CmpAx → CmpAx) : (m.modCmp i f).loadAt = m.loadAt := rfl
@[simp] theorem Mach.modCmp_bucketAt (i : Nat) (f : CmpAx → CmpAx) : (m.modCmp i f).bucketAt = m.bucketAt := rfl
@[simp] theorem Mach.modCmp_started (i : Nat) (f : CmpAx → CmpAx) : (m.modCmp i f).started = m.started := rfl
@[simp] theorem Mach.modCmp_ownVerdicts (i : Nat) (f : CmpAx → CmpAx) : (m.modCmp i f).ownVerdicts = m.ownVerdicts := rfl
@[simp] theorem Mach.modCmp_peerVerdicts (i : Nat) (f : CmpAx → CmpAx) : (m.modCmp i f).peerVerdicts = m.peerVerdicts := rfl
@[simp] theorem Mach.modCmp_ownDigests (i : Nat) (f : CmpAx → CmpAx) : (m.modCmp i f).ownDigests = m.ownDigests := rfl
@[simp] theorem Mach.modCmp_peerDigests (i : Nat) (f : CmpAx → CmpAx) : (m.modCmp i f).peerDigests = m.peerDigests := rfl
@[simp] theorem Mach.modCmp_recBuf (i : Nat) (f : CmpAx → CmpAx) : (m.modCmp i f).recBuf = m.recBuf := rfl
@[simp] theorem Mach.modCmp_recDropped (i : Nat) (f : CmpAx → CmpAx) : (m.modCmp i f).recDropped = m.recDropped := rfl
@[simp] theorem Mach.modCmp_recFirst (i : Nat) (f : CmpAx → CmpAx) : (m.modCmp i f).recFirst = m.recFirst := rfl
@[simp] theorem Mach.modCmp_recFreeze (i : Nat) (f : CmpAx → CmpAx) : (m.modCmp i f).recFreeze = m.recFreeze := rfl
@[simp] theorem Mach.modCmp_grs (i : Nat) (f : CmpAx → CmpAx) : (m.modCmp i f).grs = m.grs := rfl
@[simp] theorem Mach.modCmp_pipes (i : Nat) (f : CmpAx → CmpAx) : (m.modCmp i f).pipes = m.pipes := rfl
@[simp] theorem Mach.modCmp_cxs (i : Nat) (f : CmpAx → CmpAx) : (m.modCmp i f).cxs = m.cxs := rfl
@[simp] theorem Mach.modCmp_eng (i : Nat) (f : CmpAx → CmpAx) : (m.modCmp i f).eng = m.eng := rfl
@[simp] theorem Mach.modCmp_cores (i : Nat) (f : CmpAx → CmpAx) : (m.modCmp i f).cores = m.cores := rfl
@[simp] theorem Mach.modCmp_istore (i : Nat) (f : CmpAx → CmpAx) : (m.modCmp i f).istore = m.istore := rfl
@[simp] theorem Mach.modCmp_ports (i : Nat) (f : CmpAx → CmpAx) : (m.modCmp i f).ports = m.ports := rfl
@[simp] theorem Mach.modCmp_mbxWait (i : Nat) (f : CmpAx → CmpAx) : (m.modCmp i f).mbxWait = m.mbxWait := rfl
@[simp] theorem Mach.modCmp_jobs (i : Nat) (f : CmpAx → CmpAx) : (m.modCmp i f).jobs = m.jobs := rfl
@[simp] theorem Mach.modCmp_msix (i : Nat) (f : CmpAx → CmpAx) : (m.modCmp i f).msix = m.msix := rfl
@[simp] theorem Mach.modCmp_pba (i : Nat) (f : CmpAx → CmpAx) : (m.modCmp i f).pba = m.pba := rfl
@[simp] theorem Mach.modCmp_violated (i : Nat) (f : CmpAx → CmpAx) : (m.modCmp i f).violated = m.violated := rfl
@[simp] theorem Mach.modCmp_clJob (i : Nat) (f : CmpAx → CmpAx) : (m.modCmp i f).clJob = m.clJob := rfl
@[simp] theorem Mach.modCmp_asms (i : Nat) (f : CmpAx → CmpAx) : (m.modCmp i f).asms = m.asms := rfl
@[simp] theorem Mach.modCmp_clq (i : Nat) (f : CmpAx → CmpAx) : (m.modCmp i f).clq = m.clq := rfl
@[simp] theorem Mach.modCmp_running (i : Nat) (f : CmpAx → CmpAx) : (m.modCmp i f).running = m.running := rfl
@[simp] theorem Mach.modCmp_tileSeq (i : Nat) (f : CmpAx → CmpAx) : (m.modCmp i f).tileSeq = m.tileSeq := rfl
@[simp] theorem Mach.modCmp_clIdle (i : Nat) (f : CmpAx → CmpAx) : (m.modCmp i f).clIdle = m.clIdle := rfl
@[simp] theorem Mach.modCmp_jobRt (i : Nat) (f : CmpAx → CmpAx) : (m.modCmp i f).jobRt = m.jobRt := rfl
@[simp] theorem Mach.modCmp_switching (i : Nat) (f : CmpAx → CmpAx) : (m.modCmp i f).switching = m.switching := rfl
@[simp] theorem Mach.modCmp_restart (i : Nat) (f : CmpAx → CmpAx) : (m.modCmp i f).restart = m.restart := rfl
@[simp] theorem Mach.modCmp_chain (i : Nat) (f : CmpAx → CmpAx) : (m.modCmp i f).chain = m.chain := rfl
@[simp] theorem Mach.modCmp_shed (i : Nat) (f : CmpAx → CmpAx) : (m.modCmp i f).shed = m.shed := rfl
@[simp] theorem Mach.modCmp_hop (i : Nat) (f : CmpAx → CmpAx) : (m.modCmp i f).hop = m.hop := rfl
@[simp] theorem Mach.modCmp_pages (i : Nat) (f : CmpAx → CmpAx) : (m.modCmp i f).pages = m.pages := rfl
@[simp] theorem Mach.modCmp_widx (i : Nat) (f : CmpAx → CmpAx) : (m.modCmp i f).widx = m.widx := rfl
@[simp] theorem Mach.modCmp_tbuf (i : Nat) (f : CmpAx → CmpAx) : (m.modCmp i f).tbuf = m.tbuf := rfl
@[simp] theorem Mach.modCmp_lanes (i : Nat) (f : CmpAx → CmpAx) : (m.modCmp i f).lanes = m.lanes := rfl
@[simp] theorem Mach.modCmp_links (i : Nat) (f : CmpAx → CmpAx) : (m.modCmp i f).links = m.links := rfl
@[simp] theorem Mach.modCmp_tng (i : Nat) (f : CmpAx → CmpAx) : (m.modCmp i f).tng = m.tng := rfl
@[simp] theorem Mach.modCmp_pkgDigest (i : Nat) (f : CmpAx → CmpAx) : (m.modCmp i f).pkgDigest = m.pkgDigest := rfl
@[simp] theorem Mach.modCmp_lastMode (i : Nat) (f : CmpAx → CmpAx) : (m.modCmp i f).lastMode = m.lastMode := rfl
@[simp] theorem Mach.modCmp_rplSeen (i : Nat) (f : CmpAx → CmpAx) : (m.modCmp i f).rplSeen = m.rplSeen := rfl
@[simp] theorem Mach.modCmp_rplRec (i : Nat) (f : CmpAx → CmpAx) : (m.modCmp i f).rplRec = m.rplRec := rfl
@[simp] theorem Mach.modCmp_spg (i : Nat) (f : CmpAx → CmpAx) : (m.modCmp i f).spg = m.spg := rfl
@[simp] theorem Mach.modCmp_drbgAt (i : Nat) (f : CmpAx → CmpAx) : (m.modCmp i f).drbgAt = m.drbgAt := rfl
@[simp] theorem Mach.modCmp_drbgN (i : Nat) (f : CmpAx → CmpAx) : (m.modCmp i f).drbgN = m.drbgN := rfl
@[simp] theorem Mach.modCmp_healthRun (i : Nat) (f : CmpAx → CmpAx) : (m.modCmp i f).healthRun = m.healthRun := rfl
@[simp] theorem Mach.modCmp_reelGood (i : Nat) (f : CmpAx → CmpAx) : (m.modCmp i f).reelGood = m.reelGood := rfl
@[simp] theorem Mach.modCmp_reelOff (i : Nat) (f : CmpAx → CmpAx) : (m.modCmp i f).reelOff = m.reelOff := rfl
@[simp] theorem Mach.modCmp_reelSeen (i : Nat) (f : CmpAx → CmpAx) : (m.modCmp i f).reelSeen = m.reelSeen := rfl
@[simp] theorem Mach.modCmp_keysAt (i : Nat) (f : CmpAx → CmpAx) : (m.modCmp i f).keysAt = m.keysAt := rfl
@[simp] theorem Mach.modCmp_recCkpts (i : Nat) (f : CmpAx → CmpAx) : (m.modCmp i f).recCkpts = m.recCkpts := rfl
@[simp] theorem Mach.modCmp_ckptAt (i : Nat) (f : CmpAx → CmpAx) : (m.modCmp i f).ckptAt = m.ckptAt := rfl
@[simp] theorem Mach.modCmp_ckptN (i : Nat) (f : CmpAx → CmpAx) : (m.modCmp i f).ckptN = m.ckptN := rfl
@[simp] theorem Mach.modCmp_rplPos (i : Nat) (f : CmpAx → CmpAx) : (m.modCmp i f).rplPos = m.rplPos := rfl
@[simp] theorem Mach.modCmp_rplOff (i : Nat) (f : CmpAx → CmpAx) : (m.modCmp i f).rplOff = m.rplOff := rfl
@[simp] theorem Mach.modCmp_rplExp (i : Nat) (f : CmpAx → CmpAx) : (m.modCmp i f).rplExp = m.rplExp := rfl
@[simp] theorem Mach.modCmp_rplCov (i : Nat) (f : CmpAx → CmpAx) : (m.modCmp i f).rplCov = m.rplCov := rfl
@[simp] theorem Mach.modCmp_rplChoices (i : Nat) (f : CmpAx → CmpAx) : (m.modCmp i f).rplChoices = m.rplChoices := rfl
@[simp] theorem Mach.modCmp_rplPre (i : Nat) (f : CmpAx → CmpAx) : (m.modCmp i f).rplPre = m.rplPre := rfl
@[simp] theorem Mach.modCmp_hostOut (i : Nat) (f : CmpAx → CmpAx) : (m.modCmp i f).hostOut = m.hostOut := rfl
@[simp] theorem Mach.modCmp_pcieOut (i : Nat) (f : CmpAx → CmpAx) : (m.modCmp i f).pcieOut = m.pcieOut := rfl
@[simp] theorem Mach.modCmp_tracer (i : Nat) (f : CmpAx → CmpAx) : (m.modCmp i f).tracer = m.tracer := rfl
@[simp] theorem Mach.modCmp_prof (i : Nat) (f : CmpAx → CmpAx) : (m.modCmp i f).prof = m.prof := rfl
@[simp] theorem Mach.modCmp_evtAt (i : Nat) (f : CmpAx → CmpAx) : (m.modCmp i f).evtAt = m.evtAt := rfl
@[simp] theorem Mach.modCmp_nvm (i : Nat) (f : CmpAx → CmpAx) : (m.modCmp i f).nvm = m.nvm := rfl
@[simp] theorem Mach.modCmp_pkg (i : Nat) (f : CmpAx → CmpAx) : (m.modCmp i f).pkg = m.pkg := rfl
@[simp] theorem Mach.modCmp_supply (i : Nat) (f : CmpAx → CmpAx) : (m.modCmp i f).supply = m.supply := rfl
@[simp] theorem Mach.modCmp_rst (i : Nat) (f : CmpAx → CmpAx) : (m.modCmp i f).rst = m.rst := rfl
@[simp] theorem Mach.modCmp_log (i : Nat) (f : CmpAx → CmpAx) : (m.modCmp i f).log = m.log := rfl
@[simp] theorem Mach.modCmp_mgt (i : Nat) (f : CmpAx → CmpAx) : (m.modCmp i f).mgt = m.mgt := rfl
@[simp] theorem Mach.modCmp_tim (i : Nat) (f : CmpAx → CmpAx) : (m.modCmp i f).tim = m.tim := rfl
@[simp] theorem Mach.modCmp_kiln (i : Nat) (f : CmpAx → CmpAx) : (m.modCmp i f).kiln = m.kiln := rfl
@[simp] theorem Mach.modCmp_snap (i : Nat) (f : CmpAx → CmpAx) : (m.modCmp i f).snap = m.snap := rfl
@[simp] theorem Mach.modCmp_hostIn (i : Nat) (f : CmpAx → CmpAx) : (m.modCmp i f).hostIn = m.hostIn := rfl
@[simp] theorem Mach.modCmp_dramKeys (i : Nat) (f : CmpAx → CmpAx) : (m.modCmp i f).dramKeys = m.dramKeys := rfl

/-! ## `setPulse` -/

@[simp] theorem Mach.setPulse_now (i : Nat) (f : Option Pulse) : (m.setPulse i f).now = m.now := rfl
@[simp] theorem Mach.setPulse_reelB (i : Nat) (f : Option Pulse) : (m.setPulse i f).reelB = m.reelB := rfl
@[simp] theorem Mach.setPulse_reelT (i : Nat) (f : Option Pulse) : (m.setPulse i f).reelT = m.reelT := rfl
@[simp] theorem Mach.setPulse_reelRate (i : Nat) (f : Option Pulse) : (m.setPulse i f).reelRate = m.reelRate := rfl
@[simp] theorem Mach.setPulse_wallB (i : Nat) (f : Option Pulse) : (m.setPulse i f).wallB = m.wallB := rfl
@[simp] theorem Mach.setPulse_wallT (i : Nat) (f : Option Pulse) : (m.setPulse i f).wallT = m.wallT := rfl
@[simp] theorem Mach.setPulse_wallRate (i : Nat) (f : Option Pulse) : (m.setPulse i f).wallRate = m.wallRate := rfl
@[simp] theorem Mach.setPulse_regs (i : Nat) (f : Option Pulse) : (m.setPulse i f).regs = m.regs := rfl
@[simp] theorem Mach.setPulse_fresh (i : Nat) (f : Option Pulse) : (m.setPulse i f).fresh = m.fresh := rfl
@[simp] theorem Mach.setPulse_twinPres (i : Nat) (f : Option Pulse) : (m.setPulse i f).twinPres = m.twinPres := rfl
@[simp] theorem Mach.setPulse_twinB (i : Nat) (f : Option Pulse) : (m.setPulse i f).twinB = m.twinB := rfl
@[simp] theorem Mach.setPulse_evq (i : Nat) (f : Option Pulse) : (m.setPulse i f).evq = m.evq := rfl
@[simp] theorem Mach.setPulse_evDropped (i : Nat) (f : Option Pulse) : (m.setPulse i f).evDropped = m.evDropped := rfl
@[simp] theorem Mach.setPulse_runs (i : Nat) (f : Option Pulse) : (m.setPulse i f).runs = m.runs := rfl
@[simp] theorem Mach.setPulse_logBuf (i : Nat) (f : Option Pulse) : (m.setPulse i f).logBuf = m.logBuf := rfl
@[simp] theorem Mach.setPulse_logLost (i : Nat) (f : Option Pulse) : (m.setPulse i f).logLost = m.logLost := rfl
@[simp] theorem Mach.setPulse_fioCh (i : Nat) (f : Option Pulse) : (m.setPulse i f).fioCh = m.fioCh := rfl
@[simp] theorem Mach.setPulse_swActs (i : Nat) (f : Option Pulse) : (m.setPulse i f).swActs = m.swActs := rfl
@[simp] theorem Mach.setPulse_fioW (i : Nat) (f : Option Pulse) : (m.setPulse i f).fioW = m.fioW := rfl
@[simp] theorem Mach.setPulse_fioC (i : Nat) (f : Option Pulse) : (m.setPulse i f).fioC = m.fioC := rfl
@[simp] theorem Mach.setPulse_pos (i : Nat) (f : Option Pulse) : (m.setPulse i f).pos = m.pos := rfl
@[simp] theorem Mach.setPulse_cmp (i : Nat) (f : Option Pulse) : (m.setPulse i f).cmp = m.cmp := rfl
@[simp] theorem Mach.setPulse_lateUntil (i : Nat) (f : Option Pulse) : (m.setPulse i f).lateUntil = m.lateUntil := rfl
@[simp] theorem Mach.setPulse_mon (i : Nat) (f : Option Pulse) : (m.setPulse i f).mon = m.mon := rfl
@[simp] theorem Mach.setPulse_verdQ (i : Nat) (f : Option Pulse) : (m.setPulse i f).verdQ = m.verdQ := rfl
@[simp] theorem Mach.setPulse_loadAt (i : Nat) (f : Option Pulse) : (m.setPulse i f).loadAt = m.loadAt := rfl
@[simp] theorem Mach.setPulse_bucketAt (i : Nat) (f : Option Pulse) : (m.setPulse i f).bucketAt = m.bucketAt := rfl
@[simp] theorem Mach.setPulse_started (i : Nat) (f : Option Pulse) : (m.setPulse i f).started = m.started := rfl
@[simp] theorem Mach.setPulse_ownVerdicts (i : Nat) (f : Option Pulse) : (m.setPulse i f).ownVerdicts = m.ownVerdicts := rfl
@[simp] theorem Mach.setPulse_peerVerdicts (i : Nat) (f : Option Pulse) : (m.setPulse i f).peerVerdicts = m.peerVerdicts := rfl
@[simp] theorem Mach.setPulse_ownDigests (i : Nat) (f : Option Pulse) : (m.setPulse i f).ownDigests = m.ownDigests := rfl
@[simp] theorem Mach.setPulse_peerDigests (i : Nat) (f : Option Pulse) : (m.setPulse i f).peerDigests = m.peerDigests := rfl
@[simp] theorem Mach.setPulse_recBuf (i : Nat) (f : Option Pulse) : (m.setPulse i f).recBuf = m.recBuf := rfl
@[simp] theorem Mach.setPulse_recDropped (i : Nat) (f : Option Pulse) : (m.setPulse i f).recDropped = m.recDropped := rfl
@[simp] theorem Mach.setPulse_recFirst (i : Nat) (f : Option Pulse) : (m.setPulse i f).recFirst = m.recFirst := rfl
@[simp] theorem Mach.setPulse_recFreeze (i : Nat) (f : Option Pulse) : (m.setPulse i f).recFreeze = m.recFreeze := rfl
@[simp] theorem Mach.setPulse_grs (i : Nat) (f : Option Pulse) : (m.setPulse i f).grs = m.grs := rfl
@[simp] theorem Mach.setPulse_pipes (i : Nat) (f : Option Pulse) : (m.setPulse i f).pipes = m.pipes := rfl
@[simp] theorem Mach.setPulse_cxs (i : Nat) (f : Option Pulse) : (m.setPulse i f).cxs = m.cxs := rfl
@[simp] theorem Mach.setPulse_eng (i : Nat) (f : Option Pulse) : (m.setPulse i f).eng = m.eng := rfl
@[simp] theorem Mach.setPulse_cores (i : Nat) (f : Option Pulse) : (m.setPulse i f).cores = m.cores := rfl
@[simp] theorem Mach.setPulse_istore (i : Nat) (f : Option Pulse) : (m.setPulse i f).istore = m.istore := rfl
@[simp] theorem Mach.setPulse_ports (i : Nat) (f : Option Pulse) : (m.setPulse i f).ports = m.ports := rfl
@[simp] theorem Mach.setPulse_mbxWait (i : Nat) (f : Option Pulse) : (m.setPulse i f).mbxWait = m.mbxWait := rfl
@[simp] theorem Mach.setPulse_jobs (i : Nat) (f : Option Pulse) : (m.setPulse i f).jobs = m.jobs := rfl
@[simp] theorem Mach.setPulse_msix (i : Nat) (f : Option Pulse) : (m.setPulse i f).msix = m.msix := rfl
@[simp] theorem Mach.setPulse_pba (i : Nat) (f : Option Pulse) : (m.setPulse i f).pba = m.pba := rfl
@[simp] theorem Mach.setPulse_violated (i : Nat) (f : Option Pulse) : (m.setPulse i f).violated = m.violated := rfl
@[simp] theorem Mach.setPulse_clJob (i : Nat) (f : Option Pulse) : (m.setPulse i f).clJob = m.clJob := rfl
@[simp] theorem Mach.setPulse_asms (i : Nat) (f : Option Pulse) : (m.setPulse i f).asms = m.asms := rfl
@[simp] theorem Mach.setPulse_clq (i : Nat) (f : Option Pulse) : (m.setPulse i f).clq = m.clq := rfl
@[simp] theorem Mach.setPulse_running (i : Nat) (f : Option Pulse) : (m.setPulse i f).running = m.running := rfl
@[simp] theorem Mach.setPulse_tileSeq (i : Nat) (f : Option Pulse) : (m.setPulse i f).tileSeq = m.tileSeq := rfl
@[simp] theorem Mach.setPulse_clIdle (i : Nat) (f : Option Pulse) : (m.setPulse i f).clIdle = m.clIdle := rfl
@[simp] theorem Mach.setPulse_jobRt (i : Nat) (f : Option Pulse) : (m.setPulse i f).jobRt = m.jobRt := rfl
@[simp] theorem Mach.setPulse_switching (i : Nat) (f : Option Pulse) : (m.setPulse i f).switching = m.switching := rfl
@[simp] theorem Mach.setPulse_restart (i : Nat) (f : Option Pulse) : (m.setPulse i f).restart = m.restart := rfl
@[simp] theorem Mach.setPulse_chain (i : Nat) (f : Option Pulse) : (m.setPulse i f).chain = m.chain := rfl
@[simp] theorem Mach.setPulse_shed (i : Nat) (f : Option Pulse) : (m.setPulse i f).shed = m.shed := rfl
@[simp] theorem Mach.setPulse_hop (i : Nat) (f : Option Pulse) : (m.setPulse i f).hop = m.hop := rfl
@[simp] theorem Mach.setPulse_pages (i : Nat) (f : Option Pulse) : (m.setPulse i f).pages = m.pages := rfl
@[simp] theorem Mach.setPulse_widx (i : Nat) (f : Option Pulse) : (m.setPulse i f).widx = m.widx := rfl
@[simp] theorem Mach.setPulse_tbuf (i : Nat) (f : Option Pulse) : (m.setPulse i f).tbuf = m.tbuf := rfl
@[simp] theorem Mach.setPulse_lanes (i : Nat) (f : Option Pulse) : (m.setPulse i f).lanes = m.lanes := rfl
@[simp] theorem Mach.setPulse_links (i : Nat) (f : Option Pulse) : (m.setPulse i f).links = m.links := rfl
@[simp] theorem Mach.setPulse_tng (i : Nat) (f : Option Pulse) : (m.setPulse i f).tng = m.tng := rfl
@[simp] theorem Mach.setPulse_pkgDigest (i : Nat) (f : Option Pulse) : (m.setPulse i f).pkgDigest = m.pkgDigest := rfl
@[simp] theorem Mach.setPulse_lastMode (i : Nat) (f : Option Pulse) : (m.setPulse i f).lastMode = m.lastMode := rfl
@[simp] theorem Mach.setPulse_rplSeen (i : Nat) (f : Option Pulse) : (m.setPulse i f).rplSeen = m.rplSeen := rfl
@[simp] theorem Mach.setPulse_rplRec (i : Nat) (f : Option Pulse) : (m.setPulse i f).rplRec = m.rplRec := rfl
@[simp] theorem Mach.setPulse_spg (i : Nat) (f : Option Pulse) : (m.setPulse i f).spg = m.spg := rfl
@[simp] theorem Mach.setPulse_drbgAt (i : Nat) (f : Option Pulse) : (m.setPulse i f).drbgAt = m.drbgAt := rfl
@[simp] theorem Mach.setPulse_drbgN (i : Nat) (f : Option Pulse) : (m.setPulse i f).drbgN = m.drbgN := rfl
@[simp] theorem Mach.setPulse_healthRun (i : Nat) (f : Option Pulse) : (m.setPulse i f).healthRun = m.healthRun := rfl
@[simp] theorem Mach.setPulse_reelGood (i : Nat) (f : Option Pulse) : (m.setPulse i f).reelGood = m.reelGood := rfl
@[simp] theorem Mach.setPulse_reelOff (i : Nat) (f : Option Pulse) : (m.setPulse i f).reelOff = m.reelOff := rfl
@[simp] theorem Mach.setPulse_reelSeen (i : Nat) (f : Option Pulse) : (m.setPulse i f).reelSeen = m.reelSeen := rfl
@[simp] theorem Mach.setPulse_keysAt (i : Nat) (f : Option Pulse) : (m.setPulse i f).keysAt = m.keysAt := rfl
@[simp] theorem Mach.setPulse_recCkpts (i : Nat) (f : Option Pulse) : (m.setPulse i f).recCkpts = m.recCkpts := rfl
@[simp] theorem Mach.setPulse_ckptAt (i : Nat) (f : Option Pulse) : (m.setPulse i f).ckptAt = m.ckptAt := rfl
@[simp] theorem Mach.setPulse_ckptN (i : Nat) (f : Option Pulse) : (m.setPulse i f).ckptN = m.ckptN := rfl
@[simp] theorem Mach.setPulse_rplPos (i : Nat) (f : Option Pulse) : (m.setPulse i f).rplPos = m.rplPos := rfl
@[simp] theorem Mach.setPulse_rplOff (i : Nat) (f : Option Pulse) : (m.setPulse i f).rplOff = m.rplOff := rfl
@[simp] theorem Mach.setPulse_rplExp (i : Nat) (f : Option Pulse) : (m.setPulse i f).rplExp = m.rplExp := rfl
@[simp] theorem Mach.setPulse_rplCov (i : Nat) (f : Option Pulse) : (m.setPulse i f).rplCov = m.rplCov := rfl
@[simp] theorem Mach.setPulse_rplChoices (i : Nat) (f : Option Pulse) : (m.setPulse i f).rplChoices = m.rplChoices := rfl
@[simp] theorem Mach.setPulse_rplPre (i : Nat) (f : Option Pulse) : (m.setPulse i f).rplPre = m.rplPre := rfl
@[simp] theorem Mach.setPulse_hostOut (i : Nat) (f : Option Pulse) : (m.setPulse i f).hostOut = m.hostOut := rfl
@[simp] theorem Mach.setPulse_pcieOut (i : Nat) (f : Option Pulse) : (m.setPulse i f).pcieOut = m.pcieOut := rfl
@[simp] theorem Mach.setPulse_tracer (i : Nat) (f : Option Pulse) : (m.setPulse i f).tracer = m.tracer := rfl
@[simp] theorem Mach.setPulse_prof (i : Nat) (f : Option Pulse) : (m.setPulse i f).prof = m.prof := rfl
@[simp] theorem Mach.setPulse_evtAt (i : Nat) (f : Option Pulse) : (m.setPulse i f).evtAt = m.evtAt := rfl
@[simp] theorem Mach.setPulse_nvm (i : Nat) (f : Option Pulse) : (m.setPulse i f).nvm = m.nvm := rfl
@[simp] theorem Mach.setPulse_pkg (i : Nat) (f : Option Pulse) : (m.setPulse i f).pkg = m.pkg := rfl
@[simp] theorem Mach.setPulse_supply (i : Nat) (f : Option Pulse) : (m.setPulse i f).supply = m.supply := rfl
@[simp] theorem Mach.setPulse_rst (i : Nat) (f : Option Pulse) : (m.setPulse i f).rst = m.rst := rfl
@[simp] theorem Mach.setPulse_log (i : Nat) (f : Option Pulse) : (m.setPulse i f).log = m.log := rfl
@[simp] theorem Mach.setPulse_mgt (i : Nat) (f : Option Pulse) : (m.setPulse i f).mgt = m.mgt := rfl
@[simp] theorem Mach.setPulse_tim (i : Nat) (f : Option Pulse) : (m.setPulse i f).tim = m.tim := rfl
@[simp] theorem Mach.setPulse_kiln (i : Nat) (f : Option Pulse) : (m.setPulse i f).kiln = m.kiln := rfl
@[simp] theorem Mach.setPulse_snap (i : Nat) (f : Option Pulse) : (m.setPulse i f).snap = m.snap := rfl
@[simp] theorem Mach.setPulse_hostIn (i : Nat) (f : Option Pulse) : (m.setPulse i f).hostIn = m.hostIn := rfl
@[simp] theorem Mach.setPulse_dramKeys (i : Nat) (f : Option Pulse) : (m.setPulse i f).dramKeys = m.dramKeys := rfl

/-! ## `modMon` -/

@[simp] theorem Mach.modMon_now (i j : Nat) (f : MonBlk → MonBlk) : (m.modMon i j f).now = m.now := rfl
@[simp] theorem Mach.modMon_regs (i j : Nat) (f : MonBlk → MonBlk) : (m.modMon i j f).regs = m.regs := rfl
@[simp] theorem Mach.modMon_fresh (i j : Nat) (f : MonBlk → MonBlk) : (m.modMon i j f).fresh = m.fresh := rfl
@[simp] theorem Mach.modMon_evq (i j : Nat) (f : MonBlk → MonBlk) : (m.modMon i j f).evq = m.evq := rfl

/-! ## `modGrs` -/

@[simp] theorem Mach.modGrs_now (i : Nat) (f : GrsPort → GrsPort) : (m.modGrs i f).now = m.now := rfl
@[simp] theorem Mach.modGrs_reelB (i : Nat) (f : GrsPort → GrsPort) : (m.modGrs i f).reelB = m.reelB := rfl
@[simp] theorem Mach.modGrs_reelT (i : Nat) (f : GrsPort → GrsPort) : (m.modGrs i f).reelT = m.reelT := rfl
@[simp] theorem Mach.modGrs_reelRate (i : Nat) (f : GrsPort → GrsPort) : (m.modGrs i f).reelRate = m.reelRate := rfl
@[simp] theorem Mach.modGrs_wallB (i : Nat) (f : GrsPort → GrsPort) : (m.modGrs i f).wallB = m.wallB := rfl
@[simp] theorem Mach.modGrs_wallT (i : Nat) (f : GrsPort → GrsPort) : (m.modGrs i f).wallT = m.wallT := rfl
@[simp] theorem Mach.modGrs_wallRate (i : Nat) (f : GrsPort → GrsPort) : (m.modGrs i f).wallRate = m.wallRate := rfl
@[simp] theorem Mach.modGrs_regs (i : Nat) (f : GrsPort → GrsPort) : (m.modGrs i f).regs = m.regs := rfl
@[simp] theorem Mach.modGrs_fresh (i : Nat) (f : GrsPort → GrsPort) : (m.modGrs i f).fresh = m.fresh := rfl
@[simp] theorem Mach.modGrs_twinPres (i : Nat) (f : GrsPort → GrsPort) : (m.modGrs i f).twinPres = m.twinPres := rfl
@[simp] theorem Mach.modGrs_twinB (i : Nat) (f : GrsPort → GrsPort) : (m.modGrs i f).twinB = m.twinB := rfl
@[simp] theorem Mach.modGrs_evq (i : Nat) (f : GrsPort → GrsPort) : (m.modGrs i f).evq = m.evq := rfl
@[simp] theorem Mach.modGrs_evDropped (i : Nat) (f : GrsPort → GrsPort) : (m.modGrs i f).evDropped = m.evDropped := rfl
@[simp] theorem Mach.modGrs_runs (i : Nat) (f : GrsPort → GrsPort) : (m.modGrs i f).runs = m.runs := rfl
@[simp] theorem Mach.modGrs_logBuf (i : Nat) (f : GrsPort → GrsPort) : (m.modGrs i f).logBuf = m.logBuf := rfl
@[simp] theorem Mach.modGrs_logLost (i : Nat) (f : GrsPort → GrsPort) : (m.modGrs i f).logLost = m.logLost := rfl
@[simp] theorem Mach.modGrs_fioCh (i : Nat) (f : GrsPort → GrsPort) : (m.modGrs i f).fioCh = m.fioCh := rfl
@[simp] theorem Mach.modGrs_swActs (i : Nat) (f : GrsPort → GrsPort) : (m.modGrs i f).swActs = m.swActs := rfl
@[simp] theorem Mach.modGrs_fioW (i : Nat) (f : GrsPort → GrsPort) : (m.modGrs i f).fioW = m.fioW := rfl
@[simp] theorem Mach.modGrs_fioC (i : Nat) (f : GrsPort → GrsPort) : (m.modGrs i f).fioC = m.fioC := rfl
@[simp] theorem Mach.modGrs_pos (i : Nat) (f : GrsPort → GrsPort) : (m.modGrs i f).pos = m.pos := rfl
@[simp] theorem Mach.modGrs_cmp (i : Nat) (f : GrsPort → GrsPort) : (m.modGrs i f).cmp = m.cmp := rfl
@[simp] theorem Mach.modGrs_pulses (i : Nat) (f : GrsPort → GrsPort) : (m.modGrs i f).pulses = m.pulses := rfl
@[simp] theorem Mach.modGrs_lateUntil (i : Nat) (f : GrsPort → GrsPort) : (m.modGrs i f).lateUntil = m.lateUntil := rfl
@[simp] theorem Mach.modGrs_mon (i : Nat) (f : GrsPort → GrsPort) : (m.modGrs i f).mon = m.mon := rfl
@[simp] theorem Mach.modGrs_verdQ (i : Nat) (f : GrsPort → GrsPort) : (m.modGrs i f).verdQ = m.verdQ := rfl
@[simp] theorem Mach.modGrs_loadAt (i : Nat) (f : GrsPort → GrsPort) : (m.modGrs i f).loadAt = m.loadAt := rfl
@[simp] theorem Mach.modGrs_bucketAt (i : Nat) (f : GrsPort → GrsPort) : (m.modGrs i f).bucketAt = m.bucketAt := rfl
@[simp] theorem Mach.modGrs_started (i : Nat) (f : GrsPort → GrsPort) : (m.modGrs i f).started = m.started := rfl
@[simp] theorem Mach.modGrs_ownVerdicts (i : Nat) (f : GrsPort → GrsPort) : (m.modGrs i f).ownVerdicts = m.ownVerdicts := rfl
@[simp] theorem Mach.modGrs_peerVerdicts (i : Nat) (f : GrsPort → GrsPort) : (m.modGrs i f).peerVerdicts = m.peerVerdicts := rfl
@[simp] theorem Mach.modGrs_ownDigests (i : Nat) (f : GrsPort → GrsPort) : (m.modGrs i f).ownDigests = m.ownDigests := rfl
@[simp] theorem Mach.modGrs_peerDigests (i : Nat) (f : GrsPort → GrsPort) : (m.modGrs i f).peerDigests = m.peerDigests := rfl
@[simp] theorem Mach.modGrs_recBuf (i : Nat) (f : GrsPort → GrsPort) : (m.modGrs i f).recBuf = m.recBuf := rfl
@[simp] theorem Mach.modGrs_recDropped (i : Nat) (f : GrsPort → GrsPort) : (m.modGrs i f).recDropped = m.recDropped := rfl
@[simp] theorem Mach.modGrs_recFirst (i : Nat) (f : GrsPort → GrsPort) : (m.modGrs i f).recFirst = m.recFirst := rfl
@[simp] theorem Mach.modGrs_recFreeze (i : Nat) (f : GrsPort → GrsPort) : (m.modGrs i f).recFreeze = m.recFreeze := rfl
@[simp] theorem Mach.modGrs_pipes (i : Nat) (f : GrsPort → GrsPort) : (m.modGrs i f).pipes = m.pipes := rfl
@[simp] theorem Mach.modGrs_cxs (i : Nat) (f : GrsPort → GrsPort) : (m.modGrs i f).cxs = m.cxs := rfl
@[simp] theorem Mach.modGrs_eng (i : Nat) (f : GrsPort → GrsPort) : (m.modGrs i f).eng = m.eng := rfl
@[simp] theorem Mach.modGrs_cores (i : Nat) (f : GrsPort → GrsPort) : (m.modGrs i f).cores = m.cores := rfl
@[simp] theorem Mach.modGrs_istore (i : Nat) (f : GrsPort → GrsPort) : (m.modGrs i f).istore = m.istore := rfl
@[simp] theorem Mach.modGrs_ports (i : Nat) (f : GrsPort → GrsPort) : (m.modGrs i f).ports = m.ports := rfl
@[simp] theorem Mach.modGrs_mbxWait (i : Nat) (f : GrsPort → GrsPort) : (m.modGrs i f).mbxWait = m.mbxWait := rfl
@[simp] theorem Mach.modGrs_jobs (i : Nat) (f : GrsPort → GrsPort) : (m.modGrs i f).jobs = m.jobs := rfl
@[simp] theorem Mach.modGrs_msix (i : Nat) (f : GrsPort → GrsPort) : (m.modGrs i f).msix = m.msix := rfl
@[simp] theorem Mach.modGrs_pba (i : Nat) (f : GrsPort → GrsPort) : (m.modGrs i f).pba = m.pba := rfl
@[simp] theorem Mach.modGrs_violated (i : Nat) (f : GrsPort → GrsPort) : (m.modGrs i f).violated = m.violated := rfl
@[simp] theorem Mach.modGrs_clJob (i : Nat) (f : GrsPort → GrsPort) : (m.modGrs i f).clJob = m.clJob := rfl
@[simp] theorem Mach.modGrs_asms (i : Nat) (f : GrsPort → GrsPort) : (m.modGrs i f).asms = m.asms := rfl
@[simp] theorem Mach.modGrs_clq (i : Nat) (f : GrsPort → GrsPort) : (m.modGrs i f).clq = m.clq := rfl
@[simp] theorem Mach.modGrs_running (i : Nat) (f : GrsPort → GrsPort) : (m.modGrs i f).running = m.running := rfl
@[simp] theorem Mach.modGrs_tileSeq (i : Nat) (f : GrsPort → GrsPort) : (m.modGrs i f).tileSeq = m.tileSeq := rfl
@[simp] theorem Mach.modGrs_clIdle (i : Nat) (f : GrsPort → GrsPort) : (m.modGrs i f).clIdle = m.clIdle := rfl
@[simp] theorem Mach.modGrs_jobRt (i : Nat) (f : GrsPort → GrsPort) : (m.modGrs i f).jobRt = m.jobRt := rfl
@[simp] theorem Mach.modGrs_switching (i : Nat) (f : GrsPort → GrsPort) : (m.modGrs i f).switching = m.switching := rfl
@[simp] theorem Mach.modGrs_restart (i : Nat) (f : GrsPort → GrsPort) : (m.modGrs i f).restart = m.restart := rfl
@[simp] theorem Mach.modGrs_chain (i : Nat) (f : GrsPort → GrsPort) : (m.modGrs i f).chain = m.chain := rfl
@[simp] theorem Mach.modGrs_shed (i : Nat) (f : GrsPort → GrsPort) : (m.modGrs i f).shed = m.shed := rfl
@[simp] theorem Mach.modGrs_hop (i : Nat) (f : GrsPort → GrsPort) : (m.modGrs i f).hop = m.hop := rfl
@[simp] theorem Mach.modGrs_pages (i : Nat) (f : GrsPort → GrsPort) : (m.modGrs i f).pages = m.pages := rfl
@[simp] theorem Mach.modGrs_widx (i : Nat) (f : GrsPort → GrsPort) : (m.modGrs i f).widx = m.widx := rfl
@[simp] theorem Mach.modGrs_tbuf (i : Nat) (f : GrsPort → GrsPort) : (m.modGrs i f).tbuf = m.tbuf := rfl
@[simp] theorem Mach.modGrs_lanes (i : Nat) (f : GrsPort → GrsPort) : (m.modGrs i f).lanes = m.lanes := rfl
@[simp] theorem Mach.modGrs_links (i : Nat) (f : GrsPort → GrsPort) : (m.modGrs i f).links = m.links := rfl
@[simp] theorem Mach.modGrs_tng (i : Nat) (f : GrsPort → GrsPort) : (m.modGrs i f).tng = m.tng := rfl
@[simp] theorem Mach.modGrs_pkgDigest (i : Nat) (f : GrsPort → GrsPort) : (m.modGrs i f).pkgDigest = m.pkgDigest := rfl
@[simp] theorem Mach.modGrs_lastMode (i : Nat) (f : GrsPort → GrsPort) : (m.modGrs i f).lastMode = m.lastMode := rfl
@[simp] theorem Mach.modGrs_rplSeen (i : Nat) (f : GrsPort → GrsPort) : (m.modGrs i f).rplSeen = m.rplSeen := rfl
@[simp] theorem Mach.modGrs_rplRec (i : Nat) (f : GrsPort → GrsPort) : (m.modGrs i f).rplRec = m.rplRec := rfl
@[simp] theorem Mach.modGrs_spg (i : Nat) (f : GrsPort → GrsPort) : (m.modGrs i f).spg = m.spg := rfl
@[simp] theorem Mach.modGrs_drbgAt (i : Nat) (f : GrsPort → GrsPort) : (m.modGrs i f).drbgAt = m.drbgAt := rfl
@[simp] theorem Mach.modGrs_drbgN (i : Nat) (f : GrsPort → GrsPort) : (m.modGrs i f).drbgN = m.drbgN := rfl
@[simp] theorem Mach.modGrs_healthRun (i : Nat) (f : GrsPort → GrsPort) : (m.modGrs i f).healthRun = m.healthRun := rfl
@[simp] theorem Mach.modGrs_reelGood (i : Nat) (f : GrsPort → GrsPort) : (m.modGrs i f).reelGood = m.reelGood := rfl
@[simp] theorem Mach.modGrs_reelOff (i : Nat) (f : GrsPort → GrsPort) : (m.modGrs i f).reelOff = m.reelOff := rfl
@[simp] theorem Mach.modGrs_reelSeen (i : Nat) (f : GrsPort → GrsPort) : (m.modGrs i f).reelSeen = m.reelSeen := rfl
@[simp] theorem Mach.modGrs_keysAt (i : Nat) (f : GrsPort → GrsPort) : (m.modGrs i f).keysAt = m.keysAt := rfl
@[simp] theorem Mach.modGrs_recCkpts (i : Nat) (f : GrsPort → GrsPort) : (m.modGrs i f).recCkpts = m.recCkpts := rfl
@[simp] theorem Mach.modGrs_ckptAt (i : Nat) (f : GrsPort → GrsPort) : (m.modGrs i f).ckptAt = m.ckptAt := rfl
@[simp] theorem Mach.modGrs_ckptN (i : Nat) (f : GrsPort → GrsPort) : (m.modGrs i f).ckptN = m.ckptN := rfl
@[simp] theorem Mach.modGrs_rplPos (i : Nat) (f : GrsPort → GrsPort) : (m.modGrs i f).rplPos = m.rplPos := rfl
@[simp] theorem Mach.modGrs_rplOff (i : Nat) (f : GrsPort → GrsPort) : (m.modGrs i f).rplOff = m.rplOff := rfl
@[simp] theorem Mach.modGrs_rplExp (i : Nat) (f : GrsPort → GrsPort) : (m.modGrs i f).rplExp = m.rplExp := rfl
@[simp] theorem Mach.modGrs_rplCov (i : Nat) (f : GrsPort → GrsPort) : (m.modGrs i f).rplCov = m.rplCov := rfl
@[simp] theorem Mach.modGrs_rplChoices (i : Nat) (f : GrsPort → GrsPort) : (m.modGrs i f).rplChoices = m.rplChoices := rfl
@[simp] theorem Mach.modGrs_rplPre (i : Nat) (f : GrsPort → GrsPort) : (m.modGrs i f).rplPre = m.rplPre := rfl
@[simp] theorem Mach.modGrs_hostOut (i : Nat) (f : GrsPort → GrsPort) : (m.modGrs i f).hostOut = m.hostOut := rfl
@[simp] theorem Mach.modGrs_pcieOut (i : Nat) (f : GrsPort → GrsPort) : (m.modGrs i f).pcieOut = m.pcieOut := rfl
@[simp] theorem Mach.modGrs_tracer (i : Nat) (f : GrsPort → GrsPort) : (m.modGrs i f).tracer = m.tracer := rfl
@[simp] theorem Mach.modGrs_prof (i : Nat) (f : GrsPort → GrsPort) : (m.modGrs i f).prof = m.prof := rfl
@[simp] theorem Mach.modGrs_evtAt (i : Nat) (f : GrsPort → GrsPort) : (m.modGrs i f).evtAt = m.evtAt := rfl
@[simp] theorem Mach.modGrs_nvm (i : Nat) (f : GrsPort → GrsPort) : (m.modGrs i f).nvm = m.nvm := rfl
@[simp] theorem Mach.modGrs_pkg (i : Nat) (f : GrsPort → GrsPort) : (m.modGrs i f).pkg = m.pkg := rfl
@[simp] theorem Mach.modGrs_supply (i : Nat) (f : GrsPort → GrsPort) : (m.modGrs i f).supply = m.supply := rfl
@[simp] theorem Mach.modGrs_rst (i : Nat) (f : GrsPort → GrsPort) : (m.modGrs i f).rst = m.rst := rfl
@[simp] theorem Mach.modGrs_log (i : Nat) (f : GrsPort → GrsPort) : (m.modGrs i f).log = m.log := rfl
@[simp] theorem Mach.modGrs_mgt (i : Nat) (f : GrsPort → GrsPort) : (m.modGrs i f).mgt = m.mgt := rfl
@[simp] theorem Mach.modGrs_tim (i : Nat) (f : GrsPort → GrsPort) : (m.modGrs i f).tim = m.tim := rfl
@[simp] theorem Mach.modGrs_kiln (i : Nat) (f : GrsPort → GrsPort) : (m.modGrs i f).kiln = m.kiln := rfl
@[simp] theorem Mach.modGrs_snap (i : Nat) (f : GrsPort → GrsPort) : (m.modGrs i f).snap = m.snap := rfl
@[simp] theorem Mach.modGrs_hostIn (i : Nat) (f : GrsPort → GrsPort) : (m.modGrs i f).hostIn = m.hostIn := rfl
@[simp] theorem Mach.modGrs_dramKeys (i : Nat) (f : GrsPort → GrsPort) : (m.modGrs i f).dramKeys = m.dramKeys := rfl

/-! ## `modPipe` -/

@[simp] theorem Mach.modPipe_now (i : Nat) (f : Pipe → Pipe) : (m.modPipe i f).now = m.now := rfl
@[simp] theorem Mach.modPipe_reelB (i : Nat) (f : Pipe → Pipe) : (m.modPipe i f).reelB = m.reelB := rfl
@[simp] theorem Mach.modPipe_reelT (i : Nat) (f : Pipe → Pipe) : (m.modPipe i f).reelT = m.reelT := rfl
@[simp] theorem Mach.modPipe_reelRate (i : Nat) (f : Pipe → Pipe) : (m.modPipe i f).reelRate = m.reelRate := rfl
@[simp] theorem Mach.modPipe_wallB (i : Nat) (f : Pipe → Pipe) : (m.modPipe i f).wallB = m.wallB := rfl
@[simp] theorem Mach.modPipe_wallT (i : Nat) (f : Pipe → Pipe) : (m.modPipe i f).wallT = m.wallT := rfl
@[simp] theorem Mach.modPipe_wallRate (i : Nat) (f : Pipe → Pipe) : (m.modPipe i f).wallRate = m.wallRate := rfl
@[simp] theorem Mach.modPipe_regs (i : Nat) (f : Pipe → Pipe) : (m.modPipe i f).regs = m.regs := rfl
@[simp] theorem Mach.modPipe_fresh (i : Nat) (f : Pipe → Pipe) : (m.modPipe i f).fresh = m.fresh := rfl
@[simp] theorem Mach.modPipe_twinPres (i : Nat) (f : Pipe → Pipe) : (m.modPipe i f).twinPres = m.twinPres := rfl
@[simp] theorem Mach.modPipe_twinB (i : Nat) (f : Pipe → Pipe) : (m.modPipe i f).twinB = m.twinB := rfl
@[simp] theorem Mach.modPipe_evq (i : Nat) (f : Pipe → Pipe) : (m.modPipe i f).evq = m.evq := rfl
@[simp] theorem Mach.modPipe_evDropped (i : Nat) (f : Pipe → Pipe) : (m.modPipe i f).evDropped = m.evDropped := rfl
@[simp] theorem Mach.modPipe_runs (i : Nat) (f : Pipe → Pipe) : (m.modPipe i f).runs = m.runs := rfl
@[simp] theorem Mach.modPipe_logBuf (i : Nat) (f : Pipe → Pipe) : (m.modPipe i f).logBuf = m.logBuf := rfl
@[simp] theorem Mach.modPipe_logLost (i : Nat) (f : Pipe → Pipe) : (m.modPipe i f).logLost = m.logLost := rfl
@[simp] theorem Mach.modPipe_fioCh (i : Nat) (f : Pipe → Pipe) : (m.modPipe i f).fioCh = m.fioCh := rfl
@[simp] theorem Mach.modPipe_swActs (i : Nat) (f : Pipe → Pipe) : (m.modPipe i f).swActs = m.swActs := rfl
@[simp] theorem Mach.modPipe_fioW (i : Nat) (f : Pipe → Pipe) : (m.modPipe i f).fioW = m.fioW := rfl
@[simp] theorem Mach.modPipe_fioC (i : Nat) (f : Pipe → Pipe) : (m.modPipe i f).fioC = m.fioC := rfl
@[simp] theorem Mach.modPipe_pos (i : Nat) (f : Pipe → Pipe) : (m.modPipe i f).pos = m.pos := rfl
@[simp] theorem Mach.modPipe_cmp (i : Nat) (f : Pipe → Pipe) : (m.modPipe i f).cmp = m.cmp := rfl
@[simp] theorem Mach.modPipe_pulses (i : Nat) (f : Pipe → Pipe) : (m.modPipe i f).pulses = m.pulses := rfl
@[simp] theorem Mach.modPipe_lateUntil (i : Nat) (f : Pipe → Pipe) : (m.modPipe i f).lateUntil = m.lateUntil := rfl
@[simp] theorem Mach.modPipe_mon (i : Nat) (f : Pipe → Pipe) : (m.modPipe i f).mon = m.mon := rfl
@[simp] theorem Mach.modPipe_verdQ (i : Nat) (f : Pipe → Pipe) : (m.modPipe i f).verdQ = m.verdQ := rfl
@[simp] theorem Mach.modPipe_loadAt (i : Nat) (f : Pipe → Pipe) : (m.modPipe i f).loadAt = m.loadAt := rfl
@[simp] theorem Mach.modPipe_bucketAt (i : Nat) (f : Pipe → Pipe) : (m.modPipe i f).bucketAt = m.bucketAt := rfl
@[simp] theorem Mach.modPipe_started (i : Nat) (f : Pipe → Pipe) : (m.modPipe i f).started = m.started := rfl
@[simp] theorem Mach.modPipe_ownVerdicts (i : Nat) (f : Pipe → Pipe) : (m.modPipe i f).ownVerdicts = m.ownVerdicts := rfl
@[simp] theorem Mach.modPipe_peerVerdicts (i : Nat) (f : Pipe → Pipe) : (m.modPipe i f).peerVerdicts = m.peerVerdicts := rfl
@[simp] theorem Mach.modPipe_ownDigests (i : Nat) (f : Pipe → Pipe) : (m.modPipe i f).ownDigests = m.ownDigests := rfl
@[simp] theorem Mach.modPipe_peerDigests (i : Nat) (f : Pipe → Pipe) : (m.modPipe i f).peerDigests = m.peerDigests := rfl
@[simp] theorem Mach.modPipe_recBuf (i : Nat) (f : Pipe → Pipe) : (m.modPipe i f).recBuf = m.recBuf := rfl
@[simp] theorem Mach.modPipe_recDropped (i : Nat) (f : Pipe → Pipe) : (m.modPipe i f).recDropped = m.recDropped := rfl
@[simp] theorem Mach.modPipe_recFirst (i : Nat) (f : Pipe → Pipe) : (m.modPipe i f).recFirst = m.recFirst := rfl
@[simp] theorem Mach.modPipe_recFreeze (i : Nat) (f : Pipe → Pipe) : (m.modPipe i f).recFreeze = m.recFreeze := rfl
@[simp] theorem Mach.modPipe_grs (i : Nat) (f : Pipe → Pipe) : (m.modPipe i f).grs = m.grs := rfl
@[simp] theorem Mach.modPipe_cxs (i : Nat) (f : Pipe → Pipe) : (m.modPipe i f).cxs = m.cxs := rfl
@[simp] theorem Mach.modPipe_eng (i : Nat) (f : Pipe → Pipe) : (m.modPipe i f).eng = m.eng := rfl
@[simp] theorem Mach.modPipe_cores (i : Nat) (f : Pipe → Pipe) : (m.modPipe i f).cores = m.cores := rfl
@[simp] theorem Mach.modPipe_istore (i : Nat) (f : Pipe → Pipe) : (m.modPipe i f).istore = m.istore := rfl
@[simp] theorem Mach.modPipe_ports (i : Nat) (f : Pipe → Pipe) : (m.modPipe i f).ports = m.ports := rfl
@[simp] theorem Mach.modPipe_mbxWait (i : Nat) (f : Pipe → Pipe) : (m.modPipe i f).mbxWait = m.mbxWait := rfl
@[simp] theorem Mach.modPipe_jobs (i : Nat) (f : Pipe → Pipe) : (m.modPipe i f).jobs = m.jobs := rfl
@[simp] theorem Mach.modPipe_msix (i : Nat) (f : Pipe → Pipe) : (m.modPipe i f).msix = m.msix := rfl
@[simp] theorem Mach.modPipe_pba (i : Nat) (f : Pipe → Pipe) : (m.modPipe i f).pba = m.pba := rfl
@[simp] theorem Mach.modPipe_violated (i : Nat) (f : Pipe → Pipe) : (m.modPipe i f).violated = m.violated := rfl
@[simp] theorem Mach.modPipe_clJob (i : Nat) (f : Pipe → Pipe) : (m.modPipe i f).clJob = m.clJob := rfl
@[simp] theorem Mach.modPipe_asms (i : Nat) (f : Pipe → Pipe) : (m.modPipe i f).asms = m.asms := rfl
@[simp] theorem Mach.modPipe_clq (i : Nat) (f : Pipe → Pipe) : (m.modPipe i f).clq = m.clq := rfl
@[simp] theorem Mach.modPipe_running (i : Nat) (f : Pipe → Pipe) : (m.modPipe i f).running = m.running := rfl
@[simp] theorem Mach.modPipe_tileSeq (i : Nat) (f : Pipe → Pipe) : (m.modPipe i f).tileSeq = m.tileSeq := rfl
@[simp] theorem Mach.modPipe_clIdle (i : Nat) (f : Pipe → Pipe) : (m.modPipe i f).clIdle = m.clIdle := rfl
@[simp] theorem Mach.modPipe_jobRt (i : Nat) (f : Pipe → Pipe) : (m.modPipe i f).jobRt = m.jobRt := rfl
@[simp] theorem Mach.modPipe_switching (i : Nat) (f : Pipe → Pipe) : (m.modPipe i f).switching = m.switching := rfl
@[simp] theorem Mach.modPipe_restart (i : Nat) (f : Pipe → Pipe) : (m.modPipe i f).restart = m.restart := rfl
@[simp] theorem Mach.modPipe_chain (i : Nat) (f : Pipe → Pipe) : (m.modPipe i f).chain = m.chain := rfl
@[simp] theorem Mach.modPipe_shed (i : Nat) (f : Pipe → Pipe) : (m.modPipe i f).shed = m.shed := rfl
@[simp] theorem Mach.modPipe_hop (i : Nat) (f : Pipe → Pipe) : (m.modPipe i f).hop = m.hop := rfl
@[simp] theorem Mach.modPipe_pages (i : Nat) (f : Pipe → Pipe) : (m.modPipe i f).pages = m.pages := rfl
@[simp] theorem Mach.modPipe_widx (i : Nat) (f : Pipe → Pipe) : (m.modPipe i f).widx = m.widx := rfl
@[simp] theorem Mach.modPipe_tbuf (i : Nat) (f : Pipe → Pipe) : (m.modPipe i f).tbuf = m.tbuf := rfl
@[simp] theorem Mach.modPipe_lanes (i : Nat) (f : Pipe → Pipe) : (m.modPipe i f).lanes = m.lanes := rfl
@[simp] theorem Mach.modPipe_links (i : Nat) (f : Pipe → Pipe) : (m.modPipe i f).links = m.links := rfl
@[simp] theorem Mach.modPipe_tng (i : Nat) (f : Pipe → Pipe) : (m.modPipe i f).tng = m.tng := rfl
@[simp] theorem Mach.modPipe_pkgDigest (i : Nat) (f : Pipe → Pipe) : (m.modPipe i f).pkgDigest = m.pkgDigest := rfl
@[simp] theorem Mach.modPipe_lastMode (i : Nat) (f : Pipe → Pipe) : (m.modPipe i f).lastMode = m.lastMode := rfl
@[simp] theorem Mach.modPipe_rplSeen (i : Nat) (f : Pipe → Pipe) : (m.modPipe i f).rplSeen = m.rplSeen := rfl
@[simp] theorem Mach.modPipe_rplRec (i : Nat) (f : Pipe → Pipe) : (m.modPipe i f).rplRec = m.rplRec := rfl
@[simp] theorem Mach.modPipe_spg (i : Nat) (f : Pipe → Pipe) : (m.modPipe i f).spg = m.spg := rfl
@[simp] theorem Mach.modPipe_drbgAt (i : Nat) (f : Pipe → Pipe) : (m.modPipe i f).drbgAt = m.drbgAt := rfl
@[simp] theorem Mach.modPipe_drbgN (i : Nat) (f : Pipe → Pipe) : (m.modPipe i f).drbgN = m.drbgN := rfl
@[simp] theorem Mach.modPipe_healthRun (i : Nat) (f : Pipe → Pipe) : (m.modPipe i f).healthRun = m.healthRun := rfl
@[simp] theorem Mach.modPipe_reelGood (i : Nat) (f : Pipe → Pipe) : (m.modPipe i f).reelGood = m.reelGood := rfl
@[simp] theorem Mach.modPipe_reelOff (i : Nat) (f : Pipe → Pipe) : (m.modPipe i f).reelOff = m.reelOff := rfl
@[simp] theorem Mach.modPipe_reelSeen (i : Nat) (f : Pipe → Pipe) : (m.modPipe i f).reelSeen = m.reelSeen := rfl
@[simp] theorem Mach.modPipe_keysAt (i : Nat) (f : Pipe → Pipe) : (m.modPipe i f).keysAt = m.keysAt := rfl
@[simp] theorem Mach.modPipe_recCkpts (i : Nat) (f : Pipe → Pipe) : (m.modPipe i f).recCkpts = m.recCkpts := rfl
@[simp] theorem Mach.modPipe_ckptAt (i : Nat) (f : Pipe → Pipe) : (m.modPipe i f).ckptAt = m.ckptAt := rfl
@[simp] theorem Mach.modPipe_ckptN (i : Nat) (f : Pipe → Pipe) : (m.modPipe i f).ckptN = m.ckptN := rfl
@[simp] theorem Mach.modPipe_rplPos (i : Nat) (f : Pipe → Pipe) : (m.modPipe i f).rplPos = m.rplPos := rfl
@[simp] theorem Mach.modPipe_rplOff (i : Nat) (f : Pipe → Pipe) : (m.modPipe i f).rplOff = m.rplOff := rfl
@[simp] theorem Mach.modPipe_rplExp (i : Nat) (f : Pipe → Pipe) : (m.modPipe i f).rplExp = m.rplExp := rfl
@[simp] theorem Mach.modPipe_rplCov (i : Nat) (f : Pipe → Pipe) : (m.modPipe i f).rplCov = m.rplCov := rfl
@[simp] theorem Mach.modPipe_rplChoices (i : Nat) (f : Pipe → Pipe) : (m.modPipe i f).rplChoices = m.rplChoices := rfl
@[simp] theorem Mach.modPipe_rplPre (i : Nat) (f : Pipe → Pipe) : (m.modPipe i f).rplPre = m.rplPre := rfl
@[simp] theorem Mach.modPipe_hostOut (i : Nat) (f : Pipe → Pipe) : (m.modPipe i f).hostOut = m.hostOut := rfl
@[simp] theorem Mach.modPipe_pcieOut (i : Nat) (f : Pipe → Pipe) : (m.modPipe i f).pcieOut = m.pcieOut := rfl
@[simp] theorem Mach.modPipe_tracer (i : Nat) (f : Pipe → Pipe) : (m.modPipe i f).tracer = m.tracer := rfl
@[simp] theorem Mach.modPipe_prof (i : Nat) (f : Pipe → Pipe) : (m.modPipe i f).prof = m.prof := rfl
@[simp] theorem Mach.modPipe_evtAt (i : Nat) (f : Pipe → Pipe) : (m.modPipe i f).evtAt = m.evtAt := rfl
@[simp] theorem Mach.modPipe_nvm (i : Nat) (f : Pipe → Pipe) : (m.modPipe i f).nvm = m.nvm := rfl
@[simp] theorem Mach.modPipe_pkg (i : Nat) (f : Pipe → Pipe) : (m.modPipe i f).pkg = m.pkg := rfl
@[simp] theorem Mach.modPipe_supply (i : Nat) (f : Pipe → Pipe) : (m.modPipe i f).supply = m.supply := rfl
@[simp] theorem Mach.modPipe_rst (i : Nat) (f : Pipe → Pipe) : (m.modPipe i f).rst = m.rst := rfl
@[simp] theorem Mach.modPipe_log (i : Nat) (f : Pipe → Pipe) : (m.modPipe i f).log = m.log := rfl
@[simp] theorem Mach.modPipe_mgt (i : Nat) (f : Pipe → Pipe) : (m.modPipe i f).mgt = m.mgt := rfl
@[simp] theorem Mach.modPipe_tim (i : Nat) (f : Pipe → Pipe) : (m.modPipe i f).tim = m.tim := rfl
@[simp] theorem Mach.modPipe_kiln (i : Nat) (f : Pipe → Pipe) : (m.modPipe i f).kiln = m.kiln := rfl
@[simp] theorem Mach.modPipe_snap (i : Nat) (f : Pipe → Pipe) : (m.modPipe i f).snap = m.snap := rfl
@[simp] theorem Mach.modPipe_hostIn (i : Nat) (f : Pipe → Pipe) : (m.modPipe i f).hostIn = m.hostIn := rfl
@[simp] theorem Mach.modPipe_dramKeys (i : Nat) (f : Pipe → Pipe) : (m.modPipe i f).dramKeys = m.dramKeys := rfl

/-! ## `modCx` -/

@[simp] theorem Mach.modCx_now (i : Nat) (f : Cx → Cx) : (m.modCx i f).now = m.now := rfl
@[simp] theorem Mach.modCx_reelB (i : Nat) (f : Cx → Cx) : (m.modCx i f).reelB = m.reelB := rfl
@[simp] theorem Mach.modCx_reelT (i : Nat) (f : Cx → Cx) : (m.modCx i f).reelT = m.reelT := rfl
@[simp] theorem Mach.modCx_reelRate (i : Nat) (f : Cx → Cx) : (m.modCx i f).reelRate = m.reelRate := rfl
@[simp] theorem Mach.modCx_wallB (i : Nat) (f : Cx → Cx) : (m.modCx i f).wallB = m.wallB := rfl
@[simp] theorem Mach.modCx_wallT (i : Nat) (f : Cx → Cx) : (m.modCx i f).wallT = m.wallT := rfl
@[simp] theorem Mach.modCx_wallRate (i : Nat) (f : Cx → Cx) : (m.modCx i f).wallRate = m.wallRate := rfl
@[simp] theorem Mach.modCx_regs (i : Nat) (f : Cx → Cx) : (m.modCx i f).regs = m.regs := rfl
@[simp] theorem Mach.modCx_fresh (i : Nat) (f : Cx → Cx) : (m.modCx i f).fresh = m.fresh := rfl
@[simp] theorem Mach.modCx_twinPres (i : Nat) (f : Cx → Cx) : (m.modCx i f).twinPres = m.twinPres := rfl
@[simp] theorem Mach.modCx_twinB (i : Nat) (f : Cx → Cx) : (m.modCx i f).twinB = m.twinB := rfl
@[simp] theorem Mach.modCx_evq (i : Nat) (f : Cx → Cx) : (m.modCx i f).evq = m.evq := rfl
@[simp] theorem Mach.modCx_evDropped (i : Nat) (f : Cx → Cx) : (m.modCx i f).evDropped = m.evDropped := rfl
@[simp] theorem Mach.modCx_runs (i : Nat) (f : Cx → Cx) : (m.modCx i f).runs = m.runs := rfl
@[simp] theorem Mach.modCx_logBuf (i : Nat) (f : Cx → Cx) : (m.modCx i f).logBuf = m.logBuf := rfl
@[simp] theorem Mach.modCx_logLost (i : Nat) (f : Cx → Cx) : (m.modCx i f).logLost = m.logLost := rfl
@[simp] theorem Mach.modCx_fioCh (i : Nat) (f : Cx → Cx) : (m.modCx i f).fioCh = m.fioCh := rfl
@[simp] theorem Mach.modCx_swActs (i : Nat) (f : Cx → Cx) : (m.modCx i f).swActs = m.swActs := rfl
@[simp] theorem Mach.modCx_fioW (i : Nat) (f : Cx → Cx) : (m.modCx i f).fioW = m.fioW := rfl
@[simp] theorem Mach.modCx_fioC (i : Nat) (f : Cx → Cx) : (m.modCx i f).fioC = m.fioC := rfl
@[simp] theorem Mach.modCx_pos (i : Nat) (f : Cx → Cx) : (m.modCx i f).pos = m.pos := rfl
@[simp] theorem Mach.modCx_cmp (i : Nat) (f : Cx → Cx) : (m.modCx i f).cmp = m.cmp := rfl
@[simp] theorem Mach.modCx_pulses (i : Nat) (f : Cx → Cx) : (m.modCx i f).pulses = m.pulses := rfl
@[simp] theorem Mach.modCx_lateUntil (i : Nat) (f : Cx → Cx) : (m.modCx i f).lateUntil = m.lateUntil := rfl
@[simp] theorem Mach.modCx_mon (i : Nat) (f : Cx → Cx) : (m.modCx i f).mon = m.mon := rfl
@[simp] theorem Mach.modCx_verdQ (i : Nat) (f : Cx → Cx) : (m.modCx i f).verdQ = m.verdQ := rfl
@[simp] theorem Mach.modCx_loadAt (i : Nat) (f : Cx → Cx) : (m.modCx i f).loadAt = m.loadAt := rfl
@[simp] theorem Mach.modCx_bucketAt (i : Nat) (f : Cx → Cx) : (m.modCx i f).bucketAt = m.bucketAt := rfl
@[simp] theorem Mach.modCx_started (i : Nat) (f : Cx → Cx) : (m.modCx i f).started = m.started := rfl
@[simp] theorem Mach.modCx_ownVerdicts (i : Nat) (f : Cx → Cx) : (m.modCx i f).ownVerdicts = m.ownVerdicts := rfl
@[simp] theorem Mach.modCx_peerVerdicts (i : Nat) (f : Cx → Cx) : (m.modCx i f).peerVerdicts = m.peerVerdicts := rfl
@[simp] theorem Mach.modCx_ownDigests (i : Nat) (f : Cx → Cx) : (m.modCx i f).ownDigests = m.ownDigests := rfl
@[simp] theorem Mach.modCx_peerDigests (i : Nat) (f : Cx → Cx) : (m.modCx i f).peerDigests = m.peerDigests := rfl
@[simp] theorem Mach.modCx_recBuf (i : Nat) (f : Cx → Cx) : (m.modCx i f).recBuf = m.recBuf := rfl
@[simp] theorem Mach.modCx_recDropped (i : Nat) (f : Cx → Cx) : (m.modCx i f).recDropped = m.recDropped := rfl
@[simp] theorem Mach.modCx_recFirst (i : Nat) (f : Cx → Cx) : (m.modCx i f).recFirst = m.recFirst := rfl
@[simp] theorem Mach.modCx_recFreeze (i : Nat) (f : Cx → Cx) : (m.modCx i f).recFreeze = m.recFreeze := rfl
@[simp] theorem Mach.modCx_grs (i : Nat) (f : Cx → Cx) : (m.modCx i f).grs = m.grs := rfl
@[simp] theorem Mach.modCx_pipes (i : Nat) (f : Cx → Cx) : (m.modCx i f).pipes = m.pipes := rfl
@[simp] theorem Mach.modCx_eng (i : Nat) (f : Cx → Cx) : (m.modCx i f).eng = m.eng := rfl
@[simp] theorem Mach.modCx_cores (i : Nat) (f : Cx → Cx) : (m.modCx i f).cores = m.cores := rfl
@[simp] theorem Mach.modCx_istore (i : Nat) (f : Cx → Cx) : (m.modCx i f).istore = m.istore := rfl
@[simp] theorem Mach.modCx_ports (i : Nat) (f : Cx → Cx) : (m.modCx i f).ports = m.ports := rfl
@[simp] theorem Mach.modCx_mbxWait (i : Nat) (f : Cx → Cx) : (m.modCx i f).mbxWait = m.mbxWait := rfl
@[simp] theorem Mach.modCx_jobs (i : Nat) (f : Cx → Cx) : (m.modCx i f).jobs = m.jobs := rfl
@[simp] theorem Mach.modCx_msix (i : Nat) (f : Cx → Cx) : (m.modCx i f).msix = m.msix := rfl
@[simp] theorem Mach.modCx_pba (i : Nat) (f : Cx → Cx) : (m.modCx i f).pba = m.pba := rfl
@[simp] theorem Mach.modCx_violated (i : Nat) (f : Cx → Cx) : (m.modCx i f).violated = m.violated := rfl
@[simp] theorem Mach.modCx_clJob (i : Nat) (f : Cx → Cx) : (m.modCx i f).clJob = m.clJob := rfl
@[simp] theorem Mach.modCx_asms (i : Nat) (f : Cx → Cx) : (m.modCx i f).asms = m.asms := rfl
@[simp] theorem Mach.modCx_clq (i : Nat) (f : Cx → Cx) : (m.modCx i f).clq = m.clq := rfl
@[simp] theorem Mach.modCx_running (i : Nat) (f : Cx → Cx) : (m.modCx i f).running = m.running := rfl
@[simp] theorem Mach.modCx_tileSeq (i : Nat) (f : Cx → Cx) : (m.modCx i f).tileSeq = m.tileSeq := rfl
@[simp] theorem Mach.modCx_clIdle (i : Nat) (f : Cx → Cx) : (m.modCx i f).clIdle = m.clIdle := rfl
@[simp] theorem Mach.modCx_jobRt (i : Nat) (f : Cx → Cx) : (m.modCx i f).jobRt = m.jobRt := rfl
@[simp] theorem Mach.modCx_switching (i : Nat) (f : Cx → Cx) : (m.modCx i f).switching = m.switching := rfl
@[simp] theorem Mach.modCx_restart (i : Nat) (f : Cx → Cx) : (m.modCx i f).restart = m.restart := rfl
@[simp] theorem Mach.modCx_chain (i : Nat) (f : Cx → Cx) : (m.modCx i f).chain = m.chain := rfl
@[simp] theorem Mach.modCx_shed (i : Nat) (f : Cx → Cx) : (m.modCx i f).shed = m.shed := rfl
@[simp] theorem Mach.modCx_hop (i : Nat) (f : Cx → Cx) : (m.modCx i f).hop = m.hop := rfl
@[simp] theorem Mach.modCx_pages (i : Nat) (f : Cx → Cx) : (m.modCx i f).pages = m.pages := rfl
@[simp] theorem Mach.modCx_widx (i : Nat) (f : Cx → Cx) : (m.modCx i f).widx = m.widx := rfl
@[simp] theorem Mach.modCx_tbuf (i : Nat) (f : Cx → Cx) : (m.modCx i f).tbuf = m.tbuf := rfl
@[simp] theorem Mach.modCx_lanes (i : Nat) (f : Cx → Cx) : (m.modCx i f).lanes = m.lanes := rfl
@[simp] theorem Mach.modCx_links (i : Nat) (f : Cx → Cx) : (m.modCx i f).links = m.links := rfl
@[simp] theorem Mach.modCx_tng (i : Nat) (f : Cx → Cx) : (m.modCx i f).tng = m.tng := rfl
@[simp] theorem Mach.modCx_pkgDigest (i : Nat) (f : Cx → Cx) : (m.modCx i f).pkgDigest = m.pkgDigest := rfl
@[simp] theorem Mach.modCx_lastMode (i : Nat) (f : Cx → Cx) : (m.modCx i f).lastMode = m.lastMode := rfl
@[simp] theorem Mach.modCx_rplSeen (i : Nat) (f : Cx → Cx) : (m.modCx i f).rplSeen = m.rplSeen := rfl
@[simp] theorem Mach.modCx_rplRec (i : Nat) (f : Cx → Cx) : (m.modCx i f).rplRec = m.rplRec := rfl
@[simp] theorem Mach.modCx_spg (i : Nat) (f : Cx → Cx) : (m.modCx i f).spg = m.spg := rfl
@[simp] theorem Mach.modCx_drbgAt (i : Nat) (f : Cx → Cx) : (m.modCx i f).drbgAt = m.drbgAt := rfl
@[simp] theorem Mach.modCx_drbgN (i : Nat) (f : Cx → Cx) : (m.modCx i f).drbgN = m.drbgN := rfl
@[simp] theorem Mach.modCx_healthRun (i : Nat) (f : Cx → Cx) : (m.modCx i f).healthRun = m.healthRun := rfl
@[simp] theorem Mach.modCx_reelGood (i : Nat) (f : Cx → Cx) : (m.modCx i f).reelGood = m.reelGood := rfl
@[simp] theorem Mach.modCx_reelOff (i : Nat) (f : Cx → Cx) : (m.modCx i f).reelOff = m.reelOff := rfl
@[simp] theorem Mach.modCx_reelSeen (i : Nat) (f : Cx → Cx) : (m.modCx i f).reelSeen = m.reelSeen := rfl
@[simp] theorem Mach.modCx_keysAt (i : Nat) (f : Cx → Cx) : (m.modCx i f).keysAt = m.keysAt := rfl
@[simp] theorem Mach.modCx_recCkpts (i : Nat) (f : Cx → Cx) : (m.modCx i f).recCkpts = m.recCkpts := rfl
@[simp] theorem Mach.modCx_ckptAt (i : Nat) (f : Cx → Cx) : (m.modCx i f).ckptAt = m.ckptAt := rfl
@[simp] theorem Mach.modCx_ckptN (i : Nat) (f : Cx → Cx) : (m.modCx i f).ckptN = m.ckptN := rfl
@[simp] theorem Mach.modCx_rplPos (i : Nat) (f : Cx → Cx) : (m.modCx i f).rplPos = m.rplPos := rfl
@[simp] theorem Mach.modCx_rplOff (i : Nat) (f : Cx → Cx) : (m.modCx i f).rplOff = m.rplOff := rfl
@[simp] theorem Mach.modCx_rplExp (i : Nat) (f : Cx → Cx) : (m.modCx i f).rplExp = m.rplExp := rfl
@[simp] theorem Mach.modCx_rplCov (i : Nat) (f : Cx → Cx) : (m.modCx i f).rplCov = m.rplCov := rfl
@[simp] theorem Mach.modCx_rplChoices (i : Nat) (f : Cx → Cx) : (m.modCx i f).rplChoices = m.rplChoices := rfl
@[simp] theorem Mach.modCx_rplPre (i : Nat) (f : Cx → Cx) : (m.modCx i f).rplPre = m.rplPre := rfl
@[simp] theorem Mach.modCx_hostOut (i : Nat) (f : Cx → Cx) : (m.modCx i f).hostOut = m.hostOut := rfl
@[simp] theorem Mach.modCx_pcieOut (i : Nat) (f : Cx → Cx) : (m.modCx i f).pcieOut = m.pcieOut := rfl
@[simp] theorem Mach.modCx_tracer (i : Nat) (f : Cx → Cx) : (m.modCx i f).tracer = m.tracer := rfl
@[simp] theorem Mach.modCx_prof (i : Nat) (f : Cx → Cx) : (m.modCx i f).prof = m.prof := rfl
@[simp] theorem Mach.modCx_evtAt (i : Nat) (f : Cx → Cx) : (m.modCx i f).evtAt = m.evtAt := rfl
@[simp] theorem Mach.modCx_nvm (i : Nat) (f : Cx → Cx) : (m.modCx i f).nvm = m.nvm := rfl
@[simp] theorem Mach.modCx_pkg (i : Nat) (f : Cx → Cx) : (m.modCx i f).pkg = m.pkg := rfl
@[simp] theorem Mach.modCx_supply (i : Nat) (f : Cx → Cx) : (m.modCx i f).supply = m.supply := rfl
@[simp] theorem Mach.modCx_rst (i : Nat) (f : Cx → Cx) : (m.modCx i f).rst = m.rst := rfl
@[simp] theorem Mach.modCx_log (i : Nat) (f : Cx → Cx) : (m.modCx i f).log = m.log := rfl
@[simp] theorem Mach.modCx_mgt (i : Nat) (f : Cx → Cx) : (m.modCx i f).mgt = m.mgt := rfl
@[simp] theorem Mach.modCx_tim (i : Nat) (f : Cx → Cx) : (m.modCx i f).tim = m.tim := rfl
@[simp] theorem Mach.modCx_kiln (i : Nat) (f : Cx → Cx) : (m.modCx i f).kiln = m.kiln := rfl
@[simp] theorem Mach.modCx_snap (i : Nat) (f : Cx → Cx) : (m.modCx i f).snap = m.snap := rfl
@[simp] theorem Mach.modCx_hostIn (i : Nat) (f : Cx → Cx) : (m.modCx i f).hostIn = m.hostIn := rfl
@[simp] theorem Mach.modCx_dramKeys (i : Nat) (f : Cx → Cx) : (m.modCx i f).dramKeys = m.dramKeys := rfl

/-! ## `modEng` -/

@[simp] theorem Mach.modEng_now (i : Nat) (f : Eng → Eng) : (m.modEng i f).now = m.now := rfl
@[simp] theorem Mach.modEng_reelB (i : Nat) (f : Eng → Eng) : (m.modEng i f).reelB = m.reelB := rfl
@[simp] theorem Mach.modEng_reelT (i : Nat) (f : Eng → Eng) : (m.modEng i f).reelT = m.reelT := rfl
@[simp] theorem Mach.modEng_reelRate (i : Nat) (f : Eng → Eng) : (m.modEng i f).reelRate = m.reelRate := rfl
@[simp] theorem Mach.modEng_wallB (i : Nat) (f : Eng → Eng) : (m.modEng i f).wallB = m.wallB := rfl
@[simp] theorem Mach.modEng_wallT (i : Nat) (f : Eng → Eng) : (m.modEng i f).wallT = m.wallT := rfl
@[simp] theorem Mach.modEng_wallRate (i : Nat) (f : Eng → Eng) : (m.modEng i f).wallRate = m.wallRate := rfl
@[simp] theorem Mach.modEng_regs (i : Nat) (f : Eng → Eng) : (m.modEng i f).regs = m.regs := rfl
@[simp] theorem Mach.modEng_fresh (i : Nat) (f : Eng → Eng) : (m.modEng i f).fresh = m.fresh := rfl
@[simp] theorem Mach.modEng_twinPres (i : Nat) (f : Eng → Eng) : (m.modEng i f).twinPres = m.twinPres := rfl
@[simp] theorem Mach.modEng_twinB (i : Nat) (f : Eng → Eng) : (m.modEng i f).twinB = m.twinB := rfl
@[simp] theorem Mach.modEng_evq (i : Nat) (f : Eng → Eng) : (m.modEng i f).evq = m.evq := rfl
@[simp] theorem Mach.modEng_evDropped (i : Nat) (f : Eng → Eng) : (m.modEng i f).evDropped = m.evDropped := rfl
@[simp] theorem Mach.modEng_runs (i : Nat) (f : Eng → Eng) : (m.modEng i f).runs = m.runs := rfl
@[simp] theorem Mach.modEng_logBuf (i : Nat) (f : Eng → Eng) : (m.modEng i f).logBuf = m.logBuf := rfl
@[simp] theorem Mach.modEng_logLost (i : Nat) (f : Eng → Eng) : (m.modEng i f).logLost = m.logLost := rfl
@[simp] theorem Mach.modEng_fioCh (i : Nat) (f : Eng → Eng) : (m.modEng i f).fioCh = m.fioCh := rfl
@[simp] theorem Mach.modEng_swActs (i : Nat) (f : Eng → Eng) : (m.modEng i f).swActs = m.swActs := rfl
@[simp] theorem Mach.modEng_fioW (i : Nat) (f : Eng → Eng) : (m.modEng i f).fioW = m.fioW := rfl
@[simp] theorem Mach.modEng_fioC (i : Nat) (f : Eng → Eng) : (m.modEng i f).fioC = m.fioC := rfl
@[simp] theorem Mach.modEng_pos (i : Nat) (f : Eng → Eng) : (m.modEng i f).pos = m.pos := rfl
@[simp] theorem Mach.modEng_cmp (i : Nat) (f : Eng → Eng) : (m.modEng i f).cmp = m.cmp := rfl
@[simp] theorem Mach.modEng_pulses (i : Nat) (f : Eng → Eng) : (m.modEng i f).pulses = m.pulses := rfl
@[simp] theorem Mach.modEng_lateUntil (i : Nat) (f : Eng → Eng) : (m.modEng i f).lateUntil = m.lateUntil := rfl
@[simp] theorem Mach.modEng_mon (i : Nat) (f : Eng → Eng) : (m.modEng i f).mon = m.mon := rfl
@[simp] theorem Mach.modEng_verdQ (i : Nat) (f : Eng → Eng) : (m.modEng i f).verdQ = m.verdQ := rfl
@[simp] theorem Mach.modEng_loadAt (i : Nat) (f : Eng → Eng) : (m.modEng i f).loadAt = m.loadAt := rfl
@[simp] theorem Mach.modEng_bucketAt (i : Nat) (f : Eng → Eng) : (m.modEng i f).bucketAt = m.bucketAt := rfl
@[simp] theorem Mach.modEng_started (i : Nat) (f : Eng → Eng) : (m.modEng i f).started = m.started := rfl
@[simp] theorem Mach.modEng_ownVerdicts (i : Nat) (f : Eng → Eng) : (m.modEng i f).ownVerdicts = m.ownVerdicts := rfl
@[simp] theorem Mach.modEng_peerVerdicts (i : Nat) (f : Eng → Eng) : (m.modEng i f).peerVerdicts = m.peerVerdicts := rfl
@[simp] theorem Mach.modEng_ownDigests (i : Nat) (f : Eng → Eng) : (m.modEng i f).ownDigests = m.ownDigests := rfl
@[simp] theorem Mach.modEng_peerDigests (i : Nat) (f : Eng → Eng) : (m.modEng i f).peerDigests = m.peerDigests := rfl
@[simp] theorem Mach.modEng_recBuf (i : Nat) (f : Eng → Eng) : (m.modEng i f).recBuf = m.recBuf := rfl
@[simp] theorem Mach.modEng_recDropped (i : Nat) (f : Eng → Eng) : (m.modEng i f).recDropped = m.recDropped := rfl
@[simp] theorem Mach.modEng_recFirst (i : Nat) (f : Eng → Eng) : (m.modEng i f).recFirst = m.recFirst := rfl
@[simp] theorem Mach.modEng_recFreeze (i : Nat) (f : Eng → Eng) : (m.modEng i f).recFreeze = m.recFreeze := rfl
@[simp] theorem Mach.modEng_grs (i : Nat) (f : Eng → Eng) : (m.modEng i f).grs = m.grs := rfl
@[simp] theorem Mach.modEng_pipes (i : Nat) (f : Eng → Eng) : (m.modEng i f).pipes = m.pipes := rfl
@[simp] theorem Mach.modEng_cxs (i : Nat) (f : Eng → Eng) : (m.modEng i f).cxs = m.cxs := rfl
@[simp] theorem Mach.modEng_cores (i : Nat) (f : Eng → Eng) : (m.modEng i f).cores = m.cores := rfl
@[simp] theorem Mach.modEng_istore (i : Nat) (f : Eng → Eng) : (m.modEng i f).istore = m.istore := rfl
@[simp] theorem Mach.modEng_ports (i : Nat) (f : Eng → Eng) : (m.modEng i f).ports = m.ports := rfl
@[simp] theorem Mach.modEng_mbxWait (i : Nat) (f : Eng → Eng) : (m.modEng i f).mbxWait = m.mbxWait := rfl
@[simp] theorem Mach.modEng_jobs (i : Nat) (f : Eng → Eng) : (m.modEng i f).jobs = m.jobs := rfl
@[simp] theorem Mach.modEng_msix (i : Nat) (f : Eng → Eng) : (m.modEng i f).msix = m.msix := rfl
@[simp] theorem Mach.modEng_pba (i : Nat) (f : Eng → Eng) : (m.modEng i f).pba = m.pba := rfl
@[simp] theorem Mach.modEng_violated (i : Nat) (f : Eng → Eng) : (m.modEng i f).violated = m.violated := rfl
@[simp] theorem Mach.modEng_clJob (i : Nat) (f : Eng → Eng) : (m.modEng i f).clJob = m.clJob := rfl
@[simp] theorem Mach.modEng_asms (i : Nat) (f : Eng → Eng) : (m.modEng i f).asms = m.asms := rfl
@[simp] theorem Mach.modEng_clq (i : Nat) (f : Eng → Eng) : (m.modEng i f).clq = m.clq := rfl
@[simp] theorem Mach.modEng_running (i : Nat) (f : Eng → Eng) : (m.modEng i f).running = m.running := rfl
@[simp] theorem Mach.modEng_tileSeq (i : Nat) (f : Eng → Eng) : (m.modEng i f).tileSeq = m.tileSeq := rfl
@[simp] theorem Mach.modEng_clIdle (i : Nat) (f : Eng → Eng) : (m.modEng i f).clIdle = m.clIdle := rfl
@[simp] theorem Mach.modEng_jobRt (i : Nat) (f : Eng → Eng) : (m.modEng i f).jobRt = m.jobRt := rfl
@[simp] theorem Mach.modEng_switching (i : Nat) (f : Eng → Eng) : (m.modEng i f).switching = m.switching := rfl
@[simp] theorem Mach.modEng_restart (i : Nat) (f : Eng → Eng) : (m.modEng i f).restart = m.restart := rfl
@[simp] theorem Mach.modEng_chain (i : Nat) (f : Eng → Eng) : (m.modEng i f).chain = m.chain := rfl
@[simp] theorem Mach.modEng_shed (i : Nat) (f : Eng → Eng) : (m.modEng i f).shed = m.shed := rfl
@[simp] theorem Mach.modEng_hop (i : Nat) (f : Eng → Eng) : (m.modEng i f).hop = m.hop := rfl
@[simp] theorem Mach.modEng_pages (i : Nat) (f : Eng → Eng) : (m.modEng i f).pages = m.pages := rfl
@[simp] theorem Mach.modEng_widx (i : Nat) (f : Eng → Eng) : (m.modEng i f).widx = m.widx := rfl
@[simp] theorem Mach.modEng_tbuf (i : Nat) (f : Eng → Eng) : (m.modEng i f).tbuf = m.tbuf := rfl
@[simp] theorem Mach.modEng_lanes (i : Nat) (f : Eng → Eng) : (m.modEng i f).lanes = m.lanes := rfl
@[simp] theorem Mach.modEng_links (i : Nat) (f : Eng → Eng) : (m.modEng i f).links = m.links := rfl
@[simp] theorem Mach.modEng_tng (i : Nat) (f : Eng → Eng) : (m.modEng i f).tng = m.tng := rfl
@[simp] theorem Mach.modEng_pkgDigest (i : Nat) (f : Eng → Eng) : (m.modEng i f).pkgDigest = m.pkgDigest := rfl
@[simp] theorem Mach.modEng_lastMode (i : Nat) (f : Eng → Eng) : (m.modEng i f).lastMode = m.lastMode := rfl
@[simp] theorem Mach.modEng_rplSeen (i : Nat) (f : Eng → Eng) : (m.modEng i f).rplSeen = m.rplSeen := rfl
@[simp] theorem Mach.modEng_rplRec (i : Nat) (f : Eng → Eng) : (m.modEng i f).rplRec = m.rplRec := rfl
@[simp] theorem Mach.modEng_spg (i : Nat) (f : Eng → Eng) : (m.modEng i f).spg = m.spg := rfl
@[simp] theorem Mach.modEng_drbgAt (i : Nat) (f : Eng → Eng) : (m.modEng i f).drbgAt = m.drbgAt := rfl
@[simp] theorem Mach.modEng_drbgN (i : Nat) (f : Eng → Eng) : (m.modEng i f).drbgN = m.drbgN := rfl
@[simp] theorem Mach.modEng_healthRun (i : Nat) (f : Eng → Eng) : (m.modEng i f).healthRun = m.healthRun := rfl
@[simp] theorem Mach.modEng_reelGood (i : Nat) (f : Eng → Eng) : (m.modEng i f).reelGood = m.reelGood := rfl
@[simp] theorem Mach.modEng_reelOff (i : Nat) (f : Eng → Eng) : (m.modEng i f).reelOff = m.reelOff := rfl
@[simp] theorem Mach.modEng_reelSeen (i : Nat) (f : Eng → Eng) : (m.modEng i f).reelSeen = m.reelSeen := rfl
@[simp] theorem Mach.modEng_keysAt (i : Nat) (f : Eng → Eng) : (m.modEng i f).keysAt = m.keysAt := rfl
@[simp] theorem Mach.modEng_recCkpts (i : Nat) (f : Eng → Eng) : (m.modEng i f).recCkpts = m.recCkpts := rfl
@[simp] theorem Mach.modEng_ckptAt (i : Nat) (f : Eng → Eng) : (m.modEng i f).ckptAt = m.ckptAt := rfl
@[simp] theorem Mach.modEng_ckptN (i : Nat) (f : Eng → Eng) : (m.modEng i f).ckptN = m.ckptN := rfl
@[simp] theorem Mach.modEng_rplPos (i : Nat) (f : Eng → Eng) : (m.modEng i f).rplPos = m.rplPos := rfl
@[simp] theorem Mach.modEng_rplOff (i : Nat) (f : Eng → Eng) : (m.modEng i f).rplOff = m.rplOff := rfl
@[simp] theorem Mach.modEng_rplExp (i : Nat) (f : Eng → Eng) : (m.modEng i f).rplExp = m.rplExp := rfl
@[simp] theorem Mach.modEng_rplCov (i : Nat) (f : Eng → Eng) : (m.modEng i f).rplCov = m.rplCov := rfl
@[simp] theorem Mach.modEng_rplChoices (i : Nat) (f : Eng → Eng) : (m.modEng i f).rplChoices = m.rplChoices := rfl
@[simp] theorem Mach.modEng_rplPre (i : Nat) (f : Eng → Eng) : (m.modEng i f).rplPre = m.rplPre := rfl
@[simp] theorem Mach.modEng_hostOut (i : Nat) (f : Eng → Eng) : (m.modEng i f).hostOut = m.hostOut := rfl
@[simp] theorem Mach.modEng_pcieOut (i : Nat) (f : Eng → Eng) : (m.modEng i f).pcieOut = m.pcieOut := rfl
@[simp] theorem Mach.modEng_tracer (i : Nat) (f : Eng → Eng) : (m.modEng i f).tracer = m.tracer := rfl
@[simp] theorem Mach.modEng_prof (i : Nat) (f : Eng → Eng) : (m.modEng i f).prof = m.prof := rfl
@[simp] theorem Mach.modEng_evtAt (i : Nat) (f : Eng → Eng) : (m.modEng i f).evtAt = m.evtAt := rfl
@[simp] theorem Mach.modEng_nvm (i : Nat) (f : Eng → Eng) : (m.modEng i f).nvm = m.nvm := rfl
@[simp] theorem Mach.modEng_pkg (i : Nat) (f : Eng → Eng) : (m.modEng i f).pkg = m.pkg := rfl
@[simp] theorem Mach.modEng_supply (i : Nat) (f : Eng → Eng) : (m.modEng i f).supply = m.supply := rfl
@[simp] theorem Mach.modEng_rst (i : Nat) (f : Eng → Eng) : (m.modEng i f).rst = m.rst := rfl
@[simp] theorem Mach.modEng_log (i : Nat) (f : Eng → Eng) : (m.modEng i f).log = m.log := rfl
@[simp] theorem Mach.modEng_mgt (i : Nat) (f : Eng → Eng) : (m.modEng i f).mgt = m.mgt := rfl
@[simp] theorem Mach.modEng_tim (i : Nat) (f : Eng → Eng) : (m.modEng i f).tim = m.tim := rfl
@[simp] theorem Mach.modEng_kiln (i : Nat) (f : Eng → Eng) : (m.modEng i f).kiln = m.kiln := rfl
@[simp] theorem Mach.modEng_snap (i : Nat) (f : Eng → Eng) : (m.modEng i f).snap = m.snap := rfl
@[simp] theorem Mach.modEng_hostIn (i : Nat) (f : Eng → Eng) : (m.modEng i f).hostIn = m.hostIn := rfl
@[simp] theorem Mach.modEng_dramKeys (i : Nat) (f : Eng → Eng) : (m.modEng i f).dramKeys = m.dramKeys := rfl

/-! ## `modCore` -/

@[simp] theorem Mach.modCore_now (i : Nat) (f : FCore → FCore) : (m.modCore i f).now = m.now := rfl
@[simp] theorem Mach.modCore_reelB (i : Nat) (f : FCore → FCore) : (m.modCore i f).reelB = m.reelB := rfl
@[simp] theorem Mach.modCore_reelT (i : Nat) (f : FCore → FCore) : (m.modCore i f).reelT = m.reelT := rfl
@[simp] theorem Mach.modCore_reelRate (i : Nat) (f : FCore → FCore) : (m.modCore i f).reelRate = m.reelRate := rfl
@[simp] theorem Mach.modCore_wallB (i : Nat) (f : FCore → FCore) : (m.modCore i f).wallB = m.wallB := rfl
@[simp] theorem Mach.modCore_wallT (i : Nat) (f : FCore → FCore) : (m.modCore i f).wallT = m.wallT := rfl
@[simp] theorem Mach.modCore_wallRate (i : Nat) (f : FCore → FCore) : (m.modCore i f).wallRate = m.wallRate := rfl
@[simp] theorem Mach.modCore_regs (i : Nat) (f : FCore → FCore) : (m.modCore i f).regs = m.regs := rfl
@[simp] theorem Mach.modCore_fresh (i : Nat) (f : FCore → FCore) : (m.modCore i f).fresh = m.fresh := rfl
@[simp] theorem Mach.modCore_twinPres (i : Nat) (f : FCore → FCore) : (m.modCore i f).twinPres = m.twinPres := rfl
@[simp] theorem Mach.modCore_twinB (i : Nat) (f : FCore → FCore) : (m.modCore i f).twinB = m.twinB := rfl
@[simp] theorem Mach.modCore_evq (i : Nat) (f : FCore → FCore) : (m.modCore i f).evq = m.evq := rfl
@[simp] theorem Mach.modCore_evDropped (i : Nat) (f : FCore → FCore) : (m.modCore i f).evDropped = m.evDropped := rfl
@[simp] theorem Mach.modCore_runs (i : Nat) (f : FCore → FCore) : (m.modCore i f).runs = m.runs := rfl
@[simp] theorem Mach.modCore_logBuf (i : Nat) (f : FCore → FCore) : (m.modCore i f).logBuf = m.logBuf := rfl
@[simp] theorem Mach.modCore_logLost (i : Nat) (f : FCore → FCore) : (m.modCore i f).logLost = m.logLost := rfl
@[simp] theorem Mach.modCore_fioCh (i : Nat) (f : FCore → FCore) : (m.modCore i f).fioCh = m.fioCh := rfl
@[simp] theorem Mach.modCore_swActs (i : Nat) (f : FCore → FCore) : (m.modCore i f).swActs = m.swActs := rfl
@[simp] theorem Mach.modCore_fioW (i : Nat) (f : FCore → FCore) : (m.modCore i f).fioW = m.fioW := rfl
@[simp] theorem Mach.modCore_fioC (i : Nat) (f : FCore → FCore) : (m.modCore i f).fioC = m.fioC := rfl
@[simp] theorem Mach.modCore_pos (i : Nat) (f : FCore → FCore) : (m.modCore i f).pos = m.pos := rfl
@[simp] theorem Mach.modCore_cmp (i : Nat) (f : FCore → FCore) : (m.modCore i f).cmp = m.cmp := rfl
@[simp] theorem Mach.modCore_pulses (i : Nat) (f : FCore → FCore) : (m.modCore i f).pulses = m.pulses := rfl
@[simp] theorem Mach.modCore_lateUntil (i : Nat) (f : FCore → FCore) : (m.modCore i f).lateUntil = m.lateUntil := rfl
@[simp] theorem Mach.modCore_mon (i : Nat) (f : FCore → FCore) : (m.modCore i f).mon = m.mon := rfl
@[simp] theorem Mach.modCore_verdQ (i : Nat) (f : FCore → FCore) : (m.modCore i f).verdQ = m.verdQ := rfl
@[simp] theorem Mach.modCore_loadAt (i : Nat) (f : FCore → FCore) : (m.modCore i f).loadAt = m.loadAt := rfl
@[simp] theorem Mach.modCore_bucketAt (i : Nat) (f : FCore → FCore) : (m.modCore i f).bucketAt = m.bucketAt := rfl
@[simp] theorem Mach.modCore_started (i : Nat) (f : FCore → FCore) : (m.modCore i f).started = m.started := rfl
@[simp] theorem Mach.modCore_ownVerdicts (i : Nat) (f : FCore → FCore) : (m.modCore i f).ownVerdicts = m.ownVerdicts := rfl
@[simp] theorem Mach.modCore_peerVerdicts (i : Nat) (f : FCore → FCore) : (m.modCore i f).peerVerdicts = m.peerVerdicts := rfl
@[simp] theorem Mach.modCore_ownDigests (i : Nat) (f : FCore → FCore) : (m.modCore i f).ownDigests = m.ownDigests := rfl
@[simp] theorem Mach.modCore_peerDigests (i : Nat) (f : FCore → FCore) : (m.modCore i f).peerDigests = m.peerDigests := rfl
@[simp] theorem Mach.modCore_recBuf (i : Nat) (f : FCore → FCore) : (m.modCore i f).recBuf = m.recBuf := rfl
@[simp] theorem Mach.modCore_recDropped (i : Nat) (f : FCore → FCore) : (m.modCore i f).recDropped = m.recDropped := rfl
@[simp] theorem Mach.modCore_recFirst (i : Nat) (f : FCore → FCore) : (m.modCore i f).recFirst = m.recFirst := rfl
@[simp] theorem Mach.modCore_recFreeze (i : Nat) (f : FCore → FCore) : (m.modCore i f).recFreeze = m.recFreeze := rfl
@[simp] theorem Mach.modCore_grs (i : Nat) (f : FCore → FCore) : (m.modCore i f).grs = m.grs := rfl
@[simp] theorem Mach.modCore_pipes (i : Nat) (f : FCore → FCore) : (m.modCore i f).pipes = m.pipes := rfl
@[simp] theorem Mach.modCore_cxs (i : Nat) (f : FCore → FCore) : (m.modCore i f).cxs = m.cxs := rfl
@[simp] theorem Mach.modCore_eng (i : Nat) (f : FCore → FCore) : (m.modCore i f).eng = m.eng := rfl
@[simp] theorem Mach.modCore_istore (i : Nat) (f : FCore → FCore) : (m.modCore i f).istore = m.istore := rfl
@[simp] theorem Mach.modCore_ports (i : Nat) (f : FCore → FCore) : (m.modCore i f).ports = m.ports := rfl
@[simp] theorem Mach.modCore_mbxWait (i : Nat) (f : FCore → FCore) : (m.modCore i f).mbxWait = m.mbxWait := rfl
@[simp] theorem Mach.modCore_jobs (i : Nat) (f : FCore → FCore) : (m.modCore i f).jobs = m.jobs := rfl
@[simp] theorem Mach.modCore_msix (i : Nat) (f : FCore → FCore) : (m.modCore i f).msix = m.msix := rfl
@[simp] theorem Mach.modCore_pba (i : Nat) (f : FCore → FCore) : (m.modCore i f).pba = m.pba := rfl
@[simp] theorem Mach.modCore_violated (i : Nat) (f : FCore → FCore) : (m.modCore i f).violated = m.violated := rfl
@[simp] theorem Mach.modCore_clJob (i : Nat) (f : FCore → FCore) : (m.modCore i f).clJob = m.clJob := rfl
@[simp] theorem Mach.modCore_asms (i : Nat) (f : FCore → FCore) : (m.modCore i f).asms = m.asms := rfl
@[simp] theorem Mach.modCore_clq (i : Nat) (f : FCore → FCore) : (m.modCore i f).clq = m.clq := rfl
@[simp] theorem Mach.modCore_running (i : Nat) (f : FCore → FCore) : (m.modCore i f).running = m.running := rfl
@[simp] theorem Mach.modCore_tileSeq (i : Nat) (f : FCore → FCore) : (m.modCore i f).tileSeq = m.tileSeq := rfl
@[simp] theorem Mach.modCore_clIdle (i : Nat) (f : FCore → FCore) : (m.modCore i f).clIdle = m.clIdle := rfl
@[simp] theorem Mach.modCore_jobRt (i : Nat) (f : FCore → FCore) : (m.modCore i f).jobRt = m.jobRt := rfl
@[simp] theorem Mach.modCore_switching (i : Nat) (f : FCore → FCore) : (m.modCore i f).switching = m.switching := rfl
@[simp] theorem Mach.modCore_restart (i : Nat) (f : FCore → FCore) : (m.modCore i f).restart = m.restart := rfl
@[simp] theorem Mach.modCore_chain (i : Nat) (f : FCore → FCore) : (m.modCore i f).chain = m.chain := rfl
@[simp] theorem Mach.modCore_shed (i : Nat) (f : FCore → FCore) : (m.modCore i f).shed = m.shed := rfl
@[simp] theorem Mach.modCore_hop (i : Nat) (f : FCore → FCore) : (m.modCore i f).hop = m.hop := rfl
@[simp] theorem Mach.modCore_pages (i : Nat) (f : FCore → FCore) : (m.modCore i f).pages = m.pages := rfl
@[simp] theorem Mach.modCore_widx (i : Nat) (f : FCore → FCore) : (m.modCore i f).widx = m.widx := rfl
@[simp] theorem Mach.modCore_tbuf (i : Nat) (f : FCore → FCore) : (m.modCore i f).tbuf = m.tbuf := rfl
@[simp] theorem Mach.modCore_lanes (i : Nat) (f : FCore → FCore) : (m.modCore i f).lanes = m.lanes := rfl
@[simp] theorem Mach.modCore_links (i : Nat) (f : FCore → FCore) : (m.modCore i f).links = m.links := rfl
@[simp] theorem Mach.modCore_tng (i : Nat) (f : FCore → FCore) : (m.modCore i f).tng = m.tng := rfl
@[simp] theorem Mach.modCore_pkgDigest (i : Nat) (f : FCore → FCore) : (m.modCore i f).pkgDigest = m.pkgDigest := rfl
@[simp] theorem Mach.modCore_lastMode (i : Nat) (f : FCore → FCore) : (m.modCore i f).lastMode = m.lastMode := rfl
@[simp] theorem Mach.modCore_rplSeen (i : Nat) (f : FCore → FCore) : (m.modCore i f).rplSeen = m.rplSeen := rfl
@[simp] theorem Mach.modCore_rplRec (i : Nat) (f : FCore → FCore) : (m.modCore i f).rplRec = m.rplRec := rfl
@[simp] theorem Mach.modCore_spg (i : Nat) (f : FCore → FCore) : (m.modCore i f).spg = m.spg := rfl
@[simp] theorem Mach.modCore_drbgAt (i : Nat) (f : FCore → FCore) : (m.modCore i f).drbgAt = m.drbgAt := rfl
@[simp] theorem Mach.modCore_drbgN (i : Nat) (f : FCore → FCore) : (m.modCore i f).drbgN = m.drbgN := rfl
@[simp] theorem Mach.modCore_healthRun (i : Nat) (f : FCore → FCore) : (m.modCore i f).healthRun = m.healthRun := rfl
@[simp] theorem Mach.modCore_reelGood (i : Nat) (f : FCore → FCore) : (m.modCore i f).reelGood = m.reelGood := rfl
@[simp] theorem Mach.modCore_reelOff (i : Nat) (f : FCore → FCore) : (m.modCore i f).reelOff = m.reelOff := rfl
@[simp] theorem Mach.modCore_reelSeen (i : Nat) (f : FCore → FCore) : (m.modCore i f).reelSeen = m.reelSeen := rfl
@[simp] theorem Mach.modCore_keysAt (i : Nat) (f : FCore → FCore) : (m.modCore i f).keysAt = m.keysAt := rfl
@[simp] theorem Mach.modCore_recCkpts (i : Nat) (f : FCore → FCore) : (m.modCore i f).recCkpts = m.recCkpts := rfl
@[simp] theorem Mach.modCore_ckptAt (i : Nat) (f : FCore → FCore) : (m.modCore i f).ckptAt = m.ckptAt := rfl
@[simp] theorem Mach.modCore_ckptN (i : Nat) (f : FCore → FCore) : (m.modCore i f).ckptN = m.ckptN := rfl
@[simp] theorem Mach.modCore_rplPos (i : Nat) (f : FCore → FCore) : (m.modCore i f).rplPos = m.rplPos := rfl
@[simp] theorem Mach.modCore_rplOff (i : Nat) (f : FCore → FCore) : (m.modCore i f).rplOff = m.rplOff := rfl
@[simp] theorem Mach.modCore_rplExp (i : Nat) (f : FCore → FCore) : (m.modCore i f).rplExp = m.rplExp := rfl
@[simp] theorem Mach.modCore_rplCov (i : Nat) (f : FCore → FCore) : (m.modCore i f).rplCov = m.rplCov := rfl
@[simp] theorem Mach.modCore_rplChoices (i : Nat) (f : FCore → FCore) : (m.modCore i f).rplChoices = m.rplChoices := rfl
@[simp] theorem Mach.modCore_rplPre (i : Nat) (f : FCore → FCore) : (m.modCore i f).rplPre = m.rplPre := rfl
@[simp] theorem Mach.modCore_hostOut (i : Nat) (f : FCore → FCore) : (m.modCore i f).hostOut = m.hostOut := rfl
@[simp] theorem Mach.modCore_pcieOut (i : Nat) (f : FCore → FCore) : (m.modCore i f).pcieOut = m.pcieOut := rfl
@[simp] theorem Mach.modCore_tracer (i : Nat) (f : FCore → FCore) : (m.modCore i f).tracer = m.tracer := rfl
@[simp] theorem Mach.modCore_prof (i : Nat) (f : FCore → FCore) : (m.modCore i f).prof = m.prof := rfl
@[simp] theorem Mach.modCore_evtAt (i : Nat) (f : FCore → FCore) : (m.modCore i f).evtAt = m.evtAt := rfl
@[simp] theorem Mach.modCore_nvm (i : Nat) (f : FCore → FCore) : (m.modCore i f).nvm = m.nvm := rfl
@[simp] theorem Mach.modCore_pkg (i : Nat) (f : FCore → FCore) : (m.modCore i f).pkg = m.pkg := rfl
@[simp] theorem Mach.modCore_supply (i : Nat) (f : FCore → FCore) : (m.modCore i f).supply = m.supply := rfl
@[simp] theorem Mach.modCore_rst (i : Nat) (f : FCore → FCore) : (m.modCore i f).rst = m.rst := rfl
@[simp] theorem Mach.modCore_log (i : Nat) (f : FCore → FCore) : (m.modCore i f).log = m.log := rfl
@[simp] theorem Mach.modCore_mgt (i : Nat) (f : FCore → FCore) : (m.modCore i f).mgt = m.mgt := rfl
@[simp] theorem Mach.modCore_tim (i : Nat) (f : FCore → FCore) : (m.modCore i f).tim = m.tim := rfl
@[simp] theorem Mach.modCore_kiln (i : Nat) (f : FCore → FCore) : (m.modCore i f).kiln = m.kiln := rfl
@[simp] theorem Mach.modCore_snap (i : Nat) (f : FCore → FCore) : (m.modCore i f).snap = m.snap := rfl
@[simp] theorem Mach.modCore_hostIn (i : Nat) (f : FCore → FCore) : (m.modCore i f).hostIn = m.hostIn := rfl
@[simp] theorem Mach.modCore_dramKeys (i : Nat) (f : FCore → FCore) : (m.modCore i f).dramKeys = m.dramKeys := rfl

/-! ## `modPort` -/

@[simp] theorem Mach.modPort_now (i : Nat) (f : WPort → WPort) : (m.modPort i f).now = m.now := rfl
@[simp] theorem Mach.modPort_reelB (i : Nat) (f : WPort → WPort) : (m.modPort i f).reelB = m.reelB := rfl
@[simp] theorem Mach.modPort_reelT (i : Nat) (f : WPort → WPort) : (m.modPort i f).reelT = m.reelT := rfl
@[simp] theorem Mach.modPort_reelRate (i : Nat) (f : WPort → WPort) : (m.modPort i f).reelRate = m.reelRate := rfl
@[simp] theorem Mach.modPort_wallB (i : Nat) (f : WPort → WPort) : (m.modPort i f).wallB = m.wallB := rfl
@[simp] theorem Mach.modPort_wallT (i : Nat) (f : WPort → WPort) : (m.modPort i f).wallT = m.wallT := rfl
@[simp] theorem Mach.modPort_wallRate (i : Nat) (f : WPort → WPort) : (m.modPort i f).wallRate = m.wallRate := rfl
@[simp] theorem Mach.modPort_regs (i : Nat) (f : WPort → WPort) : (m.modPort i f).regs = m.regs := rfl
@[simp] theorem Mach.modPort_fresh (i : Nat) (f : WPort → WPort) : (m.modPort i f).fresh = m.fresh := rfl
@[simp] theorem Mach.modPort_twinPres (i : Nat) (f : WPort → WPort) : (m.modPort i f).twinPres = m.twinPres := rfl
@[simp] theorem Mach.modPort_twinB (i : Nat) (f : WPort → WPort) : (m.modPort i f).twinB = m.twinB := rfl
@[simp] theorem Mach.modPort_evq (i : Nat) (f : WPort → WPort) : (m.modPort i f).evq = m.evq := rfl
@[simp] theorem Mach.modPort_evDropped (i : Nat) (f : WPort → WPort) : (m.modPort i f).evDropped = m.evDropped := rfl
@[simp] theorem Mach.modPort_runs (i : Nat) (f : WPort → WPort) : (m.modPort i f).runs = m.runs := rfl
@[simp] theorem Mach.modPort_logBuf (i : Nat) (f : WPort → WPort) : (m.modPort i f).logBuf = m.logBuf := rfl
@[simp] theorem Mach.modPort_logLost (i : Nat) (f : WPort → WPort) : (m.modPort i f).logLost = m.logLost := rfl
@[simp] theorem Mach.modPort_fioCh (i : Nat) (f : WPort → WPort) : (m.modPort i f).fioCh = m.fioCh := rfl
@[simp] theorem Mach.modPort_swActs (i : Nat) (f : WPort → WPort) : (m.modPort i f).swActs = m.swActs := rfl
@[simp] theorem Mach.modPort_fioW (i : Nat) (f : WPort → WPort) : (m.modPort i f).fioW = m.fioW := rfl
@[simp] theorem Mach.modPort_fioC (i : Nat) (f : WPort → WPort) : (m.modPort i f).fioC = m.fioC := rfl
@[simp] theorem Mach.modPort_pos (i : Nat) (f : WPort → WPort) : (m.modPort i f).pos = m.pos := rfl
@[simp] theorem Mach.modPort_cmp (i : Nat) (f : WPort → WPort) : (m.modPort i f).cmp = m.cmp := rfl
@[simp] theorem Mach.modPort_pulses (i : Nat) (f : WPort → WPort) : (m.modPort i f).pulses = m.pulses := rfl
@[simp] theorem Mach.modPort_lateUntil (i : Nat) (f : WPort → WPort) : (m.modPort i f).lateUntil = m.lateUntil := rfl
@[simp] theorem Mach.modPort_mon (i : Nat) (f : WPort → WPort) : (m.modPort i f).mon = m.mon := rfl
@[simp] theorem Mach.modPort_verdQ (i : Nat) (f : WPort → WPort) : (m.modPort i f).verdQ = m.verdQ := rfl
@[simp] theorem Mach.modPort_loadAt (i : Nat) (f : WPort → WPort) : (m.modPort i f).loadAt = m.loadAt := rfl
@[simp] theorem Mach.modPort_bucketAt (i : Nat) (f : WPort → WPort) : (m.modPort i f).bucketAt = m.bucketAt := rfl
@[simp] theorem Mach.modPort_started (i : Nat) (f : WPort → WPort) : (m.modPort i f).started = m.started := rfl
@[simp] theorem Mach.modPort_ownVerdicts (i : Nat) (f : WPort → WPort) : (m.modPort i f).ownVerdicts = m.ownVerdicts := rfl
@[simp] theorem Mach.modPort_peerVerdicts (i : Nat) (f : WPort → WPort) : (m.modPort i f).peerVerdicts = m.peerVerdicts := rfl
@[simp] theorem Mach.modPort_ownDigests (i : Nat) (f : WPort → WPort) : (m.modPort i f).ownDigests = m.ownDigests := rfl
@[simp] theorem Mach.modPort_peerDigests (i : Nat) (f : WPort → WPort) : (m.modPort i f).peerDigests = m.peerDigests := rfl
@[simp] theorem Mach.modPort_recBuf (i : Nat) (f : WPort → WPort) : (m.modPort i f).recBuf = m.recBuf := rfl
@[simp] theorem Mach.modPort_recDropped (i : Nat) (f : WPort → WPort) : (m.modPort i f).recDropped = m.recDropped := rfl
@[simp] theorem Mach.modPort_recFirst (i : Nat) (f : WPort → WPort) : (m.modPort i f).recFirst = m.recFirst := rfl
@[simp] theorem Mach.modPort_recFreeze (i : Nat) (f : WPort → WPort) : (m.modPort i f).recFreeze = m.recFreeze := rfl
@[simp] theorem Mach.modPort_grs (i : Nat) (f : WPort → WPort) : (m.modPort i f).grs = m.grs := rfl
@[simp] theorem Mach.modPort_pipes (i : Nat) (f : WPort → WPort) : (m.modPort i f).pipes = m.pipes := rfl
@[simp] theorem Mach.modPort_cxs (i : Nat) (f : WPort → WPort) : (m.modPort i f).cxs = m.cxs := rfl
@[simp] theorem Mach.modPort_eng (i : Nat) (f : WPort → WPort) : (m.modPort i f).eng = m.eng := rfl
@[simp] theorem Mach.modPort_cores (i : Nat) (f : WPort → WPort) : (m.modPort i f).cores = m.cores := rfl
@[simp] theorem Mach.modPort_istore (i : Nat) (f : WPort → WPort) : (m.modPort i f).istore = m.istore := rfl
@[simp] theorem Mach.modPort_mbxWait (i : Nat) (f : WPort → WPort) : (m.modPort i f).mbxWait = m.mbxWait := rfl
@[simp] theorem Mach.modPort_jobs (i : Nat) (f : WPort → WPort) : (m.modPort i f).jobs = m.jobs := rfl
@[simp] theorem Mach.modPort_msix (i : Nat) (f : WPort → WPort) : (m.modPort i f).msix = m.msix := rfl
@[simp] theorem Mach.modPort_pba (i : Nat) (f : WPort → WPort) : (m.modPort i f).pba = m.pba := rfl
@[simp] theorem Mach.modPort_violated (i : Nat) (f : WPort → WPort) : (m.modPort i f).violated = m.violated := rfl
@[simp] theorem Mach.modPort_clJob (i : Nat) (f : WPort → WPort) : (m.modPort i f).clJob = m.clJob := rfl
@[simp] theorem Mach.modPort_asms (i : Nat) (f : WPort → WPort) : (m.modPort i f).asms = m.asms := rfl
@[simp] theorem Mach.modPort_clq (i : Nat) (f : WPort → WPort) : (m.modPort i f).clq = m.clq := rfl
@[simp] theorem Mach.modPort_running (i : Nat) (f : WPort → WPort) : (m.modPort i f).running = m.running := rfl
@[simp] theorem Mach.modPort_tileSeq (i : Nat) (f : WPort → WPort) : (m.modPort i f).tileSeq = m.tileSeq := rfl
@[simp] theorem Mach.modPort_clIdle (i : Nat) (f : WPort → WPort) : (m.modPort i f).clIdle = m.clIdle := rfl
@[simp] theorem Mach.modPort_jobRt (i : Nat) (f : WPort → WPort) : (m.modPort i f).jobRt = m.jobRt := rfl
@[simp] theorem Mach.modPort_switching (i : Nat) (f : WPort → WPort) : (m.modPort i f).switching = m.switching := rfl
@[simp] theorem Mach.modPort_restart (i : Nat) (f : WPort → WPort) : (m.modPort i f).restart = m.restart := rfl
@[simp] theorem Mach.modPort_chain (i : Nat) (f : WPort → WPort) : (m.modPort i f).chain = m.chain := rfl
@[simp] theorem Mach.modPort_shed (i : Nat) (f : WPort → WPort) : (m.modPort i f).shed = m.shed := rfl
@[simp] theorem Mach.modPort_hop (i : Nat) (f : WPort → WPort) : (m.modPort i f).hop = m.hop := rfl
@[simp] theorem Mach.modPort_pages (i : Nat) (f : WPort → WPort) : (m.modPort i f).pages = m.pages := rfl
@[simp] theorem Mach.modPort_widx (i : Nat) (f : WPort → WPort) : (m.modPort i f).widx = m.widx := rfl
@[simp] theorem Mach.modPort_tbuf (i : Nat) (f : WPort → WPort) : (m.modPort i f).tbuf = m.tbuf := rfl
@[simp] theorem Mach.modPort_lanes (i : Nat) (f : WPort → WPort) : (m.modPort i f).lanes = m.lanes := rfl
@[simp] theorem Mach.modPort_links (i : Nat) (f : WPort → WPort) : (m.modPort i f).links = m.links := rfl
@[simp] theorem Mach.modPort_tng (i : Nat) (f : WPort → WPort) : (m.modPort i f).tng = m.tng := rfl
@[simp] theorem Mach.modPort_pkgDigest (i : Nat) (f : WPort → WPort) : (m.modPort i f).pkgDigest = m.pkgDigest := rfl
@[simp] theorem Mach.modPort_lastMode (i : Nat) (f : WPort → WPort) : (m.modPort i f).lastMode = m.lastMode := rfl
@[simp] theorem Mach.modPort_rplSeen (i : Nat) (f : WPort → WPort) : (m.modPort i f).rplSeen = m.rplSeen := rfl
@[simp] theorem Mach.modPort_rplRec (i : Nat) (f : WPort → WPort) : (m.modPort i f).rplRec = m.rplRec := rfl
@[simp] theorem Mach.modPort_spg (i : Nat) (f : WPort → WPort) : (m.modPort i f).spg = m.spg := rfl
@[simp] theorem Mach.modPort_drbgAt (i : Nat) (f : WPort → WPort) : (m.modPort i f).drbgAt = m.drbgAt := rfl
@[simp] theorem Mach.modPort_drbgN (i : Nat) (f : WPort → WPort) : (m.modPort i f).drbgN = m.drbgN := rfl
@[simp] theorem Mach.modPort_healthRun (i : Nat) (f : WPort → WPort) : (m.modPort i f).healthRun = m.healthRun := rfl
@[simp] theorem Mach.modPort_reelGood (i : Nat) (f : WPort → WPort) : (m.modPort i f).reelGood = m.reelGood := rfl
@[simp] theorem Mach.modPort_reelOff (i : Nat) (f : WPort → WPort) : (m.modPort i f).reelOff = m.reelOff := rfl
@[simp] theorem Mach.modPort_reelSeen (i : Nat) (f : WPort → WPort) : (m.modPort i f).reelSeen = m.reelSeen := rfl
@[simp] theorem Mach.modPort_keysAt (i : Nat) (f : WPort → WPort) : (m.modPort i f).keysAt = m.keysAt := rfl
@[simp] theorem Mach.modPort_recCkpts (i : Nat) (f : WPort → WPort) : (m.modPort i f).recCkpts = m.recCkpts := rfl
@[simp] theorem Mach.modPort_ckptAt (i : Nat) (f : WPort → WPort) : (m.modPort i f).ckptAt = m.ckptAt := rfl
@[simp] theorem Mach.modPort_ckptN (i : Nat) (f : WPort → WPort) : (m.modPort i f).ckptN = m.ckptN := rfl
@[simp] theorem Mach.modPort_rplPos (i : Nat) (f : WPort → WPort) : (m.modPort i f).rplPos = m.rplPos := rfl
@[simp] theorem Mach.modPort_rplOff (i : Nat) (f : WPort → WPort) : (m.modPort i f).rplOff = m.rplOff := rfl
@[simp] theorem Mach.modPort_rplExp (i : Nat) (f : WPort → WPort) : (m.modPort i f).rplExp = m.rplExp := rfl
@[simp] theorem Mach.modPort_rplCov (i : Nat) (f : WPort → WPort) : (m.modPort i f).rplCov = m.rplCov := rfl
@[simp] theorem Mach.modPort_rplChoices (i : Nat) (f : WPort → WPort) : (m.modPort i f).rplChoices = m.rplChoices := rfl
@[simp] theorem Mach.modPort_rplPre (i : Nat) (f : WPort → WPort) : (m.modPort i f).rplPre = m.rplPre := rfl
@[simp] theorem Mach.modPort_hostOut (i : Nat) (f : WPort → WPort) : (m.modPort i f).hostOut = m.hostOut := rfl
@[simp] theorem Mach.modPort_pcieOut (i : Nat) (f : WPort → WPort) : (m.modPort i f).pcieOut = m.pcieOut := rfl
@[simp] theorem Mach.modPort_tracer (i : Nat) (f : WPort → WPort) : (m.modPort i f).tracer = m.tracer := rfl
@[simp] theorem Mach.modPort_prof (i : Nat) (f : WPort → WPort) : (m.modPort i f).prof = m.prof := rfl
@[simp] theorem Mach.modPort_evtAt (i : Nat) (f : WPort → WPort) : (m.modPort i f).evtAt = m.evtAt := rfl
@[simp] theorem Mach.modPort_nvm (i : Nat) (f : WPort → WPort) : (m.modPort i f).nvm = m.nvm := rfl
@[simp] theorem Mach.modPort_pkg (i : Nat) (f : WPort → WPort) : (m.modPort i f).pkg = m.pkg := rfl
@[simp] theorem Mach.modPort_supply (i : Nat) (f : WPort → WPort) : (m.modPort i f).supply = m.supply := rfl
@[simp] theorem Mach.modPort_rst (i : Nat) (f : WPort → WPort) : (m.modPort i f).rst = m.rst := rfl
@[simp] theorem Mach.modPort_log (i : Nat) (f : WPort → WPort) : (m.modPort i f).log = m.log := rfl
@[simp] theorem Mach.modPort_mgt (i : Nat) (f : WPort → WPort) : (m.modPort i f).mgt = m.mgt := rfl
@[simp] theorem Mach.modPort_tim (i : Nat) (f : WPort → WPort) : (m.modPort i f).tim = m.tim := rfl
@[simp] theorem Mach.modPort_kiln (i : Nat) (f : WPort → WPort) : (m.modPort i f).kiln = m.kiln := rfl
@[simp] theorem Mach.modPort_snap (i : Nat) (f : WPort → WPort) : (m.modPort i f).snap = m.snap := rfl
@[simp] theorem Mach.modPort_hostIn (i : Nat) (f : WPort → WPort) : (m.modPort i f).hostIn = m.hostIn := rfl
@[simp] theorem Mach.modPort_dramKeys (i : Nat) (f : WPort → WPort) : (m.modPort i f).dramKeys = m.dramKeys := rfl

/-! ## `modJob` -/

@[simp] theorem Mach.modJob_now (i : Nat) (f : JobRt → JobRt) : (m.modJob i f).now = m.now := rfl
@[simp] theorem Mach.modJob_reelB (i : Nat) (f : JobRt → JobRt) : (m.modJob i f).reelB = m.reelB := rfl
@[simp] theorem Mach.modJob_reelT (i : Nat) (f : JobRt → JobRt) : (m.modJob i f).reelT = m.reelT := rfl
@[simp] theorem Mach.modJob_reelRate (i : Nat) (f : JobRt → JobRt) : (m.modJob i f).reelRate = m.reelRate := rfl
@[simp] theorem Mach.modJob_wallB (i : Nat) (f : JobRt → JobRt) : (m.modJob i f).wallB = m.wallB := rfl
@[simp] theorem Mach.modJob_wallT (i : Nat) (f : JobRt → JobRt) : (m.modJob i f).wallT = m.wallT := rfl
@[simp] theorem Mach.modJob_wallRate (i : Nat) (f : JobRt → JobRt) : (m.modJob i f).wallRate = m.wallRate := rfl
@[simp] theorem Mach.modJob_regs (i : Nat) (f : JobRt → JobRt) : (m.modJob i f).regs = m.regs := rfl
@[simp] theorem Mach.modJob_fresh (i : Nat) (f : JobRt → JobRt) : (m.modJob i f).fresh = m.fresh := rfl
@[simp] theorem Mach.modJob_twinPres (i : Nat) (f : JobRt → JobRt) : (m.modJob i f).twinPres = m.twinPres := rfl
@[simp] theorem Mach.modJob_twinB (i : Nat) (f : JobRt → JobRt) : (m.modJob i f).twinB = m.twinB := rfl
@[simp] theorem Mach.modJob_evq (i : Nat) (f : JobRt → JobRt) : (m.modJob i f).evq = m.evq := rfl
@[simp] theorem Mach.modJob_evDropped (i : Nat) (f : JobRt → JobRt) : (m.modJob i f).evDropped = m.evDropped := rfl
@[simp] theorem Mach.modJob_runs (i : Nat) (f : JobRt → JobRt) : (m.modJob i f).runs = m.runs := rfl
@[simp] theorem Mach.modJob_logBuf (i : Nat) (f : JobRt → JobRt) : (m.modJob i f).logBuf = m.logBuf := rfl
@[simp] theorem Mach.modJob_logLost (i : Nat) (f : JobRt → JobRt) : (m.modJob i f).logLost = m.logLost := rfl
@[simp] theorem Mach.modJob_fioCh (i : Nat) (f : JobRt → JobRt) : (m.modJob i f).fioCh = m.fioCh := rfl
@[simp] theorem Mach.modJob_swActs (i : Nat) (f : JobRt → JobRt) : (m.modJob i f).swActs = m.swActs := rfl
@[simp] theorem Mach.modJob_fioW (i : Nat) (f : JobRt → JobRt) : (m.modJob i f).fioW = m.fioW := rfl
@[simp] theorem Mach.modJob_fioC (i : Nat) (f : JobRt → JobRt) : (m.modJob i f).fioC = m.fioC := rfl
@[simp] theorem Mach.modJob_pos (i : Nat) (f : JobRt → JobRt) : (m.modJob i f).pos = m.pos := rfl
@[simp] theorem Mach.modJob_cmp (i : Nat) (f : JobRt → JobRt) : (m.modJob i f).cmp = m.cmp := rfl
@[simp] theorem Mach.modJob_pulses (i : Nat) (f : JobRt → JobRt) : (m.modJob i f).pulses = m.pulses := rfl
@[simp] theorem Mach.modJob_lateUntil (i : Nat) (f : JobRt → JobRt) : (m.modJob i f).lateUntil = m.lateUntil := rfl
@[simp] theorem Mach.modJob_mon (i : Nat) (f : JobRt → JobRt) : (m.modJob i f).mon = m.mon := rfl
@[simp] theorem Mach.modJob_verdQ (i : Nat) (f : JobRt → JobRt) : (m.modJob i f).verdQ = m.verdQ := rfl
@[simp] theorem Mach.modJob_loadAt (i : Nat) (f : JobRt → JobRt) : (m.modJob i f).loadAt = m.loadAt := rfl
@[simp] theorem Mach.modJob_bucketAt (i : Nat) (f : JobRt → JobRt) : (m.modJob i f).bucketAt = m.bucketAt := rfl
@[simp] theorem Mach.modJob_started (i : Nat) (f : JobRt → JobRt) : (m.modJob i f).started = m.started := rfl
@[simp] theorem Mach.modJob_ownVerdicts (i : Nat) (f : JobRt → JobRt) : (m.modJob i f).ownVerdicts = m.ownVerdicts := rfl
@[simp] theorem Mach.modJob_peerVerdicts (i : Nat) (f : JobRt → JobRt) : (m.modJob i f).peerVerdicts = m.peerVerdicts := rfl
@[simp] theorem Mach.modJob_ownDigests (i : Nat) (f : JobRt → JobRt) : (m.modJob i f).ownDigests = m.ownDigests := rfl
@[simp] theorem Mach.modJob_peerDigests (i : Nat) (f : JobRt → JobRt) : (m.modJob i f).peerDigests = m.peerDigests := rfl
@[simp] theorem Mach.modJob_recBuf (i : Nat) (f : JobRt → JobRt) : (m.modJob i f).recBuf = m.recBuf := rfl
@[simp] theorem Mach.modJob_recDropped (i : Nat) (f : JobRt → JobRt) : (m.modJob i f).recDropped = m.recDropped := rfl
@[simp] theorem Mach.modJob_recFirst (i : Nat) (f : JobRt → JobRt) : (m.modJob i f).recFirst = m.recFirst := rfl
@[simp] theorem Mach.modJob_recFreeze (i : Nat) (f : JobRt → JobRt) : (m.modJob i f).recFreeze = m.recFreeze := rfl
@[simp] theorem Mach.modJob_grs (i : Nat) (f : JobRt → JobRt) : (m.modJob i f).grs = m.grs := rfl
@[simp] theorem Mach.modJob_pipes (i : Nat) (f : JobRt → JobRt) : (m.modJob i f).pipes = m.pipes := rfl
@[simp] theorem Mach.modJob_cxs (i : Nat) (f : JobRt → JobRt) : (m.modJob i f).cxs = m.cxs := rfl
@[simp] theorem Mach.modJob_eng (i : Nat) (f : JobRt → JobRt) : (m.modJob i f).eng = m.eng := rfl
@[simp] theorem Mach.modJob_cores (i : Nat) (f : JobRt → JobRt) : (m.modJob i f).cores = m.cores := rfl
@[simp] theorem Mach.modJob_istore (i : Nat) (f : JobRt → JobRt) : (m.modJob i f).istore = m.istore := rfl
@[simp] theorem Mach.modJob_ports (i : Nat) (f : JobRt → JobRt) : (m.modJob i f).ports = m.ports := rfl
@[simp] theorem Mach.modJob_mbxWait (i : Nat) (f : JobRt → JobRt) : (m.modJob i f).mbxWait = m.mbxWait := rfl
@[simp] theorem Mach.modJob_jobs (i : Nat) (f : JobRt → JobRt) : (m.modJob i f).jobs = m.jobs := rfl
@[simp] theorem Mach.modJob_msix (i : Nat) (f : JobRt → JobRt) : (m.modJob i f).msix = m.msix := rfl
@[simp] theorem Mach.modJob_pba (i : Nat) (f : JobRt → JobRt) : (m.modJob i f).pba = m.pba := rfl
@[simp] theorem Mach.modJob_violated (i : Nat) (f : JobRt → JobRt) : (m.modJob i f).violated = m.violated := rfl
@[simp] theorem Mach.modJob_clJob (i : Nat) (f : JobRt → JobRt) : (m.modJob i f).clJob = m.clJob := rfl
@[simp] theorem Mach.modJob_asms (i : Nat) (f : JobRt → JobRt) : (m.modJob i f).asms = m.asms := rfl
@[simp] theorem Mach.modJob_clq (i : Nat) (f : JobRt → JobRt) : (m.modJob i f).clq = m.clq := rfl
@[simp] theorem Mach.modJob_running (i : Nat) (f : JobRt → JobRt) : (m.modJob i f).running = m.running := rfl
@[simp] theorem Mach.modJob_tileSeq (i : Nat) (f : JobRt → JobRt) : (m.modJob i f).tileSeq = m.tileSeq := rfl
@[simp] theorem Mach.modJob_clIdle (i : Nat) (f : JobRt → JobRt) : (m.modJob i f).clIdle = m.clIdle := rfl
@[simp] theorem Mach.modJob_switching (i : Nat) (f : JobRt → JobRt) : (m.modJob i f).switching = m.switching := rfl
@[simp] theorem Mach.modJob_restart (i : Nat) (f : JobRt → JobRt) : (m.modJob i f).restart = m.restart := rfl
@[simp] theorem Mach.modJob_chain (i : Nat) (f : JobRt → JobRt) : (m.modJob i f).chain = m.chain := rfl
@[simp] theorem Mach.modJob_shed (i : Nat) (f : JobRt → JobRt) : (m.modJob i f).shed = m.shed := rfl
@[simp] theorem Mach.modJob_hop (i : Nat) (f : JobRt → JobRt) : (m.modJob i f).hop = m.hop := rfl
@[simp] theorem Mach.modJob_pages (i : Nat) (f : JobRt → JobRt) : (m.modJob i f).pages = m.pages := rfl
@[simp] theorem Mach.modJob_widx (i : Nat) (f : JobRt → JobRt) : (m.modJob i f).widx = m.widx := rfl
@[simp] theorem Mach.modJob_tbuf (i : Nat) (f : JobRt → JobRt) : (m.modJob i f).tbuf = m.tbuf := rfl
@[simp] theorem Mach.modJob_lanes (i : Nat) (f : JobRt → JobRt) : (m.modJob i f).lanes = m.lanes := rfl
@[simp] theorem Mach.modJob_links (i : Nat) (f : JobRt → JobRt) : (m.modJob i f).links = m.links := rfl
@[simp] theorem Mach.modJob_tng (i : Nat) (f : JobRt → JobRt) : (m.modJob i f).tng = m.tng := rfl
@[simp] theorem Mach.modJob_pkgDigest (i : Nat) (f : JobRt → JobRt) : (m.modJob i f).pkgDigest = m.pkgDigest := rfl
@[simp] theorem Mach.modJob_lastMode (i : Nat) (f : JobRt → JobRt) : (m.modJob i f).lastMode = m.lastMode := rfl
@[simp] theorem Mach.modJob_rplSeen (i : Nat) (f : JobRt → JobRt) : (m.modJob i f).rplSeen = m.rplSeen := rfl
@[simp] theorem Mach.modJob_rplRec (i : Nat) (f : JobRt → JobRt) : (m.modJob i f).rplRec = m.rplRec := rfl
@[simp] theorem Mach.modJob_spg (i : Nat) (f : JobRt → JobRt) : (m.modJob i f).spg = m.spg := rfl
@[simp] theorem Mach.modJob_drbgAt (i : Nat) (f : JobRt → JobRt) : (m.modJob i f).drbgAt = m.drbgAt := rfl
@[simp] theorem Mach.modJob_drbgN (i : Nat) (f : JobRt → JobRt) : (m.modJob i f).drbgN = m.drbgN := rfl
@[simp] theorem Mach.modJob_healthRun (i : Nat) (f : JobRt → JobRt) : (m.modJob i f).healthRun = m.healthRun := rfl
@[simp] theorem Mach.modJob_reelGood (i : Nat) (f : JobRt → JobRt) : (m.modJob i f).reelGood = m.reelGood := rfl
@[simp] theorem Mach.modJob_reelOff (i : Nat) (f : JobRt → JobRt) : (m.modJob i f).reelOff = m.reelOff := rfl
@[simp] theorem Mach.modJob_reelSeen (i : Nat) (f : JobRt → JobRt) : (m.modJob i f).reelSeen = m.reelSeen := rfl
@[simp] theorem Mach.modJob_keysAt (i : Nat) (f : JobRt → JobRt) : (m.modJob i f).keysAt = m.keysAt := rfl
@[simp] theorem Mach.modJob_recCkpts (i : Nat) (f : JobRt → JobRt) : (m.modJob i f).recCkpts = m.recCkpts := rfl
@[simp] theorem Mach.modJob_ckptAt (i : Nat) (f : JobRt → JobRt) : (m.modJob i f).ckptAt = m.ckptAt := rfl
@[simp] theorem Mach.modJob_ckptN (i : Nat) (f : JobRt → JobRt) : (m.modJob i f).ckptN = m.ckptN := rfl
@[simp] theorem Mach.modJob_rplPos (i : Nat) (f : JobRt → JobRt) : (m.modJob i f).rplPos = m.rplPos := rfl
@[simp] theorem Mach.modJob_rplOff (i : Nat) (f : JobRt → JobRt) : (m.modJob i f).rplOff = m.rplOff := rfl
@[simp] theorem Mach.modJob_rplExp (i : Nat) (f : JobRt → JobRt) : (m.modJob i f).rplExp = m.rplExp := rfl
@[simp] theorem Mach.modJob_rplCov (i : Nat) (f : JobRt → JobRt) : (m.modJob i f).rplCov = m.rplCov := rfl
@[simp] theorem Mach.modJob_rplChoices (i : Nat) (f : JobRt → JobRt) : (m.modJob i f).rplChoices = m.rplChoices := rfl
@[simp] theorem Mach.modJob_rplPre (i : Nat) (f : JobRt → JobRt) : (m.modJob i f).rplPre = m.rplPre := rfl
@[simp] theorem Mach.modJob_hostOut (i : Nat) (f : JobRt → JobRt) : (m.modJob i f).hostOut = m.hostOut := rfl
@[simp] theorem Mach.modJob_pcieOut (i : Nat) (f : JobRt → JobRt) : (m.modJob i f).pcieOut = m.pcieOut := rfl
@[simp] theorem Mach.modJob_tracer (i : Nat) (f : JobRt → JobRt) : (m.modJob i f).tracer = m.tracer := rfl
@[simp] theorem Mach.modJob_prof (i : Nat) (f : JobRt → JobRt) : (m.modJob i f).prof = m.prof := rfl
@[simp] theorem Mach.modJob_evtAt (i : Nat) (f : JobRt → JobRt) : (m.modJob i f).evtAt = m.evtAt := rfl
@[simp] theorem Mach.modJob_nvm (i : Nat) (f : JobRt → JobRt) : (m.modJob i f).nvm = m.nvm := rfl
@[simp] theorem Mach.modJob_pkg (i : Nat) (f : JobRt → JobRt) : (m.modJob i f).pkg = m.pkg := rfl
@[simp] theorem Mach.modJob_supply (i : Nat) (f : JobRt → JobRt) : (m.modJob i f).supply = m.supply := rfl
@[simp] theorem Mach.modJob_rst (i : Nat) (f : JobRt → JobRt) : (m.modJob i f).rst = m.rst := rfl
@[simp] theorem Mach.modJob_log (i : Nat) (f : JobRt → JobRt) : (m.modJob i f).log = m.log := rfl
@[simp] theorem Mach.modJob_mgt (i : Nat) (f : JobRt → JobRt) : (m.modJob i f).mgt = m.mgt := rfl
@[simp] theorem Mach.modJob_tim (i : Nat) (f : JobRt → JobRt) : (m.modJob i f).tim = m.tim := rfl
@[simp] theorem Mach.modJob_kiln (i : Nat) (f : JobRt → JobRt) : (m.modJob i f).kiln = m.kiln := rfl
@[simp] theorem Mach.modJob_snap (i : Nat) (f : JobRt → JobRt) : (m.modJob i f).snap = m.snap := rfl
@[simp] theorem Mach.modJob_hostIn (i : Nat) (f : JobRt → JobRt) : (m.modJob i f).hostIn = m.hostIn := rfl
@[simp] theorem Mach.modJob_dramKeys (i : Nat) (f : JobRt → JobRt) : (m.modJob i f).dramKeys = m.dramKeys := rfl

/-! ## `setClq` -/

@[simp] theorem Mach.setClq_now (i : Nat) (f : List Tile) : (m.setClq i f).now = m.now := rfl
@[simp] theorem Mach.setClq_regs (i : Nat) (f : List Tile) : (m.setClq i f).regs = m.regs := rfl
@[simp] theorem Mach.setClq_fresh (i : Nat) (f : List Tile) : (m.setClq i f).fresh = m.fresh := rfl
@[simp] theorem Mach.setClq_evq (i : Nat) (f : List Tile) : (m.setClq i f).evq = m.evq := rfl

/-! ## `modHop` -/

@[simp] theorem Mach.modHop_now (i : Nat) (f : HopEnt → HopEnt) : (m.modHop i f).now = m.now := rfl
@[simp] theorem Mach.modHop_reelB (i : Nat) (f : HopEnt → HopEnt) : (m.modHop i f).reelB = m.reelB := rfl
@[simp] theorem Mach.modHop_reelT (i : Nat) (f : HopEnt → HopEnt) : (m.modHop i f).reelT = m.reelT := rfl
@[simp] theorem Mach.modHop_reelRate (i : Nat) (f : HopEnt → HopEnt) : (m.modHop i f).reelRate = m.reelRate := rfl
@[simp] theorem Mach.modHop_wallB (i : Nat) (f : HopEnt → HopEnt) : (m.modHop i f).wallB = m.wallB := rfl
@[simp] theorem Mach.modHop_wallT (i : Nat) (f : HopEnt → HopEnt) : (m.modHop i f).wallT = m.wallT := rfl
@[simp] theorem Mach.modHop_wallRate (i : Nat) (f : HopEnt → HopEnt) : (m.modHop i f).wallRate = m.wallRate := rfl
@[simp] theorem Mach.modHop_regs (i : Nat) (f : HopEnt → HopEnt) : (m.modHop i f).regs = m.regs := rfl
@[simp] theorem Mach.modHop_fresh (i : Nat) (f : HopEnt → HopEnt) : (m.modHop i f).fresh = m.fresh := rfl
@[simp] theorem Mach.modHop_twinPres (i : Nat) (f : HopEnt → HopEnt) : (m.modHop i f).twinPres = m.twinPres := rfl
@[simp] theorem Mach.modHop_twinB (i : Nat) (f : HopEnt → HopEnt) : (m.modHop i f).twinB = m.twinB := rfl
@[simp] theorem Mach.modHop_evq (i : Nat) (f : HopEnt → HopEnt) : (m.modHop i f).evq = m.evq := rfl
@[simp] theorem Mach.modHop_evDropped (i : Nat) (f : HopEnt → HopEnt) : (m.modHop i f).evDropped = m.evDropped := rfl
@[simp] theorem Mach.modHop_runs (i : Nat) (f : HopEnt → HopEnt) : (m.modHop i f).runs = m.runs := rfl
@[simp] theorem Mach.modHop_logBuf (i : Nat) (f : HopEnt → HopEnt) : (m.modHop i f).logBuf = m.logBuf := rfl
@[simp] theorem Mach.modHop_logLost (i : Nat) (f : HopEnt → HopEnt) : (m.modHop i f).logLost = m.logLost := rfl
@[simp] theorem Mach.modHop_fioCh (i : Nat) (f : HopEnt → HopEnt) : (m.modHop i f).fioCh = m.fioCh := rfl
@[simp] theorem Mach.modHop_swActs (i : Nat) (f : HopEnt → HopEnt) : (m.modHop i f).swActs = m.swActs := rfl
@[simp] theorem Mach.modHop_fioW (i : Nat) (f : HopEnt → HopEnt) : (m.modHop i f).fioW = m.fioW := rfl
@[simp] theorem Mach.modHop_fioC (i : Nat) (f : HopEnt → HopEnt) : (m.modHop i f).fioC = m.fioC := rfl
@[simp] theorem Mach.modHop_pos (i : Nat) (f : HopEnt → HopEnt) : (m.modHop i f).pos = m.pos := rfl
@[simp] theorem Mach.modHop_cmp (i : Nat) (f : HopEnt → HopEnt) : (m.modHop i f).cmp = m.cmp := rfl
@[simp] theorem Mach.modHop_pulses (i : Nat) (f : HopEnt → HopEnt) : (m.modHop i f).pulses = m.pulses := rfl
@[simp] theorem Mach.modHop_lateUntil (i : Nat) (f : HopEnt → HopEnt) : (m.modHop i f).lateUntil = m.lateUntil := rfl
@[simp] theorem Mach.modHop_mon (i : Nat) (f : HopEnt → HopEnt) : (m.modHop i f).mon = m.mon := rfl
@[simp] theorem Mach.modHop_verdQ (i : Nat) (f : HopEnt → HopEnt) : (m.modHop i f).verdQ = m.verdQ := rfl
@[simp] theorem Mach.modHop_loadAt (i : Nat) (f : HopEnt → HopEnt) : (m.modHop i f).loadAt = m.loadAt := rfl
@[simp] theorem Mach.modHop_bucketAt (i : Nat) (f : HopEnt → HopEnt) : (m.modHop i f).bucketAt = m.bucketAt := rfl
@[simp] theorem Mach.modHop_started (i : Nat) (f : HopEnt → HopEnt) : (m.modHop i f).started = m.started := rfl
@[simp] theorem Mach.modHop_ownVerdicts (i : Nat) (f : HopEnt → HopEnt) : (m.modHop i f).ownVerdicts = m.ownVerdicts := rfl
@[simp] theorem Mach.modHop_peerVerdicts (i : Nat) (f : HopEnt → HopEnt) : (m.modHop i f).peerVerdicts = m.peerVerdicts := rfl
@[simp] theorem Mach.modHop_ownDigests (i : Nat) (f : HopEnt → HopEnt) : (m.modHop i f).ownDigests = m.ownDigests := rfl
@[simp] theorem Mach.modHop_peerDigests (i : Nat) (f : HopEnt → HopEnt) : (m.modHop i f).peerDigests = m.peerDigests := rfl
@[simp] theorem Mach.modHop_recBuf (i : Nat) (f : HopEnt → HopEnt) : (m.modHop i f).recBuf = m.recBuf := rfl
@[simp] theorem Mach.modHop_recDropped (i : Nat) (f : HopEnt → HopEnt) : (m.modHop i f).recDropped = m.recDropped := rfl
@[simp] theorem Mach.modHop_recFirst (i : Nat) (f : HopEnt → HopEnt) : (m.modHop i f).recFirst = m.recFirst := rfl
@[simp] theorem Mach.modHop_recFreeze (i : Nat) (f : HopEnt → HopEnt) : (m.modHop i f).recFreeze = m.recFreeze := rfl
@[simp] theorem Mach.modHop_grs (i : Nat) (f : HopEnt → HopEnt) : (m.modHop i f).grs = m.grs := rfl
@[simp] theorem Mach.modHop_pipes (i : Nat) (f : HopEnt → HopEnt) : (m.modHop i f).pipes = m.pipes := rfl
@[simp] theorem Mach.modHop_cxs (i : Nat) (f : HopEnt → HopEnt) : (m.modHop i f).cxs = m.cxs := rfl
@[simp] theorem Mach.modHop_eng (i : Nat) (f : HopEnt → HopEnt) : (m.modHop i f).eng = m.eng := rfl
@[simp] theorem Mach.modHop_cores (i : Nat) (f : HopEnt → HopEnt) : (m.modHop i f).cores = m.cores := rfl
@[simp] theorem Mach.modHop_istore (i : Nat) (f : HopEnt → HopEnt) : (m.modHop i f).istore = m.istore := rfl
@[simp] theorem Mach.modHop_ports (i : Nat) (f : HopEnt → HopEnt) : (m.modHop i f).ports = m.ports := rfl
@[simp] theorem Mach.modHop_mbxWait (i : Nat) (f : HopEnt → HopEnt) : (m.modHop i f).mbxWait = m.mbxWait := rfl
@[simp] theorem Mach.modHop_jobs (i : Nat) (f : HopEnt → HopEnt) : (m.modHop i f).jobs = m.jobs := rfl
@[simp] theorem Mach.modHop_msix (i : Nat) (f : HopEnt → HopEnt) : (m.modHop i f).msix = m.msix := rfl
@[simp] theorem Mach.modHop_pba (i : Nat) (f : HopEnt → HopEnt) : (m.modHop i f).pba = m.pba := rfl
@[simp] theorem Mach.modHop_violated (i : Nat) (f : HopEnt → HopEnt) : (m.modHop i f).violated = m.violated := rfl
@[simp] theorem Mach.modHop_clJob (i : Nat) (f : HopEnt → HopEnt) : (m.modHop i f).clJob = m.clJob := rfl
@[simp] theorem Mach.modHop_asms (i : Nat) (f : HopEnt → HopEnt) : (m.modHop i f).asms = m.asms := rfl
@[simp] theorem Mach.modHop_clq (i : Nat) (f : HopEnt → HopEnt) : (m.modHop i f).clq = m.clq := rfl
@[simp] theorem Mach.modHop_running (i : Nat) (f : HopEnt → HopEnt) : (m.modHop i f).running = m.running := rfl
@[simp] theorem Mach.modHop_tileSeq (i : Nat) (f : HopEnt → HopEnt) : (m.modHop i f).tileSeq = m.tileSeq := rfl
@[simp] theorem Mach.modHop_clIdle (i : Nat) (f : HopEnt → HopEnt) : (m.modHop i f).clIdle = m.clIdle := rfl
@[simp] theorem Mach.modHop_jobRt (i : Nat) (f : HopEnt → HopEnt) : (m.modHop i f).jobRt = m.jobRt := rfl
@[simp] theorem Mach.modHop_switching (i : Nat) (f : HopEnt → HopEnt) : (m.modHop i f).switching = m.switching := rfl
@[simp] theorem Mach.modHop_restart (i : Nat) (f : HopEnt → HopEnt) : (m.modHop i f).restart = m.restart := rfl
@[simp] theorem Mach.modHop_chain (i : Nat) (f : HopEnt → HopEnt) : (m.modHop i f).chain = m.chain := rfl
@[simp] theorem Mach.modHop_shed (i : Nat) (f : HopEnt → HopEnt) : (m.modHop i f).shed = m.shed := rfl
@[simp] theorem Mach.modHop_pages (i : Nat) (f : HopEnt → HopEnt) : (m.modHop i f).pages = m.pages := rfl
@[simp] theorem Mach.modHop_widx (i : Nat) (f : HopEnt → HopEnt) : (m.modHop i f).widx = m.widx := rfl
@[simp] theorem Mach.modHop_tbuf (i : Nat) (f : HopEnt → HopEnt) : (m.modHop i f).tbuf = m.tbuf := rfl
@[simp] theorem Mach.modHop_lanes (i : Nat) (f : HopEnt → HopEnt) : (m.modHop i f).lanes = m.lanes := rfl
@[simp] theorem Mach.modHop_links (i : Nat) (f : HopEnt → HopEnt) : (m.modHop i f).links = m.links := rfl
@[simp] theorem Mach.modHop_tng (i : Nat) (f : HopEnt → HopEnt) : (m.modHop i f).tng = m.tng := rfl
@[simp] theorem Mach.modHop_pkgDigest (i : Nat) (f : HopEnt → HopEnt) : (m.modHop i f).pkgDigest = m.pkgDigest := rfl
@[simp] theorem Mach.modHop_lastMode (i : Nat) (f : HopEnt → HopEnt) : (m.modHop i f).lastMode = m.lastMode := rfl
@[simp] theorem Mach.modHop_rplSeen (i : Nat) (f : HopEnt → HopEnt) : (m.modHop i f).rplSeen = m.rplSeen := rfl
@[simp] theorem Mach.modHop_rplRec (i : Nat) (f : HopEnt → HopEnt) : (m.modHop i f).rplRec = m.rplRec := rfl
@[simp] theorem Mach.modHop_spg (i : Nat) (f : HopEnt → HopEnt) : (m.modHop i f).spg = m.spg := rfl
@[simp] theorem Mach.modHop_drbgAt (i : Nat) (f : HopEnt → HopEnt) : (m.modHop i f).drbgAt = m.drbgAt := rfl
@[simp] theorem Mach.modHop_drbgN (i : Nat) (f : HopEnt → HopEnt) : (m.modHop i f).drbgN = m.drbgN := rfl
@[simp] theorem Mach.modHop_healthRun (i : Nat) (f : HopEnt → HopEnt) : (m.modHop i f).healthRun = m.healthRun := rfl
@[simp] theorem Mach.modHop_reelGood (i : Nat) (f : HopEnt → HopEnt) : (m.modHop i f).reelGood = m.reelGood := rfl
@[simp] theorem Mach.modHop_reelOff (i : Nat) (f : HopEnt → HopEnt) : (m.modHop i f).reelOff = m.reelOff := rfl
@[simp] theorem Mach.modHop_reelSeen (i : Nat) (f : HopEnt → HopEnt) : (m.modHop i f).reelSeen = m.reelSeen := rfl
@[simp] theorem Mach.modHop_keysAt (i : Nat) (f : HopEnt → HopEnt) : (m.modHop i f).keysAt = m.keysAt := rfl
@[simp] theorem Mach.modHop_recCkpts (i : Nat) (f : HopEnt → HopEnt) : (m.modHop i f).recCkpts = m.recCkpts := rfl
@[simp] theorem Mach.modHop_ckptAt (i : Nat) (f : HopEnt → HopEnt) : (m.modHop i f).ckptAt = m.ckptAt := rfl
@[simp] theorem Mach.modHop_ckptN (i : Nat) (f : HopEnt → HopEnt) : (m.modHop i f).ckptN = m.ckptN := rfl
@[simp] theorem Mach.modHop_rplPos (i : Nat) (f : HopEnt → HopEnt) : (m.modHop i f).rplPos = m.rplPos := rfl
@[simp] theorem Mach.modHop_rplOff (i : Nat) (f : HopEnt → HopEnt) : (m.modHop i f).rplOff = m.rplOff := rfl
@[simp] theorem Mach.modHop_rplExp (i : Nat) (f : HopEnt → HopEnt) : (m.modHop i f).rplExp = m.rplExp := rfl
@[simp] theorem Mach.modHop_rplCov (i : Nat) (f : HopEnt → HopEnt) : (m.modHop i f).rplCov = m.rplCov := rfl
@[simp] theorem Mach.modHop_rplChoices (i : Nat) (f : HopEnt → HopEnt) : (m.modHop i f).rplChoices = m.rplChoices := rfl
@[simp] theorem Mach.modHop_rplPre (i : Nat) (f : HopEnt → HopEnt) : (m.modHop i f).rplPre = m.rplPre := rfl
@[simp] theorem Mach.modHop_hostOut (i : Nat) (f : HopEnt → HopEnt) : (m.modHop i f).hostOut = m.hostOut := rfl
@[simp] theorem Mach.modHop_pcieOut (i : Nat) (f : HopEnt → HopEnt) : (m.modHop i f).pcieOut = m.pcieOut := rfl
@[simp] theorem Mach.modHop_tracer (i : Nat) (f : HopEnt → HopEnt) : (m.modHop i f).tracer = m.tracer := rfl
@[simp] theorem Mach.modHop_prof (i : Nat) (f : HopEnt → HopEnt) : (m.modHop i f).prof = m.prof := rfl
@[simp] theorem Mach.modHop_evtAt (i : Nat) (f : HopEnt → HopEnt) : (m.modHop i f).evtAt = m.evtAt := rfl
@[simp] theorem Mach.modHop_nvm (i : Nat) (f : HopEnt → HopEnt) : (m.modHop i f).nvm = m.nvm := rfl
@[simp] theorem Mach.modHop_pkg (i : Nat) (f : HopEnt → HopEnt) : (m.modHop i f).pkg = m.pkg := rfl
@[simp] theorem Mach.modHop_supply (i : Nat) (f : HopEnt → HopEnt) : (m.modHop i f).supply = m.supply := rfl
@[simp] theorem Mach.modHop_rst (i : Nat) (f : HopEnt → HopEnt) : (m.modHop i f).rst = m.rst := rfl
@[simp] theorem Mach.modHop_log (i : Nat) (f : HopEnt → HopEnt) : (m.modHop i f).log = m.log := rfl
@[simp] theorem Mach.modHop_mgt (i : Nat) (f : HopEnt → HopEnt) : (m.modHop i f).mgt = m.mgt := rfl
@[simp] theorem Mach.modHop_tim (i : Nat) (f : HopEnt → HopEnt) : (m.modHop i f).tim = m.tim := rfl
@[simp] theorem Mach.modHop_kiln (i : Nat) (f : HopEnt → HopEnt) : (m.modHop i f).kiln = m.kiln := rfl
@[simp] theorem Mach.modHop_snap (i : Nat) (f : HopEnt → HopEnt) : (m.modHop i f).snap = m.snap := rfl
@[simp] theorem Mach.modHop_hostIn (i : Nat) (f : HopEnt → HopEnt) : (m.modHop i f).hostIn = m.hostIn := rfl
@[simp] theorem Mach.modHop_dramKeys (i : Nat) (f : HopEnt → HopEnt) : (m.modHop i f).dramKeys = m.dramKeys := rfl

/-! ## `modPage` -/

@[simp] theorem Mach.modPage_now (i j : Nat) (f : HopPage → HopPage) : (m.modPage i j f).now = m.now := rfl
@[simp] theorem Mach.modPage_regs (i j : Nat) (f : HopPage → HopPage) : (m.modPage i j f).regs = m.regs := rfl
@[simp] theorem Mach.modPage_fresh (i j : Nat) (f : HopPage → HopPage) : (m.modPage i j f).fresh = m.fresh := rfl
@[simp] theorem Mach.modPage_evq (i j : Nat) (f : HopPage → HopPage) : (m.modPage i j f).evq = m.evq := rfl

/-! ## `tbDrop` -/

@[simp] theorem Mach.tbDrop_now (i j : Nat) : (m.tbDrop i j).now = m.now := rfl
@[simp] theorem Mach.tbDrop_regs (i j : Nat) : (m.tbDrop i j).regs = m.regs := rfl
@[simp] theorem Mach.tbDrop_fresh (i j : Nat) : (m.tbDrop i j).fresh = m.fresh := rfl
@[simp] theorem Mach.tbDrop_evq (i j : Nat) : (m.tbDrop i j).evq = m.evq := rfl

/-! ## `modLane` -/

@[simp] theorem Mach.modLane_now (i : Nat) (f : Lane → Lane) : (m.modLane i f).now = m.now := rfl
@[simp] theorem Mach.modLane_reelB (i : Nat) (f : Lane → Lane) : (m.modLane i f).reelB = m.reelB := rfl
@[simp] theorem Mach.modLane_reelT (i : Nat) (f : Lane → Lane) : (m.modLane i f).reelT = m.reelT := rfl
@[simp] theorem Mach.modLane_reelRate (i : Nat) (f : Lane → Lane) : (m.modLane i f).reelRate = m.reelRate := rfl
@[simp] theorem Mach.modLane_wallB (i : Nat) (f : Lane → Lane) : (m.modLane i f).wallB = m.wallB := rfl
@[simp] theorem Mach.modLane_wallT (i : Nat) (f : Lane → Lane) : (m.modLane i f).wallT = m.wallT := rfl
@[simp] theorem Mach.modLane_wallRate (i : Nat) (f : Lane → Lane) : (m.modLane i f).wallRate = m.wallRate := rfl
@[simp] theorem Mach.modLane_fresh (i : Nat) (f : Lane → Lane) : (m.modLane i f).fresh = m.fresh := rfl
@[simp] theorem Mach.modLane_twinPres (i : Nat) (f : Lane → Lane) : (m.modLane i f).twinPres = m.twinPres := rfl
@[simp] theorem Mach.modLane_twinB (i : Nat) (f : Lane → Lane) : (m.modLane i f).twinB = m.twinB := rfl
@[simp] theorem Mach.modLane_evq (i : Nat) (f : Lane → Lane) : (m.modLane i f).evq = m.evq := rfl
@[simp] theorem Mach.modLane_evDropped (i : Nat) (f : Lane → Lane) : (m.modLane i f).evDropped = m.evDropped := rfl
@[simp] theorem Mach.modLane_runs (i : Nat) (f : Lane → Lane) : (m.modLane i f).runs = m.runs := rfl
@[simp] theorem Mach.modLane_logBuf (i : Nat) (f : Lane → Lane) : (m.modLane i f).logBuf = m.logBuf := rfl
@[simp] theorem Mach.modLane_logLost (i : Nat) (f : Lane → Lane) : (m.modLane i f).logLost = m.logLost := rfl
@[simp] theorem Mach.modLane_fioCh (i : Nat) (f : Lane → Lane) : (m.modLane i f).fioCh = m.fioCh := rfl
@[simp] theorem Mach.modLane_swActs (i : Nat) (f : Lane → Lane) : (m.modLane i f).swActs = m.swActs := rfl
@[simp] theorem Mach.modLane_fioW (i : Nat) (f : Lane → Lane) : (m.modLane i f).fioW = m.fioW := rfl
@[simp] theorem Mach.modLane_fioC (i : Nat) (f : Lane → Lane) : (m.modLane i f).fioC = m.fioC := rfl
@[simp] theorem Mach.modLane_pos (i : Nat) (f : Lane → Lane) : (m.modLane i f).pos = m.pos := rfl
@[simp] theorem Mach.modLane_cmp (i : Nat) (f : Lane → Lane) : (m.modLane i f).cmp = m.cmp := rfl
@[simp] theorem Mach.modLane_pulses (i : Nat) (f : Lane → Lane) : (m.modLane i f).pulses = m.pulses := rfl
@[simp] theorem Mach.modLane_lateUntil (i : Nat) (f : Lane → Lane) : (m.modLane i f).lateUntil = m.lateUntil := rfl
@[simp] theorem Mach.modLane_mon (i : Nat) (f : Lane → Lane) : (m.modLane i f).mon = m.mon := rfl
@[simp] theorem Mach.modLane_verdQ (i : Nat) (f : Lane → Lane) : (m.modLane i f).verdQ = m.verdQ := rfl
@[simp] theorem Mach.modLane_loadAt (i : Nat) (f : Lane → Lane) : (m.modLane i f).loadAt = m.loadAt := rfl
@[simp] theorem Mach.modLane_bucketAt (i : Nat) (f : Lane → Lane) : (m.modLane i f).bucketAt = m.bucketAt := rfl
@[simp] theorem Mach.modLane_started (i : Nat) (f : Lane → Lane) : (m.modLane i f).started = m.started := rfl
@[simp] theorem Mach.modLane_ownVerdicts (i : Nat) (f : Lane → Lane) : (m.modLane i f).ownVerdicts = m.ownVerdicts := rfl
@[simp] theorem Mach.modLane_peerVerdicts (i : Nat) (f : Lane → Lane) : (m.modLane i f).peerVerdicts = m.peerVerdicts := rfl
@[simp] theorem Mach.modLane_ownDigests (i : Nat) (f : Lane → Lane) : (m.modLane i f).ownDigests = m.ownDigests := rfl
@[simp] theorem Mach.modLane_peerDigests (i : Nat) (f : Lane → Lane) : (m.modLane i f).peerDigests = m.peerDigests := rfl
@[simp] theorem Mach.modLane_recBuf (i : Nat) (f : Lane → Lane) : (m.modLane i f).recBuf = m.recBuf := rfl
@[simp] theorem Mach.modLane_recDropped (i : Nat) (f : Lane → Lane) : (m.modLane i f).recDropped = m.recDropped := rfl
@[simp] theorem Mach.modLane_recFirst (i : Nat) (f : Lane → Lane) : (m.modLane i f).recFirst = m.recFirst := rfl
@[simp] theorem Mach.modLane_recFreeze (i : Nat) (f : Lane → Lane) : (m.modLane i f).recFreeze = m.recFreeze := rfl
@[simp] theorem Mach.modLane_grs (i : Nat) (f : Lane → Lane) : (m.modLane i f).grs = m.grs := rfl
@[simp] theorem Mach.modLane_pipes (i : Nat) (f : Lane → Lane) : (m.modLane i f).pipes = m.pipes := rfl
@[simp] theorem Mach.modLane_cxs (i : Nat) (f : Lane → Lane) : (m.modLane i f).cxs = m.cxs := rfl
@[simp] theorem Mach.modLane_eng (i : Nat) (f : Lane → Lane) : (m.modLane i f).eng = m.eng := rfl
@[simp] theorem Mach.modLane_cores (i : Nat) (f : Lane → Lane) : (m.modLane i f).cores = m.cores := rfl
@[simp] theorem Mach.modLane_istore (i : Nat) (f : Lane → Lane) : (m.modLane i f).istore = m.istore := rfl
@[simp] theorem Mach.modLane_ports (i : Nat) (f : Lane → Lane) : (m.modLane i f).ports = m.ports := rfl
@[simp] theorem Mach.modLane_mbxWait (i : Nat) (f : Lane → Lane) : (m.modLane i f).mbxWait = m.mbxWait := rfl
@[simp] theorem Mach.modLane_jobs (i : Nat) (f : Lane → Lane) : (m.modLane i f).jobs = m.jobs := rfl
@[simp] theorem Mach.modLane_msix (i : Nat) (f : Lane → Lane) : (m.modLane i f).msix = m.msix := rfl
@[simp] theorem Mach.modLane_pba (i : Nat) (f : Lane → Lane) : (m.modLane i f).pba = m.pba := rfl
@[simp] theorem Mach.modLane_violated (i : Nat) (f : Lane → Lane) : (m.modLane i f).violated = m.violated := rfl
@[simp] theorem Mach.modLane_clJob (i : Nat) (f : Lane → Lane) : (m.modLane i f).clJob = m.clJob := rfl
@[simp] theorem Mach.modLane_asms (i : Nat) (f : Lane → Lane) : (m.modLane i f).asms = m.asms := rfl
@[simp] theorem Mach.modLane_clq (i : Nat) (f : Lane → Lane) : (m.modLane i f).clq = m.clq := rfl
@[simp] theorem Mach.modLane_running (i : Nat) (f : Lane → Lane) : (m.modLane i f).running = m.running := rfl
@[simp] theorem Mach.modLane_tileSeq (i : Nat) (f : Lane → Lane) : (m.modLane i f).tileSeq = m.tileSeq := rfl
@[simp] theorem Mach.modLane_clIdle (i : Nat) (f : Lane → Lane) : (m.modLane i f).clIdle = m.clIdle := rfl
@[simp] theorem Mach.modLane_jobRt (i : Nat) (f : Lane → Lane) : (m.modLane i f).jobRt = m.jobRt := rfl
@[simp] theorem Mach.modLane_switching (i : Nat) (f : Lane → Lane) : (m.modLane i f).switching = m.switching := rfl
@[simp] theorem Mach.modLane_restart (i : Nat) (f : Lane → Lane) : (m.modLane i f).restart = m.restart := rfl
@[simp] theorem Mach.modLane_chain (i : Nat) (f : Lane → Lane) : (m.modLane i f).chain = m.chain := rfl
@[simp] theorem Mach.modLane_shed (i : Nat) (f : Lane → Lane) : (m.modLane i f).shed = m.shed := rfl
@[simp] theorem Mach.modLane_hop (i : Nat) (f : Lane → Lane) : (m.modLane i f).hop = m.hop := rfl
@[simp] theorem Mach.modLane_pages (i : Nat) (f : Lane → Lane) : (m.modLane i f).pages = m.pages := rfl
@[simp] theorem Mach.modLane_widx (i : Nat) (f : Lane → Lane) : (m.modLane i f).widx = m.widx := rfl
@[simp] theorem Mach.modLane_tbuf (i : Nat) (f : Lane → Lane) : (m.modLane i f).tbuf = m.tbuf := rfl
@[simp] theorem Mach.modLane_links (i : Nat) (f : Lane → Lane) : (m.modLane i f).links = m.links := rfl
@[simp] theorem Mach.modLane_tng (i : Nat) (f : Lane → Lane) : (m.modLane i f).tng = m.tng := rfl
@[simp] theorem Mach.modLane_pkgDigest (i : Nat) (f : Lane → Lane) : (m.modLane i f).pkgDigest = m.pkgDigest := rfl
@[simp] theorem Mach.modLane_lastMode (i : Nat) (f : Lane → Lane) : (m.modLane i f).lastMode = m.lastMode := rfl
@[simp] theorem Mach.modLane_rplSeen (i : Nat) (f : Lane → Lane) : (m.modLane i f).rplSeen = m.rplSeen := rfl
@[simp] theorem Mach.modLane_rplRec (i : Nat) (f : Lane → Lane) : (m.modLane i f).rplRec = m.rplRec := rfl
@[simp] theorem Mach.modLane_spg (i : Nat) (f : Lane → Lane) : (m.modLane i f).spg = m.spg := rfl
@[simp] theorem Mach.modLane_drbgAt (i : Nat) (f : Lane → Lane) : (m.modLane i f).drbgAt = m.drbgAt := rfl
@[simp] theorem Mach.modLane_drbgN (i : Nat) (f : Lane → Lane) : (m.modLane i f).drbgN = m.drbgN := rfl
@[simp] theorem Mach.modLane_healthRun (i : Nat) (f : Lane → Lane) : (m.modLane i f).healthRun = m.healthRun := rfl
@[simp] theorem Mach.modLane_reelGood (i : Nat) (f : Lane → Lane) : (m.modLane i f).reelGood = m.reelGood := rfl
@[simp] theorem Mach.modLane_reelOff (i : Nat) (f : Lane → Lane) : (m.modLane i f).reelOff = m.reelOff := rfl
@[simp] theorem Mach.modLane_reelSeen (i : Nat) (f : Lane → Lane) : (m.modLane i f).reelSeen = m.reelSeen := rfl
@[simp] theorem Mach.modLane_keysAt (i : Nat) (f : Lane → Lane) : (m.modLane i f).keysAt = m.keysAt := rfl
@[simp] theorem Mach.modLane_recCkpts (i : Nat) (f : Lane → Lane) : (m.modLane i f).recCkpts = m.recCkpts := rfl
@[simp] theorem Mach.modLane_ckptAt (i : Nat) (f : Lane → Lane) : (m.modLane i f).ckptAt = m.ckptAt := rfl
@[simp] theorem Mach.modLane_ckptN (i : Nat) (f : Lane → Lane) : (m.modLane i f).ckptN = m.ckptN := rfl
@[simp] theorem Mach.modLane_rplPos (i : Nat) (f : Lane → Lane) : (m.modLane i f).rplPos = m.rplPos := rfl
@[simp] theorem Mach.modLane_rplOff (i : Nat) (f : Lane → Lane) : (m.modLane i f).rplOff = m.rplOff := rfl
@[simp] theorem Mach.modLane_rplExp (i : Nat) (f : Lane → Lane) : (m.modLane i f).rplExp = m.rplExp := rfl
@[simp] theorem Mach.modLane_rplCov (i : Nat) (f : Lane → Lane) : (m.modLane i f).rplCov = m.rplCov := rfl
@[simp] theorem Mach.modLane_rplChoices (i : Nat) (f : Lane → Lane) : (m.modLane i f).rplChoices = m.rplChoices := rfl
@[simp] theorem Mach.modLane_rplPre (i : Nat) (f : Lane → Lane) : (m.modLane i f).rplPre = m.rplPre := rfl
@[simp] theorem Mach.modLane_hostOut (i : Nat) (f : Lane → Lane) : (m.modLane i f).hostOut = m.hostOut := rfl
@[simp] theorem Mach.modLane_pcieOut (i : Nat) (f : Lane → Lane) : (m.modLane i f).pcieOut = m.pcieOut := rfl
@[simp] theorem Mach.modLane_tracer (i : Nat) (f : Lane → Lane) : (m.modLane i f).tracer = m.tracer := rfl
@[simp] theorem Mach.modLane_prof (i : Nat) (f : Lane → Lane) : (m.modLane i f).prof = m.prof := rfl
@[simp] theorem Mach.modLane_evtAt (i : Nat) (f : Lane → Lane) : (m.modLane i f).evtAt = m.evtAt := rfl
@[simp] theorem Mach.modLane_nvm (i : Nat) (f : Lane → Lane) : (m.modLane i f).nvm = m.nvm := rfl
@[simp] theorem Mach.modLane_pkg (i : Nat) (f : Lane → Lane) : (m.modLane i f).pkg = m.pkg := rfl
@[simp] theorem Mach.modLane_supply (i : Nat) (f : Lane → Lane) : (m.modLane i f).supply = m.supply := rfl
@[simp] theorem Mach.modLane_rst (i : Nat) (f : Lane → Lane) : (m.modLane i f).rst = m.rst := rfl
@[simp] theorem Mach.modLane_log (i : Nat) (f : Lane → Lane) : (m.modLane i f).log = m.log := rfl
@[simp] theorem Mach.modLane_mgt (i : Nat) (f : Lane → Lane) : (m.modLane i f).mgt = m.mgt := rfl
@[simp] theorem Mach.modLane_tim (i : Nat) (f : Lane → Lane) : (m.modLane i f).tim = m.tim := rfl
@[simp] theorem Mach.modLane_kiln (i : Nat) (f : Lane → Lane) : (m.modLane i f).kiln = m.kiln := rfl
@[simp] theorem Mach.modLane_snap (i : Nat) (f : Lane → Lane) : (m.modLane i f).snap = m.snap := rfl
@[simp] theorem Mach.modLane_hostIn (i : Nat) (f : Lane → Lane) : (m.modLane i f).hostIn = m.hostIn := rfl
@[simp] theorem Mach.modLane_dramKeys (i : Nat) (f : Lane → Lane) : (m.modLane i f).dramKeys = m.dramKeys := rfl

/-! ## `modLink` -/

@[simp] theorem Mach.modLink_now (i : Nat) (f : Link → Link) : (m.modLink i f).now = m.now := rfl
@[simp] theorem Mach.modLink_reelB (i : Nat) (f : Link → Link) : (m.modLink i f).reelB = m.reelB := rfl
@[simp] theorem Mach.modLink_reelT (i : Nat) (f : Link → Link) : (m.modLink i f).reelT = m.reelT := rfl
@[simp] theorem Mach.modLink_reelRate (i : Nat) (f : Link → Link) : (m.modLink i f).reelRate = m.reelRate := rfl
@[simp] theorem Mach.modLink_wallB (i : Nat) (f : Link → Link) : (m.modLink i f).wallB = m.wallB := rfl
@[simp] theorem Mach.modLink_wallT (i : Nat) (f : Link → Link) : (m.modLink i f).wallT = m.wallT := rfl
@[simp] theorem Mach.modLink_wallRate (i : Nat) (f : Link → Link) : (m.modLink i f).wallRate = m.wallRate := rfl
@[simp] theorem Mach.modLink_fresh (i : Nat) (f : Link → Link) : (m.modLink i f).fresh = m.fresh := rfl
@[simp] theorem Mach.modLink_twinPres (i : Nat) (f : Link → Link) : (m.modLink i f).twinPres = m.twinPres := rfl
@[simp] theorem Mach.modLink_twinB (i : Nat) (f : Link → Link) : (m.modLink i f).twinB = m.twinB := rfl
@[simp] theorem Mach.modLink_evq (i : Nat) (f : Link → Link) : (m.modLink i f).evq = m.evq := rfl
@[simp] theorem Mach.modLink_evDropped (i : Nat) (f : Link → Link) : (m.modLink i f).evDropped = m.evDropped := rfl
@[simp] theorem Mach.modLink_runs (i : Nat) (f : Link → Link) : (m.modLink i f).runs = m.runs := rfl
@[simp] theorem Mach.modLink_logBuf (i : Nat) (f : Link → Link) : (m.modLink i f).logBuf = m.logBuf := rfl
@[simp] theorem Mach.modLink_logLost (i : Nat) (f : Link → Link) : (m.modLink i f).logLost = m.logLost := rfl
@[simp] theorem Mach.modLink_fioCh (i : Nat) (f : Link → Link) : (m.modLink i f).fioCh = m.fioCh := rfl
@[simp] theorem Mach.modLink_swActs (i : Nat) (f : Link → Link) : (m.modLink i f).swActs = m.swActs := rfl
@[simp] theorem Mach.modLink_fioW (i : Nat) (f : Link → Link) : (m.modLink i f).fioW = m.fioW := rfl
@[simp] theorem Mach.modLink_fioC (i : Nat) (f : Link → Link) : (m.modLink i f).fioC = m.fioC := rfl
@[simp] theorem Mach.modLink_pos (i : Nat) (f : Link → Link) : (m.modLink i f).pos = m.pos := rfl
@[simp] theorem Mach.modLink_cmp (i : Nat) (f : Link → Link) : (m.modLink i f).cmp = m.cmp := rfl
@[simp] theorem Mach.modLink_pulses (i : Nat) (f : Link → Link) : (m.modLink i f).pulses = m.pulses := rfl
@[simp] theorem Mach.modLink_lateUntil (i : Nat) (f : Link → Link) : (m.modLink i f).lateUntil = m.lateUntil := rfl
@[simp] theorem Mach.modLink_mon (i : Nat) (f : Link → Link) : (m.modLink i f).mon = m.mon := rfl
@[simp] theorem Mach.modLink_verdQ (i : Nat) (f : Link → Link) : (m.modLink i f).verdQ = m.verdQ := rfl
@[simp] theorem Mach.modLink_loadAt (i : Nat) (f : Link → Link) : (m.modLink i f).loadAt = m.loadAt := rfl
@[simp] theorem Mach.modLink_bucketAt (i : Nat) (f : Link → Link) : (m.modLink i f).bucketAt = m.bucketAt := rfl
@[simp] theorem Mach.modLink_started (i : Nat) (f : Link → Link) : (m.modLink i f).started = m.started := rfl
@[simp] theorem Mach.modLink_ownVerdicts (i : Nat) (f : Link → Link) : (m.modLink i f).ownVerdicts = m.ownVerdicts := rfl
@[simp] theorem Mach.modLink_peerVerdicts (i : Nat) (f : Link → Link) : (m.modLink i f).peerVerdicts = m.peerVerdicts := rfl
@[simp] theorem Mach.modLink_ownDigests (i : Nat) (f : Link → Link) : (m.modLink i f).ownDigests = m.ownDigests := rfl
@[simp] theorem Mach.modLink_peerDigests (i : Nat) (f : Link → Link) : (m.modLink i f).peerDigests = m.peerDigests := rfl
@[simp] theorem Mach.modLink_recBuf (i : Nat) (f : Link → Link) : (m.modLink i f).recBuf = m.recBuf := rfl
@[simp] theorem Mach.modLink_recDropped (i : Nat) (f : Link → Link) : (m.modLink i f).recDropped = m.recDropped := rfl
@[simp] theorem Mach.modLink_recFirst (i : Nat) (f : Link → Link) : (m.modLink i f).recFirst = m.recFirst := rfl
@[simp] theorem Mach.modLink_recFreeze (i : Nat) (f : Link → Link) : (m.modLink i f).recFreeze = m.recFreeze := rfl
@[simp] theorem Mach.modLink_grs (i : Nat) (f : Link → Link) : (m.modLink i f).grs = m.grs := rfl
@[simp] theorem Mach.modLink_pipes (i : Nat) (f : Link → Link) : (m.modLink i f).pipes = m.pipes := rfl
@[simp] theorem Mach.modLink_cxs (i : Nat) (f : Link → Link) : (m.modLink i f).cxs = m.cxs := rfl
@[simp] theorem Mach.modLink_eng (i : Nat) (f : Link → Link) : (m.modLink i f).eng = m.eng := rfl
@[simp] theorem Mach.modLink_cores (i : Nat) (f : Link → Link) : (m.modLink i f).cores = m.cores := rfl
@[simp] theorem Mach.modLink_istore (i : Nat) (f : Link → Link) : (m.modLink i f).istore = m.istore := rfl
@[simp] theorem Mach.modLink_ports (i : Nat) (f : Link → Link) : (m.modLink i f).ports = m.ports := rfl
@[simp] theorem Mach.modLink_mbxWait (i : Nat) (f : Link → Link) : (m.modLink i f).mbxWait = m.mbxWait := rfl
@[simp] theorem Mach.modLink_jobs (i : Nat) (f : Link → Link) : (m.modLink i f).jobs = m.jobs := rfl
@[simp] theorem Mach.modLink_msix (i : Nat) (f : Link → Link) : (m.modLink i f).msix = m.msix := rfl
@[simp] theorem Mach.modLink_pba (i : Nat) (f : Link → Link) : (m.modLink i f).pba = m.pba := rfl
@[simp] theorem Mach.modLink_violated (i : Nat) (f : Link → Link) : (m.modLink i f).violated = m.violated := rfl
@[simp] theorem Mach.modLink_clJob (i : Nat) (f : Link → Link) : (m.modLink i f).clJob = m.clJob := rfl
@[simp] theorem Mach.modLink_asms (i : Nat) (f : Link → Link) : (m.modLink i f).asms = m.asms := rfl
@[simp] theorem Mach.modLink_clq (i : Nat) (f : Link → Link) : (m.modLink i f).clq = m.clq := rfl
@[simp] theorem Mach.modLink_running (i : Nat) (f : Link → Link) : (m.modLink i f).running = m.running := rfl
@[simp] theorem Mach.modLink_tileSeq (i : Nat) (f : Link → Link) : (m.modLink i f).tileSeq = m.tileSeq := rfl
@[simp] theorem Mach.modLink_clIdle (i : Nat) (f : Link → Link) : (m.modLink i f).clIdle = m.clIdle := rfl
@[simp] theorem Mach.modLink_jobRt (i : Nat) (f : Link → Link) : (m.modLink i f).jobRt = m.jobRt := rfl
@[simp] theorem Mach.modLink_switching (i : Nat) (f : Link → Link) : (m.modLink i f).switching = m.switching := rfl
@[simp] theorem Mach.modLink_restart (i : Nat) (f : Link → Link) : (m.modLink i f).restart = m.restart := rfl
@[simp] theorem Mach.modLink_chain (i : Nat) (f : Link → Link) : (m.modLink i f).chain = m.chain := rfl
@[simp] theorem Mach.modLink_shed (i : Nat) (f : Link → Link) : (m.modLink i f).shed = m.shed := rfl
@[simp] theorem Mach.modLink_hop (i : Nat) (f : Link → Link) : (m.modLink i f).hop = m.hop := rfl
@[simp] theorem Mach.modLink_pages (i : Nat) (f : Link → Link) : (m.modLink i f).pages = m.pages := rfl
@[simp] theorem Mach.modLink_widx (i : Nat) (f : Link → Link) : (m.modLink i f).widx = m.widx := rfl
@[simp] theorem Mach.modLink_tbuf (i : Nat) (f : Link → Link) : (m.modLink i f).tbuf = m.tbuf := rfl
@[simp] theorem Mach.modLink_lanes (i : Nat) (f : Link → Link) : (m.modLink i f).lanes = m.lanes := rfl
@[simp] theorem Mach.modLink_tng (i : Nat) (f : Link → Link) : (m.modLink i f).tng = m.tng := rfl
@[simp] theorem Mach.modLink_pkgDigest (i : Nat) (f : Link → Link) : (m.modLink i f).pkgDigest = m.pkgDigest := rfl
@[simp] theorem Mach.modLink_lastMode (i : Nat) (f : Link → Link) : (m.modLink i f).lastMode = m.lastMode := rfl
@[simp] theorem Mach.modLink_rplSeen (i : Nat) (f : Link → Link) : (m.modLink i f).rplSeen = m.rplSeen := rfl
@[simp] theorem Mach.modLink_rplRec (i : Nat) (f : Link → Link) : (m.modLink i f).rplRec = m.rplRec := rfl
@[simp] theorem Mach.modLink_spg (i : Nat) (f : Link → Link) : (m.modLink i f).spg = m.spg := rfl
@[simp] theorem Mach.modLink_drbgAt (i : Nat) (f : Link → Link) : (m.modLink i f).drbgAt = m.drbgAt := rfl
@[simp] theorem Mach.modLink_drbgN (i : Nat) (f : Link → Link) : (m.modLink i f).drbgN = m.drbgN := rfl
@[simp] theorem Mach.modLink_healthRun (i : Nat) (f : Link → Link) : (m.modLink i f).healthRun = m.healthRun := rfl
@[simp] theorem Mach.modLink_reelGood (i : Nat) (f : Link → Link) : (m.modLink i f).reelGood = m.reelGood := rfl
@[simp] theorem Mach.modLink_reelOff (i : Nat) (f : Link → Link) : (m.modLink i f).reelOff = m.reelOff := rfl
@[simp] theorem Mach.modLink_reelSeen (i : Nat) (f : Link → Link) : (m.modLink i f).reelSeen = m.reelSeen := rfl
@[simp] theorem Mach.modLink_keysAt (i : Nat) (f : Link → Link) : (m.modLink i f).keysAt = m.keysAt := rfl
@[simp] theorem Mach.modLink_recCkpts (i : Nat) (f : Link → Link) : (m.modLink i f).recCkpts = m.recCkpts := rfl
@[simp] theorem Mach.modLink_ckptAt (i : Nat) (f : Link → Link) : (m.modLink i f).ckptAt = m.ckptAt := rfl
@[simp] theorem Mach.modLink_ckptN (i : Nat) (f : Link → Link) : (m.modLink i f).ckptN = m.ckptN := rfl
@[simp] theorem Mach.modLink_rplPos (i : Nat) (f : Link → Link) : (m.modLink i f).rplPos = m.rplPos := rfl
@[simp] theorem Mach.modLink_rplOff (i : Nat) (f : Link → Link) : (m.modLink i f).rplOff = m.rplOff := rfl
@[simp] theorem Mach.modLink_rplExp (i : Nat) (f : Link → Link) : (m.modLink i f).rplExp = m.rplExp := rfl
@[simp] theorem Mach.modLink_rplCov (i : Nat) (f : Link → Link) : (m.modLink i f).rplCov = m.rplCov := rfl
@[simp] theorem Mach.modLink_rplChoices (i : Nat) (f : Link → Link) : (m.modLink i f).rplChoices = m.rplChoices := rfl
@[simp] theorem Mach.modLink_rplPre (i : Nat) (f : Link → Link) : (m.modLink i f).rplPre = m.rplPre := rfl
@[simp] theorem Mach.modLink_hostOut (i : Nat) (f : Link → Link) : (m.modLink i f).hostOut = m.hostOut := rfl
@[simp] theorem Mach.modLink_pcieOut (i : Nat) (f : Link → Link) : (m.modLink i f).pcieOut = m.pcieOut := rfl
@[simp] theorem Mach.modLink_tracer (i : Nat) (f : Link → Link) : (m.modLink i f).tracer = m.tracer := rfl
@[simp] theorem Mach.modLink_prof (i : Nat) (f : Link → Link) : (m.modLink i f).prof = m.prof := rfl
@[simp] theorem Mach.modLink_evtAt (i : Nat) (f : Link → Link) : (m.modLink i f).evtAt = m.evtAt := rfl
@[simp] theorem Mach.modLink_nvm (i : Nat) (f : Link → Link) : (m.modLink i f).nvm = m.nvm := rfl
@[simp] theorem Mach.modLink_pkg (i : Nat) (f : Link → Link) : (m.modLink i f).pkg = m.pkg := rfl
@[simp] theorem Mach.modLink_supply (i : Nat) (f : Link → Link) : (m.modLink i f).supply = m.supply := rfl
@[simp] theorem Mach.modLink_rst (i : Nat) (f : Link → Link) : (m.modLink i f).rst = m.rst := rfl
@[simp] theorem Mach.modLink_log (i : Nat) (f : Link → Link) : (m.modLink i f).log = m.log := rfl
@[simp] theorem Mach.modLink_mgt (i : Nat) (f : Link → Link) : (m.modLink i f).mgt = m.mgt := rfl
@[simp] theorem Mach.modLink_tim (i : Nat) (f : Link → Link) : (m.modLink i f).tim = m.tim := rfl
@[simp] theorem Mach.modLink_kiln (i : Nat) (f : Link → Link) : (m.modLink i f).kiln = m.kiln := rfl
@[simp] theorem Mach.modLink_snap (i : Nat) (f : Link → Link) : (m.modLink i f).snap = m.snap := rfl
@[simp] theorem Mach.modLink_hostIn (i : Nat) (f : Link → Link) : (m.modLink i f).hostIn = m.hostIn := rfl
@[simp] theorem Mach.modLink_dramKeys (i : Nat) (f : Link → Link) : (m.modLink i f).dramKeys = m.dramKeys := rfl

/-! ## `nvmPut` -/

@[simp] theorem Mach.nvmPut_now (i : Nat) (f : List Byte) : (m.nvmPut i f).now = m.now := rfl
@[simp] theorem Mach.nvmPut_regs (i : Nat) (f : List Byte) : (m.nvmPut i f).regs = m.regs := rfl
@[simp] theorem Mach.nvmPut_fresh (i : Nat) (f : List Byte) : (m.nvmPut i f).fresh = m.fresh := rfl
@[simp] theorem Mach.nvmPut_evq (i : Nat) (f : List Byte) : (m.nvmPut i f).evq = m.evq := rfl

/-! ## `nvmErase` -/

@[simp] theorem Mach.nvmErase_now (i j : Nat) : (m.nvmErase i j).now = m.now := rfl
@[simp] theorem Mach.nvmErase_regs (i j : Nat) : (m.nvmErase i j).regs = m.regs := rfl
@[simp] theorem Mach.nvmErase_fresh (i j : Nat) : (m.nvmErase i j).fresh = m.fresh := rfl
@[simp] theorem Mach.nvmErase_evq (i j : Nat) : (m.nvmErase i j).evq = m.evq := rfl

/-! ## `ncpKeep` -/

@[simp] theorem Mach.ncpKeep_now (r : NcpResp) : (m.ncpKeep r).now = m.now := rfl
@[simp] theorem Mach.ncpKeep_regs (r : NcpResp) : (m.ncpKeep r).regs = m.regs := rfl
@[simp] theorem Mach.ncpKeep_fresh (r : NcpResp) : (m.ncpKeep r).fresh = m.fresh := rfl
@[simp] theorem Mach.ncpKeep_evq (r : NcpResp) : (m.ncpKeep r).evq = m.evq := rfl

/-! ## The state around the machine -/

@[simp] theorem State.withM_pending (s : State) (m : Mach) : ({ s with m := m } : State).pending = s.pending := rfl
@[simp] theorem State.withM_mem (s : State) (m : Mach) : ({ s with m := m } : State).mem = s.mem := rfl
@[simp] theorem State.withM_flips (s : State) (m : Mach) : ({ s with m := m } : State).flips = s.flips := rfl

end Sys2Proof.Machine
end

