-- ==== Sys2Proof/Laws/Step.lean ====
section
/-!
SUPPORT. What a command's frame does, said once: a command that changes the machine alone leaves the data side as it is, a command
that works on memory leaves it canonical, and none touches the queue.
-/

namespace Sys2Proof.Machine

@[simp] theorem State.pass_zero (s : State) : s.pass 0 = s := rfl

@[simp] theorem State.after_pending (s : State) (x : Fx) : (s.after x).pending = s.pending := rfl

@[simp] theorem State.after_m (s : State) (x : Fx) : (s.after x).m = x.m := rfl

@[simp] theorem State.pass_pending (s : State) (dt : Nat) : (s.pass dt).pending = s.pending := by
  unfold State.pass; split <;> rfl

theorem State.act_live (s : State) (dt : Nat) (f : Mach → Mach) (h : s.live dt) :
    s.act dt true f = .next { s.pass dt with m := f (s.pass dt).m } := by
  simp only [State.live] at h
  simp [State.act, h]

theorem State.actFx_live (s : State) (dt : Nat) (f : Fx → Fx) (h : s.live dt) :
    s.actFx dt true f = .next ((s.pass dt).after (f (s.pass dt).fx)) := by
  simp only [State.live] at h
  simp [State.actFx, State.actAlways, h]

theorem State.actView_live (s : State) (dt : Nat) (f : View → Mach → Mach) (h : s.live dt) :
    s.actView dt true f = .next { s.pass dt with m := f ⟨(s.pass dt).mem, (s.pass dt).flips⟩ (s.pass dt).m } := by
  simp only [State.live] at h
  simp [State.actView, h]

/-- A command of the machine alone completes: what is left to show is about its body. -/
theorem answers_act {i : Instr} {s : State} {dt : Nat} {ok : Bool} {f : Mach → Mach} {P : State → Prop} (he : exec i s = s.act dt ok f)
    (hok : ok = true) (hl : s.live dt) (hP : P { s.pass dt with m := f (s.pass dt).m }) : answers i s P :=
  ⟨_, by rw [he, hok, State.act_live _ _ _ hl], hP⟩

theorem answers_actFx {i : Instr} {s : State} {dt : Nat} {ok : Bool} {f : Fx → Fx} {P : State → Prop} (he : exec i s = s.actFx dt ok f)
    (hok : ok = true) (hl : s.live dt) (hP : P ((s.pass dt).after (f (s.pass dt).fx))) : answers i s P :=
  ⟨_, by rw [he, hok, State.actFx_live _ _ _ hl], hP⟩

theorem answers_actView {i : Instr} {s : State} {dt : Nat} {ok : Bool} {f : View → Mach → Mach} {P : State → Prop}
    (he : exec i s = s.actView dt ok f) (hok : ok = true) (hl : s.live dt)
    (hP : P { s.pass dt with m := f ⟨(s.pass dt).mem, (s.pass dt).flips⟩ (s.pass dt).m }) : answers i s P :=
  ⟨_, by rw [he, hok, State.actView_live _ _ _ hl], hP⟩

theorem answers_actAlways {i : Instr} {s : State} {dt : Nat} {ok : Bool} {f : Fx → Fx} {P : State → Prop}
    (he : exec i s = s.actAlways dt ok f) (hok : ok = true) (hP : P ((s.pass dt).after (f (s.pass dt).fx))) : answers i s P :=
  ⟨_, by rw [he, hok]; rfl, hP⟩

theorem sameData_m (u : State) (m : Mach) : sameData u { u with m } := ⟨rfl, rfl, rfl⟩

end Sys2Proof.Machine
end

