-- ==== Sys2Proof/Tests/Slice0.lean ====
section
/-!
SUPPORT. The model's own tests: a witness for the hypotheses of every statement, the well-formedness checks, the floor cores' words,
and small steps. Expected values come from the spec's text and hand calculation from it.
-/

namespace Sys2Proof.Machine

set_option Elab.async false

/-! ## States for the tests: the machine after reset, with some fields set and a change made -/

def wst (regs : List (Fld × Nat)) (f : Mach → Mach := id) : State :=
  { State.reset with m := f (regs.foldl (fun m x => m.set x.1 x.2) State.reset.m) }

theorem ok_of_test (r : HopAcc × Fx) (h : (match r.1 with | .ok _ => true | _ => false) = true) : ∃ b y, r = (.ok b, y) := by
  rcases r with ⟨a, y⟩
  cases a with
  | ok b => exact ⟨b, y, rfl⟩
  | absent => cases h
  | error => cases h

/-! ## Parts of the test states -/

def openWin (m : Mach) : Mach := [(F.secWin_PAGES 511, 0xFFFFFF), (F.secWin_BASE 511, 0), (F.secWin_HOST 511, 1), (F.secWin_W 511, 1), (F.secWin_R 511, 1), (F.secWin_VALID 511, 1), (F.secWinJobs_JOBS 511, 2 ^ 64 - 1)].foldl (fun m x => m.set x.1 x.2) { m with dramKeys := true }
def descBytes (fmt d0 d1 d2 base s1 s2 zc : Nat) : List Byte := leBytes 8 (fmt * 2 ^ 60 + zc * 2 ^ 59 + base) ++ leBytes 8 (d2 * 2 ^ 48 + d1 * 2 ^ 32 + d0 * 2 ^ 16) ++ leBytes 8 (s2 * 2 ^ 32 + s1) ++ leBytes 8 0
def tensorTable : List Byte := descBytes 0 16 1 1 0x801000 16 16 0 ++ descBytes 0 16 1 1 0x802000 16 16 0 ++ descBytes 0xB 1 1 1 0x803000 4 4 0 ++ descBytes 0xB 16 1 1 0x804000 64 64 0 ++ descBytes 3 32 1 1 0x805000 64 64 0 ++ descBytes 0xB 32 1 1 0x806000 128 128 0 ++ descBytes 0xB 16 1 1 0x807000 64 64 0 ++ descBytes 0 64 1 1 0x808000 64 64 0 ++ descBytes 0 64 1 1 0x809000 128 128 1 ++ descBytes 1 16 1 1 0x80A000 16 16 0 ++ descBytes 1 64 1 1 0x80B000 64 64 0 ++ descBytes 0 16 1 1 0x80C000 16 16 0 ++ descBytes 0xB 2 1 1 0x80D000 16 16 0
def cellsAt (a : Nat) (b : List Byte) : List Host.Cell := ((b.zip (List.range b.length)).filter fun x => x.1 ≠ 0).map fun x => (a + x.2, x.1)
def cmdOf (op i0 i1 i2 o w4 : Nat) : Cmd := { words := [BitVec.ofNat 64 (op * 2 ^ 56), 0, BitVec.ofNat 64 (i0 * 2 ^ 48 + i1 * 2 ^ 32 + i2 * 2 ^ 16 + o), 0, BitVec.ofNat 64 w4, 0, 0, 0], job := 0, agent := 1 }
def jobOf (j : Nat) : PkgJob := ⟨j, 0, 0, 0x800000, 13, true, [], [], [], []⟩
def engWith (e : Nat) (c : Cmd) : State := { wst [] (fun m => openWin { m.modEng e fun x => { x with q0 := [c] } with jobs := [(0, jobOf 0)] }) with mem := cellsAt 0x800000 tensorTable ++ cellsAt 0x80C000 [1] }
def engRun (e q : Nat) (c : Cmd) (m : Mach) : Mach := m.modEng e fun x => { x with run := some (q, c) }
def missState : State := { wst [(F.hopEntPt_ROOT 1023, 0x800000 / 512)] (fun m => engRun 22 2 (cmdOf 0 0 0 0 0 0) (openWin m)) with mem := cellsAt 0x800000 (leBytes 8 0x801001) ++ cellsAt 0x801000 (leBytes 8 (0x900000 + 3)) }
def tileOn (n j need : Nat) (pin : Bool) : Tile := ⟨n, j, need, pin, true, 7, 3, [⟨5, 8, [1, 2, 3]⟩], 0, false⟩
def wds8 (w : Nat) : List Word := [BitVec.ofNat 64 w, 8, 11, 12, 13, 14, 15, 16]
def blkOf (d : Bool) (r : Option Verdict) (told : Option Nat) : MonBlk := ⟨0, 2, 5, 77, 7, 0, some 0, none, r, d, told⟩
def vd : Verdict := ⟨1, 0, 2, 1, 3, 5, 0, 9, 0⟩
def restartOf (org started : Bool) (go : Option Bool) (tick : Int) : Restart := ⟨3, tick, 2, 1, org, [], true, [], [], go, [], started⟩
def cellRaw (typ ch len lseq ack : Nat) (b : List Byte) : Cell := ⟨BitVec.ofNat 64 (typ * 2 ^ 60 + ch * 2 ^ 57 + len * 2 ^ 48 + lseq * 2 ^ 32 + ack * 2 ^ 16), b ++ List.replicate (64 - b.length) 0, 0⟩
def cell (typ ch len lseq ack : Nat) (b : List Byte) : Cell := { cellRaw typ ch len lseq ack b with crc := BitVec.ofNat 32 (crc32c (cellRaw typ ch len lseq ack b).body) }
def lnk (k : Nat) (f : Link → Link) (m : Mach) : Mach := m.modLink k f
def txc (q : Nat) : TxCell := ⟨q, 27, ⟨0, [], 0⟩⟩
def slotOf (i t f l : Nat) : Slot := ⟨i, t, 2, 5, f, l, 0⟩
def verdict (t : Nat) : Verdict := ⟨t, 0, 2, 0, 0, 5, 0, 0, 0⟩
def ent (on off : Int) : Entry := { tag := 9, valve := 95, value := 1, kind := 0, job := 0, port := 2, xOn := 0, xOff := 9, tOn := some on, tOff := some off, lff := some (on - 50) }
def axisWith (ax : Nat) (l : List Slot) (es : List (Nat × Entry)) (m : Mach) : Mach := m.modCmp ax fun c => { c with slots := l, entries := es }
def lnIn (w : Nat) (sh : Bool) : LineIn := ⟨true, false, false, sh, List.replicate w (3, 4), [(1, 2), (3, 4)], 7, 5, 6⟩
def assistOf (host : Bool) : AssistSlot := ⟨{}, [[1, 2]], {}, host, false, none⟩
def outOf : StrmOut := ⟨3, 1, 0x800000040, [1, 2, 3, 4], 0x800000100, { pos := 5, port := 3 }, 1, 7, 4, 2, []⟩
def popM (s : State) (e : Nat) : Mach := match (s.pass 0).m.toStart e with | some r => r.1 | none => (s.pass 0).m
def popQ (s : State) (e : Nat) : Nat := match (s.pass 0).m.toStart e with | some r => r.2.1 | none => 9
def popC (s : State) (e : Nat) : Cmd := match (s.pass 0).m.toStart e with | some r => r.2.2 | none => cmdOf 0 0 0 0 0 0
def runOf (s : State) (e : Nat) : Except EFault Bool × Fx := (cmdRun e (popQ s e) (popC s e)).run ((s.pass 0).fx.mach fun _ => popM s e)
def partCmd : Cmd := { cmdOf 0 0 0 0 0 0 with sat := true, part := some ⟨[(3, 5)], 6, 7⟩ }
def yieldState : State := { engWith 22 (cmdOf 0 0 0 0 0 0) with m := engRun 22 1 (cmdOf 0 0 0 0 0 0) ((engWith 22 (cmdOf 0 0 0 0 0 0)).m.set (F.schSlot_C0 22) 1) }
def coreAt (k : Nat) (w : BitVec 32) (f : FCore → FCore) (m : Mach) : Mach := { openWin m with istore := [(k / 64 * 8192, w), (k / 64 * 8192 + 1, w)], clJob := [(k / 64, 1)], jobs := [(0, ⟨0, 0, 0, 0, 0, true, [], [], [], [w, w]⟩)] }.modCore k fun c => f { c with running := true }
def withRegs (x y z : Word) (c : FCore) : FCore := { c with s := [(1, x), (2, y), (31, z)], v := [(1, BitVec.ofNat 256 (x.toNat * 2 ^ 192 + y.toNat * 2 ^ 100 + z.toNat)), (2, BitVec.ofNat 256 (z.toNat * 2 ^ 192 + x.toNat * 2 ^ 100 + y.toNat)), (31, BitVec.ofNat 256 (y.toNat * 2 ^ 190 + z.toNat * 2 ^ 90 + x.toNat))] }
def coreTile : Tile := ⟨5, 0, 1, false, true, 7, 95, [], 0, false⟩
def cw (w : BitVec 32) (x y : Word) (m : Mach) : Mach := coreAt 6143 w (withRegs x y 3) { m with running := [⟨coreTile, 95, [6143], []⟩] }
def dmaWords : List Word := [0x900000, 0x910008, 16 + 2 * 2 ^ 21, 64 + 2 ^ 32 * 24]
def wbytes (ws : List Word) : List Byte := ws.flatMap fun w => leBytes 8 w.toNat
def vbytes (k : Nat) : List Byte := wbytes [BitVec.ofNat 64 (2 * 2 ^ 22 + k * 2 ^ 20), 5 * 2 ^ 32, 0, 0]
def coreMon (b : MonBlk) (m : Mach) : Mach := { m with clJob := [(95, 1)], mon := [b] }.modCore 6143 fun c => { c with running := true }
def hopSt (l : List (Fld × Nat)) (f : HopEnt → HopEnt) (m : Mach) : Mach := (openWin (([(F.hopEntStat_STATE 1023, 2), (F.hopEntCfg_JOB 1023, 0), (F.schJobStat_STATE 0, 2), (F.schJobStat_CLASS 0, 0), (F.schJobStat_PREEMPTED 0, 0), (F.schJobStat_PAUSED 0, 0), (F.hopEntSync_FEED_OBJ 1023, 16383), (F.hopEntSync_HALO_L_OBJ 1023, 16380), (F.hopEntSync2_HALO_R_OBJ 1023, 16381), (F.synObj_VALUE 16383, 1), (F.hopEntStep_STEP 1023, 0), (F.hopEntCfg_ACROSS 1023, 2), (F.hopEntCfg_WIN_ROWS 1023, 2), (F.hopEntCfg_LAYERS 1023, 0), (F.hopEntNbr_L_TYPE 1023, 0), (F.hopEntNbr_R_TYPE 1023, 0), (F.hopEntPt_ROOT 1023, 0x800000 / 512), (F.hopEntSync2_MASK 1023, 0x900000), (F.hopJobList_BASE 0, 0xA00000), (F.hopJobList_SLOTS 0, 4)] ++ l).foldl (fun (m : Mach) (x : Fld × Nat) => m.set x.1 x.2) m)).modHop 1023 fun h => f { h with live := true }
def pageMem : List Host.Cell := cellsAt 0x800000 (leBytes 8 0x801001) ++ cellsAt 0x800018 (leBytes 8 0x801201) ++ cellsAt 0x801000 (leBytes 8 (0xB00000 + 3)) ++ cellsAt (0x801200 + 56 * 8) (leBytes 8 (0xB08000 + 3) ++ []) ++ cellsAt (0x801200 + 60 * 8) (leBytes 8 (0xB04000 + 3)) ++ cellsAt 0xB00000 [9, 8, 7]
def awayMem : List Host.Cell := cellsAt 0x800000 (leBytes 8 0x801001) ++ cellsAt 0x800018 (leBytes 8 0x801201) ++ cellsAt 0x801000 (leBytes 8 (0xB00000 + 2 * 8 + 3)) ++ cellsAt 0xC10000 [4, 5, 6] ++ cellsAt 0x100000C000 [1, 2, 3]
def hdr (fin : Nat) : Word := BitVec.ofNat 64 (0x48 * 2 ^ 56 + 2 ^ 48 + 3 * 2 ^ 43 + 9 * 2 ^ 33 + 1023 * 2 ^ 23 + 2 ^ 18 + fin * 2 ^ 17)
def pageOf (st : PageState) : HopPage := ⟨1023, 0, some 3, some 4, st, 0⟩
def tokOf (s : State) : HopAcc × Fx := (s.pass 0).fx.edgeTokens 1023 true 0 0
def tokB (s : State) : List Byte := match (tokOf s).1 with | .ok b => b | _ => []
def edgeOn : List (Fld × Nat) := [(F.hopEntStep_STEP 1023, 1), (F.hopEntSync_EDGE_OBJ 1023, 16382), (F.synObj_VALUE 16382, 1)]
def poolOf : List (Fld × Nat) := [(F.memFlipCtl_ARM, 0), (F.hopPool_NPAGES, 8), (F.hopPool_BASE, 0x1000000000 / 0x4000), (F.hopSpill_BASE, 0xC00000 / 0x4000), (F.hopSpill_SLOTS, 8), (F.hopPoolStat_SPILLING, 0)]
def goodBits : List Bool := (({} : LineSide).put (cell 0 0 0 0 0 [])).1
def upN (n : Nat) (f : Link → Link) (m : Mach) : Mach := lnk (laneLink n) f (((m.set (F.pnxStat_STATE n) 2).set (F.pnxLink_STATE (laneLink n)) 2).set (F.pnxStat_PWR n) 0)
def segTag (first cells : Nat) (lseq ack : Nat) : Cell := cell 2 0 0 lseq ack (leBytes 8 3 ++ leBytes 2 first ++ leBytes 1 cells)
def segCell : Cell := cell 1 5 64 65534 0 [1, 2]
def segLink (tf : Nat) (l : Link) : Link := { l with replay := [txc 65535, txc 1], expect := 65535, seg := [segCell], segRx := 3, tagFails := tf }
def edgeRec : EdgeRec := ⟨100, 7, 7, 0, false, false, 1⟩
def pairState (st : Nat) (f : Mach → Mach) : State := wst [(F.tngStat_STATE, st), (F.pnxStat_STATE 11, 2), (F.pnxLink_STATE 0, 2), (F.tngStat_TL_ACTIVE, 12), (F.idPart_ARITH_REV, 0), (F.tngStat_REASON, 9)] (fun m => f { m with twinPres := true })
def recOf (typ unit : Nat) (reel : Int) : Rec := ⟨typ, 0, unit, false, reel, [1, 2, 3, 4, 5, 6, 7, 8, 9, 10, 11, 12, 13, 14, 15, 16]⟩
def recOn (regs : List (Fld × Nat)) (f : Mach → Mach) : State := wst ([(F.trcRecCtl_EN, 1), (F.trcRecCtl_FROZEN, 0), (F.trcRecRing_BASE, 8), (F.trcRecRing_SIZE, 1), (F.schStat_MODE, 0)] ++ regs) (fun m => f (openWin m))
def ringAt (regs : List (Fld × Nat)) (r : Rec) (f : Mach → Mach) : State := { wst ([(F.trcRplStat_STATE, 1), (F.trcRecRing_BASE, 8), (F.trcRecRing_SIZE, 1), (F.trcRplTo_OFF, 256), (F.memFlipCtl_ARM, 0)] ++ regs) (fun m => f (openWin m)) with mem := cellsAt 0x800000 r.raw }
def full (s : State) : State := { s with mem := cellsAt 0x800000 [9, 8, 7] ++ cellsAt 0x1000000000 [1, 2] ++ cellsAt 0x1100000009 [7], m := { s.m with nvm := [(5, 0x11)] } }
def calm (r : List (Fld × Nat)) (f : Mach → Mach) : State := full (wst ([(F.pwrStat_PWRFAIL, 0), (F.mgtNetCtl_BUSY, 0), (F.celCalCtl_BUSY, 0), (F.mgtUpdStat_STATE, 0), (F.mgtDump_STATE, 0), (F.schJobStat_STATE 63, 2)] ++ r) f)
def waits (s : State) (src r : Nat) : State := { s with m := { s.m with rst := { s.m.rst with waits := true, asserted := some (src, r) } } }
def blkVal (blk inst : Nat) : Word := BitVec.ofNat 64 (0x5A17 * 2 ^ 48 + blk * 2 ^ 40 + inst * 2 ^ 30 + 4)
def flips : List (Nat × BitVec 72) := [(1, 1), (3, 0x100000000000000000)]
def facts : PhaseFacts := ⟨0, false, [], []⟩
def factsOf (r : Nat) : PhaseFacts := ⟨r, false, [], []⟩
def failedAgo (m : Mach) : Mach := { m with now := 100000000, rst := { m.rst with failedAt := some 0 } }
def ncpH (op : Nat) : NcpHdr := ⟨0xC0A85E01, 4000 + op, 0x4E43, 1, 1, 9, 1, true, 100, 0⟩
def keptR (s : State) (r : NcpResp) : State := { s with m := { s.m with mgt := { s.m.mgt with ncp := [r] } } }
def respOf (h : NcpHdr) (n st : Nat) (ops : List (Nat × List Word)) : NcpResp := ⟨h.srcIp, h.srcPort, h.seq, 0, n, st, ops⟩
def withUpd (u : Update) (m : Mach) : Mach := { m with mgt := { m.mgt with upd := some u } }
def spiF (cmd off : Nat) : BitVec 32 := BitVec.ofNat 32 (cmd * 2 ^ 28 + off)
def calRecord : List Byte := let a : List Byte := leBytes 2 0x4752 ++ leBytes 2 0x30 ++ leBytes 4 1; a ++ leBytes 4 (crc32c (a ++ [0xA0])) ++ leBytes 4 0 ++ [0xA0]
def withCal (c : Nat × List Byte) (m : Mach) : Mach := { m with mgt := { m.mgt with cal := some c } }
def isOpen (t : Nat) (m : Mach) : Mach := { m with now := 200000, mgt := { m.mgt with spiOpen := some t } }
def someRow (o : Nat) : RegRow × List Nat := match regAt o with | some x => x | none => (⟨0, [], 0, 0, 0, 0, 0, 0, 0, 0, .never⟩, [])

/-! ## What a computed test says -/

theorem heads_of_test {α : Type} {P : α → List α → Prop} [∀ x r, Decidable (P x r)] (l : List α)
    (h : (match l with | x :: r => decide (P x r) | [] => true) = true) : ∀ x r, l = x :: r → P x r := by
  rintro x r rfl
  exact of_decide_eq_true h

def okOf {γ : Type} (r : Except EFault Bool × γ) : Bool := match r.1 with | .ok b => b | .error _ => false
def errOf {β γ : Type} (r : Except EFault β × γ) : EFault := match r.1 with | .ok _ => .stall | .error f => f
def isOk {ε β γ : Type} (r : Except ε β × γ) : Bool := match r.1 with | .ok _ => true | .error _ => false

theorem ranEq {γ : Type} (r : Except EFault Bool × γ) (h : isOk r = true) : r = (.ok (okOf r), r.2) := by
  rcases r with ⟨_ | _, y⟩
  · cases h
  · rfl

theorem failedEq {β γ : Type} (r : Except EFault β × γ) (f : EFault) (h : isOk r = false ∧ errOf r = f) : r = (.error f, r.2) := by
  rcases r with ⟨_ | _, y⟩
  · obtain ⟨-, rfl⟩ := h
    rfl
  · cases h.1

def atOf (r : Trans) : Nat := match r with | .at a => a | _ => 0
theorem atEq (r : Trans) (h : (match r with | .at _ => true | _ => false) = true) : r = .at (atOf r) := by
  cases r <;> first | rfl | cases h

theorem pops (s : State) (e : Nat) (h : ((s.pass 0).m.toStart e).isSome = true) :
    (s.pass 0).m.toStart e = some (popM s e, popQ s e, popC s e) := by
  unfold popM popQ popC
  cases hs : (s.pass 0).m.toStart e with
  | none =>
    rw [hs] at h
    cases h
  | some r => rfl

theorem none_starts {P : Mach → Nat → Cmd → Prop} (o : Option (Mach × Nat × Cmd)) (h : o.isNone = true) : ∀ m q c, o = some (m, q, c) → P m q c := by
  rintro m q c rfl
  cases h

theorem pairEq {α β : Type} (x : α × β) : x = (x.1, x.2) := rfl

def trapFx (x : Fx) (o : Option (Nat × Nat × Fx)) : Fx := match o with | some r => r.2.2 | none => x
theorem trapEq (o : Option (Nat × Nat × Fx)) (x : Fx) (n a : Nat)
    (h : (match o with | some r => decide (r.1 = n ∧ r.2.1 = a) | none => false) = true) : o = some (n, a, trapFx x o) := by
  match o, h with
  | some (c, d, y), h =>
    obtain ⟨rfl, rfl⟩ : c = n ∧ d = a := of_decide_eq_true h
    rfl

/-- With no job in the package, the admission checks look at the engine shares, the pool and the DRAM shares alone. -/
theorem admission_of_no_job (m : Mach) (v : View) (h : m.jobs = []) :
    m.admission v = if (List.range 23).any fun e => 56 < m.get (F.schSlot_C0 e) || 64 < m.get (F.schSlot_C0 e) + m.get (F.schSlot_C2_MIN e) then some (0, 2)
      else if !m.admitPool v then some (0, 3) else if 60 < m.get F.schShare_C0_DRAM + m.get F.schShare_C1_DRAM then some (0, 4) else none := by
  simp [Mach.admission, Mach.admitClusters, Mach.jobsOf, h, sum, anyPair]

/-- Where every cluster is held by a job and none of them idles for `j`, none is spare, whatever clusters the part has. -/
theorem spare_zero (m : Mach) (j : Nat) (h : ∀ c < 96, ((m.clusterJob c).isNone || m.clIdleFor m.shares j c) = false) : m.spare j = 0 := by
  refine List.countP_eq_zero.2 fun c hc => ?_
  have hp := (List.mem_filter.1 (List.mem_filter.1 hc).1).1
  simp [h c (List.mem_range.1 hp)]

/-! ## Witnesses: `wit_<Name>` shows, clause by clause, a state and operands that meet all hypotheses of `Obligations.<Name>` together;
a clause without hypotheses of its own has none here -/

theorem wit_OutputCommandsAndSafeState :
    (∃ (s : State) (dt : Nat) (agent : Nat), s.heeds dt agent 16 ∧ s.live dt)
    ∧ (∃ (s : State) (dt : Nat) (agent : Nat), s.heeds dt agent 16 ∧ s.live dt)
    ∧ (∃ (s : State) (dt : Nat) (agent : Nat) (q : _), s.heeds dt agent 16 ∧ s.live dt ∧ q < 96)
    ∧ (∃ (s : State) (dt : Nat) (agent : Nat) (q : _), let u := (s.pass dt).m; s.heeds dt agent 16 ∧ s.live dt ∧ q < 96
        ∧ u.on (F.fioChStat_BOTHON q) = true)
    ∧ (∃ (s : State) (dt : Nat) (agent : Nat) (q : _), let u := (s.pass dt).m; s.heeds dt agent 16 ∧ s.live dt ∧ q < 96
        ∧ u.on (F.fioChStat_BOTHON q) = false)
    ∧ (∃ (s : State) (dt : Nat) (agent : Nat), let u := (s.pass dt).m; let c := u.get F.fioSafe_CAUSE; s.heeds dt agent 16 ∧ s.live dt ∧ c = 0)
    ∧ (∃ (s : State) (dt : Nat) (agent : Nat), let u := (s.pass dt).m; let c := u.get F.fioSafe_CAUSE; s.heeds dt agent 16 ∧ s.live dt ∧ c ≠ 0)
    ∧ (∃ (s : State) (dt : Nat) (agent : Nat), let u := (s.pass dt).m; let c := u.get F.fioSafe_CAUSE; s.heeds dt agent 16 ∧ s.live dt ∧ c = 2
        ∧ u.fioInvalid = none)
    ∧ (∃ (s : State) (dt : Nat) (agent : Nat) (o : _), let u := (s.pass dt).m; let c := u.get F.fioSafe_CAUSE; s.heeds dt agent 16 ∧ s.live dt
        ∧ c = 2 ∧ u.fioInvalid = some o)
    ∧ (∃ (s : State) (dt : Nat) (agent : Nat), let u := (s.pass dt).m; let c := u.get F.fioSafe_CAUSE; s.heeds dt agent 16 ∧ s.live dt ∧ c ≠ 2) :=
  ⟨⟨wst [], 0, 1, by decide +kernel⟩,
   ⟨wst [], 0, 1, by decide +kernel⟩,
   ⟨wst [], 0, 1, 95, by decide +kernel⟩,
   ⟨wst [(F.fioChStat_BOTHON 95, 1)], 0, 1, 95, by decide +kernel⟩,
   ⟨wst [], 0, 1, 95, by decide +kernel⟩,
   ⟨wst [(F.fioSafe_CAUSE, 0)], 0, 1, by decide +kernel⟩,
   ⟨wst [(F.fioSafe_CAUSE, 5)], 0, 1, by decide +kernel⟩,
   ⟨wst [(F.fioSafe_CAUSE, 2)], 0, 1, by decide +kernel⟩,
   ⟨wst [(F.fioSafe_CAUSE, 2), (F.fioIcCfg_EDGE 31, 3)], 0, 1, R.fioIcCfg 31, by decide +kernel⟩,
   ⟨wst [(F.fioSafe_CAUSE, 3)], 0, 1, by decide +kernel⟩⟩

theorem wit_OutputFaultsTripAndClear :
    (∃ (s : State) (dt : Nat) (q : Nat), let u := (s.pass dt).m; let h := u.gangHead q; q < 96 ∧ s.live dt ∧ u.on (F.fioChStat_TRIPPED h) = false
        ∧ u.on (F.fioChStat_OVL_LATCH h) = false)
    ∧ (∃ (s : State) (dt : Nat) (q : Nat), let u := (s.pass dt).m; let h := u.gangHead q; q < 96 ∧ s.live dt
        ∧ (u.on (F.fioChStat_TRIPPED h) = true ∨ u.on (F.fioChStat_OVL_LATCH h) = true))
    ∧ (∃ (s : State) (dt : Nat) (q : Nat), let u := (s.pass dt).m;
        let due : Bool := match (u.fioChan q).retryAt with | some at' => at' ≤ u.now | none => false; q < 96 ∧ s.live dt
        ∧ u.on (F.fioChStat_TRIPPED q) = true ∧ due = true)
    ∧ (∃ (s : State) (dt : Nat) (q : Nat), let u := (s.pass dt).m;
        let due : Bool := match (u.fioChan q).retryAt with | some at' => at' ≤ u.now | none => false; q < 96 ∧ s.live dt
        ∧ (u.on (F.fioChStat_TRIPPED q) = false ∨ due = false))
    ∧ (∃ (s : State) (dt : Nat) (agent : Nat) (q : Nat), let u := (s.pass dt).m; q < 96 ∧ s.live dt ∧ u.on (F.fioChStat_OVL_LATCH q) = true
        ∧ s.heeds dt agent 16)
    ∧ (∃ (s : State) (dt : Nat) (q : Nat), let u := (s.pass dt).m; q < 96 ∧ s.live dt ∧ u.on (F.fioChStat_OVL_LATCH q) = false)
    ∧ (∃ (s : State) (dt : Nat) (q : Nat), let u := (s.pass dt).m; let h := u.gangHead q; q < 96 ∧ s.live dt ∧ u.owTests h = true)
    ∧ (∃ (s : State) (dt : Nat) (q : Nat), let u := (s.pass dt).m; let h := u.gangHead q; q < 96 ∧ s.live dt ∧ u.owTests h = false)
    ∧ (∃ (s : State) (dt : Nat) (q : Nat), let u := (s.pass dt).m; let h := u.gangHead q; q < 96 ∧ s.live dt ∧ u.owTests h = true)
    ∧ (∃ (s : State) (dt : Nat) (q : Nat), q < 96 ∧ s.live dt)
    ∧ (∃ (s : State) (dt : Nat) (q : Nat), q < 96 ∧ s.live dt)
    ∧ (∃ (s : State) (dt : Nat) (q : Nat), q < 96 ∧ s.live dt) :=
  ⟨⟨wst [], 0, 95, by decide +kernel⟩,
   ⟨wst [(F.fioChStat_TRIPPED 95, 1)], 0, 95, by decide +kernel⟩,
   ⟨wst [(F.fioChStat_TRIPPED 95, 1)] (·.modFioCh 95 fun c => { c with retryAt := some 0 }), 0, 95, by decide +kernel⟩,
   ⟨wst [(F.fioChStat_TRIPPED 95, 1)] (·.modFioCh 95 fun c => { c with retryAt := some 1 }), 0, 95, by decide +kernel⟩,
   ⟨wst [(F.fioChStat_OVL_LATCH 95, 1)], 0, 1, 95, by decide +kernel⟩,
   ⟨wst [], 0, 95, by decide +kernel⟩,
   ⟨wst [(F.fioChCfg_OW_EN 95, 1), (F.fioChCfg_MODE 95, 1), (F.fioStat_SAFE, 0), (F.fioStat_FOLLOW, 0), (F.fioGrpStat_LOW 11, 0)], 0, 95, by decide +kernel⟩,
   ⟨wst [], 0, 95, by decide +kernel⟩,
   ⟨wst [(F.fioChStat_OPEN 95, 1), (F.fioStat_SAFE, 0), (F.fioStat_FOLLOW, 0), (F.fioGrpStat_LOW 11, 0), (F.fioChCfg_OW_EN 95, 1), (F.fioChCfg_MODE 95, 1)], 0, 95, by decide +kernel⟩,
   ⟨wst [], 0, 95, by decide +kernel⟩,
   ⟨wst [(F.fioChStat_OT 95, 1)], 0, 95, by decide +kernel⟩,
   ⟨wst [], 0, 95, by decide +kernel⟩⟩

theorem wit_GroupSupplyThresholds :
    (∃ (s : State) (dt : Nat) (g : Nat) (volt : Nat), let u := (s.pass dt).m; let warn := u.on (F.fioGrpStat_WARN g); g < 12 ∧ s.live dt
        ∧ volt < 1920 ∧ warn = false)
    ∧ (∃ (s : State) (dt : Nat) (g : Nat) (volt : Nat), let u := (s.pass dt).m; let warn := u.on (F.fioGrpStat_WARN g); g < 12 ∧ s.live dt
        ∧ (1920 ≤ volt ∨ warn = true))
    ∧ (∃ (s : State) (dt : Nat) (g : Nat) (volt : Nat), let u := (s.pass dt).m; let warn := u.on (F.fioGrpStat_WARN g); g < 12 ∧ s.live dt
        ∧ 1960 ≤ volt ∧ warn = true)
    ∧ (∃ (s : State) (dt : Nat) (g : Nat) (volt : Nat), let u := (s.pass dt).m; let warn := u.on (F.fioGrpStat_WARN g); g < 12 ∧ s.live dt
        ∧ (volt < 1960 ∨ warn = false))
    ∧ (∃ (s : State) (dt : Nat) (g : Nat) (volt : Nat), let u := (s.pass dt).m; let low := u.on (F.fioGrpStat_LOW g); g < 12 ∧ s.live dt
        ∧ volt < 1500 ∧ low = false)
    ∧ (∃ (s : State) (dt : Nat) (g : Nat) (volt : Nat), let u := (s.pass dt).m; let low := u.on (F.fioGrpStat_LOW g); g < 12 ∧ s.live dt
        ∧ (1500 ≤ volt ∨ low = true))
    ∧ (∃ (s : State) (dt : Nat) (g : Nat) (volt : Nat), let u := (s.pass dt).m; let low := u.on (F.fioGrpStat_LOW g); g < 12 ∧ s.live dt
        ∧ 1600 ≤ volt ∧ low = true)
    ∧ (∃ (s : State) (dt : Nat) (g : Nat) (volt : Nat), let u := (s.pass dt).m; let low := u.on (F.fioGrpStat_LOW g); g < 12 ∧ s.live dt
        ∧ (volt < 1600 ∨ low = false))
    ∧ (∃ (s : State) (dt : Nat) (g : Nat) (volt : Nat), let u := (s.pass dt).m; let overran := u.on (F.fioGrpStat_OV g); g < 12 ∧ s.live dt
        ∧ 3100 < volt ∧ overran = false)
    ∧ (∃ (s : State) (dt : Nat) (g : Nat) (volt : Nat), let u := (s.pass dt).m; let overran := u.on (F.fioGrpStat_OV g); g < 12 ∧ s.live dt
        ∧ (volt ≤ 3100 ∨ overran = true))
    ∧ (∃ (s : State) (dt : Nat) (g : Nat) (volt : Nat), let u := (s.pass dt).m; let overran := u.on (F.fioGrpStat_OV g); g < 12 ∧ s.live dt
        ∧ volt ≤ 3050 ∧ overran = true)
    ∧ (∃ (s : State) (dt : Nat) (g : Nat) (volt : Nat), let u := (s.pass dt).m; let overran := u.on (F.fioGrpStat_OV g); g < 12 ∧ s.live dt
        ∧ (3050 < volt ∨ overran = false)) :=
  ⟨⟨wst [], 0, 11, 1919, by decide +kernel⟩,
   ⟨wst [], 0, 11, 1920, by decide +kernel⟩,
   ⟨wst [(F.fioGrpStat_WARN 11, 1)], 0, 11, 1960, by decide +kernel⟩,
   ⟨wst [(F.fioGrpStat_WARN 11, 1)], 0, 11, 1959, by decide +kernel⟩,
   ⟨wst [(F.fioGrpStat_LOW 11, 0)], 0, 11, 1499, by decide +kernel⟩,
   ⟨wst [], 0, 11, 1500, by decide +kernel⟩,
   ⟨wst [(F.fioGrpStat_LOW 11, 1)], 0, 11, 1600, by decide +kernel⟩,
   ⟨wst [(F.fioGrpStat_LOW 11, 1)], 0, 11, 1599, by decide +kernel⟩,
   ⟨wst [], 0, 11, 3101, by decide +kernel⟩,
   ⟨wst [], 0, 11, 3100, by decide +kernel⟩,
   ⟨wst [(F.fioGrpStat_OV 11, 1)], 0, 11, 3050, by decide +kernel⟩,
   ⟨wst [(F.fioGrpStat_OV 11, 1)], 0, 11, 3051, by decide +kernel⟩⟩

theorem wit_FieldInputsFollowAndCount :
    (∃ (s : State) (dt : Nat) (i : Nat) (lvl : Bool) (samples : Nat), let u := (s.pass dt).m; i < 32 ∧ s.live dt ∧ (u.inW i).level ≠ lvl
        ∧ u.get (F.fioIwCfg_DEB_US i) + 1 ≤ samples)
    ∧ (∃ (s : State) (dt : Nat) (i : Nat) (lvl : Bool) (samples : Nat), let u := (s.pass dt).m; i < 32 ∧ s.live dt
        ∧ ((u.inW i).level = lvl ∨ samples < u.get (F.fioIwCfg_DEB_US i) + 1))
    ∧ (∃ (s : State) (dt : Nat) (i : Nat) (draw : _) (ms : _), let u := (s.pass dt).m; i < 32 ∧ s.live dt ∧ u.on (F.fioIwCfg_WB_EN i) = true
        ∧ draw < 5 ∧ u.wbMs i ≤ ms ∧ u.on (F.fioIwStat_OPEN i) = false)
    ∧ (∃ (s : State) (dt : Nat) (i : Nat) (draw : _) (ms : _), let u := (s.pass dt).m; i < 32 ∧ s.live dt
        ∧ (u.on (F.fioIwCfg_WB_EN i) = false ∨ 5 ≤ draw ∨ ms < u.wbMs i ∨ u.on (F.fioIwStat_OPEN i) = true))
    ∧ (∃ (s : State) (dt : Nat) (i : Nat) (draw : _) (ms : _), let u := (s.pass dt).m; i < 32 ∧ s.live dt ∧ u.on (F.fioIwCfg_WB_EN i) = true
        ∧ 7 ≤ draw ∧ u.wbMs i ≤ ms ∧ u.on (F.fioIwStat_OPEN i) = true)
    ∧ (∃ (s : State) (dt : Nat) (i : Nat) (draw : _) (ms : _), let u := (s.pass dt).m; i < 32 ∧ s.live dt
        ∧ (u.on (F.fioIwCfg_WB_EN i) = false ∨ draw < 7 ∨ ms < u.wbMs i ∨ u.on (F.fioIwStat_OPEN i) = false))
    ∧ (∃ (s : State) (dt : Nat) (i : Nat) (rise : Bool) (back : Nat), let u := (s.pass dt).m; i < 32 ∧ s.live dt ∧ (u.inC i).level ≠ rise
        ∧ u.filtered (u.get (F.fioIcCfg_FILT_N i)) back = true)
    ∧ (∃ (s : State) (dt : Nat) (i : Nat) (rise : Bool) (back : Nat), let u := (s.pass dt).m; i < 32 ∧ s.live dt
        ∧ ((u.inC i).level = rise ∨ u.filtered (u.get (F.fioIcCfg_FILT_N i)) back = false))
    ∧ (∃ (s : State) (dt : Nat) (i : Nat), let u := (s.pass dt).m; let gate := u.gateBound i; i < 32 ∧ s.live dt ∧ (u.inC i).gateStart < gate)
    ∧ (∃ (s : State) (dt : Nat) (i : Nat), let u := (s.pass dt).m; let gate := u.gateBound i; i < 32 ∧ s.live dt ∧ gate ≤ (u.inC i).gateStart)
    ∧ (∃ (s : State) (dt : Nat) (agent : Nat) (i : Nat), i < 32 ∧ s.live dt ∧ s.heeds dt agent 16) :=
  ⟨⟨wst [], 0, 31, true, 4096, by decide +kernel⟩,
   ⟨wst [], 0, 31, false, 4096, by decide +kernel⟩,
   ⟨wst [(F.fioIwCfg_WB_EN 31, 1), (F.fioIwStat_OPEN 31, 0)], 0, 31, 4, 255, by decide +kernel⟩,
   ⟨wst [(F.fioIwCfg_WB_EN 31, 1)], 0, 31, 5, 255, by decide +kernel⟩,
   ⟨wst [(F.fioIwCfg_WB_EN 31, 1), (F.fioIwStat_OPEN 31, 1)], 0, 31, 7, 255, by decide +kernel⟩,
   ⟨wst [(F.fioIwCfg_WB_EN 31, 1), (F.fioIwStat_OPEN 31, 1)], 0, 31, 6, 255, by decide +kernel⟩,
   ⟨wst [(F.fioIcCfg_FILT_N 31, 1)] (fun m => { m with now := 1000, reelT := 20000 * 2 ^ 40 }), 0, 31, true, 0, by decide +kernel⟩,
   ⟨wst [], 0, 31, false, 0, by decide +kernel⟩,
   ⟨wst [(F.fioIcCfg_GATE_US 31, 10)] (fun m => { m with now := 3, reelT := 20050 * 2 ^ 40 }.modInC 31 fun x => { x with gateStart := 0, gates := [⟨20000, 1, 20004, 20004⟩, ⟨10000, 5, 10004, 10404⟩] }), 0, 31, by decide +kernel⟩,
   ⟨wst [] (fun m => { m with now := 3, reelT := 20050 * 2 ^ 40 }.modInC 31 fun x => { x with gateStart := 10 ^ 15 }), 0, 31, by decide +kernel⟩,
   ⟨wst [], 0, 1, 31, by decide +kernel⟩⟩

theorem wit_EncoderAxisFollowsItsLines_1 :
    (∃ (s : State) (dt : Nat) (ax : Nat) (back : Nat), let u := (s.pass dt).m;
        let quad : Bool := u.posRuns ax && decide (u.get (F.posCfg_MODE ax) = 0); let steady : Bool := u.filtered (u.get (F.posCfg_FILT_N ax)) back;
        ax < 8 ∧ s.live dt ∧ steady = true ∧ quad = true)
    ∧ (∃ (s : State) (dt : Nat) (ax : Nat) (back : Nat), let u := (s.pass dt).m;
        let quad : Bool := u.posRuns ax && decide (u.get (F.posCfg_MODE ax) = 0); let steady : Bool := u.filtered (u.get (F.posCfg_FILT_N ax)) back;
        ax < 8 ∧ s.live dt ∧ steady = true ∧ quad = true)
    ∧ (∃ (s : State) (dt : Nat) (ax : Nat) (back : Nat), let u := (s.pass dt).m; let x := u.posAx ax;
        let steady : Bool := u.filtered (u.get (F.posCfg_FILT_N ax)) back; ax < 8 ∧ s.live dt ∧ steady = true ∧ u.posRuns ax = true
        ∧ u.get (F.posCfg_MODE ax) ≠ 0 ∧ x.a = false)
    ∧ (∃ (s : State) (dt : Nat) (ax : Nat) (back : Nat) (chgA : Bool) (chgB : Bool), let u := (s.pass dt).m; let x := u.posAx ax;
        let steady : Bool := u.filtered (u.get (F.posCfg_FILT_N ax)) back; ax < 8 ∧ s.live dt ∧ steady = true
        ∧ ((u.posRuns ax = false ∨ (u.get (F.posCfg_MODE ax) = 0 ∧ chgA = false ∧ chgB = false) ∨ (u.get (F.posCfg_MODE ax) ≠ 0
        ∧ (chgA = false ∨ x.a = true)))))
    ∧ (∃ (s : State) (dt : Nat) (ax : Nat) (back : Nat), let u := (s.pass dt).m; let steady : Bool := u.filtered (u.get (F.posCfg_FILT_N ax)) back;
        ax < 8 ∧ s.live dt ∧ steady = false)
    ∧ (∃ (s : State) (dt : Nat) (ax : Nat) (back : Nat), let u := (s.pass dt).m; let x := u.posAx ax;
        let quad : Bool := u.posRuns ax && decide (u.get (F.posCfg_MODE ax) = 0); let steady : Bool := u.filtered (u.get (F.posCfg_FILT_N ax)) back;
        let zm := u.get (F.posCfg_Z_MODE ax); let used : Bool := quad && steady && zm != 0 && !x.own.back && x.own.counted; ax < 8 ∧ s.live dt
        ∧ used = true ∧ zm ≠ 2 ∧ x.homed = false)
    ∧ (∃ (s : State) (dt : Nat) (ax : Nat) (back : Nat), let u := (s.pass dt).m; let x := u.posAx ax;
        let quad : Bool := u.posRuns ax && decide (u.get (F.posCfg_MODE ax) = 0); let steady : Bool := u.filtered (u.get (F.posCfg_FILT_N ax)) back;
        let zm := u.get (F.posCfg_Z_MODE ax); let used : Bool := quad && steady && zm != 0 && !x.own.back && x.own.counted; ax < 8 ∧ s.live dt
        ∧ used = true ∧ ((zm = 2 ∨ (zm ≠ 1 ∧ x.homed = true))))
    ∧ (∃ (s : State) (dt : Nat) (ax : Nat) (back : Nat), let u := (s.pass dt).m; let x := u.posAx ax;
        let quad : Bool := u.posRuns ax && decide (u.get (F.posCfg_MODE ax) = 0); let steady : Bool := u.filtered (u.get (F.posCfg_FILT_N ax)) back;
        let zm := u.get (F.posCfg_Z_MODE ax); let used : Bool := quad && steady && zm != 0 && !x.own.back && x.own.counted; ax < 8 ∧ s.live dt
        ∧ (used = false ∨ (zm = 1 ∧ x.homed = true)))
    ∧ (∃ (s : State) (dt : Nat) (ax : Nat) (lines : _), let u := (s.pass dt).m; let hit := lines &&& u.posUsed ax;
        let fresh : Bool := u.posRuns ax && !u.on (F.posCfg_IN ax) && hit != 0; ax < 8 ∧ s.live dt ∧ fresh = true)
    ∧ (∃ (s : State) (dt : Nat) (ax : Nat) (lines : _), let u := (s.pass dt).m; let hit := lines &&& u.posUsed ax;
        let fresh : Bool := u.posRuns ax && !u.on (F.posCfg_IN ax) && hit != 0;
        let stands : Bool := decide (u.get (F.posStat_STATE ax) = 2) && u.get (F.posStat_LINES ax) != 0; ax < 8 ∧ s.live dt ∧ fresh = false
        ∧ stands = true)
    ∧ (∃ (s : State) (dt : Nat) (ax : Nat) (lines : _), let u := (s.pass dt).m; let hit := lines &&& u.posUsed ax;
        let fresh : Bool := u.posRuns ax && !u.on (F.posCfg_IN ax) && hit != 0;
        let stands : Bool := decide (u.get (F.posStat_STATE ax) = 2) && u.get (F.posStat_LINES ax) != 0; ax < 8 ∧ s.live dt ∧ fresh = false
        ∧ stands = false)
    ∧ (∃ (s : State) (dt : Nat) (ax : Nat), let u := (s.pass dt).m; let x := u.posAx ax;
        let due : Bool := u.posRuns ax && !x.own.still && decide (x.own.te + (max 1 (u.get (F.posCfg_STILL_US ax)) : Int) * 1000 ≤ u.reel); ax < 8
        ∧ s.live dt ∧ due = true) :=
  ⟨⟨wst [(F.posStat_STATE 7, 1),(F.posCfg_SPEED_W 7, 4),(F.posCfg_FILT_N 7, 1)] (fun m => { m with reelT := 20000 * 2 ^ 40 }), 0, 7, 0, by decide +kernel⟩,
   ⟨wst [(F.posStat_STATE 7, 1),(F.posCfg_FILT_N 7, 1)] (fun m => { m with reelT := 20000 * 2 ^ 40 }), 0, 7, 0, by decide +kernel⟩,
   ⟨wst [(F.posStat_STATE 7, 1),(F.posCfg_FILT_N 7, 1),(F.posCfg_MODE 7, 1)] (fun m => { m with reelT := 20000 * 2 ^ 40 }), 0, 7, 0, by decide +kernel⟩,
   ⟨wst [(F.posStat_STATE 7, 0),(F.posCfg_FILT_N 7, 1)] (fun m => { m with reelT := 20000 * 2 ^ 40 }), 0, 7, 0, true, false, by decide +kernel⟩,
   ⟨wst [(F.posStat_STATE 7, 1),(F.posCfg_FILT_N 7, 2)] (fun m => { m with reelT := 20000 * 2 ^ 40 }), 0, 7, 0, by decide +kernel⟩,
   ⟨wst [(F.posStat_STATE 7, 1),(F.posCfg_Z_MODE 7, 1),(F.posCfg_FILT_N 7, 1)] (fun m => { m with reelT := 20000 * 2 ^ 40 }.modPos 7 fun x => { x with own := { x.own with counted := true } }), 0, 7, 0, by decide +kernel⟩,
   ⟨wst [(F.posStat_STATE 7, 1),(F.posCfg_Z_MODE 7, 2),(F.posCfg_FILT_N 7, 1),(F.posCfg_RESYNC 7, 1),(F.posRev_COUNTS_PER_REV 7, 1000)] (fun m => { m with reelT := 20000 * 2 ^ 40 }.modPos 7 fun x => { x with own := { x.own with counted := true, p := 1234 } }), 0, 7, 0, by decide +kernel⟩,
   ⟨wst [(F.posStat_STATE 7, 1),(F.posCfg_Z_MODE 7, 1),(F.posCfg_FILT_N 7, 1)] (fun m => { m with reelT := 20000 * 2 ^ 40 }), 0, 7, 0, by decide +kernel⟩,
   ⟨wst [(F.posStat_STATE 7, 1)], 0, 7, 1, by decide +kernel⟩,
   ⟨wst [(F.posStat_STATE 7, 2), (F.posStat_LINES 7, 1)], 0, 7, 2, by decide +kernel⟩,
   ⟨wst [(F.posStat_STATE 7, 1)], 0, 7, 4, by decide +kernel⟩,
   ⟨wst [(F.posStat_STATE 7, 1)] (fun m => { m with now := 5, reelT := 10 ^ 9 * 2 ^ 40 }.modPos 7 fun x => { x with own := { x.own with still := false } }), 0, 7, by decide +kernel⟩⟩

theorem wit_EncoderAxisFollowsItsLines_2 :
    (∃ (s : State) (dt : Nat) (ax : Nat), let u := (s.pass dt).m; let x := u.posAx ax;
        let due : Bool := u.posRuns ax && !x.own.still && decide (x.own.te + (max 1 (u.get (F.posCfg_STILL_US ax)) : Int) * 1000 ≤ u.reel); ax < 8
        ∧ s.live dt ∧ due = false)
    ∧ (∃ (s : State) (dt : Nat) (agent : Nat) (ax : Nat), ax < 8 ∧ s.live dt ∧ s.heeds dt agent 14) :=
  ⟨⟨wst [(F.posStat_STATE 7, 1)] (·.modPos 7 fun x => { x with own := { x.own with still := false } }), 0, 7, by decide +kernel⟩,
   ⟨wst [(F.posStat_STATE 7, 1)], 0, 1, 7, by decide +kernel⟩⟩

theorem wit_VerdictsCloseSlots :
    (∃ (s : State) (dt : Nat) (ax : Nat) (x : _) (sl : _), let u := (s.pass dt).m;
        let takes : Bool := decide (u.get (F.cmpCtl_STATE ax) = 1) && u.on (F.cmpPort_EN x.2.port); ax < 8 ∧ s.live dt
        ∧ u.verdQ.find? (fun y => y.1 = ax) = some x ∧ u.traceStalls 0x061 = false ∧ takes = true
        ∧ (u.cmpAx ax).slots.find? (fun y => y.tag = x.2.tag) = some sl)
    ∧ (∃ (s : State) (dt : Nat) (ax : Nat) (x : _), let u := (s.pass dt).m;
        let takes : Bool := decide (u.get (F.cmpCtl_STATE ax) = 1) && u.on (F.cmpPort_EN x.2.port); ax < 8 ∧ s.live dt
        ∧ u.verdQ.find? (fun y => y.1 = ax) = some x ∧ u.traceStalls 0x061 = false ∧ takes = true
        ∧ (u.cmpAx ax).slots.find? (fun y => y.tag = x.2.tag) = none)
    ∧ (∃ (s : State) (dt : Nat) (ax : Nat) (x : _), let u := (s.pass dt).m;
        let takes : Bool := decide (u.get (F.cmpCtl_STATE ax) = 1) && u.on (F.cmpPort_EN x.2.port); ax < 8 ∧ s.live dt
        ∧ u.verdQ.find? (fun y => y.1 = ax) = some x ∧ u.traceStalls 0x061 = false ∧ takes = false)
    ∧ (∃ (s : State) (dt : Nat) (ax : Nat), let u := (s.pass dt).m; ax < 8 ∧ s.live dt
        ∧ (u.verdQ.find? (fun y => y.1 = ax) = none ∨ u.traceStalls 0x061 = true))
    ∧ (∃ (s : State) (dt : Nat) (ax : Nat) (slot : _) (sl : _) (at' : _), let u := (s.pass dt).m; ax < 8 ∧ s.live dt ∧ slot < 4096
        ∧ (u.cmpAx ax).slots.find? (fun y => y.idx = slot) = some sl ∧ u.closePoint ax sl = some at' ∧ at' ≤ u.reel)
    ∧ (∃ (s : State) (dt : Nat) (ax : Nat) (slot : _) (sl : _) (at' : _), let u := (s.pass dt).m; ax < 8 ∧ s.live dt ∧ slot < 4096
        ∧ (u.cmpAx ax).slots.find? (fun y => y.idx = slot) = some sl ∧ u.closePoint ax sl = some at' ∧ u.reel < at')
    ∧ (∃ (s : State) (dt : Nat) (ax : Nat) (slot : _), let u := (s.pass dt).m; ax < 8 ∧ s.live dt ∧ slot < 4096
        ∧ ((u.cmpAx ax).slots.find? (fun y => y.idx = slot)).bind (u.closePoint ax) = none)
    ∧ (∃ (s : State) (dt : Nat) (agent : Nat) (ax : Nat), ax < 8 ∧ s.live dt ∧ s.heeds dt agent 15) :=
  ⟨⟨wst [(F.cmpCtl_STATE 7, 1), (F.cmpPort_EN 2, 1), (F.cmpValveCfg_EN 95, 1), (F.cmpValveCfg_PORT 95, 2), (F.cmpValveCols_COL_FIRST 95, 0), (F.cmpValveCols_COL_LAST 95, 9), (F.cmpValveCfg_FIRE_MASK 95, 65535)] (fun m => axisWith 7 [slotOf 4095 3 0 9] [] { m with verdQ := [(7, verdict 3)] }), 0, 7, (7, verdict 3), slotOf 4095 3 0 9, by decide +kernel⟩,
   ⟨wst [(F.cmpCtl_STATE 7, 1), (F.cmpPort_EN 2, 1)] (fun m => axisWith 7 [slotOf 4095 4 0 9] [] { m with verdQ := [(7, verdict 3)] }), 0, 7, (7, verdict 3), by decide +kernel⟩,
   ⟨wst [(F.cmpCtl_STATE 7, 2), (F.cmpPort_EN 2, 1)] (fun m => axisWith 7 [slotOf 4095 3 0 9] [] { m with verdQ := [(7, verdict 3)] }), 0, 7, (7, verdict 3), by decide +kernel⟩,
   ⟨wst [], 0, 7, by decide +kernel⟩,
   ⟨wst [(F.cmpCtl_STATE 7, 1), (F.cmpPort_EN 2, 1), (F.cmpValveCfg_EN 95, 1), (F.cmpValveCfg_AXIS 95, 7), (F.cmpValveCfg_PORT 95, 2), (F.cmpValveDly_DLY_ON 95, 0), (F.cmpCpl_CPL_RISE 0, 0), (F.cmpValveLim_TOL 95, 0), (F.cmpValveDist_DIST 95, 0), (F.cmpValveExt_PRE 95, 0), (F.cmpValveCfg_AIM 95, 0)] (fun m => axisWith 7 [slotOf 4095 3 0 9] [] (m.modPos 7 fun x => { x with own := { x.own with still := false, period := 65536 } })), 0, 7, 4095, slotOf 4095 3 0 9, 0, by decide +kernel⟩,
   ⟨wst [(F.cmpCtl_STATE 7, 1), (F.cmpPort_EN 2, 1), (F.cmpValveCfg_EN 95, 1), (F.cmpValveCfg_AXIS 95, 7), (F.cmpValveCfg_PORT 95, 2), (F.cmpValveDly_DLY_ON 95, 0), (F.cmpCpl_CPL_RISE 0, 0), (F.cmpValveLim_TOL 95, 0), (F.cmpValveDist_DIST 95, 0), (F.cmpValveExt_PRE 95, 0), (F.cmpValveCfg_AIM 95, 0)] (fun m => axisWith 7 [slotOf 4095 3 0 9] [] { (m.modPos 7 fun x => { x with own := { x.own with still := false, period := 65536 } }) with reelT := -(2 ^ 40) }), 0, 7, 4095, slotOf 4095 3 0 9, 0, by decide +kernel⟩,
   ⟨wst [] (axisWith 7 [slotOf 4095 3 0 9] []), 0, 7, 4095, by decide +kernel⟩,
   ⟨wst [(F.cmpCtl_STATE 7, 1)] (axisWith 7 [slotOf 4095 3 0 9] [(3, ent 5 9), (4, { ent 5 9 with onHanded := true }), (5, { ent 5 9 with onHanded := true, onDone := true })]), 0, 1, 7, by decide +kernel⟩⟩

theorem wit_EdgesAreHandedOffAndFire_1 :
    (∃ (s : State) (dt : Nat) (ax : Nat) (index : Nat) (c : _) (e : _) (at' : _) (l : _), let u := (s.pass dt).m;
        let due : Bool := decide (at' ≤ u.reel + 4000); ax < 8 ∧ index < 4096 ∧ s.live dt
        ∧ c ∈ [Instr.edgeHandoff dt ax index false, Instr.lastFeasibleFirePoint dt ax index] ∧ u.entry ax index = some e ∧ e.tOn = some at'
        ∧ e.lff = some l ∧ e.onHanded = false ∧ due = false)
    ∧ (∃ (s : State) (dt : Nat) (ax : Nat) (index : Nat) (c : _) (e : _) (at' : _) (l : _), let u := (s.pass dt).m; let held := u.horizonHolds at';
        let near : Bool := decide (at' < u.reel + 50); let due : Bool := decide (at' ≤ u.reel + 4000);
        let late : Bool := decide (l < u.reel) && (if held then u.tngIs 2 else near && !e.lateFire); ax < 8 ∧ index < 4096 ∧ s.live dt
        ∧ c ∈ [Instr.edgeHandoff dt ax index false, Instr.lastFeasibleFirePoint dt ax index] ∧ u.entry ax index = some e ∧ e.tOn = some at'
        ∧ e.lff = some l ∧ e.onHanded = false ∧ due = true ∧ held = true ∧ late = false)
    ∧ (∃ (s : State) (dt : Nat) (ax : Nat) (index : Nat) (c : _) (e : _) (at' : _) (l : _), let u := (s.pass dt).m; let held := u.horizonHolds at';
        let near : Bool := decide (at' < u.reel + 50); let due : Bool := decide (at' ≤ u.reel + 4000);
        let late : Bool := decide (l < u.reel) && (if held then u.tngIs 2 else near && !e.lateFire); ax < 8 ∧ index < 4096 ∧ s.live dt
        ∧ c ∈ [Instr.edgeHandoff dt ax index false, Instr.lastFeasibleFirePoint dt ax index] ∧ u.entry ax index = some e ∧ e.tOn = some at'
        ∧ e.lff = some l ∧ e.onHanded = false ∧ due = true ∧ held = false ∧ late = false ∧ e.onDone = false)
    ∧ (∃ (s : State) (dt : Nat) (ax : Nat) (index : Nat) (c : _) (e : _) (at' : _) (l : _), let u := (s.pass dt).m; let held := u.horizonHolds at';
        let near : Bool := decide (at' < u.reel + 50); let due : Bool := decide (at' ≤ u.reel + 4000);
        let late : Bool := decide (l < u.reel) && (if held then u.tngIs 2 else near && !e.lateFire); ax < 8 ∧ index < 4096 ∧ s.live dt
        ∧ c ∈ [Instr.edgeHandoff dt ax index false, Instr.lastFeasibleFirePoint dt ax index] ∧ u.entry ax index = some e ∧ e.tOn = some at'
        ∧ e.lff = some l ∧ e.onHanded = false ∧ due = true ∧ late = true ∧ e.onDone = false)
    ∧ (∃ (s : State) (dt : Nat) (ax : Nat) (index : Nat) (c : _), let u := (s.pass dt).m; ax < 8 ∧ index < 4096 ∧ s.live dt
        ∧ c ∈ [Instr.edgeHandoff dt ax index false, Instr.lastFeasibleFirePoint dt ax index]
        ∧ ((∀ e, u.entry ax index = some e → e.onHanded = true ∨ e.tOn = none ∨ e.lff = none)))
    ∧ (∃ (s : State) (dt : Nat) (ax : Nat) (index : Nat) (e : _) (at' : _), let u := (s.pass dt).m; ax < 8 ∧ index < 4096 ∧ s.live dt
        ∧ u.entry ax index = some e ∧ e.tOff = some at' ∧ e.onHanded = true ∧ e.offHanded = false ∧ e.offDone = false ∧ at' ≤ u.reel + 4000)
    ∧ (∃ (s : State) (dt : Nat) (ax : Nat) (index : Nat), let u := (s.pass dt).m; ax < 8 ∧ index < 4096 ∧ s.live dt
        ∧ ((∀ e, u.entry ax index = some e → e.onHanded = false ∨ e.offHanded = true ∨ e.offDone = true ∨ (∀ at', e.tOff = some at' → u.reel + 4000 < at'))))
    ∧ (∃ (s : State) (dt : Nat) (ax : Nat) (index : Nat) (e : _) (at' : _), let u := (s.pass dt).m; ax < 8 ∧ index < 4096 ∧ s.live dt
        ∧ u.entry ax index = some e ∧ e.tOn = some at' ∧ e.onHanded = true ∧ e.onDone = false ∧ at' ≤ u.reel)
    ∧ (∃ (s : State) (dt : Nat) (ax : Nat) (index : Nat), let u := (s.pass dt).m; ax < 8 ∧ index < 4096 ∧ s.live dt
        ∧ ((∀ e, u.entry ax index = some e → e.onHanded = false ∨ e.onDone = true ∨ (∀ at', e.tOn = some at' → u.reel < at'))))
    ∧ (∃ (s : State) (dt : Nat) (ax : Nat) (index : Nat) (e : _) (at' : _), let u := (s.pass dt).m; ax < 8 ∧ index < 4096 ∧ s.live dt
        ∧ u.entry ax index = some e ∧ e.tOff = some at' ∧ e.offHanded = true ∧ e.onDone = true ∧ e.offDone = false ∧ at' ≤ u.reel)
    ∧ (∃ (s : State) (dt : Nat) (ax : Nat) (index : Nat), let u := (s.pass dt).m; ax < 8 ∧ index < 4096 ∧ s.live dt
        ∧ ((∀ e, u.entry ax index = some e → e.offHanded = false ∨ e.onDone = false ∨ e.offDone = true ∨ (∀ at', e.tOff = some at' → u.reel < at'))))
    ∧ (∃ (s : State) (dt : Nat) (ax : Nat) (index : Nat) (v : _) (p : _), let u := (s.pass dt).m;
        let ends (p : Pulse) : Int := p.since + max 1 (u.get (F.cmpValveLim_MAX_ON_US v)) * 1000; ax < 8 ∧ index < 4096 ∧ s.live dt ∧ v < 96
        ∧ u.pulse v = some p ∧ ends p ≤ u.reel) :=
  ⟨⟨wst [] (axisWith 7 [] [(4095, ent 4001 9000)]), 0, 7, 4095, Instr.edgeHandoff (0) (7) (4095) false, ent 4001 9000, 4001, 3951, by decide +kernel⟩,
   ⟨wst [(F.tngStat_STATE, 3)] (axisWith 7 [] [(4095, ent 4000 9000)]), 0, 7, 4095, Instr.edgeHandoff (0) (7) (4095) false, ent 4000 9000, 4000, 3950, by decide +kernel⟩,
   ⟨wst [] (axisWith 7 [] [(4095, ent 4000 9000)]), 0, 7, 4095, Instr.edgeHandoff (0) (7) (4095) false, ent 4000 9000, 4000, 3950, by decide +kernel⟩,
   ⟨wst [(F.tngStat_STATE, 2)] (fun m => axisWith 7 [] [(4095, ent 60 9000)] { m with reelT := 11 * 2 ^ 40 }), 0, 7, 4095, Instr.lastFeasibleFirePoint (0) (7) (4095), ent 60 9000, 60, 10, by decide +kernel⟩,
   ⟨wst [], 0, 7, 4095, Instr.edgeHandoff (0) (7) (4095) false, by decide +kernel⟩,
   ⟨wst [] (axisWith 7 [] [(4095, { ent 5 4000 with onHanded := true })]), 0, 7, 4095, { ent 5 4000 with onHanded := true }, 4000, by decide +kernel⟩,
   ⟨wst [] (axisWith 7 [] [(4095, ent 5 9)]), 0, 7, 4095, by decide +kernel⟩,
   ⟨wst [] (axisWith 7 [] [(4095, { ent 0 100 with onHanded := true })]), 0, 7, 4095, { ent 0 100 with onHanded := true }, 0, by decide +kernel⟩,
   ⟨wst [] (axisWith 7 [] [(4095, { ent 1 100 with onHanded := true })]), 0, 7, 4095, by decide +kernel⟩,
   ⟨wst [(F.cmpValveCfg_OUTPUT 95, 9), (F.fioChCfg_SRC 9, 1), (F.fioChStat_LEVEL 9, 1)] (fun m => axisWith 7 [] [(4095, { ent (-5) 0 with onHanded := true, onDone := true, offHanded := true })] { m with pulses := [(95, some ⟨-5, 7, [9]⟩)] }), 0, 7, 4095, { ent (-5) 0 with onHanded := true, onDone := true, offHanded := true }, 0, by decide +kernel⟩,
   ⟨wst [] (fun m => axisWith 7 [] [(4095, { ent (-5) 1 with onHanded := true, onDone := true, offHanded := true })] m), 0, 7, 4095, by decide +kernel⟩,
   ⟨wst [] (fun m => { m with pulses := [(95, some ⟨-100000000000, 7, [9]⟩)] }), 0, 7, 4095, 95, ⟨-100000000000, 7, [9]⟩, by decide +kernel⟩⟩

theorem wit_EdgesAreHandedOffAndFire_2 :
    (∃ (s : State) (dt : Nat) (ax : Nat) (index : Nat) (v : _), let u := (s.pass dt).m;
        let ends (p : Pulse) : Int := p.since + max 1 (u.get (F.cmpValveLim_MAX_ON_US v)) * 1000; ax < 8 ∧ index < 4096 ∧ s.live dt ∧ v < 96
        ∧ ((∀ p, u.pulse v = some p → u.reel < ends p)))
    ∧ (∃ (s : State) (dt : Nat) (ax : Nat) (index : Nat), ax < 8 ∧ index < 4096 ∧ s.live dt) :=
  ⟨⟨wst [] (fun m => { m with pulses := [(95, some ⟨0, 7, [9]⟩)] }), 0, 7, 4095, 95, by decide +kernel⟩,
   ⟨wst [(F.cmpLate_PIN, 1), (F.cmpLate_MODE, 0), (F.rstFault_SRC, 0)], 0, 7, 4095, by decide +kernel⟩⟩

theorem wit_PortStatesFollowTheClock_1 :
    (∃ (s : State) (dt : Nat) (p : Nat), let u := (s.pass dt).m; let st := u.get (F.grsStatus_STATE p); p < 16 ∧ s.live dt ∧ st = 1)
    ∧ (∃ (s : State) (dt : Nat) (p : Nat), let u := (s.pass dt).m; let st := u.get (F.grsStatus_STATE p); p < 16 ∧ s.live dt ∧ st ≠ 1)
    ∧ (∃ (s : State) (dt : Nat) (p : Nat), let u := (s.pass dt).m; let st := u.get (F.grsStatus_STATE p); p < 16 ∧ s.live dt ∧ st = 2)
    ∧ (∃ (s : State) (dt : Nat) (p : Nat), let u := (s.pass dt).m; let st := u.get (F.grsStatus_STATE p); p < 16 ∧ s.live dt ∧ st ≠ 2)
    ∧ (∃ (s : State) (dt : Nat) (p : Nat), p < 16 ∧ s.live dt)
    ∧ (∃ (s : State) (dt : Nat) (p : Nat), let u := (s.pass dt).m; let g := u.grsPort p; let st := u.get (F.grsStatus_STATE p); p < 16 ∧ s.live dt
        ∧ ((st = 1 ∨ st = 2)) ∧ g.seenClk = true)
    ∧ (∃ (s : State) (dt : Nat) (p : Nat), let u := (s.pass dt).m; let g := u.grsPort p; let st := u.get (F.grsStatus_STATE p); p < 16 ∧ s.live dt
        ∧ ((st = 0 ∨ st = 3 ∨ g.seenClk = false)))
    ∧ (∃ (s : State) (dt : Nat) (agent : Nat) (p : Nat), let u := (s.pass dt).m; let g := u.grsPort p; let st := u.get (F.grsStatus_STATE p); p < 16
        ∧ s.live dt ∧ s.heeds dt agent 0 ∧ st ≠ 0 ∧ g.stopping = none ∧ g.cur = none)
    ∧ (∃ (s : State) (dt : Nat) (agent : Nat) (p : Nat), let u := (s.pass dt).m; let g := u.grsPort p; let st := u.get (F.grsStatus_STATE p); p < 16
        ∧ s.live dt ∧ s.heeds dt agent 0 ∧ st ≠ 0 ∧ g.stopping = none ∧ g.cur.isSome = true)
    ∧ (∃ (s : State) (dt : Nat) (agent : Nat) (p : Nat), let u := (s.pass dt).m; let g := u.grsPort p; let st := u.get (F.grsStatus_STATE p); p < 16
        ∧ s.live dt ∧ s.heeds dt agent 0 ∧ (st = 0 ∨ g.stopping.isSome = true))
    ∧ (∃ (s : State) (dt : Nat) (agent : Nat) (p : Nat), p < 16 ∧ s.live dt ∧ s.heeds dt agent 0)
    ∧ (∃ (s : State) (dt : Nat) (p : Nat) (at' : _), let u := (s.pass dt).m; let g := u.grsPort p; p < 16 ∧ s.live dt ∧ g.stopping = some at'
        ∧ at' + 100000 ≤ u.now) :=
  ⟨⟨wst [(F.grsStatus_STATE 3, 1)], 0, 3, by decide +kernel⟩,
   ⟨wst [(F.grsStatus_STATE 3, 3)], 0, 3, by decide +kernel⟩,
   ⟨wst [(F.grsStatus_STATE 3, 2)], 0, 3, by decide +kernel⟩,
   ⟨wst [(F.grsStatus_STATE 3, 1)], 0, 3, by decide +kernel⟩,
   ⟨wst [(F.grsStatus_STATE 3, 3)], 0, 3, by decide +kernel⟩,
   ⟨wst [(F.grsStatus_STATE 3, 2)] (·.modGrs 3 fun g => { g with seenClk := true }), 0, 3, by decide +kernel⟩,
   ⟨wst [(F.grsStatus_STATE 3, 2)] (·.modGrs 3 fun g => { g with seenClk := false }), 0, 3, by decide +kernel⟩,
   ⟨wst [(F.grsStatus_STATE 3, 2)], 0, 1, 3, by decide +kernel⟩,
   ⟨wst [(F.grsStatus_STATE 3, 2)] (·.modGrs 3 fun g => { g with cur := some ({}, []) }), 0, 1, 3, by decide +kernel⟩,
   ⟨wst [(F.grsStatus_STATE 3, 0)], 0, 1, 3, by decide +kernel⟩,
   ⟨wst [(F.grsStatus_STATE 3, 2), (F.grsFmt_NEXP 3, 0)], 0, 1, 3, by decide +kernel⟩,
   ⟨wst [(F.grsStatus_STATE 3, 2)] (fun m => { m with now := 100005 }.modGrs 3 fun g => { g with stopping := some 5 }), 0, 3, 5, by decide +kernel⟩⟩

theorem wit_PortStatesFollowTheClock_2 :
    (∃ (s : State) (dt : Nat) (p : Nat), let u := (s.pass dt).m; let g := u.grsPort p; p < 16 ∧ s.live dt
        ∧ ((∀ at', g.stopping = some at' → u.now < at' + 100000))) :=
  ⟨wst [(F.grsStatus_STATE 3, 2)] (fun m => { m with now := 100004 }.modGrs 3 fun g => { g with stopping := some 5 }), 0, 3, by decide +kernel⟩

theorem wit_LinesAndTriggers :
    (∃ (s : State) (dt : Nat) (p : Nat) (l : LineIn), let u := (s.pass dt).m; let g := u.grsPort p; let st := u.get (F.grsStatus_STATE p);
        let mine : Bool := decide (st = 2) && !u.linesTold && !(g.ghost && l.bvRise); p < 16 ∧ s.live dt ∧ mine = true)
    ∧ (∃ (s : State) (dt : Nat) (p : Nat) (l : LineIn), let u := (s.pass dt).m; let g := u.grsPort p; let st := u.get (F.grsStatus_STATE p);
        let mine : Bool := decide (st = 2) && !u.linesTold && !(g.ghost && l.bvRise); p < 16 ∧ s.live dt ∧ mine = false)
    ∧ (∃ (s : State) (dt : Nat) (p : Nat) (l : _) (rest : _), let u := (s.pass dt).m; let g := u.grsPort p; p < 16 ∧ s.live dt
        ∧ g.waiting = l :: rest ∧ l.since + 100000 ≤ u.now)
    ∧ (∃ (s : State) (dt : Nat) (p : Nat), let u := (s.pass dt).m; let g := u.grsPort p; p < 16 ∧ s.live dt
        ∧ ((∀ l rest, g.waiting = l :: rest → u.now < l.since + 100000)))
    ∧ (∃ (s : State) (dt : Nat) (p : Nat), let u := (s.pass dt).m; let g := u.grsPort p; let ax := u.get (F.grsTrg_AXIS p);
        let due : Bool := decide (u.get (F.grsStatus_STATE p) ≠ 0) && decide (u.get (F.grsTrg_SRC p) = 1) && u.posRuns ax && !(u.trk ax).still && !(u.trk ax).back && decide (0 ≤ wrapI 64 (u.interp ax - g.target)); p < 16 ∧ s.live dt ∧ due = true)
    ∧ (∃ (s : State) (dt : Nat) (p : Nat), let u := (s.pass dt).m; let g := u.grsPort p; let ax := u.get (F.grsTrg_AXIS p);
        let due : Bool := decide (u.get (F.grsStatus_STATE p) ≠ 0) && decide (u.get (F.grsTrg_SRC p) = 1) && u.posRuns ax && !(u.trk ax).still && !(u.trk ax).back && decide (0 ≤ wrapI 64 (u.interp ax - g.target)); p < 16 ∧ s.live dt ∧ due = false)
    ∧ (∃ (s : State) (dt : Nat) (p : Nat), let u := (s.pass dt).m; let g := u.grsPort p;
        let due : Bool := decide (u.get (F.grsStatus_STATE p) ≠ 0) && decide (u.get (F.grsTrg_SRC p) = 2) && decide (g.timerDue ≤ u.reel); p < 16
        ∧ s.live dt ∧ due = true)
    ∧ (∃ (s : State) (dt : Nat) (p : Nat), let u := (s.pass dt).m; let g := u.grsPort p;
        let due : Bool := decide (u.get (F.grsStatus_STATE p) ≠ 0) && decide (u.get (F.grsTrg_SRC p) = 2) && decide (g.timerDue ≤ u.reel); p < 16
        ∧ s.live dt ∧ due = false)
    ∧ (∃ (s : State) (dt : Nat) (p : Nat) (at' : _), let u := (s.pass dt).m; let g := u.grsPort p; p < 16 ∧ s.live dt ∧ g.trgUntil = some at'
        ∧ at' ≤ u.now)
    ∧ (∃ (s : State) (dt : Nat) (p : Nat), let u := (s.pass dt).m; let g := u.grsPort p; p < 16 ∧ s.live dt
        ∧ ((∀ at', g.trgUntil = some at' → u.now < at'))) :=
  ⟨⟨wst [(F.grsStatus_STATE 3, 2), (F.grsFmt_NEXP 3, 0)], 0, 3, lnIn 0 false, by decide +kernel⟩,
   ⟨wst [(F.grsStatus_STATE 3, 1)], 0, 3, lnIn 0 false, by decide +kernel⟩,
   ⟨wst [(F.grsStatus_STATE 3, 2)] (fun m => { m with now := 100000 }.modGrs 3 fun g => { g with waiting := [⟨{}, [], false, 0, {}⟩] }), 0, 3, ⟨{}, [], false, 0, {}⟩, [], by decide +kernel⟩,
   ⟨wst [(F.grsStatus_STATE 3, 2)] (fun m => { m with now := 99999 }.modGrs 3 fun g => { g with waiting := [⟨{}, [], false, 0, {}⟩] }), 0, 3, ⟨by decide +kernel, by decide +kernel, heads_of_test _ (by decide +kernel)⟩⟩,
   ⟨wst [(F.grsStatus_STATE 3, 2), (F.grsTrg_SRC 3, 1), (F.grsTrg_AXIS 3, 2), (F.posStat_STATE 2, 1)] (·.modPos 2 fun x => { x with own := { x.own with still := false } }), 0, 3, by decide +kernel⟩,
   ⟨wst [(F.grsStatus_STATE 3, 2), (F.grsTrg_SRC 3, 1), (F.grsTrg_AXIS 3, 2), (F.posStat_STATE 2, 1)], 0, 3, by decide +kernel⟩,
   ⟨wst [(F.grsStatus_STATE 3, 2), (F.grsTrg_SRC 3, 2)], 0, 3, by decide +kernel⟩,
   ⟨wst [(F.grsStatus_STATE 3, 2), (F.grsTrg_SRC 3, 2)] (·.modGrs 3 fun g => { g with timerDue := 1 }), 0, 3, by decide +kernel⟩,
   ⟨wst [] (·.modGrs 3 fun g => { g with trgUntil := some 0 }), 0, 3, 0, by decide +kernel⟩,
   ⟨wst [] (·.modGrs 3 fun g => { g with trgUntil := some 1 }), 0, 3, by decide +kernel⟩⟩

theorem wit_UartFifosAndPortTables :
    (∃ (s : State) (dt : Nat) (agent : Nat) (p : Nat), let u := (s.pass dt).m; let g := u.grsPort p; p < 16 ∧ s.live dt ∧ u.follower = false
        ∧ g.txq.length < 256 ∧ s.heeds dt agent 0)
    ∧ (∃ (s : State) (dt : Nat) (agent : Nat) (p : Nat), let u := (s.pass dt).m; let g := u.grsPort p; p < 16 ∧ s.live dt ∧ u.follower = false
        ∧ 256 ≤ g.txq.length ∧ s.heeds dt agent 0)
    ∧ (∃ (s : State) (dt : Nat) (p : Nat), let u := (s.pass dt).m; p < 16 ∧ s.live dt ∧ u.follower = true)
    ∧ (∃ (s : State) (dt : Nat) (p : Nat), p < 16 ∧ s.live dt)
    ∧ (∃ (s : State) (dt : Nat) (p : Nat), let u := (s.pass dt).m; let g := u.grsPort p; p < 16 ∧ s.live dt ∧ g.rxq.length < 256)
    ∧ (∃ (s : State) (dt : Nat) (p : Nat), let u := (s.pass dt).m; let g := u.grsPort p; p < 16 ∧ s.live dt ∧ 256 ≤ g.rxq.length)
    ∧ (∃ (s : State) (dt : Nat) (agent : Nat) (p : Nat), p < 16 ∧ s.live dt ∧ s.heeds dt agent 0)
    ∧ (∃ (s : State) (dt : Nat) (agent : Nat) (p : Nat) (index : Nat) (e : _) (data : _), p < 16 ∧ s.heeds dt agent 0 ∧ s.live dt ∧ e < 4
        ∧ index < 4096 ∧ data < 65536)
    ∧ (∃ (s : State) (dt : Nat) (agent : Nat) (p : Nat) (index : Nat) (e : _), p < 16 ∧ s.heeds dt agent 0 ∧ s.live dt ∧ e < 4 ∧ index < 4096)
    ∧ (∃ (s : State) (dt : Nat) (agent : Nat) (p : Nat) (index : Nat) (gain : _) (offset : _), p < 16 ∧ s.heeds dt agent 0 ∧ s.live dt
        ∧ index < 32768 ∧ gain < 65536 ∧ offset < 65536)
    ∧ (∃ (s : State) (dt : Nat) (agent : Nat) (p : Nat) (index : Nat), p < 16 ∧ s.heeds dt agent 0 ∧ s.live dt ∧ index < 32768) :=
  ⟨⟨wst [], 0, 1, 3, by decide +kernel⟩,
   ⟨wst [] (·.modGrs 3 fun g => { g with txq := List.replicate 256 7 }), 0, 1, 3, by decide +kernel⟩,
   ⟨wst [(F.tngStat_STATE, 3)], 0, 3, by decide +kernel⟩,
   ⟨wst [] (·.modGrs 3 fun g => { g with txq := List.replicate 2 7 }), 0, 3, by decide +kernel⟩,
   ⟨wst [] (·.modGrs 3 fun g => { g with rxq := List.replicate 255 (7, false) }), 0, 3, by decide +kernel⟩,
   ⟨wst [] (·.modGrs 3 fun g => { g with rxq := List.replicate 256 (7, false) }), 0, 3, by decide +kernel⟩,
   ⟨wst [] (·.modGrs 3 fun g => { g with rxq := List.replicate 2 (7, false) }), 0, 1, 3, by decide +kernel⟩,
   ⟨wst [(F.grsStatus_STATE 3, 0)], 0, 1, 3, 4095, 3, 65535, by decide +kernel⟩,
   ⟨wst [], 0, 1, 3, 4095, 3, by decide +kernel⟩,
   ⟨wst [(F.grsStatus_STATE 3, 0)], 0, 1, 3, 32767, 0x1234, 0xFFFF, by decide +kernel⟩,
   ⟨wst [], 0, 1, 3, 32767, by decide +kernel⟩⟩

theorem wit_ToneKnotsAndCommits :
    (∃ (s : State) (dt : Nat) (agent : Nat) (c : Nat) (ch : Nat) (index : Nat) (knot : Nat), c < 64 ∧ ch < 4 ∧ index < 512 ∧ knot < 65536
        ∧ s.heeds dt agent 1 ∧ s.live dt)
    ∧ (∃ (s : State) (dt : Nat) (agent : Nat) (c : Nat) (ch : Nat) (index : Nat) (knot : Nat), c < 64 ∧ ch < 4 ∧ index < 512 ∧ knot < 65536
        ∧ s.heeds dt agent 1 ∧ s.live dt)
    ∧ (∃ (s : State) (dt : Nat) (agent : Nat) (c : Nat) (val : Word), let u := (s.pass dt).m;
        let port := match u.cxBinding c with | some (_, p) => p | none => 0; let seq := (u.get (cxf F.mshCxTook_SEQ c) + 1) % 2 ^ 16;
        let bad := shadowBad (u.shadow c seq) (u.nch c port) (u.get (F.grsFmt_WIDTH port));
        let idle := u.cxBinding c = none ∨ u.get (F.grsStatus_STATE port) = 0; let pend := u.on (cxf F.mshCxTook_PENDING c);
        let acts : Bool := val.getLsbD 0 && !pend && decide (c < 32); c < 64 ∧ s.live dt ∧ s.heeds dt agent 1 ∧ acts = true ∧ idle ∧ bad = none)
    ∧ (∃ (s : State) (dt : Nat) (agent : Nat) (c : Nat) (val : Word) (o : _), let u := (s.pass dt).m;
        let port := match u.cxBinding c with | some (_, p) => p | none => 0; let seq := (u.get (cxf F.mshCxTook_SEQ c) + 1) % 2 ^ 16;
        let bad := shadowBad (u.shadow c seq) (u.nch c port) (u.get (F.grsFmt_WIDTH port));
        let idle := u.cxBinding c = none ∨ u.get (F.grsStatus_STATE port) = 0; let pend := u.on (cxf F.mshCxTook_PENDING c);
        let acts : Bool := val.getLsbD 0 && !pend && decide (c < 32); c < 64 ∧ s.live dt ∧ s.heeds dt agent 1 ∧ acts = true ∧ idle ∧ bad = some o)
    ∧ (∃ (s : State) (dt : Nat) (agent : Nat) (c : Nat) (val : Word), let u := (s.pass dt).m;
        let port := match u.cxBinding c with | some (_, p) => p | none => 0; let idle := u.cxBinding c = none ∨ u.get (F.grsStatus_STATE port) = 0;
        let pend := u.on (cxf F.mshCxTook_PENDING c); let acts : Bool := val.getLsbD 0 && !pend && decide (c < 32); c < 64 ∧ s.live dt
        ∧ s.heeds dt agent 1 ∧ acts = true ∧ ¬idle)
    ∧ (∃ (s : State) (dt : Nat) (agent : Nat) (c : Nat) (val : Word), let u := (s.pass dt).m; let pend := u.on (cxf F.mshCxTook_PENDING c);
        let acts : Bool := val.getLsbD 0 && !pend && decide (c < 32); c < 64 ∧ s.live dt ∧ s.heeds dt agent 1 ∧ acts = false)
    ∧ (∃ (s : State) (dt : Nat) (c : Nat), let u := (s.pass dt).m; let pend := u.on (cxf F.mshCxTook_PENDING c); c < 64 ∧ s.live dt ∧ c < 32
        ∧ pend = true ∧ (u.cx c).edgeC = none)
    ∧ (∃ (s : State) (dt : Nat) (c : Nat), let u := (s.pass dt).m; let pend := u.on (cxf F.mshCxTook_PENDING c); c < 64 ∧ s.live dt
        ∧ (32 ≤ c ∨ pend = false ∨ (u.cx c).edgeC.isSome = true)) :=
  ⟨⟨wst [], 0, 1, 63, 3, 480, 65535, by decide +kernel⟩,
   ⟨wst [], 0, 1, 63, 3, 480, 65535, by decide +kernel⟩,
   ⟨wst [], 0, 1, 31, 0x8000000000000001, by decide +kernel⟩,
   ⟨wst [(cxf F.mshCxStatsCfg_CHSEL 31, 7)], 0, 1, 31, 0x8000000000000001, 0xC0, by decide +kernel⟩,
   ⟨wst [(F.mshSrc_SLOT0 15, 0x9F00 + 3), (F.grsStatus_STATE 3, 2)], 0, 1, 31, 0x8000000000000001, by decide +kernel⟩,
   ⟨wst [(cxf F.mshCxTook_PENDING 31, 1)], 0, 1, 31, 0x8000000000000001, by decide +kernel⟩,
   ⟨wst [(cxf F.mshCxTook_PENDING 31, 1)], 0, 31, by decide +kernel⟩,
   ⟨wst [], 0, 31, by decide +kernel⟩⟩

theorem wit_PipelinesProcessHandAndStop :
    (∃ (s : State) (dt : Nat) (pl : Nat) (l : _) (rest : _), let u := (s.pass dt).m; let st := u.get (F.mshCtl_STATE pl); pl < 16 ∧ s.live dt
        ∧ (u.pipe pl).buf = l :: rest ∧ l.ctx < 64 ∧ st ≠ 0)
    ∧ (∃ (s : State) (dt : Nat) (pl : Nat), let u := (s.pass dt).m; let st := u.get (F.mshCtl_STATE pl); pl < 16 ∧ s.live dt ∧ (u.pipe pl).buf = []
        ∧ st ≠ 0)
    ∧ (∃ (s : State) (dt : Nat) (pl : Nat), let u := (s.pass dt).m; let st := u.get (F.mshCtl_STATE pl); pl < 16 ∧ s.live dt ∧ st = 0)
    ∧ (∃ (s : State) (dt : Nat) (agent : Nat) (pl : Nat), pl < 16 ∧ s.live dt ∧ s.heeds dt agent 1)
    ∧ (∃ (s : State) (dt : Nat) (c : Nat) (a : _) (rest : _), let u := (s.pass dt).m; c < 64 ∧ s.live dt ∧ (u.cx c).queue = a :: rest ∧ a.host = true)
    ∧ (∃ (s : State) (dt : Nat) (c : Nat), let u := (s.pass dt).m; c < 64 ∧ s.live dt ∧ ((∀ a rest, (u.cx c).queue = a :: rest → a.host = false)))
    ∧ (∃ (s : State) (dt : Nat) (agent : Nat) (c : Nat) (h : _) (rest : _) (k : _), let u := (s.pass dt).m; c < 64 ∧ s.live dt ∧ s.heeds dt agent 1
        ∧ (u.cx c).handed = h :: rest ∧ u.assistStream c = some k)
    ∧ (∃ (s : State) (dt : Nat) (agent : Nat) (c : Nat), let u := (s.pass dt).m; c < 64 ∧ s.live dt ∧ s.heeds dt agent 1
        ∧ ((u.cx c).handed = [] ∨ u.assistStream c = none)) :=
  ⟨⟨wst [(F.mshCtl_STATE 15, 1)] (·.modPipe 15 fun p => { p with buf := [⟨3, .line, {}, {}, [[1, 2, 3]], 0, 0⟩] }), 0, 15, ⟨3, .line, {}, {}, [[1, 2, 3]], 0, 0⟩, [], by decide +kernel⟩,
   ⟨wst [(F.mshCtl_STATE 15, 2)], 0, 15, by decide +kernel⟩,
   ⟨wst [(F.mshCtl_STATE 15, 0)] (·.modPipe 15 fun p => { p with buf := [⟨3, .line, {}, {}, [[1, 2, 3]], 0, 0⟩] }), 0, 15, by decide +kernel⟩,
   ⟨wst [(F.mshCtl_STATE 15, 1)], 0, 1, 15, by decide +kernel⟩,
   ⟨wst [] (·.modCx 63 fun x => { x with queue := [assistOf true] }), 0, 63, assistOf true, [], by decide +kernel⟩,
   ⟨wst [] (·.modCx 63 fun x => { x with queue := [assistOf false] }), 0, 63, ⟨by decide +kernel, by decide +kernel, heads_of_test _ (by decide +kernel)⟩⟩,
   ⟨wst [(stf F.strmCfg_ASSIST 63 1, 1), (cxf F.mshCxCfg_OWNER 63, 0)] (·.modCx 63 fun x => { x with handed := [5] }), 0, 1, 63, 5, [], 1, by decide +kernel⟩,
   ⟨wst [], 0, 1, 63, by decide +kernel⟩⟩

theorem wit_StreamLinesAndRecordsReachMemory :
    (∃ (s : State) (dt : Nat) (pl : _) (o : _) (rest : _), let u := (s.pass dt).m;
        let acc : Acc := { agent := 0x50 + o.tag.port % 16, job := some (u.cxOwner o.ctx) }; let data := (u.reaches acc true o.addr o.data.length).1;
        let tag := (u.reaches acc true o.tagAddr 32).1; s.live dt ∧ pl < 16 ∧ (u.pipe pl).out = o :: rest ∧ o.ctx < 64 ∧ o.strm < 4 ∧ o.nslots ≠ 0
        ∧ data = true ∧ tag = true)
    ∧ (∃ (s : State) (dt : Nat) (pl : _) (o : _) (rest : _), let u := (s.pass dt).m;
        let acc : Acc := { agent := 0x50 + o.tag.port % 16, job := some (u.cxOwner o.ctx) }; let data := (u.reaches acc true o.addr o.data.length).1;
        let tag := (u.reaches acc true o.tagAddr 32).1; s.live dt ∧ pl < 16 ∧ (u.pipe pl).out = o :: rest ∧ o.ctx < 64 ∧ o.strm < 4 ∧ o.nslots ≠ 0
        ∧ (data && tag) = false)
    ∧ (∃ (s : State) (dt : Nat) (pl : _) (o : _) (rest : _), let u := (s.pass dt).m; s.live dt ∧ pl < 16 ∧ (u.pipe pl).out = o :: rest ∧ o.ctx < 64
        ∧ o.strm < 4 ∧ o.nslots = 0)
    ∧ (∃ (s : State) (dt : Nat) (pl : _), let u := (s.pass dt).m; s.live dt ∧ pl < 16 ∧ (u.pipe pl).out = [])
    ∧ (∃ (s : State) (dt : Nat) (c : _) (bytes : List Byte) (base : _) (nrec : _) (rest : _), let u := (s.pass dt).m;
        let count := cxf F.mshCxCnt_STATS_WIDX c; let a := base + u.get count % nrec * 0x8440;
        let reach := (u.reaches { agent := 0x50 + (match u.cxBinding c with | some (_, p) => p | none => 0), job := some (u.cxOwner c) } true a bytes.length).1; s.live dt ∧ c < 64 ∧ (u.cx c).statQ = (bytes, base, nrec) :: rest ∧ reach = true)
    ∧ (∃ (s : State) (dt : Nat) (c : _) (bytes : List Byte) (base : _) (nrec : _) (rest : _), let u := (s.pass dt).m;
        let count := cxf F.mshCxCnt_STATS_WIDX c; let a := base + u.get count % nrec * 0x8440;
        let reach := (u.reaches { agent := 0x50 + (match u.cxBinding c with | some (_, p) => p | none => 0), job := some (u.cxOwner c) } true a bytes.length).1; s.live dt ∧ c < 64 ∧ (u.cx c).statQ = (bytes, base, nrec) :: rest ∧ reach = false)
    ∧ (∃ (s : State) (dt : Nat) (c : _), let u := (s.pass dt).m; s.live dt ∧ c < 64 ∧ (u.cx c).statQ = []) :=
  ⟨⟨wst [(F.memFlipCtl_ARM, 0)] (fun m => (openWin m).modPipe 15 fun p => { p with out := [outOf] }), 0, 15, outOf, [], by decide +kernel⟩,
   ⟨wst [] (fun m => m.modPipe 15 fun p => { p with out := [{ outOf with addr := 0xF000000000 }] }), 0, 15, { outOf with addr := 0xF000000000 }, [], by decide +kernel⟩,
   ⟨wst [] (fun m => m.modPipe 15 fun p => { p with out := [{ outOf with nslots := 0 }] }), 0, 15, { outOf with nslots := 0 }, [], by decide +kernel⟩,
   ⟨wst [], 0, 15, by decide +kernel⟩,
   ⟨wst [(F.memFlipCtl_ARM, 0)] (fun m => (openWin m).modCx 63 fun x => { x with statQ := [([1, 2, 3], 0x800000000, 4)] }), 0, 63, [1, 2, 3], 0x800000000, 4, [], by decide +kernel⟩,
   ⟨wst [] (fun m => m.modCx 63 fun x => { x with statQ := [([1, 2, 3], 0x800000000, 4)] }), 0, 63, [1, 2, 3], 0x800000000, 4, [], by decide +kernel⟩,
   ⟨wst [], 0, 63, by decide +kernel⟩⟩

theorem wit_ToneCurveInterpolates :
    (∃ (v : Nat) (b : Nat) (s : Nat) (start : Nat), v < 2 ^ 20 ∧ (((v < 64 ∧ b = 1 ∧ s = v / 2 ∧ start = 2 * s) ∨ (∃ k, 6 ≤ k ∧ k ≤ 19 ∧ 2 ^ k ≤ v
        ∧ v < 2 ^ (k + 1) ∧ b = k - 5 ∧ s = 32 + 32 * (k - 6) + v / 2 ^ b % 32 ∧ start = v / 2 ^ b * 2 ^ b))))
    ∧ (∃ (x : CxSet) (y : CxSet) (ch : Nat) (v : Nat), v < 2 ^ 20 ∧ ((∀ n ≤ 480, x.knot ch n = y.knot ch n)))
    ∧ (∃ (ch : _), ch < 4)
    ∧ (∃ (ch : _) (n : _), ch < 4 ∧ n < 32)
    ∧ (∃ (ch : _) (k : _) (j : _), ch < 4 ∧ 6 ≤ k ∧ k ≤ 19 ∧ j < 32)
    ∧ (∃ (ch : _), ch < 4) :=
  ⟨⟨300000, 13, 420, 294912, ⟨by decide, Or.inr ⟨18, by decide⟩⟩⟩,
   ⟨{ tone := [(420, 50000), (421, 50400)] }, { tone := [(420, 50000), (421, 50400), (900, 3)] }, 0, 300000, by decide +kernel⟩,
   ⟨3, by decide +kernel⟩,
   ⟨3, 31, by decide +kernel⟩,
   ⟨3, 19, 31, by decide +kernel⟩,
   ⟨3, by decide +kernel⟩⟩

theorem wit_CommandWritesEnterTheirQueue :
    (∃ (s : State) (dt : Nat) (agent : Nat) (job : Nat) (addr : Nat) (e : Nat) (q : Nat) (bytes : List Byte), let u := (s.pass dt).m;
        let own := (u.engine e).queue q;
        let may : Bool := decide ((agent = 0x001 ∨ agent = 0x061 ∨ 0x100 ≤ agent) ∧ addr % 64 = 0 ∧ bytes.length = 64);
        let room : Bool := decide (queued own < 64) && !u.flightFull; isWriter agent = true ∧ job < 64 ∧ addr < 2 ^ 40 ∧ cmdPort addr = some (e, q)
        ∧ s.live dt ∧ may = true ∧ room = true)
    ∧ (∃ (s : State) (dt : Nat) (agent : Nat) (job : Nat) (addr : Nat) (e : Nat) (q : Nat) (bytes : List Byte), let u := (s.pass dt).m;
        let own := (u.engine e).queue q;
        let may : Bool := decide ((agent = 0x001 ∨ agent = 0x061 ∨ 0x100 ≤ agent) ∧ addr % 64 = 0 ∧ bytes.length = 64);
        let room : Bool := decide (queued own < 64) && !u.flightFull; isWriter agent = true ∧ job < 64 ∧ addr < 2 ^ 40 ∧ cmdPort addr = some (e, q)
        ∧ s.live dt ∧ may = true ∧ room = false)
    ∧ (∃ (s : State) (dt : Nat) (agent : Nat) (job : Nat) (addr : Nat) (e : Nat) (q : Nat) (bytes : List Byte), let may : Bool := decide ((agent = 0x001 ∨ agent = 0x061 ∨ 0x100 ≤ agent) ∧ addr % 64 = 0 ∧ bytes.length = 64); isWriter agent = true ∧ job < 64 ∧ addr < 2 ^ 40 ∧ cmdPort addr = some (e, q) ∧ s.live dt ∧ may = false)
    ∧ (∃ (addr : Nat), cmdPort addr = none) :=
  ⟨⟨wst [], 0, 1, 0, 0x1800702FC0, 22, 2, List.replicate 64 (0 : Byte), by decide +kernel⟩,
   ⟨wst [] (·.modEng 22 fun x => { x with q2 := List.replicate 64 (cmdOf 0 0 0 0 0 0) }), 0, 1, 0, 0x1800702FC0, 22, 2, List.replicate 64 (0 : Byte), by decide +kernel⟩,
   ⟨wst [], 0, 0x60, 0, 0x1800702FC0, 22, 2, List.replicate 64 (0 : Byte), by decide +kernel⟩,
   ⟨0x1800703000, by decide +kernel⟩⟩

theorem wit_EnginesRunTheirHead_1 :
    (∃ (u : Mach) (e : Nat) (q : _) (c : _), isEngine e = true ∧ u.pick e = some (q, c))
    ∧ (∃ (u : Mach) (e : Nat) (c : _), let x := u.engine e; let used (c : Nat) : Nat := spGet (fun _ => 0) x.busy c;
        let head (q : Nat) : Option Cmd := match x.queue q with | c :: _ => if u.ready c then some c else none | [] => none; isEngine e = true
        ∧ used 0 < u.slotC0 e * 250 ∧ head 0 = some c)
    ∧ (∃ (u : Mach) (e : Nat) (c : _), let x := u.engine e; let used (c : Nat) : Nat := spGet (fun _ => 0) x.busy c;
        let head (q : Nat) : Option Cmd := match x.queue q with | c :: _ => if u.ready c then some c else none | [] => none; isEngine e = true
        ∧ (u.slotC0 e * 250 ≤ used 0 ∨ head 0 = none) ∧ used 2 < u.get (F.schSlot_C2_MIN e) * 250 ∧ head 2 = some c)
    ∧ (∃ (u : Mach) (e : Nat) (c : _), let x := u.engine e; let used (c : Nat) : Nat := spGet (fun _ => 0) x.busy c;
        let head (q : Nat) : Option Cmd := match x.queue q with | c :: _ => if u.ready c then some c else none | [] => none; isEngine e = true
        ∧ (u.slotC0 e * 250 ≤ used 0 ∨ head 0 = none) ∧ (u.get (F.schSlot_C2_MIN e) * 250 ≤ used 2 ∨ head 2 = none) ∧ head 1 = some c)
    ∧ (∃ (u : Mach) (e : Nat) (q : _) (c : _), let x := u.engine e; isEngine e = true ∧ x.run = none ∧ u.pick e = some (q, c))
    ∧ (∃ (u : Mach) (e : Nat) (q : _) (c : _) (m : _) (q' : _) (c' : _), let x := u.engine e; isEngine e = true ∧ x.run = some (q, c)
        ∧ u.toStart e = some (m, q', c'))
    ∧ (∃ (u : Mach) (e : Nat) (q : _) (c : _) (m : _) (q' : _) (c' : _), let x := u.engine e; isEngine e = true ∧ x.run = some (q, c)
        ∧ u.toStart e = some (m, q', c'))
    ∧ (∃ (u : Mach) (e : Nat) (q : _) (c : _) (m : _) (q' : _) (c' : _), let x := u.engine e; isEngine e = true ∧ x.run = some (q, c)
        ∧ u.toStart e = some (m, q', c'))
    ∧ (∃ (u : Mach) (e : Nat) (q : _) (c : _) (m : _) (q' : _) (c' : _), let x := u.engine e; isEngine e = true ∧ x.run = some (q, c)
        ∧ u.toStart e = some (m, q', c') ∧ q < 3)
    ∧ (∃ (u : Mach) (e : Nat) (q : _) (c : _) (m : _) (q' : _) (c' : _), let x := u.engine e; isEngine e = true ∧ x.run = some (q, c)
        ∧ u.toStart e = some (m, q', c'))
    ∧ (∃ (s : State) (dt : Nat) (e : Nat) (p : _) (m : _) (q : _) (c : _) (beyond : _) (y : _), let u := (s.pass dt).m;
        let stall := u.traceStalls (engAgent e); isEngine e = true ∧ s.live dt
        ∧ p ∈ [((0x00 : Nat), fun dt e => Instr.sync dt e), (0x10, fun dt e => .conv dt e), (0x20, fun dt e => .gemm dt e), (0x30, fun dt e => .attn dt e), (0x40, fun dt e => .norm dt e), (0x41, fun dt e => .reduce dt e), (0x42, fun dt e => .pool dt e), (0x43, fun dt e => .eltwise dt e), (0x44, fun dt e => .copy dt e), (0x50, fun dt e => .zcomp dt e), (0x51, fun dt e => .zdecomp dt e), (0x52, fun dt e => .audit dt e), (0x60, fun dt e => .assemble dt e), (0x61, fun dt e => .head dt e)] ∧ stall = false ∧ u.toStart e = some (m, q, c) ∧ c.opcode = p.1 ∧ c.part = none ∧ (cmdRun e q c).run ((s.pass dt).fx.mach fun _ => m) = (.ok beyond, y))
    ∧ (∃ (s : State) (dt : Nat) (e : Nat) (p : _) (m : _) (q : _) (c : _) (part : _), let u := (s.pass dt).m; let stall := u.traceStalls (engAgent e);
        isEngine e = true ∧ s.live dt
        ∧ p ∈ [((0x00 : Nat), fun dt e => Instr.sync dt e), (0x10, fun dt e => .conv dt e), (0x20, fun dt e => .gemm dt e), (0x30, fun dt e => .attn dt e), (0x40, fun dt e => .norm dt e), (0x41, fun dt e => .reduce dt e), (0x42, fun dt e => .pool dt e), (0x43, fun dt e => .eltwise dt e), (0x44, fun dt e => .copy dt e), (0x50, fun dt e => .zcomp dt e), (0x51, fun dt e => .zdecomp dt e), (0x52, fun dt e => .audit dt e), (0x60, fun dt e => .assemble dt e), (0x61, fun dt e => .head dt e)] ∧ stall = false ∧ u.toStart e = some (m, q, c) ∧ c.opcode = p.1 ∧ c.part = some part) :=
  ⟨⟨(engWith 22 (cmdOf 0 0 0 0 0 0)).m, 22, 0, cmdOf 0 0 0 0 0 0, by decide +kernel⟩,
   ⟨(wst [(F.schSlot_C0 22, 1)] (·.modEng 22 fun x => { x with q0 := [cmdOf 0 0 0 0 0 0] })).m, 22, cmdOf 0 0 0 0 0 0, by decide +kernel⟩,
   ⟨(wst [(F.schSlot_C0 22, 0), (F.schSlot_C2_MIN 22, 3)] (·.modEng 22 fun x => { x with q2 := [cmdOf 0 0 0 0 0 0] })).m, 22, cmdOf 0 0 0 0 0 0, by decide +kernel⟩,
   ⟨(wst [(F.schSlot_C0 22, 0), (F.schSlot_C2_MIN 22, 0)] (·.modEng 22 fun x => { x with q1 := [cmdOf 0 0 0 0 0 0], q2 := [cmdOf 0 0 0 0 0 0] })).m, 22, cmdOf 0 0 0 0 0 0, by decide +kernel⟩,
   ⟨(engWith 22 (cmdOf 0 0 0 0 0 0)).m, 22, 0, cmdOf 0 0 0 0 0 0, by decide +kernel⟩,
   ⟨(yieldState).m, 22, 1, cmdOf 0 0 0 0 0 0, popM yieldState 22, 0, cmdOf 0 0 0 0 0 0, by decide +kernel⟩,
   ⟨(yieldState).m, 22, 1, cmdOf 0 0 0 0 0 0, popM yieldState 22, 0, cmdOf 0 0 0 0 0 0, by decide +kernel⟩,
   ⟨(yieldState).m, 22, 1, cmdOf 0 0 0 0 0 0, popM yieldState 22, 0, cmdOf 0 0 0 0 0 0, by decide +kernel⟩,
   ⟨(yieldState).m, 22, 1, cmdOf 0 0 0 0 0 0, popM yieldState 22, 0, cmdOf 0 0 0 0 0 0, by decide +kernel⟩,
   ⟨(yieldState).m, 22, 1, cmdOf 0 0 0 0 0 0, popM yieldState 22, 0, cmdOf 0 0 0 0 0 0, by decide +kernel⟩,
   ⟨engWith 22 (cmdOf 0 0 0 0 0 0), 0, 22, ((0x00 : Nat), fun dt e => Instr.sync dt e), popM (engWith 22 (cmdOf 0 0 0 0 0 0)) (22), popQ (engWith 22 (cmdOf 0 0 0 0 0 0)) (22), popC (engWith 22 (cmdOf 0 0 0 0 0 0)) (22), okOf (runOf (engWith 22 (cmdOf 0 0 0 0 0 0)) (22)), (runOf (engWith 22 (cmdOf 0 0 0 0 0 0)) (22)).2, ⟨by decide +kernel, by decide +kernel, .head _, by decide +kernel, pops _ _ (by decide +kernel), by decide +kernel, by decide +kernel, ranEq _ (by decide +kernel)⟩⟩,
   ⟨engWith 22 partCmd, 0, 22, ((0x00 : Nat), fun dt e => Instr.sync dt e), popM (engWith 22 partCmd) (22), popQ (engWith 22 partCmd) (22), popC (engWith 22 partCmd) (22), ⟨[(3, 5)], 6, 7⟩, ⟨by decide +kernel, by decide +kernel, .head _, by decide +kernel, pops _ _ (by decide +kernel), by decide +kernel, by decide +kernel⟩⟩⟩

theorem wit_EnginesRunTheirHead_2 :
    (∃ (s : State) (dt : Nat) (e : Nat) (p : _) (m : _) (q : _) (c : _) (f : _) (y : _), let u := (s.pass dt).m;
        let stall := u.traceStalls (engAgent e); isEngine e = true ∧ s.live dt
        ∧ p ∈ [((0x00 : Nat), fun dt e => Instr.sync dt e), (0x10, fun dt e => .conv dt e), (0x20, fun dt e => .gemm dt e), (0x30, fun dt e => .attn dt e), (0x40, fun dt e => .norm dt e), (0x41, fun dt e => .reduce dt e), (0x42, fun dt e => .pool dt e), (0x43, fun dt e => .eltwise dt e), (0x44, fun dt e => .copy dt e), (0x50, fun dt e => .zcomp dt e), (0x51, fun dt e => .zdecomp dt e), (0x52, fun dt e => .audit dt e), (0x60, fun dt e => .assemble dt e), (0x61, fun dt e => .head dt e)] ∧ stall = false ∧ u.toStart e = some (m, q, c) ∧ c.opcode = p.1 ∧ c.part = none ∧ (cmdRun e q c).run ((s.pass dt).fx.mach fun _ => m) = (.error f, y))
    ∧ (∃ (s : State) (dt : Nat) (e : Nat) (p : _), let u := (s.pass dt).m; let stall := u.traceStalls (engAgent e); isEngine e = true ∧ s.live dt
        ∧ p ∈ [((0x00 : Nat), fun dt e => Instr.sync dt e), (0x10, fun dt e => .conv dt e), (0x20, fun dt e => .gemm dt e), (0x30, fun dt e => .attn dt e), (0x40, fun dt e => .norm dt e), (0x41, fun dt e => .reduce dt e), (0x42, fun dt e => .pool dt e), (0x43, fun dt e => .eltwise dt e), (0x44, fun dt e => .copy dt e), (0x50, fun dt e => .zcomp dt e), (0x51, fun dt e => .zdecomp dt e), (0x52, fun dt e => .audit dt e), (0x60, fun dt e => .assemble dt e), (0x61, fun dt e => .head dt e)] ∧ (stall = true ∨ (∀ m q c, u.toStart e = some (m, q, c) → c.opcode ≠ p.1)))
    ∧ (∃ (s : State) (dt : Nat) (e : Nat) (m : _) (q : _) (c : _), let u := (s.pass dt).m; let stall := u.traceStalls (engAgent e); isEngine e = true
        ∧ s.live dt ∧ stall = false ∧ u.toStart e = some (m, q, c) ∧ c.part = none ∧ c.opcode = 0 ∧ u.jobClass c.job = q ∧ c.clean = true
        ∧ ((c.waitEn = true → u.synOwns c.job c.waitObj = true)) ∧ ((c.sigEn = true → u.synOwns c.job c.sigObj = true))) :=
  ⟨⟨engWith 4 (cmdOf 0x20 0 99 0 0 0), 0, 4, (0x20, fun dt e => Instr.gemm dt e), popM (engWith 4 (cmdOf 0x20 0 99 0 0 0)) (4), popQ (engWith 4 (cmdOf 0x20 0 99 0 0 0)) (4), popC (engWith 4 (cmdOf 0x20 0 99 0 0 0)) (4), errOf (runOf (engWith 4 (cmdOf 0x20 0 99 0 0 0)) (4)), (runOf (engWith 4 (cmdOf 0x20 0 99 0 0 0)) (4)).2, ⟨by decide +kernel, by decide +kernel, .tail _ (.tail _ (.head _)), by decide +kernel, pops _ _ (by decide +kernel), by decide +kernel, by decide +kernel, failedEq _ _ (by decide +kernel)⟩⟩,
   ⟨wst [], 0, 22, ((0x00 : Nat), fun dt e => Instr.sync dt e), ⟨by decide +kernel, by decide +kernel, .head _, Or.inr (none_starts _ (by decide +kernel))⟩⟩,
   ⟨engWith 22 (cmdOf 0 0 0 0 0 0), 0, 22, popM (engWith 22 (cmdOf 0 0 0 0 0 0)) (22), popQ (engWith 22 (cmdOf 0 0 0 0 0 0)) (22), popC (engWith 22 (cmdOf 0 0 0 0 0 0)) (22), ⟨by decide +kernel, by decide +kernel, by decide +kernel, pops _ _ (by decide +kernel), by decide +kernel, by decide +kernel, by decide +kernel, by decide +kernel, by decide +kernel, by decide +kernel⟩⟩⟩

theorem wit_EnginesCompleteFaultAndYield_1 :
    (∃ (s : State) (dt : Nat) (e : Nat) (q : _) (c : _), let u := (s.pass dt).m; isEngine e = true ∧ s.live dt ∧ (u.engine e).run = some (q, c)
        ∧ u.stepsDone ∧ u.violated = [])
    ∧ (∃ (s : State) (dt : Nat) (e : Nat), let u := (s.pass dt).m; isEngine e = true ∧ s.live dt ∧ (u.engine e).run = none ∧ u.stepsDone
        ∧ u.violated = [])
    ∧ (∃ (s : State) (dt : Nat) (e : Nat) (m : _) (q : _) (c : _) (f : _) (y : _), let u := (s.pass dt).m; isEngine e = true ∧ s.live dt
        ∧ u.toStart e = some (m, q, c) ∧ c.part = none ∧ (cmdRun e q c).run ((s.pass dt).fx.mach fun _ => m) = (.error f, y) ∧ f ≠ .stall)
    ∧ (∃ (s : State) (dt : Nat) (e : Nat), let u := (s.pass dt).m; isEngine e = true ∧ s.live dt ∧ u.toStart e = none)
    ∧ (∃ (s : State) (dt : Nat) (e : Nat) (m : _) (q : _) (c : _), let u := (s.pass dt).m; isEngine e = true ∧ s.live dt
        ∧ u.toStart e = some (m, q, c) ∧ c.part.isSome = true)
    ∧ (∃ (s : State) (dt : Nat) (e : Nat) (m : _) (q : _) (c : _) (beyond : _) (y : _), let u := (s.pass dt).m; isEngine e = true ∧ s.live dt
        ∧ u.toStart e = some (m, q, c) ∧ (cmdRun e q c).run ((s.pass dt).fx.mach fun _ => m) = (.ok beyond, y))
    ∧ (∃ (s : State) (dt : Nat) (e : Nat) (m : _) (q : _) (c : _) (y : _), let u := (s.pass dt).m; isEngine e = true ∧ s.live dt
        ∧ u.toStart e = some (m, q, c) ∧ (cmdRun e q c).run ((s.pass dt).fx.mach fun _ => m) = (.error .stall, y))
    ∧ (∃ (s : State) (dt : Nat) (e : Nat) (q : _) (c : _), let u := (s.pass dt).m;
        let yields : Bool := decide (q ≠ 0) && (u.on (F.schJobStat_PREEMPTED c.job) || u.on (F.schJobStat_PAUSED c.job)); isEngine e = true
        ∧ s.live dt ∧ (u.engine e).run = some (q, c) ∧ yields = true)
    ∧ (∃ (s : State) (dt : Nat) (e : Nat) (q : _) (c : _), let u := (s.pass dt).m;
        let yields : Bool := decide (q ≠ 0) && (u.on (F.schJobStat_PREEMPTED c.job) || u.on (F.schJobStat_PAUSED c.job)); isEngine e = true
        ∧ s.live dt ∧ (u.engine e).run = some (q, c) ∧ yields = false)
    ∧ (∃ (s : State) (dt : Nat) (e : Nat), let u := (s.pass dt).m; isEngine e = true ∧ s.live dt ∧ (u.engine e).run = none)
    ∧ (∃ (s : State) (dt : Nat) (e : Nat) (ent : _) (off : Nat), let u := (s.pass dt).m; let buf := spGet (fun _ => []) u.tbuf e; isEngine e = true
        ∧ s.live dt ∧ ent < 1024 ∧ off < 2 ^ 26 ∧ buf.contains (ent, off / 0x4000) = true)
    ∧ (∃ (s : State) (dt : Nat) (e : Nat) (ent : _) (off : Nat) (wr : _) (q : _) (c : _) (r : _) (y : _) (a : _), let u := (s.pass dt).m;
        let buf := spGet (fun _ => []) u.tbuf e; let acc : Acc := { agent := engAgent e, job := some c.job }; isEngine e = true ∧ s.live dt
        ∧ ent < 1024 ∧ off < 2 ^ 26 ∧ buf.contains (ent, off / 0x4000) = false ∧ (u.engine e).run = some (q, c)
        ∧ (s.pass dt).fx.translate acc ent off wr = (r, y) ∧ r = .at a) :=
  ⟨⟨wst [(F.schJobStat_STATE 0, 2)] (engRun 22 2 { cmdOf 0 0 0 0 0 0 with words := [0, 2 ^ 48 + 5 * 2 ^ 34] }), 0, 22, 2, { cmdOf 0 0 0 0 0 0 with words := [0, 2 ^ 48 + 5 * 2 ^ 34] }, by decide +kernel⟩,
   ⟨wst [], 0, 22, by decide +kernel⟩,
   ⟨engWith 4 (cmdOf 0x20 0 99 0 0 0), 0, 4, popM (engWith 4 (cmdOf 0x20 0 99 0 0 0)) (4), popQ (engWith 4 (cmdOf 0x20 0 99 0 0 0)) (4), popC (engWith 4 (cmdOf 0x20 0 99 0 0 0)) (4), errOf (runOf (engWith 4 (cmdOf 0x20 0 99 0 0 0)) (4)), (runOf (engWith 4 (cmdOf 0x20 0 99 0 0 0)) (4)).2, ⟨by decide +kernel, by decide +kernel, pops _ _ (by decide +kernel), by decide +kernel, failedEq _ _ (by decide +kernel), by decide +kernel⟩⟩,
   ⟨wst [], 0, 22, by decide +kernel⟩,
   ⟨engWith 22 partCmd, 0, 22, popM (engWith 22 partCmd) (22), 0, partCmd, by decide +kernel⟩,
   ⟨engWith 22 (cmdOf 0 0 0 0 0 0), 0, 22, popM (engWith 22 (cmdOf 0 0 0 0 0 0)) (22), popQ (engWith 22 (cmdOf 0 0 0 0 0 0)) (22), popC (engWith 22 (cmdOf 0 0 0 0 0 0)) (22), okOf (runOf (engWith 22 (cmdOf 0 0 0 0 0 0)) (22)), (runOf (engWith 22 (cmdOf 0 0 0 0 0 0)) (22)).2, ⟨by decide +kernel, by decide +kernel, pops _ _ (by decide +kernel), ranEq _ (by decide +kernel)⟩⟩,
   ⟨{ engWith 4 (cmdOf 0x20 0 1 0xFFFF 2 0) with m := { (engWith 4 (cmdOf 0x20 0 1 0xFFFF 2 0)).m with dramKeys := false } }, 0, 4, popM ({ engWith 4 (cmdOf 0x20 0 1 0xFFFF 2 0) with m := { (engWith 4 (cmdOf 0x20 0 1 0xFFFF 2 0)).m with dramKeys := false } }) (4), popQ ({ engWith 4 (cmdOf 0x20 0 1 0xFFFF 2 0) with m := { (engWith 4 (cmdOf 0x20 0 1 0xFFFF 2 0)).m with dramKeys := false } }) (4), popC ({ engWith 4 (cmdOf 0x20 0 1 0xFFFF 2 0) with m := { (engWith 4 (cmdOf 0x20 0 1 0xFFFF 2 0)).m with dramKeys := false } }) (4), (runOf ({ engWith 4 (cmdOf 0x20 0 1 0xFFFF 2 0) with m := { (engWith 4 (cmdOf 0x20 0 1 0xFFFF 2 0)).m with dramKeys := false } }) (4)).2, ⟨by decide +kernel, by decide +kernel, pops _ _ (by decide +kernel), failedEq _ _ (by decide +kernel)⟩⟩,
   ⟨wst [(F.schJobStat_PREEMPTED 0, 1)] (fun m => engRun 22 2 (cmdOf 0 0 0 0 0 0) (openWin m)), 0, 22, 2, cmdOf 0 0 0 0 0 0, by decide +kernel⟩,
   ⟨wst [] (engRun 22 2 (cmdOf 0 0 0 0 0 0)), 0, 22, 2, cmdOf 0 0 0 0 0 0, by decide +kernel⟩,
   ⟨wst [], 0, 22, by decide +kernel⟩,
   ⟨{ missState with m := { missState.m with tbuf := [(22, [(1023, 0)])] } }, 0, 22, 1023, 7, by decide +kernel⟩,
   ⟨missState, 0, 22, 1023, 7, true, 2, cmdOf 0 0 0 0 0 0, (((missState).pass 0).fx.translate { agent := engAgent 22, job := some 0 } 1023 7 (true)).1, (((missState).pass 0).fx.translate { agent := engAgent 22, job := some 0 } 1023 7 (true)).2, atOf ((((missState).pass 0).fx.translate { agent := engAgent 22, job := some 0 } 1023 7 (true)).1), ⟨by decide +kernel, by decide +kernel, by decide +kernel, by decide +kernel, by decide +kernel, by decide +kernel, pairEq _, atEq _ (by decide +kernel)⟩⟩⟩

theorem wit_EnginesCompleteFaultAndYield_2 :
    (∃ (s : State) (dt : Nat) (e : Nat) (ent : _) (off : Nat) (wr : _) (q : _) (c : _) (r : _) (y : _), let u := (s.pass dt).m;
        let buf := spGet (fun _ => []) u.tbuf e; let acc : Acc := { agent := engAgent e, job := some c.job }; isEngine e = true ∧ s.live dt
        ∧ ent < 1024 ∧ off < 2 ^ 26 ∧ buf.contains (ent, off / 0x4000) = false ∧ (u.engine e).run = some (q, c)
        ∧ (s.pass dt).fx.translate acc ent off wr = (r, y) ∧ r = .moving)
    ∧ (∃ (s : State) (dt : Nat) (e : Nat) (ent : _) (off : Nat) (wr : _) (q : _) (c : _) (r : _) (y : _), let u := (s.pass dt).m;
        let buf := spGet (fun _ => []) u.tbuf e; let acc : Acc := { agent := engAgent e, job := some c.job }; isEngine e = true ∧ s.live dt
        ∧ ent < 1024 ∧ off < 2 ^ 26 ∧ buf.contains (ent, off / 0x4000) = false ∧ (u.engine e).run = some (q, c)
        ∧ (s.pass dt).fx.translate acc ent off wr = (r, y) ∧ r = .fault) :=
  ⟨⟨{ missState with mem := cellsAt 0x800000 (leBytes 8 0x801001) ++ cellsAt 0x801000 (leBytes 8 (0x900000 + 8 + 3)) }, 0, 22, 1023, 7, true, 2, cmdOf 0 0 0 0 0 0, ((({ missState with mem := cellsAt 0x800000 (leBytes 8 0x801001) ++ cellsAt 0x801000 (leBytes 8 (0x900000 + 8 + 3)) }).pass 0).fx.translate { agent := engAgent 22, job := some 0 } 1023 7 (true)).1, ((({ missState with mem := cellsAt 0x800000 (leBytes 8 0x801001) ++ cellsAt 0x801000 (leBytes 8 (0x900000 + 8 + 3)) }).pass 0).fx.translate { agent := engAgent 22, job := some 0 } 1023 7 (true)).2, ⟨by decide +kernel, by decide +kernel, by decide +kernel, by decide +kernel, by decide +kernel, by decide +kernel, pairEq _, by decide +kernel⟩⟩,
   ⟨{ missState with mem := [] }, 0, 22, 1023, 7, true, 2, cmdOf 0 0 0 0 0 0, ((({ missState with mem := [] }).pass 0).fx.translate { agent := engAgent 22, job := some 0 } 1023 7 (true)).1, ((({ missState with mem := [] }).pass 0).fx.translate { agent := engAgent 22, job := some 0 } 1023 7 (true)).2, ⟨by decide +kernel, by decide +kernel, by decide +kernel, by decide +kernel, by decide +kernel, by decide +kernel, pairEq _, by decide +kernel⟩⟩⟩

theorem wit_AluInstructionsWriteTheirResult :
    (∃ (s : State) (dt : Nat) (k : Nat) (d : Nat) (a : Nat) (b : Nat) (p : _), let u := (s.pass dt).m; let all : Word := BitVec.allOnes 64;
        isCore k = true ∧ regs3 d a b = true ∧ s.live dt
        ∧ p ∈ [((0x0 : Nat), false, fun (x y : Word) => x + y, fun dt k d a b => Instr.add dt k d a b), (0x1, false, fun x y => x - y, fun dt k d a b => .sub dt k d a b), (0x2, false, fun x y => x &&& y, fun dt k d a b => .and dt k d a b), (0x3, false, fun x y => x ||| y, fun dt k d a b => .or dt k d a b), (0x4, false, fun x y => x ^^^ y, fun dt k d a b => .xor dt k d a b), (0x5, true, fun x y => x <<< y.toNat, fun dt k d a b => .sll dt k d a b), (0x6, true, fun x y => x >>> y.toNat, fun dt k d a b => .srl dt k d a b), (0x7, true, fun x y => x.sshiftRight y.toNat, fun dt k d a b => .sra dt k d a b), (0x8, false, fun x y => x * y, fun dt k d a b => .mul dt k d a b), (0x9, false, fun x y => BitVec.ofInt 64 ((x.toInt * y.toInt).fdiv (2 ^ 64)), fun dt k d a b => .mulh dt k d a b), (0xA, false, fun x y => if y = 0 then all else x.sdiv y, fun dt k d a b => .div dt k d a b), (0xB, false, fun x y => if y = 0 then x else x.srem y, fun dt k d a b => .rem dt k d a b), (0xC, false, fun x y => if x.toInt < y.toInt then 1 else 0, fun dt k d a b => .slt dt k d a b), (0xD, false, fun x y => if x.toNat < y.toNat then 1 else 0, fun dt k d a b => .sltu dt k d a b)] ∧ u.atWord k (wordR 0x01 d a b p.1) = true)
    ∧ (∃ (s : State) (dt : Nat) (k : Nat) (d : Nat) (a : Nat) (b : Nat) (p : _), let u := (s.pass dt).m; let all : Word := BitVec.allOnes 64;
        isCore k = true ∧ regs3 d a b = true ∧ s.live dt
        ∧ p ∈ [((0x0 : Nat), false, fun (x y : Word) => x + y, fun dt k d a b => Instr.add dt k d a b), (0x1, false, fun x y => x - y, fun dt k d a b => .sub dt k d a b), (0x2, false, fun x y => x &&& y, fun dt k d a b => .and dt k d a b), (0x3, false, fun x y => x ||| y, fun dt k d a b => .or dt k d a b), (0x4, false, fun x y => x ^^^ y, fun dt k d a b => .xor dt k d a b), (0x5, true, fun x y => x <<< y.toNat, fun dt k d a b => .sll dt k d a b), (0x6, true, fun x y => x >>> y.toNat, fun dt k d a b => .srl dt k d a b), (0x7, true, fun x y => x.sshiftRight y.toNat, fun dt k d a b => .sra dt k d a b), (0x8, false, fun x y => x * y, fun dt k d a b => .mul dt k d a b), (0x9, false, fun x y => BitVec.ofInt 64 ((x.toInt * y.toInt).fdiv (2 ^ 64)), fun dt k d a b => .mulh dt k d a b), (0xA, false, fun x y => if y = 0 then all else x.sdiv y, fun dt k d a b => .div dt k d a b), (0xB, false, fun x y => if y = 0 then x else x.srem y, fun dt k d a b => .rem dt k d a b), (0xC, false, fun x y => if x.toInt < y.toInt then 1 else 0, fun dt k d a b => .slt dt k d a b), (0xD, false, fun x y => if x.toNat < y.toNat then 1 else 0, fun dt k d a b => .sltu dt k d a b)] ∧ u.atWord k (wordR 0x01 d a b p.1) = false) :=
  ⟨⟨wst [] (cw (wordR 0x01 31 1 2 0) 7 63), 0, 6143, 31, 1, 2, ((0x0 : Nat), false, fun (x y : Word) => x + y, fun dt k d a b => Instr.add dt k d a b), ⟨by decide +kernel, by decide +kernel, by decide +kernel, .head _, by decide +kernel⟩⟩,
   ⟨wst [] (cw (wordR 0x01 31 1 2 1) 3 4), 0, 6143, 31, 1, 2, ((0x0 : Nat), false, fun (x y : Word) => x + y, fun dt k d a b => Instr.add dt k d a b), ⟨by decide +kernel, by decide +kernel, by decide +kernel, .head _, by decide +kernel⟩⟩⟩

theorem wit_ImmediatesAndBranches :
    (∃ (s : State) (dt : Nat) (k : Nat) (d : Nat) (a : Nat) (imm : Nat), let u := (s.pass dt).m; isCore k = true ∧ regs3 d a 0 = true ∧ s.live dt
        ∧ imm < 65536 ∧ u.atWord k (wordI 0x02 d a imm) = true)
    ∧ (∃ (s : State) (dt : Nat) (k : Nat) (d : Nat) (a : Nat) (imm : Nat), let u := (s.pass dt).m; isCore k = true ∧ regs3 d a 0 = true ∧ s.live dt
        ∧ imm < 65536 ∧ u.atWord k (wordI 0x03 d a imm) = true)
    ∧ (∃ (s : State) (dt : Nat) (k : Nat) (d : Nat) (a : Nat) (imm : Nat) (p : _), let u := (s.pass dt).m; isCore k = true ∧ regs3 d a 0 = true
        ∧ s.live dt ∧ imm < 65536
        ∧ p ∈ [((0x10 : Nat), fun (x y : Word) => decide (x = y), fun dt k d a imm => Instr.beq dt k d a imm), (0x11, fun x y => decide (x ≠ y), fun dt k d a imm => .bne dt k d a imm), (0x12, fun x y => decide (x.toInt < y.toInt), fun dt k d a imm => .blt dt k d a imm), (0x13, fun x y => decide (y.toInt ≤ x.toInt), fun dt k d a imm => .bge dt k d a imm)] ∧ u.atWord k (wordI p.1 d a imm) = true)
    ∧ (∃ (s : State) (dt : Nat) (k : Nat) (d : Nat) (a : Nat) (imm : Nat) (p : _), let u := (s.pass dt).m; isCore k = true ∧ regs3 d a 0 = true
        ∧ s.live dt ∧ imm < 65536
        ∧ p ∈ [((0x10 : Nat), fun (x y : Word) => decide (x = y), fun dt k d a imm => Instr.beq dt k d a imm), (0x11, fun x y => decide (x ≠ y), fun dt k d a imm => .bne dt k d a imm), (0x12, fun x y => decide (x.toInt < y.toInt), fun dt k d a imm => .blt dt k d a imm), (0x13, fun x y => decide (y.toInt ≤ x.toInt), fun dt k d a imm => .bge dt k d a imm)] ∧ u.atWord k (wordI p.1 d a imm) = false)
    ∧ (∃ (s : State) (dt : Nat) (k : Nat) (d : Nat) (a : Nat) (imm : Nat), let u := (s.pass dt).m; isCore k = true ∧ regs3 d a 0 = true ∧ s.live dt
        ∧ imm < 2 ^ 21 ∧ u.atWord k (wordJ 0x14 d imm) = true)
    ∧ (∃ (s : State) (dt : Nat) (k : Nat) (d : Nat) (a : Nat) (imm : Nat), let u := (s.pass dt).m; isCore k = true ∧ regs3 d a 0 = true ∧ s.live dt
        ∧ imm < 65536 ∧ u.atWord k (wordI 0x15 d a imm) = true)
    ∧ (∃ (s : State) (dt : Nat) (k : Nat) (d : Nat) (a : Nat) (imm : Nat), let u := (s.pass dt).m; isCore k = true ∧ regs3 d a 0 = true ∧ s.live dt
        ∧ u.atWord k (wordI 0x02 d a imm) = false)
    ∧ (∃ (s : State) (dt : Nat) (k : Nat) (d : Nat) (a : Nat) (imm : Nat), let u := (s.pass dt).m; isCore k = true ∧ regs3 d a 0 = true ∧ s.live dt
        ∧ u.atWord k (wordI 0x03 d a imm) = false)
    ∧ (∃ (s : State) (dt : Nat) (k : Nat) (d : Nat) (a : Nat) (imm : Nat), let u := (s.pass dt).m; isCore k = true ∧ regs3 d a 0 = true ∧ s.live dt
        ∧ u.atWord k (wordJ 0x14 d imm) = false)
    ∧ (∃ (s : State) (dt : Nat) (k : Nat) (d : Nat) (a : Nat) (imm : Nat), let u := (s.pass dt).m; isCore k = true ∧ regs3 d a 0 = true ∧ s.live dt
        ∧ u.atWord k (wordI 0x15 d a imm) = false) :=
  ⟨⟨wst [] (cw (wordI 0x02 31 1 0xFFFF) 7 63), 0, 6143, 31, 1, 0xFFFF, by decide +kernel⟩,
   ⟨wst [] (cw (wordI 0x03 31 1 0xFFFF) 7 63), 0, 6143, 31, 1, 0xFFFF, by decide +kernel⟩,
   ⟨wst [] (cw (wordI 16 31 1 0xFFFF) 3 63), 0, 6143, 31, 1, 0xFFFF, ((0x10 : Nat), fun (x y : Word) => decide (x = y), fun dt k d a imm => Instr.beq dt k d a imm), ⟨by decide +kernel, by decide +kernel, by decide +kernel, by decide +kernel, .head _, by decide +kernel⟩⟩,
   ⟨wst [] (cw 0 1 2), 0, 6143, 31, 1, 0xFFFF, ((0x10 : Nat), fun (x y : Word) => decide (x = y), fun dt k d a imm => Instr.beq dt k d a imm), ⟨by decide +kernel, by decide +kernel, by decide +kernel, by decide +kernel, .head _, by decide +kernel⟩⟩,
   ⟨wst [] (cw (wordJ 0x14 31 0x1FFFFF) 1 2), 0, 6143, 31, 1, 0x1FFFFF, by decide +kernel⟩,
   ⟨wst [] (cw (wordI 0x15 31 1 0xFFFF) 64 2), 0, 6143, 31, 1, 0xFFFF, by decide +kernel⟩,
   ⟨wst [] (cw 0 1 2), 0, 6143, 31, 1, 0xFFFF, by decide +kernel⟩,
   ⟨wst [] (cw 0 1 2), 0, 6143, 31, 1, 0xFFFF, by decide +kernel⟩,
   ⟨wst [] (cw 0 1 2), 0, 6143, 31, 1, 0xFFFF, by decide +kernel⟩,
   ⟨wst [] (cw 0 1 2), 0, 6143, 31, 1, 0xFFFF, by decide +kernel⟩⟩

theorem wit_LoadsAndStoresMoveTheirBytes_1 :
    (∃ (s : State) (dt : Nat) (k : Nat) (d : Nat) (a : Nat) (imm : Nat) (p : _), let u := (s.pass dt).m; let c := u.core k; let at' := ea c a imm;
        isCore k = true ∧ regs3 d a 0 = true ∧ imm < 65536 ∧ s.live dt ∧ (s.pass dt).flips = []
        ∧ p ∈ [((0x08 : Nat), (8 : Nat), fun dt k d a imm => Instr.ld64 dt k d a imm), (0x09, 4, fun dt k d a imm => .ld32 dt k d a imm), (0x0A, 2, fun dt k d a imm => .ld16 dt k d a imm), (0x0B, 1, fun dt k d a imm => .ld8 dt k d a imm)] ∧ u.atWord k (wordI p.1 d a imm) = true ∧ u.coreReaches k false at' p.2.1)
    ∧ (∃ (s : State) (dt : Nat) (k : Nat) (d : Nat) (a : Nat) (imm : Nat) (p : _), let u := (s.pass dt).m; let c := u.core k; let at' := ea c a imm;
        isCore k = true ∧ regs3 d a 0 = true ∧ imm < 65536 ∧ s.live dt ∧ (s.pass dt).flips = []
        ∧ p ∈ [((0x08 : Nat), (8 : Nat), fun dt k d a imm => Instr.ld64 dt k d a imm), (0x09, 4, fun dt k d a imm => .ld32 dt k d a imm), (0x0A, 2, fun dt k d a imm => .ld16 dt k d a imm), (0x0B, 1, fun dt k d a imm => .ld8 dt k d a imm)] ∧ (u.atWord k (wordI p.1 d a imm) = false ∨ u.coreBarred k false at' p.2.1))
    ∧ (∃ (s : State) (dt : Nat) (k : Nat) (d : Nat) (a : Nat) (imm : Nat) (p : _), let u := (s.pass dt).m; let c := u.core k; let at' := ea c a imm;
        isCore k = true ∧ regs3 d a 0 = true ∧ imm < 65536 ∧ s.live dt ∧ (s.pass dt).flips = []
        ∧ p ∈ [((0x0C : Nat), (8 : Nat), fun dt k d a imm => Instr.st64 dt k d a imm), (0x0D, 4, fun dt k d a imm => .st32 dt k d a imm), (0x0E, 2, fun dt k d a imm => .st16 dt k d a imm), (0x0F, 1, fun dt k d a imm => .st8 dt k d a imm), (0x19, 32, fun dt k d a imm => .vst dt k d a imm), (0x1B, 64, fun dt k d a imm => .vst64 dt k d a imm)] ∧ ((p.2.1 = 64 → d < 31)) ∧ u.atWord k (wordI p.1 d a imm) = true ∧ u.coreReaches k true at' p.2.1)
    ∧ (∃ (s : State) (dt : Nat) (k : Nat) (d : Nat) (a : Nat) (imm : Nat) (p : _) (j : _), let u := (s.pass dt).m; let c := u.core k;
        let at' := ea c a imm;
        let w := if p.2.1 ≤ 8 then (c.sreg d).toNat else (c.vreg d).toNat + if p.2.1 = 64 then 2 ^ 256 * (c.vreg (d + 1)).toNat else 0;
        let r := u.corePort k j at' (leBytes p.2.1 w); isCore k = true ∧ regs3 d a 0 = true ∧ imm < 65536 ∧ s.live dt ∧ (s.pass dt).flips = []
        ∧ p ∈ [((0x0C : Nat), (8 : Nat), fun dt k d a imm => Instr.st64 dt k d a imm), (0x0D, 4, fun dt k d a imm => .st32 dt k d a imm), (0x0E, 2, fun dt k d a imm => .st16 dt k d a imm), (0x0F, 1, fun dt k d a imm => .st8 dt k d a imm), (0x19, 32, fun dt k d a imm => .vst dt k d a imm), (0x1B, 64, fun dt k d a imm => .vst64 dt k d a imm)] ∧ ((p.2.1 = 64 → d < 31)) ∧ u.atWord k (wordI p.1 d a imm) = true ∧ at' % p.2.1 = 0 ∧ u.coreJob k = some j ∧ storePort at' = true ∧ r.1 = true)
    ∧ (∃ (s : State) (dt : Nat) (k : Nat) (d : Nat) (a : Nat) (imm : Nat) (p : _), let u := (s.pass dt).m; let c := u.core k; let at' := ea c a imm;
        isCore k = true ∧ regs3 d a 0 = true ∧ imm < 65536 ∧ s.live dt ∧ (s.pass dt).flips = []
        ∧ p ∈ [((0x0C : Nat), (8 : Nat), fun dt k d a imm => Instr.st64 dt k d a imm), (0x0D, 4, fun dt k d a imm => .st32 dt k d a imm), (0x0E, 2, fun dt k d a imm => .st16 dt k d a imm), (0x0F, 1, fun dt k d a imm => .st8 dt k d a imm), (0x19, 32, fun dt k d a imm => .vst dt k d a imm), (0x1B, 64, fun dt k d a imm => .vst64 dt k d a imm)] ∧ ((p.2.1 = 64 → d < 31)) ∧ (u.atWord k (wordI p.1 d a imm) = false ∨ u.coreBarred k true at' p.2.1))
    ∧ (∃ (s : State) (dt : Nat) (k : Nat) (d : Nat) (a : Nat) (imm : Nat) (p : _) (j : _), let u := (s.pass dt).m; let c := u.core k;
        let at' := ea c a imm;
        let w := if p.2.1 ≤ 8 then (c.sreg d).toNat else (c.vreg d).toNat + if p.2.1 = 64 then 2 ^ 256 * (c.vreg (d + 1)).toNat else 0;
        let r := u.corePort k j at' (leBytes p.2.1 w); isCore k = true ∧ regs3 d a 0 = true ∧ imm < 65536 ∧ s.live dt ∧ (s.pass dt).flips = []
        ∧ p ∈ [((0x0C : Nat), (8 : Nat), fun dt k d a imm => Instr.st64 dt k d a imm), (0x0D, 4, fun dt k d a imm => .st32 dt k d a imm), (0x0E, 2, fun dt k d a imm => .st16 dt k d a imm), (0x0F, 1, fun dt k d a imm => .st8 dt k d a imm), (0x19, 32, fun dt k d a imm => .vst dt k d a imm), (0x1B, 64, fun dt k d a imm => .vst64 dt k d a imm)] ∧ ((p.2.1 = 64 → d < 31)) ∧ u.atWord k (wordI p.1 d a imm) = true ∧ at' % p.2.1 = 0 ∧ u.coreJob k = some j ∧ storePort at' = true ∧ r.1 = false)
    ∧ (∃ (s : State) (dt : Nat) (k : Nat) (d : Nat) (a : Nat) (imm : Nat), let u := (s.pass dt).m; let c := u.core k; let at' := ea c a imm;
        isCore k = true ∧ regs3 d a 0 = true ∧ imm < 65536 ∧ s.live dt ∧ (s.pass dt).flips = [] ∧ u.atWord k (wordI 0x18 d a imm) = true
        ∧ u.coreReaches k false at' 32)
    ∧ (∃ (s : State) (dt : Nat) (k : Nat) (d : Nat) (a : Nat) (imm : Nat), let u := (s.pass dt).m; let c := u.core k; let at' := ea c a imm;
        isCore k = true ∧ regs3 d a 0 = true ∧ imm < 65536 ∧ s.live dt ∧ (s.pass dt).flips = []
        ∧ (u.atWord k (wordI 0x18 d a imm) = false ∨ u.coreBarred k false at' 32))
    ∧ (∃ (s : State) (dt : Nat) (k : Nat) (d : Nat) (a : Nat) (imm : Nat), let u := (s.pass dt).m; let c := u.core k; let at' := ea c a imm;
        isCore k = true ∧ regs3 d a 0 = true ∧ imm < 65536 ∧ s.live dt ∧ (s.pass dt).flips = [] ∧ d < 31 ∧ u.atWord k (wordI 0x1A d a imm) = true
        ∧ u.coreReaches k false at' 64)
    ∧ (∃ (s : State) (dt : Nat) (k : Nat) (d : Nat) (a : Nat) (imm : Nat), let u := (s.pass dt).m; let c := u.core k; let at' := ea c a imm;
        isCore k = true ∧ regs3 d a 0 = true ∧ imm < 65536 ∧ s.live dt ∧ (s.pass dt).flips = []
        ∧ (u.atWord k (wordI 0x1A d a imm) = false ∨ u.coreBarred k false at' 64))
    ∧ (∃ (s : State) (dt : Nat) (k : Nat) (d : Nat) (a : Nat) (imm : Nat), let u := (s.pass dt).m; let c := u.core k; let at' := ea c a imm;
        isCore k = true ∧ regs3 d a 0 = true ∧ imm < 65536 ∧ s.live dt ∧ (s.pass dt).flips = [] ∧ u.atWord k (wordI 0x08 d a imm) = true
        ∧ at' = 0x1801800000)
    ∧ (∃ (s : State) (dt : Nat) (k : Nat) (d : Nat) (a : Nat) (imm : Nat), let u := (s.pass dt).m; let c := u.core k; let at' := ea c a imm;
        isCore k = true ∧ regs3 d a 0 = true ∧ imm < 65536 ∧ s.live dt ∧ (s.pass dt).flips = [] ∧ u.atWord k (wordI 0x08 d a imm) = true
        ∧ at' = 0x1801800008) :=
  ⟨⟨{ wst [] (cw (wordI 8 30 2 0xFFC0) 7 0x900000) with mem := cellsAt 0x8FFFC0 (List.replicate 64 0x9A) }, 0, 6143, 30, 2, 0xFFC0, ((0x08 : Nat), (8 : Nat), fun dt k d a imm => Instr.ld64 dt k d a imm), ⟨by decide +kernel, by decide +kernel, by decide +kernel, by decide +kernel, by decide +kernel, .head _, by decide +kernel, by decide +kernel⟩⟩,
   ⟨wst [] (cw (wordI 8 30 2 0xFFC0) 7 0x900001), 0, 6143, 30, 2, 0xFFC0, ((0x08 : Nat), (8 : Nat), fun dt k d a imm => Instr.ld64 dt k d a imm), ⟨by decide +kernel, by decide +kernel, by decide +kernel, by decide +kernel, by decide +kernel, .head _, by decide +kernel⟩⟩,
   ⟨wst [(F.memFlipCtl_ARM, 0)] (cw (wordI 12 31 2 0xFFC0) 7 0x900000), 0, 6143, 31, 2, 0xFFC0, ((0x0C : Nat), (8 : Nat), fun dt k d a imm => Instr.st64 dt k d a imm), ⟨by decide +kernel, by decide +kernel, by decide +kernel, by decide +kernel, by decide +kernel, .head _, by decide +kernel, by decide +kernel, by decide +kernel⟩⟩,
   ⟨wst [] (cw (wordI 12 31 2 0xFFC0) 7 0x1800702FC0), 0, 6143, 31, 2, 0xFFC0, ((0x0C : Nat), (8 : Nat), fun dt k d a imm => Instr.st64 dt k d a imm), 0, ⟨by decide +kernel, by decide +kernel, by decide +kernel, by decide +kernel, by decide +kernel, .head _, by decide +kernel, by decide +kernel, by decide +kernel, by decide +kernel, by decide +kernel, by decide +kernel⟩⟩,
   ⟨wst [] (cw (wordI 12 31 2 0xFFC0) 7 0x900001), 0, 6143, 31, 2, 0xFFC0, ((0x0C : Nat), (8 : Nat), fun dt k d a imm => Instr.st64 dt k d a imm), ⟨by decide +kernel, by decide +kernel, by decide +kernel, by decide +kernel, by decide +kernel, .head _, by decide +kernel, by decide +kernel⟩⟩,
   ⟨wst [] (fun m => (cw (wordI 27 30 2 0xFFC0) 7 0x1800702FC0 m).modEng 22 fun x => { x with q2 := List.replicate 64 (cmdOf 0 0 0 0 0 0) }), 0, 6143, 30, 2, 0xFFC0, (0x1B, 64, fun dt k d a imm => .vst64 dt k d a imm), 0, ⟨by decide +kernel, by decide +kernel, by decide +kernel, by decide +kernel, by decide +kernel, .tail _ (.tail _ (.tail _ (.tail _ (.tail _ (.head _))))), by decide +kernel, by decide +kernel, by decide +kernel, by decide +kernel, by decide +kernel, by decide +kernel⟩⟩,
   ⟨{ wst [] (cw (wordI 0x18 30 2 0xFFC0) 7 0x900000) with mem := cellsAt 0x8FFFC0 (List.replicate 64 0x9A) }, 0, 6143, 30, 2, 0xFFC0, by decide +kernel⟩,
   ⟨wst [] (cw (wordI 0x18 30 2 0xFFC0) 7 0x900008), 0, 6143, 30, 2, 0xFFC0, by decide +kernel⟩,
   ⟨{ wst [] (cw (wordI 0x1A 30 2 0xFFC0) 7 0x900000) with mem := cellsAt 0x8FFFC0 (List.replicate 64 0x9A) }, 0, 6143, 30, 2, 0xFFC0, by decide +kernel⟩,
   ⟨wst [] (cw (wordI 0x1A 30 2 0xFFC0) 7 0x900008), 0, 6143, 30, 2, 0xFFC0, by decide +kernel⟩,
   ⟨wst [] (cw (wordI 0x08 30 2 0xFFC0) 7 0x1801800040), 0, 6143, 30, 2, 0xFFC0, by decide +kernel⟩,
   ⟨wst [] (cw (wordI 0x08 30 2 0xFFC0) 7 0x1801800048), 0, 6143, 30, 2, 0xFFC0, by decide +kernel⟩⟩

theorem wit_LoadsAndStoresMoveTheirBytes_2 :
    (∃ (s : State) (dt : Nat) (k : Nat) (d : Nat) (a : Nat) (imm : Nat), let u := (s.pass dt).m; let c := u.core k; let at' := ea c a imm;
        isCore k = true ∧ regs3 d a 0 = true ∧ imm < 65536 ∧ s.live dt ∧ (s.pass dt).flips = [] ∧ u.atWord k (wordI 0x08 d a imm) = true
        ∧ at' = 0x1801400000 ∧ u.secReady = true)
    ∧ (∃ (s : State) (dt : Nat) (k : Nat) (d : Nat) (a : Nat) (imm : Nat), let u := (s.pass dt).m; let c := u.core k; let at' := ea c a imm;
        isCore k = true ∧ regs3 d a 0 = true ∧ imm < 65536 ∧ s.live dt ∧ (s.pass dt).flips = [] ∧ u.atWord k (wordI 0x08 d a imm) = true
        ∧ at' = 0x1801400000 ∧ u.secReady = false) :=
  ⟨⟨wst [(F.secStat_STATE, 1)] (cw (wordI 0x08 30 2 0xFFC0) 7 0x1801400040), 0, 6143, 30, 2, 0xFFC0, by decide +kernel⟩,
   ⟨wst [(F.secStat_STATE, 0)] (cw (wordI 0x08 30 2 0xFFC0) 7 0x1801400040), 0, 6143, 30, 2, 0xFFC0, by decide +kernel⟩⟩

theorem wit_VectorInstructionsWorkLaneByLane :
    (∃ (s : State) (dt : Nat) (k : Nat) (d : Nat) (a : Nat) (b : Nat) (func : Nat), let u := (s.pass dt).m; isCore k = true ∧ regs3 d a b = true
        ∧ s.live dt ∧ func < 14 ∧ u.atWord k (wordR 0x20 d a b func) = true)
    ∧ (∃ (s : State) (dt : Nat) (k : Nat) (d : Nat) (a : Nat) (b : Nat) (func : Nat), let u := (s.pass dt).m; isCore k = true ∧ regs3 d a b = true
        ∧ s.live dt ∧ u.atWord k (wordR 0x20 d a b func) = false)
    ∧ (∃ (s : State) (dt : Nat) (k : Nat) (d : Nat) (a : Nat) (b : Nat) (p : _), let u := (s.pass dt).m; isCore k = true ∧ regs3 d a b = true
        ∧ s.live dt ∧ p ∈ [((0x10 : Nat), fun (_ x y : BitVec 32) => ofF ((laneF x).add (laneF y)), fun dt k d a b => Instr.fadd dt k d a b), (0x11, fun _ x y => ofF ((laneF x).mul (laneF y)), fun dt k d a b => .fmul dt k d a b), (0x12, fun z x y => ofF (((laneF x).mul (laneF y)).add (laneF z)), fun dt k d a b => .fma dt k d a b), (0x13, fun _ x y => ofF ((laneF x).max' (laneF y)), fun dt k d a b => .fmax dt k d a b), (0x14, fun _ x y => ofF ((laneF x).min' (laneF y)), fun dt k d a b => .fmin dt k d a b), (0x20, fun z x y => z + BitVec.ofInt 32 (dot8 x y), fun dt k d a b => .vdot8 dt k d a b), (0x21, fun z x y => ofF ((laneF z).add (dotExact (if Config.dotE5 then 0x4 else 0x3) 4 8 x y).r32), fun dt k d a b => .vdotf8 dt k d a b), (0x22, fun z x y => ofF ((laneF z).add (dotExact 0xA 2 16 x y).r32), fun dt k d a b => .vfmabf dt k d a b)] ∧ u.atWord k (wordR 0x20 d a b p.1) = true)
    ∧ (∃ (s : State) (dt : Nat) (k : Nat) (d : Nat) (a : Nat) (b : Nat) (p : _), let u := (s.pass dt).m; isCore k = true ∧ regs3 d a b = true
        ∧ s.live dt ∧ p ∈ [((0x10 : Nat), fun (_ x y : BitVec 32) => ofF ((laneF x).add (laneF y)), fun dt k d a b => Instr.fadd dt k d a b), (0x11, fun _ x y => ofF ((laneF x).mul (laneF y)), fun dt k d a b => .fmul dt k d a b), (0x12, fun z x y => ofF (((laneF x).mul (laneF y)).add (laneF z)), fun dt k d a b => .fma dt k d a b), (0x13, fun _ x y => ofF ((laneF x).max' (laneF y)), fun dt k d a b => .fmax dt k d a b), (0x14, fun _ x y => ofF ((laneF x).min' (laneF y)), fun dt k d a b => .fmin dt k d a b), (0x20, fun z x y => z + BitVec.ofInt 32 (dot8 x y), fun dt k d a b => .vdot8 dt k d a b), (0x21, fun z x y => ofF ((laneF z).add (dotExact (if Config.dotE5 then 0x4 else 0x3) 4 8 x y).r32), fun dt k d a b => .vdotf8 dt k d a b), (0x22, fun z x y => ofF ((laneF z).add (dotExact 0xA 2 16 x y).r32), fun dt k d a b => .vfmabf dt k d a b)] ∧ u.atWord k (wordR 0x20 d a b p.1) = false)
    ∧ (∃ (s : State) (dt : Nat) (k : Nat) (d : Nat) (a : Nat) (b : Nat) (func : Nat), let u := (s.pass dt).m; isCore k = true ∧ regs3 d a b = true
        ∧ s.live dt ∧ cvtFunc func = true ∧ u.atWord k (wordR 0x21 d a b func) = true)
    ∧ (∃ (s : State) (dt : Nat) (k : Nat) (d : Nat) (a : Nat) (b : Nat) (func : Nat), let u := (s.pass dt).m; isCore k = true ∧ regs3 d a b = true
        ∧ s.live dt ∧ u.atWord k (wordR 0x21 d a b func) = false)
    ∧ (∃ (s : State) (dt : Nat) (k : Nat) (d : Nat) (a : Nat) (b : Nat), let u := (s.pass dt).m; isCore k = true ∧ regs3 d a b = true ∧ s.live dt
        ∧ u.atWord k (wordR 0x22 d a b 0) = true)
    ∧ (∃ (s : State) (dt : Nat) (k : Nat) (d : Nat) (a : Nat) (b : Nat), let u := (s.pass dt).m; isCore k = true ∧ regs3 d a b = true ∧ s.live dt
        ∧ u.atWord k (wordR 0x22 d a b 1) = true)
    ∧ (∃ (s : State) (dt : Nat) (k : Nat) (d : Nat) (a : Nat) (b : Nat), let u := (s.pass dt).m; isCore k = true ∧ regs3 d a b = true ∧ s.live dt
        ∧ u.atWord k (wordR 0x22 d a b 0) = false)
    ∧ (∃ (s : State) (dt : Nat) (k : Nat) (d : Nat) (a : Nat) (b : Nat), let u := (s.pass dt).m; isCore k = true ∧ regs3 d a b = true ∧ s.live dt
        ∧ u.atWord k (wordR 0x22 d a b 1) = false) :=
  ⟨⟨wst [] (cw (wordR 0x20 31 1 2 0) 7 63), 0, 6143, 31, 1, 2, 0, by decide +kernel⟩,
   ⟨wst [] (cw (wordR 0x20 31 1 2 0xF) 7 63), 0, 6143, 31, 1, 2, 0, by decide +kernel⟩,
   ⟨wst [] (cw (wordR 0x20 31 1 2 16) 7 63), 0, 6143, 31, 1, 2, ((0x10 : Nat), fun (_ x y : BitVec 32) => ofF ((laneF x).add (laneF y)), fun dt k d a b => Instr.fadd dt k d a b), ⟨by decide +kernel, by decide +kernel, by decide +kernel, .head _, by decide +kernel⟩⟩,
   ⟨wst [] (cw 0 1 2), 0, 6143, 31, 1, 2, ((0x10 : Nat), fun (_ x y : BitVec 32) => ofF ((laneF x).add (laneF y)), fun dt k d a b => Instr.fadd dt k d a b), ⟨by decide +kernel, by decide +kernel, by decide +kernel, .head _, by decide +kernel⟩⟩,
   ⟨wst [] (cw (wordR 0x21 31 1 2 0xA) 7 63), 0, 6143, 31, 1, 2, 0xA, by decide +kernel⟩,
   ⟨wst [] (cw (wordR 0x21 31 1 2 1) 7 63), 0, 6143, 31, 1, 2, 0, by decide +kernel⟩,
   ⟨wst [] (cw (wordR 0x22 31 1 2 0) 7 63), 0, 6143, 31, 1, 2, by decide +kernel⟩,
   ⟨wst [] (cw (wordR 0x22 31 1 2 1) 7 5), 0, 6143, 31, 1, 2, by decide +kernel⟩,
   ⟨wst [] (cw 0 7 63), 0, 6143, 31, 1, 2, by decide +kernel⟩,
   ⟨wst [] (cw 0 7 63), 0, 6143, 31, 1, 2, by decide +kernel⟩⟩

theorem wit_DmaStartsCopiesAndWaits :
    (∃ (s : State) (dt : Nat) (k : Nat) (d : Nat) (a : Nat) (imm : Nat), let u := (s.pass dt).m; let c := u.core k;
        let at' := (c.sreg a).toNat % 2 ^ 40;
        let starts : Bool := !c.dmaBusy (imm % 2) && !u.flightFull && decide (at' % 8 = 0) && !u.stalls at' && (u.reaches (u.coreAcc k) false at' 32).1; isCore k = true ∧ regs3 d a 0 = true ∧ imm < 65536 ∧ s.live dt ∧ (s.pass dt).flips = [] ∧ u.atWord k (wordI 0x28 d a imm) = true ∧ starts = true)
    ∧ (∃ (s : State) (dt : Nat) (k : Nat) (d : Nat) (a : Nat) (imm : Nat), let u := (s.pass dt).m; let c := u.core k;
        let at' := (c.sreg a).toNat % 2 ^ 40;
        let starts : Bool := !c.dmaBusy (imm % 2) && !u.flightFull && decide (at' % 8 = 0) && !u.stalls at' && (u.reaches (u.coreAcc k) false at' 32).1; isCore k = true ∧ regs3 d a 0 = true ∧ imm < 65536 ∧ s.live dt ∧ (s.pass dt).flips = [] ∧ (u.atWord k (wordI 0x28 d a imm) = false ∨ starts = false))
    ∧ (∃ (s : State) (dt : Nat) (k : Nat) (d : Nat) (a : Nat) (imm : Nat) (ch : _) (w : _) (rows : _) (bytes : Nat), let u := (s.pass dt).m;
        let c := u.core k; isCore k = true ∧ regs3 d a 0 = true ∧ imm < 65536 ∧ s.live dt ∧ (s.pass dt).flips = [] ∧ ch < 4
        ∧ c.dma.find? (·.1 = ch) = some (ch, w) ∧ dmaRows w = some (rows, bytes) ∧ ((∀ r ∈ rows, ∀ x ∈ lineCuts r.1 bytes, u.stalls x.1 = false
        ∧ (u.reaches (u.coreAcc k) false x.1 x.2).1 = true)) ∧ ((∀ r ∈ rows, ∀ x ∈ lineCuts r.2 bytes, u.stalls x.1 = false
        ∧ (u.reaches (u.coreAcc k) true x.1 x.2).1 = true)))
    ∧ (∃ (s : State) (dt : Nat) (k : Nat) (d : Nat) (a : Nat) (imm : Nat) (ch : _) (w : _), let u := (s.pass dt).m; let c := u.core k;
        isCore k = true ∧ regs3 d a 0 = true ∧ imm < 65536 ∧ s.live dt ∧ (s.pass dt).flips = [] ∧ ch < 4 ∧ c.dma.find? (·.1 = ch) = some (ch, w)
        ∧ dmaRows w = none)
    ∧ (∃ (s : State) (dt : Nat) (k : Nat) (d : Nat) (a : Nat) (imm : Nat) (ch : _), let u := (s.pass dt).m; let c := u.core k; isCore k = true
        ∧ regs3 d a 0 = true ∧ imm < 65536 ∧ s.live dt ∧ (s.pass dt).flips = [] ∧ c.dma.find? (·.1 = ch) = none)
    ∧ (∃ (s : State) (dt : Nat) (k : Nat) (d : Nat) (a : Nat) (imm : Nat), let u := (s.pass dt).m; let c := u.core k; isCore k = true
        ∧ regs3 d a 0 = true ∧ imm < 65536 ∧ s.live dt ∧ (s.pass dt).flips = [] ∧ u.atWord k (wordI 0x29 d a imm) = true
        ∧ c.dmaBusy (imm % 2) = false)
    ∧ (∃ (s : State) (dt : Nat) (k : Nat) (d : Nat) (a : Nat) (imm : Nat), let u := (s.pass dt).m; let c := u.core k; isCore k = true
        ∧ regs3 d a 0 = true ∧ imm < 65536 ∧ s.live dt ∧ (s.pass dt).flips = []
        ∧ (u.atWord k (wordI 0x29 d a imm) = false ∨ c.dmaBusy (imm % 2) = true))
    ∧ (∃ (s : State) (dt : Nat) (k : Nat) (d : Nat) (a : Nat) (imm : Nat), let u := (s.pass dt).m; let c := u.core k; isCore k = true
        ∧ regs3 d a 0 = true ∧ imm < 65536 ∧ s.live dt ∧ (s.pass dt).flips = [] ∧ u.coreRuns k = true ∧ u.bareWord k = wordR 0x33 0 0 0 0
        ∧ c.dma = [])
    ∧ (∃ (s : State) (dt : Nat) (k : Nat) (d : Nat) (a : Nat) (imm : Nat), let u := (s.pass dt).m; let c := u.core k; isCore k = true
        ∧ regs3 d a 0 = true ∧ imm < 65536 ∧ s.live dt ∧ (s.pass dt).flips = []
        ∧ (u.coreRuns k = false ∨ u.bareWord k ≠ wordR 0x33 0 0 0 0 ∨ c.dma ≠ [])) :=
  ⟨⟨{ wst [] (cw (wordI 0x28 3 2 1) 7 0x900000) with mem := cellsAt 0x900000 (List.replicate 32 0x9A) }, 0, 6143, 3, 2, 1, by decide +kernel⟩,
   ⟨wst [] (cw (wordI 0x28 3 2 1) 7 0x900004), 0, 6143, 3, 2, 1, by decide +kernel⟩,
   ⟨{ wst [(F.memFlipCtl_ARM, 0)] (fun m => (cw 0 7 3 m).modCore 6143 fun c => { c with dma := [(1, dmaWords)] }) with mem := cellsAt 0x900000 (List.replicate 99 0x9A) }, 0, 6143, 3, 2, 1, 1, dmaWords, [(0x900000, 0x910008), (0x900040, 0x910020)], 16, by decide +kernel⟩,
   ⟨wst [] (fun m => (cw 0 7 3 m).modCore 6143 fun c => { c with dma := [(1, [1, 2, 4, 0])] }), 0, 6143, 3, 2, 1, 1, ([1, 2, 4, 0] : List Word), by decide +kernel⟩,
   ⟨wst [] (cw 0 7 3), 0, 6143, 3, 2, 1, 2, by decide +kernel⟩,
   ⟨wst [] (cw (wordI 0x29 3 2 1) 7 3), 0, 6143, 3, 2, 1, by decide +kernel⟩,
   ⟨wst [] (fun m => (cw (wordI 0x29 3 2 1) 7 3 m).modCore 6143 fun c => { c with dma := [(1, dmaWords)] }), 0, 6143, 3, 2, 1, by decide +kernel⟩,
   ⟨wst [] (cw (wordR 0x33 5 3 1 0) 7 3), 0, 6143, 3, 2, 1, by decide +kernel⟩,
   ⟨wst [] (fun m => (cw (wordR 0x33 5 3 1 0) 7 3 m).modCore 6143 fun c => { c with dma := [(1, dmaWords)] }), 0, 6143, 3, 2, 1, by decide +kernel⟩⟩

theorem wit_CoresSynchronise_1 :
    (∃ (s : State) (dt : Nat) (k : Nat) (d : Nat) (a : Nat) (b : Nat) (imm : Nat) (j : Nat), let u := (s.pass dt).m; let c := u.core k;
        let n := (c.sreg a).toNat; let objOk : Bool := decide (n < 16384) && u.synOwns j n; isCore k = true ∧ regs3 d a b = true ∧ s.live dt
        ∧ u.coreJob k = some j ∧ u.violated = [] ∧ u.stepsDone ∧ 1 ≤ imm ∧ imm ≤ 255 ∧ u.atWord k (wordI 0x30 d a imm) = true ∧ objOk = true)
    ∧ (∃ (s : State) (dt : Nat) (k : Nat) (d : Nat) (a : Nat) (b : Nat) (imm : Nat) (j : Nat), let u := (s.pass dt).m; let c := u.core k;
        let n := (c.sreg a).toNat; let objOk : Bool := decide (n < 16384) && u.synOwns j n; isCore k = true ∧ regs3 d a b = true ∧ s.live dt
        ∧ u.coreJob k = some j ∧ u.violated = [] ∧ u.stepsDone ∧ 1 ≤ imm ∧ imm ≤ 255 ∧ u.atWord k (wordI 0x30 d a imm) = true ∧ objOk = false)
    ∧ (∃ (s : State) (dt : Nat) (k : Nat) (d : Nat) (a : Nat) (b : Nat) (imm : Nat) (j : Nat), let u := (s.pass dt).m; isCore k = true
        ∧ regs3 d a b = true ∧ s.live dt ∧ u.coreJob k = some j ∧ u.violated = [] ∧ u.stepsDone ∧ u.atWord k (wordI 0x30 d a imm) = false)
    ∧ (∃ (s : State) (dt : Nat) (k : Nat) (d : Nat) (a : Nat) (b : Nat) (j : Nat), let u := (s.pass dt).m; let c := u.core k;
        let n := (c.sreg a).toNat; let objOk : Bool := decide (n < 16384) && u.synOwns j n; isCore k = true ∧ regs3 d a b = true ∧ s.live dt
        ∧ u.coreJob k = some j ∧ u.violated = [] ∧ u.stepsDone ∧ u.atWord k (wordR 0x31 d a b 0) = true ∧ objOk = true)
    ∧ (∃ (s : State) (dt : Nat) (k : Nat) (d : Nat) (a : Nat) (b : Nat) (j : Nat), let u := (s.pass dt).m; let c := u.core k;
        let n := (c.sreg a).toNat; let objOk : Bool := decide (n < 16384) && u.synOwns j n; isCore k = true ∧ regs3 d a b = true ∧ s.live dt
        ∧ u.coreJob k = some j ∧ u.violated = [] ∧ u.stepsDone ∧ u.atWord k (wordR 0x31 d a b 0) = true ∧ objOk = false)
    ∧ (∃ (s : State) (dt : Nat) (k : Nat) (d : Nat) (a : Nat) (b : Nat) (j : Nat), let u := (s.pass dt).m; isCore k = true ∧ regs3 d a b = true
        ∧ s.live dt ∧ u.coreJob k = some j ∧ u.violated = [] ∧ u.stepsDone ∧ u.atWord k (wordR 0x31 d a b 0) = false)
    ∧ (∃ (s : State) (dt : Nat) (k : Nat) (d : Nat) (a : Nat) (b : Nat) (imm : Nat) (j : Nat), let u := (s.pass dt).m;
        let holds : Bool := ((List.range 4).filter fun i => imm.testBit i && (u.port (k * 4 + i)).armed).isEmpty || if imm.testBit 4 then (List.range 4).all fun i => !(imm.testBit i && (u.port (k * 4 + i)).armed) || (u.port (k * 4 + i)).sat else (List.range 4).any fun i => imm.testBit i && (u.port (k * 4 + i)).armed && (u.port (k * 4 + i)).sat; isCore k = true ∧ regs3 d a b = true ∧ s.live dt ∧ u.coreJob k = some j ∧ u.violated = [] ∧ u.stepsDone ∧ imm < 65536 ∧ u.atWord k (wordI 0x32 d a imm) = true ∧ holds = true)
    ∧ (∃ (s : State) (dt : Nat) (k : Nat) (d : Nat) (a : Nat) (b : Nat) (imm : Nat) (j : Nat), let u := (s.pass dt).m;
        let holds : Bool := ((List.range 4).filter fun i => imm.testBit i && (u.port (k * 4 + i)).armed).isEmpty || if imm.testBit 4 then (List.range 4).all fun i => !(imm.testBit i && (u.port (k * 4 + i)).armed) || (u.port (k * 4 + i)).sat else (List.range 4).any fun i => imm.testBit i && (u.port (k * 4 + i)).armed && (u.port (k * 4 + i)).sat; isCore k = true ∧ regs3 d a b = true ∧ s.live dt ∧ u.coreJob k = some j ∧ u.violated = [] ∧ u.stepsDone ∧ (u.atWord k (wordI 0x32 d a imm) = false ∨ holds = false))
    ∧ (∃ (s : State) (dt : Nat) (k : Nat) (d : Nat) (a : Nat) (b : Nat) (imm : Nat) (j : Nat), let u := (s.pass dt).m; isCore k = true
        ∧ regs3 d a b = true ∧ s.live dt ∧ u.coreJob k = some j ∧ u.violated = [] ∧ u.stepsDone ∧ imm < 4 ∧ u.atWord k (wordI 0x34 d a imm) = true)
    ∧ (∃ (s : State) (dt : Nat) (k : Nat) (d : Nat) (a : Nat) (b : Nat) (imm : Nat) (j : Nat), let u := (s.pass dt).m; isCore k = true
        ∧ regs3 d a b = true ∧ s.live dt ∧ u.coreJob k = some j ∧ u.violated = [] ∧ u.stepsDone ∧ u.atWord k (wordI 0x34 d a imm) = false)
    ∧ (∃ (s : State) (dt : Nat) (k : Nat) (d : Nat) (a : Nat) (b : Nat) (j : Nat) (r : RunTile), let u := (s.pass dt).m; isCore k = true
        ∧ regs3 d a b = true ∧ s.live dt ∧ u.coreJob k = some j ∧ u.violated = [] ∧ u.stepsDone ∧ u.coreRuns k = true
        ∧ u.bareWord k = wordR 0x35 0 0 0 0 ∧ u.running.find? (fun t => t.cores.contains k) = some r)
    ∧ (∃ (s : State) (dt : Nat) (k : Nat) (d : Nat) (a : Nat) (b : Nat) (j : Nat), let u := (s.pass dt).m; isCore k = true ∧ regs3 d a b = true
        ∧ s.live dt ∧ u.coreJob k = some j ∧ u.violated = [] ∧ u.stepsDone ∧ u.coreRuns k = true ∧ u.bareWord k = wordR 0x35 0 0 0 0
        ∧ u.running.find? (fun t => t.cores.contains k) = none) :=
  ⟨⟨wst [(F.synObj_OWNER 16383, 0), (F.mbxCfg_OWNER 511, 0)] (cw (wordI 0x30 31 1 255) 16383 4), 0, 6143, 31, 1, 2, 255, 0, by decide +kernel⟩,
   ⟨wst [(F.synObj_OWNER 16383, 5), (F.synObj_SHARED 16383, 0)] (cw (wordI 0x30 31 1 255) 16383 4), 0, 6143, 31, 1, 2, 255, 0, by decide +kernel⟩,
   ⟨wst [] (cw 0 16383 4), 0, 6143, 31, 1, 2, 0xFFFF, 0, by decide +kernel⟩,
   ⟨wst [(F.synObj_OWNER 16383, 0), (F.mbxCfg_OWNER 511, 0)] (cw (wordR 0x31 31 1 2 0) 16383 0xFFFFFFFFF), 0, 6143, 31, 1, 2, 0, by decide +kernel⟩,
   ⟨wst [] (cw (wordR 0x31 31 1 2 0) 16384 4), 0, 6143, 31, 1, 2, 0, by decide +kernel⟩,
   ⟨wst [] (cw 0 16383 4), 0, 6143, 31, 1, 2, 0, by decide +kernel⟩,
   ⟨wst [] (fun m => (cw (wordI 0x32 31 1 1) 0 4 m).modPort (6143 * 4) fun p => { p with armed := true, sat := true }), 0, 6143, 31, 1, 2, 1, 0, by decide +kernel⟩,
   ⟨wst [] (fun m => ((cw (wordI 0x32 31 1 0x13) 0 4 m).modPort (6143 * 4) fun p => { p with armed := true, sat := true }).modPort (6143 * 4 + 1) fun p => { p with armed := true, sat := false }), 0, 6143, 31, 1, 2, 0x13, 0, by decide +kernel⟩,
   ⟨wst [] (cw (wordI 0x34 31 1 0) 0 4), 0, 6143, 31, 1, 2, 0, 0, by decide +kernel⟩,
   ⟨wst [] (cw 0 0 4), 0, 6143, 31, 1, 2, 0xFFFF, 0, by decide +kernel⟩,
   ⟨wst [] (cw (wordR 0x35 4 5 6 0) 0 4), 0, 6143, 31, 1, 2, 0, ⟨coreTile, 95, [6143], []⟩, by decide +kernel⟩,
   ⟨wst [] (fun m => { cw (wordR 0x35 4 5 6 0) 0 4 m with running := [] }), 0, 6143, 31, 1, 2, 0, by decide +kernel⟩⟩

theorem wit_CoresSynchronise_2 :
    (∃ (s : State) (dt : Nat) (k : Nat) (d : Nat) (a : Nat) (b : Nat) (j : Nat), let u := (s.pass dt).m; isCore k = true ∧ regs3 d a b = true
        ∧ s.live dt ∧ u.coreJob k = some j ∧ u.violated = [] ∧ u.stepsDone ∧ (u.coreRuns k = false ∨ u.bareWord k ≠ wordR 0x35 0 0 0 0))
    ∧ (∃ (s : State) (dt : Nat) (k : Nat) (d : Nat) (a : Nat) (b : Nat) (j : Nat) (func : _), let u := (s.pass dt).m; let c := u.core k;
        let n := (c.sreg a).toNat; let mbxOk : Bool := decide (n < 512) && u.mbxOwns j n; let full := u.on (F.mbxSide_FULL n); isCore k = true
        ∧ regs3 d a b = true ∧ s.live dt ∧ u.coreJob k = some j ∧ u.violated = [] ∧ u.stepsDone ∧ func < 2
        ∧ u.atWord k (wordR 0x36 d a b func) = true ∧ mbxOk = true ∧ full = false)
    ∧ (∃ (s : State) (dt : Nat) (k : Nat) (d : Nat) (a : Nat) (b : Nat) (j : Nat) (func : _), let u := (s.pass dt).m; let c := u.core k;
        let n := (c.sreg a).toNat; let mbxOk : Bool := decide (n < 512) && u.mbxOwns j n; let full := u.on (F.mbxSide_FULL n); isCore k = true
        ∧ regs3 d a b = true ∧ s.live dt ∧ u.coreJob k = some j ∧ u.violated = [] ∧ u.stepsDone ∧ func < 2
        ∧ u.atWord k (wordR 0x36 d a b func) = true ∧ mbxOk = true ∧ full = true ∧ func = 1)
    ∧ (∃ (s : State) (dt : Nat) (k : Nat) (d : Nat) (a : Nat) (b : Nat) (j : Nat) (func : _), let u := (s.pass dt).m; let c := u.core k;
        let n := (c.sreg a).toNat; let mbxOk : Bool := decide (n < 512) && u.mbxOwns j n; let full := u.on (F.mbxSide_FULL n); isCore k = true
        ∧ regs3 d a b = true ∧ s.live dt ∧ u.coreJob k = some j ∧ u.violated = [] ∧ u.stepsDone ∧ func < 2
        ∧ u.atWord k (wordR 0x36 d a b func) = true ∧ mbxOk = true ∧ full = true ∧ func = 0)
    ∧ (∃ (s : State) (dt : Nat) (k : Nat) (d : Nat) (a : Nat) (b : Nat) (j : Nat) (func : _), let u := (s.pass dt).m; let c := u.core k;
        let n := (c.sreg a).toNat; let mbxOk : Bool := decide (n < 512) && u.mbxOwns j n; isCore k = true ∧ regs3 d a b = true ∧ s.live dt
        ∧ u.coreJob k = some j ∧ u.violated = [] ∧ u.stepsDone ∧ func < 2 ∧ u.atWord k (wordR 0x36 d a b func) = true ∧ mbxOk = false)
    ∧ (∃ (s : State) (dt : Nat) (k : Nat) (d : Nat) (a : Nat) (b : Nat) (j : Nat) (func : _), let u := (s.pass dt).m; isCore k = true
        ∧ regs3 d a b = true ∧ s.live dt ∧ u.coreJob k = some j ∧ u.violated = [] ∧ u.stepsDone ∧ u.atWord k (wordR 0x36 d a b func) = false)
    ∧ (∃ (s : State) (dt : Nat) (k : Nat) (d : Nat) (a : Nat) (b : Nat) (j : Nat), let u := (s.pass dt).m; let c := u.core k;
        let n := (c.sreg a).toNat; let mbxOk : Bool := decide (n < 512) && u.mbxOwns j n; isCore k = true ∧ regs3 d a b = true ∧ s.live dt
        ∧ u.coreJob k = some j ∧ u.violated = [] ∧ u.stepsDone ∧ u.atWord k (wordR 0x37 d a b 0) = true ∧ mbxOk = true
        ∧ u.on (F.mbxSide_FULL n) = true ∧ u.mbxWait.find? (fun w => w.mbx = n) = none)
    ∧ (∃ (s : State) (dt : Nat) (k : Nat) (d : Nat) (a : Nat) (b : Nat) (j : Nat) (w : _), let u := (s.pass dt).m; let c := u.core k;
        let n := (c.sreg a).toNat; let mbxOk : Bool := decide (n < 512) && u.mbxOwns j n; isCore k = true ∧ regs3 d a b = true ∧ s.live dt
        ∧ u.coreJob k = some j ∧ u.violated = [] ∧ u.stepsDone ∧ u.atWord k (wordR 0x37 d a b 0) = true ∧ mbxOk = true
        ∧ u.on (F.mbxSide_FULL n) = true ∧ u.mbxWait.find? (fun w => w.mbx = n) = some w ∧ w.core ≠ k)
    ∧ (∃ (s : State) (dt : Nat) (k : Nat) (d : Nat) (a : Nat) (b : Nat) (j : Nat), let u := (s.pass dt).m; let c := u.core k;
        let n := (c.sreg a).toNat; let mbxOk : Bool := decide (n < 512) && u.mbxOwns j n; isCore k = true ∧ regs3 d a b = true ∧ s.live dt
        ∧ u.coreJob k = some j ∧ u.violated = [] ∧ u.stepsDone ∧ u.atWord k (wordR 0x37 d a b 2) = true ∧ mbxOk = true)
    ∧ (∃ (s : State) (dt : Nat) (k : Nat) (d : Nat) (a : Nat) (b : Nat) (j : Nat) (func : _), let u := (s.pass dt).m; let c := u.core k;
        let n := (c.sreg a).toNat; let mbxOk : Bool := decide (n < 512) && u.mbxOwns j n; isCore k = true ∧ regs3 d a b = true ∧ s.live dt
        ∧ u.coreJob k = some j ∧ u.violated = [] ∧ u.stepsDone ∧ (u.atWord k (wordR 0x37 d a b func) = false ∨ mbxOk = false ∨ (func = 0
        ∧ u.on (F.mbxSide_FULL n) = false))) :=
  ⟨⟨wst [] (cw 0 0 4), 0, 6143, 31, 1, 2, 0, by decide +kernel⟩,
   ⟨wst [(F.synObj_OWNER 16383, 0), (F.mbxCfg_OWNER 511, 0), (F.mbxSide_FULL 511, 0)] (cw (wordR 0x36 31 1 2 0) 511 4), 0, 6143, 31, 1, 2, 0, 0, by decide +kernel⟩,
   ⟨wst [(F.synObj_OWNER 16383, 0), (F.mbxCfg_OWNER 511, 0), (F.mbxSide_FULL 511, 1)] (cw (wordR 0x36 31 1 2 1) 511 4), 0, 6143, 31, 1, 2, 0, 1, by decide +kernel⟩,
   ⟨wst [(F.synObj_OWNER 16383, 0), (F.mbxCfg_OWNER 511, 0), (F.mbxSide_FULL 511, 1)] (cw (wordR 0x36 31 1 2 0) 511 4), 0, 6143, 31, 1, 2, 0, 0, by decide +kernel⟩,
   ⟨wst [(F.mbxCfg_OWNER 511, 5), (F.mbxCfg_SHARED 511, 0)] (cw (wordR 0x36 31 1 2 0) 511 4), 0, 6143, 31, 1, 2, 0, 0, by decide +kernel⟩,
   ⟨wst [] (cw 0 0 4), 0, 6143, 31, 1, 2, 0, 0, by decide +kernel⟩,
   ⟨wst [(F.synObj_OWNER 16383, 0), (F.mbxCfg_OWNER 511, 0), (F.mbxSide_FULL 511, 1)] (fun m => { cw (wordR 0x37 31 1 2 0) 511 4 m with mbxWait := [] }), 0, 6143, 31, 1, 2, 0, by decide +kernel⟩,
   ⟨wst [(F.synObj_OWNER 16383, 0), (F.mbxCfg_OWNER 511, 0), (F.mbxSide_FULL 511, 1)] (fun m => { cw (wordR 0x37 31 1 2 0) 511 4 m with mbxWait := [⟨511, 7, 0x123, 9, 3⟩] }), 0, 6143, 31, 1, 2, 0, ⟨511, 7, 0x123, 9, 3⟩, by decide +kernel⟩,
   ⟨wst [(F.synObj_OWNER 16383, 0), (F.mbxCfg_OWNER 511, 0)] (cw (wordR 0x37 31 1 2 2) 511 4), 0, 6143, 31, 1, 2, 0, by decide +kernel⟩,
   ⟨wst [] (cw 0 0 4), 0, 6143, 31, 1, 2, 0, 0, by decide +kernel⟩⟩

theorem wit_CoreTrapsStopTheCore :
    (∃ (s : State) (k : Nat), let u := s.m; let c := u.core k; isCore k = true ∧ u.coreRuns k = true ∧ c.dma = [] ∧ c.pc % 4 ≠ 0)
    ∧ (∃ (s : State) (k : Nat), let u := s.m; let c := u.core k; isCore k = true ∧ u.coreRuns k = true ∧ c.dma = [] ∧ c.pc % 4 = 0
        ∧ u.imageLen k ≤ c.pc / 4)
    ∧ (∃ (s : State) (k : Nat) (w : _), let u := s.m; let c := u.core k; isCore k = true ∧ u.coreRuns k = true ∧ c.dma = [] ∧ u.coreFetch k = .ok w
        ∧ coreDecode 0 k w = none)
    ∧ (∃ (s : State) (k : Nat) (p : _) (d : _) (a : _) (imm : _), let u := s.m; let c := u.core k; let at' := ea c a imm; isCore k = true
        ∧ u.coreRuns k = true ∧ c.dma = []
        ∧ p ∈ [((0x08 : Nat), (8 : Nat), false), (0x09, 4, false), (0x0A, 2, false), (0x0B, 1, false), (0x18, 32, false), (0x1A, 64, false), (0x0C, 8, true), (0x0D, 4, true), (0x0E, 2, true), (0x0F, 1, true), (0x19, 32, true), (0x1B, 64, true)] ∧ regs3 d a 0 = true ∧ imm < 65536 ∧ ((p.2.1 = 64 → d < 31)) ∧ u.coreFetch k = .ok (wordI p.1 d a imm) ∧ at' % p.2.1 ≠ 0)
    ∧ (∃ (s : State) (k : Nat) (p : _) (d : _) (a : _) (imm : _), let u := s.m; let c := u.core k; let at' := ea c a imm; isCore k = true
        ∧ u.coreRuns k = true ∧ c.dma = []
        ∧ p ∈ [((0x08 : Nat), (8 : Nat), false), (0x09, 4, false), (0x0A, 2, false), (0x0B, 1, false), (0x18, 32, false), (0x1A, 64, false), (0x0C, 8, true), (0x0D, 4, true), (0x0E, 2, true), (0x0F, 1, true), (0x19, 32, true), (0x1B, 64, true)] ∧ regs3 d a 0 = true ∧ imm < 65536 ∧ ((p.2.1 = 64 → d < 31)) ∧ u.coreFetch k = .ok (wordI p.1 d a imm) ∧ at' % p.2.1 = 0 ∧ rangeRegion at' p.2.1 ≠ .port ∧ u.stalls at' = false ∧ (u.reaches (u.coreAcc k) p.2.2 at' p.2.1).1 = false)
    ∧ (∃ (s : State) (k : Nat) (j : Nat) (ch : Nat) (w : List Word), isCore k = true ∧ s.m.coreJob k = some j ∧ (s.m.core k).dma = [(ch, w)]
        ∧ dmaRows w = none)
    ∧ (∃ (s : State) (dt : Nat) (k : Nat) (cause : _) (addr : _) (y : _), isCore k = true ∧ s.live dt
        ∧ (s.pass dt).fx.coreTrapOf k = some (cause, addr, y)) :=
  ⟨⟨wst [] (fun m => (cw 0 7 3 m).modCore 6143 fun c => { c with pc := 2 }), 6143, by decide +kernel⟩,
   ⟨wst [] (fun m => (cw 0 7 3 m).modCore 6143 fun c => { c with pc := 8 }), 6143, by decide +kernel⟩,
   ⟨wst [] (cw 0xFFFFFFFF 7 3), 6143, 0xFFFFFFFF, ⟨by decide +kernel, by decide +kernel, by decide +kernel, rfl, by decide +kernel⟩⟩,
   ⟨wst [] (cw (wordI 8 30 2 0xFFC0) 7 0x900001), 6143, ((0x08 : Nat), (8 : Nat), false), 30, 2, 0xFFC0, ⟨by decide +kernel, by decide +kernel, by decide +kernel, by decide +kernel, by decide +kernel, by decide +kernel, by decide +kernel, rfl, by decide +kernel⟩⟩,
   ⟨wst [] (cw (wordI 8 30 2 0xFFC0) 7 0xF000000000), 6143, ((0x08 : Nat), (8 : Nat), false), 30, 2, 0xFFC0, ⟨by decide +kernel, by decide +kernel, by decide +kernel, by decide +kernel, by decide +kernel, by decide +kernel, by decide +kernel, rfl, by decide +kernel, by decide +kernel, by decide +kernel, by decide +kernel⟩⟩,
   ⟨wst [] (fun m => (cw 0 7 3 m).modCore 6143 fun c => { c with dma := [(1, [1, 2, 4, 0])] }), 6143, 0, 1, ([1, 2, 4, 0] : List Word), by decide +kernel⟩,
   ⟨wst [(F.schJobStat_STATE 0, 2)] (cw 0xFFFFFFFF 7 3), 0, 6143, 1, 0, trapFx ((wst [(F.schJobStat_STATE 0, 2)] (cw 0xFFFFFFFF 7 3)).pass 0).fx (((wst [(F.schJobStat_STATE 0, 2)] (cw 0xFFFFFFFF 7 3)).pass 0).fx.coreTrapOf 6143), ⟨by decide +kernel, by decide +kernel, trapEq _ _ _ _ (by decide +kernel)⟩⟩⟩

theorem wit_JobsStopAndClear :
    (∃ (s : State) (dt : Nat) (agent : Nat) (j : Nat), let u := (s.pass dt).m; j < 64 ∧ s.live dt ∧ s.heeds dt agent 11 ∧ u.jobState j = 2)
    ∧ (∃ (s : State) (dt : Nat) (agent : Nat) (j : Nat), let u := (s.pass dt).m; j < 64 ∧ s.live dt ∧ s.heeds dt agent 11 ∧ u.jobState j ≠ 2)
    ∧ (∃ (s : State) (dt : Nat) (j : Nat), let u := (s.pass dt).m;
        let busy : Bool := (u.running.any fun t => t.tile.job = j) || (u.mon.any fun b => b.job = j && !b.delivered) || (u.eng.any fun y => match y.2.run with | some (_, c) => c.job = j | none => false) || ((u.ownUnits j).any fun x => (x.1 = 1 && u.get (F.grsStatus_STATE x.2) != 0) || (x.1 = 2 && u.get (F.mshCtl_STATE x.2) != 0)); j < 64 ∧ s.live dt ∧ u.jobState j = 3 ∧ busy = false)
    ∧ (∃ (s : State) (dt : Nat) (j : Nat), let u := (s.pass dt).m;
        let busy : Bool := (u.running.any fun t => t.tile.job = j) || (u.mon.any fun b => b.job = j && !b.delivered) || (u.eng.any fun y => match y.2.run with | some (_, c) => c.job = j | none => false) || ((u.ownUnits j).any fun x => (x.1 = 1 && u.get (F.grsStatus_STATE x.2) != 0) || (x.1 = 2 && u.get (F.mshCtl_STATE x.2) != 0)); j < 64 ∧ s.live dt ∧ (u.jobState j ≠ 3 ∨ busy = true))
    ∧ (∃ (s : State) (dt : Nat) (j : Nat), let u := (s.pass dt).m;
        let late : Bool := match (u.jrt j).stopAt with | some t0 => decide (t0 + max 1 (u.get F.schCfg_STOP_MS) * 1000000 ≤ u.now) | none => false;
        j < 64 ∧ s.live dt ∧ u.jobState j = 3 ∧ late = true)
    ∧ (∃ (s : State) (dt : Nat) (j : Nat), let u := (s.pass dt).m;
        let late : Bool := match (u.jrt j).stopAt with | some t0 => decide (t0 + max 1 (u.get F.schCfg_STOP_MS) * 1000000 ≤ u.now) | none => false;
        j < 64 ∧ s.live dt ∧ (u.jobState j ≠ 3 ∨ late = false))
    ∧ (∃ (s : State) (dt : Nat) (agent : Nat) (j : Nat), let u := (s.pass dt).m; j < 64 ∧ s.live dt ∧ s.heeds dt agent 11 ∧ u.jobState j = 5)
    ∧ (∃ (s : State) (dt : Nat) (agent : Nat) (j : Nat), let u := (s.pass dt).m; j < 64 ∧ s.live dt ∧ s.heeds dt agent 11 ∧ u.jobState j ≠ 5) :=
  ⟨⟨wst [(F.schJobStat_STATE 63, 2)] (fun m => { m with asms := [⟨63, 1, tileOn 1 63 2 false⟩], clq := [(3, [tileOn 4 63 1 false, tileOn 5 0 1 true])] }), 0, 1, 63, by decide +kernel⟩,
   ⟨wst [(F.schJobStat_STATE 63, 3)], 0, 1, 63, by decide +kernel⟩,
   ⟨wst [(F.schJobStat_STATE 63, 3)], 0, 63, by decide +kernel⟩,
   ⟨wst [(F.schJobStat_STATE 63, 3)] (fun m => { m with running := [⟨tileOn 1 63 1 false, 3, [200], []⟩] }), 0, 63, by decide +kernel⟩,
   ⟨wst [(F.schJobStat_STATE 63, 3), (F.schCfg_STOP_MS, 0)] (fun m => { { m with now := 1000000, running := [⟨tileOn 1 63 1 false, 3, [200], []⟩] }.modJob 63 fun r => { r with stopAt := some 0 } with eng := [(22, { run := some (2, { cmdOf 0 0 0 0 0 0 with job := 63 }) })] }), 0, 63, by decide +kernel⟩,
   ⟨wst [(F.schJobStat_STATE 63, 3), (F.schCfg_STOP_MS, 0)] (fun m => { m with now := 999999 }.modJob 63 fun r => { r with stopAt := some 0 }), 0, 63, by decide +kernel⟩,
   ⟨wst [(F.schJobStat_STATE 63, 5)], 0, 1, 63, by decide +kernel⟩,
   ⟨wst [(F.schJobStat_STATE 63, 4)], 0, 1, 63, by decide +kernel⟩⟩

theorem wit_TilesArePlacedStartedAndStolen_1 :
    (∃ (s : State) (dt : Nat) (agent : Nat) (job : Nat) (addr : Nat) (bytes : List Byte), let u := (s.pass dt).m;
        let j := (addr - 0x1800B00000) / 0x1000 % 64; let ws := pageWords 64 bytes; let w0 := (ws.getD 0 0).toNat;
        let page : Bool := decide (0x1800B00000 ≤ addr) && decide (addr < 0x1800B40000);
        let may : Bool := bytes.length = 64 && addr % 64 = 0 && w0 &&& taskReserved = 0 && mayTask agent (if 0x100 ≤ agent then some job else none) j;
        let old := u.asms.find? fun a => a.page = j && a.agent = agent;
        let first : Tile := match old with | some a => a.tile | none => tileOf u.tileSeq j u.now w0;
        let tile : Tile := { first with tasks := first.tasks ++ [taskOf ws], since := u.now };
        let stall : Bool := (old.isNone && decide (64 ≤ u.asms.length)) || (decide (tile.need ≤ tile.tasks.length) && match u.tileHome tile with | some c => decide (64 ≤ (u.clQueue c).length) | none => false); isWriter agent = true ∧ job < 64 ∧ addr < 2 ^ 40 ∧ s.live dt ∧ page = true ∧ may = true ∧ u.jobState j = 2 ∧ stall = false ∧ tile.tasks.length < tile.need)
    ∧ (∃ (s : State) (dt : Nat) (agent : Nat) (job : Nat) (addr : Nat) (bytes : List Byte) (c : _), let u := (s.pass dt).m;
        let j := (addr - 0x1800B00000) / 0x1000 % 64; let ws := pageWords 64 bytes; let w0 := (ws.getD 0 0).toNat;
        let page : Bool := decide (0x1800B00000 ≤ addr) && decide (addr < 0x1800B40000);
        let may : Bool := bytes.length = 64 && addr % 64 = 0 && w0 &&& taskReserved = 0 && mayTask agent (if 0x100 ≤ agent then some job else none) j;
        let old := u.asms.find? fun a => a.page = j && a.agent = agent;
        let first : Tile := match old with | some a => a.tile | none => tileOf u.tileSeq j u.now w0;
        let tile : Tile := { first with tasks := first.tasks ++ [taskOf ws], since := u.now };
        let stall : Bool := (old.isNone && decide (64 ≤ u.asms.length)) || (decide (tile.need ≤ tile.tasks.length) && match u.tileHome tile with | some c => decide (64 ≤ (u.clQueue c).length) | none => false); isWriter agent = true ∧ job < 64 ∧ addr < 2 ^ 40 ∧ s.live dt ∧ page = true ∧ may = true ∧ u.jobState j = 2 ∧ stall = false ∧ tile.need ≤ tile.tasks.length ∧ u.tileHome tile = some c)
    ∧ (∃ (s : State) (dt : Nat) (agent : Nat) (job : Nat) (addr : Nat) (bytes : List Byte), let u := (s.pass dt).m;
        let j := (addr - 0x1800B00000) / 0x1000 % 64; let ws := pageWords 64 bytes; let w0 := (ws.getD 0 0).toNat;
        let page : Bool := decide (0x1800B00000 ≤ addr) && decide (addr < 0x1800B40000);
        let may : Bool := bytes.length = 64 && addr % 64 = 0 && w0 &&& taskReserved = 0 && mayTask agent (if 0x100 ≤ agent then some job else none) j;
        let old := u.asms.find? fun a => a.page = j && a.agent = agent;
        let first : Tile := match old with | some a => a.tile | none => tileOf u.tileSeq j u.now w0;
        let tile : Tile := { first with tasks := first.tasks ++ [taskOf ws], since := u.now };
        let stall : Bool := (old.isNone && decide (64 ≤ u.asms.length)) || (decide (tile.need ≤ tile.tasks.length) && match u.tileHome tile with | some c => decide (64 ≤ (u.clQueue c).length) | none => false); isWriter agent = true ∧ job < 64 ∧ addr < 2 ^ 40 ∧ s.live dt ∧ page = true ∧ may = true ∧ u.jobState j = 2 ∧ stall = false ∧ tile.need ≤ tile.tasks.length ∧ u.tileHome tile = none)
    ∧ (∃ (s : State) (dt : Nat) (agent : Nat) (job : Nat) (addr : Nat) (bytes : List Byte), let j := (addr - 0x1800B00000) / 0x1000 % 64;
        let ws := pageWords 64 bytes; let w0 := (ws.getD 0 0).toNat; let page : Bool := decide (0x1800B00000 ≤ addr) && decide (addr < 0x1800B40000);
        let may : Bool := bytes.length = 64 && addr % 64 = 0 && w0 &&& taskReserved = 0 && mayTask agent (if 0x100 ≤ agent then some job else none) j;
        isWriter agent = true ∧ job < 64 ∧ addr < 2 ^ 40 ∧ s.live dt ∧ page = true ∧ may = false)
    ∧ (∃ (s : State) (dt : Nat) (agent : Nat) (job : Nat) (addr : Nat) (bytes : List Byte), let u := (s.pass dt).m;
        let j := (addr - 0x1800B00000) / 0x1000 % 64; let ws := pageWords 64 bytes; let w0 := (ws.getD 0 0).toNat;
        let page : Bool := decide (0x1800B00000 ≤ addr) && decide (addr < 0x1800B40000);
        let may : Bool := bytes.length = 64 && addr % 64 = 0 && w0 &&& taskReserved = 0 && mayTask agent (if 0x100 ≤ agent then some job else none) j;
        let old := u.asms.find? fun a => a.page = j && a.agent = agent;
        let first : Tile := match old with | some a => a.tile | none => tileOf u.tileSeq j u.now w0;
        let tile : Tile := { first with tasks := first.tasks ++ [taskOf ws], since := u.now };
        let stall : Bool := (old.isNone && decide (64 ≤ u.asms.length)) || (decide (tile.need ≤ tile.tasks.length) && match u.tileHome tile with | some c => decide (64 ≤ (u.clQueue c).length) | none => false); isWriter agent = true ∧ job < 64 ∧ addr < 2 ^ 40 ∧ s.live dt ∧ (page = false ∨ (may = true ∧ (u.jobState j ≠ 2 ∨ stall = true))))
    ∧ (∃ (s : State) (dt : Nat) (cl : Nat) (t0 : _) (rest : _), let u := (s.pass dt).m; let st := u.get (F.flrStat_STATE cl);
        let idle := u.idleCores cl;
        let can (t0 : Tile) : Bool := (st = 0 || st = 1) && decide (t0.need ≤ idle.length) && u.tilesRun t0.job && !u.traceStalls 0x061; cl < 96
        ∧ s.live dt ∧ u.clQueue cl = t0 :: rest ∧ can t0 = true)
    ∧ (∃ (s : State) (dt : Nat) (cl : Nat), let u := (s.pass dt).m; let st := u.get (F.flrStat_STATE cl); let idle := u.idleCores cl;
        let can (t0 : Tile) : Bool := (st = 0 || st = 1) && decide (t0.need ≤ idle.length) && u.tilesRun t0.job && !u.traceStalls 0x061; cl < 96
        ∧ s.live dt ∧ ((∀ t0 rest, u.clQueue cl = t0 :: rest → can t0 = false)))
    ∧ (∃ (s : State) (dt : Nat) (cl : Nat) (i : _) (d : _) (t0 : _), let u := (s.pass dt).m; let prey := u.prey cl; cl < 96 ∧ s.live dt
        ∧ u.clusterJob cl = some i ∧ prey = some (d, t0))
    ∧ (∃ (s : State) (dt : Nat) (cl : Nat), let u := (s.pass dt).m; let prey := u.prey cl; cl < 96 ∧ s.live dt ∧ prey = none)
    ∧ (∃ (s : State) (dt : Nat) (cl : Nat), let u := (s.pass dt).m; let st := u.get (F.flrStat_STATE cl);
        let parks : Bool := st = 0 && !u.reserved cl && u.clEmpty cl && ((u.clusterJob cl).isNone || decide (u.idleSince cl + u.get F.schCfg_PARK_US * 1000 ≤ u.now)); cl < 96 ∧ s.live dt ∧ parks = true)
    ∧ (∃ (s : State) (dt : Nat) (cl : Nat), let u := (s.pass dt).m; let st := u.get (F.flrStat_STATE cl);
        let parks : Bool := st = 0 && !u.reserved cl && u.clEmpty cl && ((u.clusterJob cl).isNone || decide (u.idleSince cl + u.get F.schCfg_PARK_US * 1000 ≤ u.now)); cl < 96 ∧ s.live dt ∧ parks = false)
    ∧ (∃ (s : State) (dt : Nat) (cl : Nat), let u := (s.pass dt).m; let st := u.get (F.flrStat_STATE cl); cl < 96 ∧ s.live dt ∧ st = 3) :=
  ⟨⟨wst [(F.schJobStat_STATE 63, 2)], 0, 1, 0, 0x1800B3F000, wbytes (wds8 (2 ^ 46)), by decide +kernel⟩,
   ⟨wst [(F.schJobStat_STATE 63, 2)] (·.modJob 63 fun r => { r with clusters := [95] }), 0, 1, 0, 0x1800B3F000, wbytes (wds8 0), 95, by decide +kernel⟩,
   ⟨wst [(F.schJobStat_STATE 63, 2)], 0, 1, 0, 0x1800B3F000, wbytes (wds8 0), by decide +kernel⟩,
   ⟨wst [(F.schJobStat_STATE 63, 2)], 0, 1, 0, 0x1800B3F000, [1, 2], by decide +kernel⟩,
   ⟨wst [(F.schJobStat_STATE 63, 4)], 0, 1, 0, 0x1800B3F000, wbytes (wds8 0), by decide +kernel⟩,
   ⟨wst [(F.flrStat_STATE 95, 0), (F.schJobStat_STATE 0, 2)] (fun m => { m with clq := [(95, [tileOn 1 0 1 false])], clJob := [(95, 1)] }), 0, 95, tileOn 1 0 1 false, [], by decide +kernel⟩,
   ⟨wst [(F.flrStat_STATE 95, 2), (F.schJobStat_STATE 0, 2)] (fun m => { m with clq := [(95, [tileOn 1 0 1 false])], clJob := [(95, 1)] }), 0, 95, ⟨by decide +kernel, by decide +kernel, heads_of_test _ (by decide +kernel)⟩⟩,
   ⟨wst [(F.flrStat_STATE 95, 0), (F.schJobStat_STATE 63, 2), (F.schJobStat_CLASS 63, 1)] (fun m => { m with clq := [(94, [tileOn 1 63 1 false])], clJob := [(94, 64), (95, 64)] }.modJob 63 fun r => { r with clusters := [94, 95] }), 0, 95, 63, 94, tileOn 1 63 1 false, by decide +kernel⟩,
   ⟨wst [(F.flrStat_STATE 95, 0), (F.schJobStat_STATE 63, 2), (F.schJobStat_CLASS 63, 0)] (fun m => { m with clq := [(94, [tileOn 1 63 1 false])], clJob := [(94, 64), (95, 64)] }.modJob 63 fun r => { r with clusters := [94, 95] }), 0, 95, by decide +kernel⟩,
   ⟨wst [(F.flrStat_STATE 95, 0)], 0, 95, by decide +kernel⟩,
   ⟨wst [(F.flrStat_STATE 95, 1)], 0, 95, by decide +kernel⟩,
   ⟨wst [(F.flrStat_STATE 95, 3)], 0, 95, by decide +kernel⟩⟩

theorem wit_TilesArePlacedStartedAndStolen_2 :
    (∃ (s : State) (dt : Nat) (cl : Nat), let u := (s.pass dt).m; let st := u.get (F.flrStat_STATE cl); cl < 96 ∧ s.live dt ∧ st ≠ 3) :=
  ⟨wst [(F.flrStat_STATE 95, 2)], 0, 95, by decide +kernel⟩

theorem wit_PreemptionSwitchesJobs :
    (∃ (s : State) (dt : Nat) (j : Nat) (i : Nat), let u := (s.pass dt).m; j < 64 ∧ i < 64 ∧ s.live dt ∧ u.mayPreempt j i = true)
    ∧ (∃ (s : State) (dt : Nat) (j : Nat) (i : Nat), let u := (s.pass dt).m; j < 64 ∧ i < 64 ∧ s.live dt ∧ i ≠ 0x3F ∧ u.mayPreempt j i = true)
    ∧ (∃ (s : State) (dt : Nat) (j : Nat) (i : Nat), let u := (s.pass dt).m; j < 64 ∧ i < 64 ∧ s.live dt ∧ i ≠ 0x3F ∧ u.mayPreempt j i = false)
    ∧ (∃ (s : State) (dt : Nat) (j : Nat) (i : Nat), let u := (s.pass dt).m;
        let pauses : Bool := u.jobClass j ≠ 0 && u.classShed j && u.jobActive j && !u.on (F.schJobStat_PAUSED j); j < 64 ∧ i < 64 ∧ s.live dt
        ∧ pauses = true)
    ∧ (∃ (s : State) (dt : Nat) (j : Nat) (i : Nat), let u := (s.pass dt).m;
        let pauses : Bool := u.jobClass j ≠ 0 && u.classShed j && u.jobActive j && !u.on (F.schJobStat_PAUSED j); j < 64 ∧ i < 64 ∧ s.live dt
        ∧ pauses = false)
    ∧ (∃ (s : State) (dt : Nat) (j : Nat) (i : Nat) (due : _), let u := (s.pass dt).m; j < 64 ∧ i < 64 ∧ s.live dt ∧ u.switching = some ⟨j, due⟩
        ∧ due ≤ u.now ∧ u.jobState j = 2 ∧ u.classShed j = false ∧ u.pagesBack j = true)
    ∧ (∃ (s : State) (dt : Nat) (j : Nat) (i : Nat) (due : _), let u := (s.pass dt).m; j < 64 ∧ i < 64 ∧ s.live dt ∧ u.switching = some ⟨j, due⟩
        ∧ due ≤ u.now ∧ (u.jobState j ≠ 2 ∨ u.classShed j = true))
    ∧ (∃ (s : State) (dt : Nat) (j : Nat) (i : Nat) (due : _), let u := (s.pass dt).m; j < 64 ∧ i < 64 ∧ s.live dt ∧ u.switching = some ⟨j, due⟩
        ∧ due ≤ u.now ∧ u.jobState j = 2 ∧ u.classShed j = false ∧ u.pagesBack j = false)
    ∧ (∃ (s : State) (dt : Nat) (j : Nat) (i : Nat) (k : _) (due : _), let u := (s.pass dt).m; j < 64 ∧ i < 64 ∧ s.live dt
        ∧ u.switching = some ⟨k, due⟩ ∧ (k ≠ j ∨ u.now < due)) :=
  ⟨⟨wst [(F.schJobStat_STATE 63, 2), (F.schJobStat_CLASS 63, 2), (F.schJobStat_STATE 0, 2), (F.schJobStat_CLASS 0, 1)] (fun m => ({ m with now := 10 ^ 9, clJob := (List.range 96).map (·, 64), clIdle := (List.range 96).map (·, 10 ^ 9), running := [⟨tileOn 1 63 1 false, 95, [6143], []⟩] }.modJob 63 fun r => { r with clusters := [95], placedAt := 0 }).modJob 0 fun r => { r with waitSince := some 0, waiting := [tileOn 3 0 1 false] }), 0, 63, 0, ⟨by decide +kernel, by decide +kernel, by decide +kernel, by unfold Mach.mayPreempt; rw [spare_zero _ _ (by decide +kernel)]; decide +kernel⟩⟩,
   ⟨wst [(F.schJobStat_STATE 63, 2), (F.schJobStat_CLASS 63, 2), (F.schJobStat_STATE 0, 2), (F.schJobStat_CLASS 0, 1)] (fun m => ({ m with now := 10 ^ 9, clJob := (List.range 96).map (·, 64), clIdle := (List.range 96).map (·, 10 ^ 9), running := [⟨tileOn 1 63 1 false, 95, [6143], []⟩] }.modJob 63 fun r => { r with clusters := [95], placedAt := 0 }).modJob 0 fun r => { r with waitSince := some 0, waiting := [tileOn 3 0 1 false] }), 0, 63, 0, ⟨by decide +kernel, by decide +kernel, by decide +kernel, by decide +kernel, by unfold Mach.mayPreempt; rw [spare_zero _ _ (by decide +kernel)]; decide +kernel⟩⟩,
   ⟨wst [(F.schJobStat_STATE 63, 2), (F.schJobStat_CLASS 63, 2)] (fun m => { m with running := [⟨tileOn 1 63 1 false, 95, [6143], []⟩] }), 0, 63, 0, by decide +kernel⟩,
   ⟨wst [(F.schJobStat_STATE 63, 2), (F.schJobStat_CLASS 63, 2)] (fun m => { m with shed := 4, running := [⟨tileOn 1 63 1 false, 95, [6143], []⟩] }), 0, 63, 0, by decide +kernel⟩,
   ⟨wst [(F.schJobStat_STATE 63, 2), (F.schJobStat_CLASS 63, 0)] (fun m => { m with shed := 4 }), 0, 63, 0, by decide +kernel⟩,
   ⟨wst [(F.schJobStat_STATE 63, 2), (F.schJobStat_PREEMPTED 63, 1)] (fun m => { m with switching := some ⟨63, 0⟩ }), 0, 63, 0, 0, by decide +kernel⟩,
   ⟨wst [(F.schJobStat_STATE 63, 4)] (fun m => { m with switching := some ⟨63, 0⟩ }), 0, 63, 0, 0, by decide +kernel⟩,
   ⟨wst [(F.schJobStat_STATE 63, 2), (F.schJobStat_PREEMPTED 63, 1), (F.hopEntCfg_JOB 9, 63)] (fun m => { m with switching := some ⟨63, 0⟩, pages := [⟨9, 0, none, some 3, .spilled, 0⟩] }), 0, 63, 0, 0, by decide +kernel⟩,
   ⟨wst [(F.schJobStat_STATE 63, 2)] (fun m => { m with switching := some ⟨62, 0⟩ }), 0, 63, 0, 62, 0, by decide +kernel⟩⟩

theorem wit_MonitorDeliversVerdicts_1 :
    (∃ (s : State) (dt : Nat) (k : Nat) (addr : Nat) (port : Nat) (e : Nat), let u := (s.pass dt).m; isCore k = true ∧ addr < 2 ^ 40 ∧ port < 16
        ∧ e < 23 ∧ s.live dt ∧ u.bucketAt + 1000 ≤ u.now)
    ∧ (∃ (s : State) (dt : Nat) (k : Nat) (addr : Nat) (port : Nat) (e : Nat), let u := (s.pass dt).m; isCore k = true ∧ addr < 2 ^ 40 ∧ port < 16
        ∧ e < 23 ∧ s.live dt ∧ u.now < u.bucketAt + 1000)
    ∧ (∃ (s : State) (dt : Nat) (k : Nat) (addr : Nat) (port : Nat) (e : Nat), isCore k = true ∧ addr < 2 ^ 40 ∧ port < 16 ∧ e < 23 ∧ s.live dt)
    ∧ (∃ (s : State) (dt : Nat) (k : Nat) (addr : Nat) (port : Nat) (e : Nat), let u := (s.pass dt).m; isCore k = true ∧ addr < 2 ^ 40 ∧ port < 16
        ∧ e < 23 ∧ s.live dt ∧ (u.engine e).frame + 16000 ≤ u.reel)
    ∧ (∃ (s : State) (dt : Nat) (k : Nat) (addr : Nat) (port : Nat) (e : Nat), let u := (s.pass dt).m; isCore k = true ∧ addr < 2 ^ 40 ∧ port < 16
        ∧ e < 23 ∧ s.live dt ∧ u.reel < (u.engine e).frame + 16000)
    ∧ (∃ (s : State) (dt : Nat) (k : Nat) (addr : Nat) (port : Nat) (e : Nat) (b : _) (block : _) (v : _), let u := (s.pass dt).m;
        let due : Bool := !b.delivered && u.choosesItself && match b.switchAt with | some t0 => decide (t0 ≤ u.reel) | none => false; isCore k = true
        ∧ addr < 2 ^ 40 ∧ port < 16 ∧ e < 23 ∧ s.live dt ∧ u.monBlk port block = some b ∧ b.job < 64 ∧ due = true ∧ b.reserve = some v)
    ∧ (∃ (s : State) (dt : Nat) (k : Nat) (addr : Nat) (port : Nat) (e : Nat) (b : _) (block : _), let u := (s.pass dt).m;
        let due : Bool := !b.delivered && u.choosesItself && match b.switchAt with | some t0 => decide (t0 ≤ u.reel) | none => false; isCore k = true
        ∧ addr < 2 ^ 40 ∧ port < 16 ∧ e < 23 ∧ s.live dt ∧ u.monBlk port block = some b ∧ b.job < 64 ∧ due = true ∧ b.reserve = none)
    ∧ (∃ (s : State) (dt : Nat) (k : Nat) (addr : Nat) (port : Nat) (e : Nat) (b : _) (block : _), let u := (s.pass dt).m;
        let due : Bool := !b.delivered && u.choosesItself && match b.switchAt with | some t0 => decide (t0 ≤ u.reel) | none => false; isCore k = true
        ∧ addr < 2 ^ 40 ∧ port < 16 ∧ e < 23 ∧ s.live dt ∧ u.monBlk port block = some b ∧ b.job < 64 ∧ due = false)
    ∧ (∃ (s : State) (dt : Nat) (k : Nat) (addr : Nat) (port : Nat) (e : Nat) (block : _), let u := (s.pass dt).m; isCore k = true ∧ addr < 2 ^ 40
        ∧ port < 16 ∧ e < 23 ∧ s.live dt ∧ u.monBlk port block = none)
    ∧ (∃ (s : State) (dt : Nat) (k : Nat) (addr : Nat) (port : Nat) (e : Nat) (bytes : List Byte) (j : _) (b : _), let u := (s.pass dt).m;
        let v := verdictOf j (pageWords 32 bytes); let whole' : Bool := decide (addr % 32 = 0) && decide (bytes.length = 32); isCore k = true
        ∧ addr < 2 ^ 40 ∧ port < 16 ∧ e < 23 ∧ s.live dt ∧ u.coreJob k = some j ∧ (u.core k).running = true ∧ 0x1800B40000 ≤ addr
        ∧ addr < 0x1800B80000 ∧ whole' = true ∧ u.monBlk v.port v.block = some b ∧ b.job = j ∧ b.job < 64 ∧ v.kind = 0 ∧ b.delivered = false
        ∧ u.mainHeld b = false)
    ∧ (∃ (s : State) (dt : Nat) (k : Nat) (addr : Nat) (port : Nat) (e : Nat) (bytes : List Byte) (j : _) (b : _), let u := (s.pass dt).m;
        let v := verdictOf j (pageWords 32 bytes); let whole' : Bool := decide (addr % 32 = 0) && decide (bytes.length = 32); isCore k = true
        ∧ addr < 2 ^ 40 ∧ port < 16 ∧ e < 23 ∧ s.live dt ∧ u.coreJob k = some j ∧ (u.core k).running = true ∧ 0x1800B40000 ≤ addr
        ∧ addr < 0x1800B80000 ∧ whole' = true ∧ u.monBlk v.port v.block = some b ∧ b.job = j ∧ b.job < 64 ∧ v.kind = 0 ∧ b.delivered = false
        ∧ u.mainHeld b = true)
    ∧ (∃ (s : State) (dt : Nat) (k : Nat) (addr : Nat) (port : Nat) (e : Nat) (bytes : List Byte) (j : _) (b : _), let u := (s.pass dt).m;
        let v := verdictOf j (pageWords 32 bytes); let whole' : Bool := decide (addr % 32 = 0) && decide (bytes.length = 32); isCore k = true
        ∧ addr < 2 ^ 40 ∧ port < 16 ∧ e < 23 ∧ s.live dt ∧ u.coreJob k = some j ∧ (u.core k).running = true ∧ 0x1800B40000 ≤ addr
        ∧ addr < 0x1800B80000 ∧ whole' = true ∧ u.monBlk v.port v.block = some b ∧ b.job = j ∧ b.job < 64 ∧ v.kind = 0 ∧ b.delivered = true) :=
  ⟨⟨wst [(F.schGuar_BUCKET, 196)] (fun m => { m with now := 1000 }), 0, 6143, 0x1800B40000, 2, 22, by decide +kernel⟩,
   ⟨wst [(F.schGuar_BUCKET, 3)] (fun m => { m with now := 999 }), 0, 6143, 0x1800B40000, 2, 22, by decide +kernel⟩,
   ⟨wst [(F.schGuar_CLOCK, 0), (F.schGuar_SUPPLY, 0), (F.schGuar_TRACE, 0), (F.schGuar_HELD, 0)] (fun m => { m with now := 120000, started := true }), 0, 6143, 0x1800B40000, 2, 22, by decide +kernel⟩,
   ⟨wst [] (fun m => { m with reelT := 16000 * 2 ^ 40 }.modEng 22 fun x => { x with busy := [(1, 3)] }), 0, 6143, 0x1800B40000, 2, 22, by decide +kernel⟩,
   ⟨wst [] (fun m => { m with reelT := 15999 * 2 ^ 40 }.modEng 22 fun x => { x with busy := [(1, 3)] }), 0, 6143, 0x1800B40000, 2, 22, by decide +kernel⟩,
   ⟨wst [] (fun m => { m with mon := [blkOf false (some vd) none] }), 0, 6143, 0x1800B40000, 2, 22, blkOf false (some vd) none, 5, vd, by decide +kernel⟩,
   ⟨wst [] (fun m => { m with mon := [blkOf false none none] }), 0, 6143, 0x1800B40000, 2, 22, blkOf false none none, 5, by decide +kernel⟩,
   ⟨wst [] (fun m => { m with mon := [blkOf true none none] }), 0, 6143, 0x1800B40000, 2, 22, blkOf true none none, 5, by decide +kernel⟩,
   ⟨wst [], 0, 6143, 0x1800B40000, 2, 22, 5, by decide +kernel⟩,
   ⟨wst [] (coreMon (blkOf false none none)), 0, 6143, 0x1800B40000, 2, 22, vbytes 0, 0, blkOf false none none, by decide +kernel⟩,
   ⟨wst [(F.tngStat_STATE, 3)] (coreMon (blkOf false none none)), 0, 6143, 0x1800B40000, 2, 22, vbytes 0, 0, blkOf false none none, by decide +kernel⟩,
   ⟨wst [] (coreMon (blkOf true none none)), 0, 6143, 0x1800B40000, 2, 22, vbytes 0, 0, blkOf true none none, by decide +kernel⟩⟩

theorem wit_MonitorDeliversVerdicts_2 :
    (∃ (s : State) (dt : Nat) (k : Nat) (addr : Nat) (port : Nat) (e : Nat) (bytes : List Byte) (j : _) (b : _), let u := (s.pass dt).m;
        let v := verdictOf j (pageWords 32 bytes); let whole' : Bool := decide (addr % 32 = 0) && decide (bytes.length = 32);
        let chosen : Bool := (u.choosesItself && b.switchAt.isNone) || b.told = some 1; isCore k = true ∧ addr < 2 ^ 40 ∧ port < 16 ∧ e < 23
        ∧ s.live dt ∧ u.coreJob k = some j ∧ (u.core k).running = true ∧ 0x1800B40000 ≤ addr ∧ addr < 0x1800B80000 ∧ whole' = true
        ∧ u.monBlk v.port v.block = some b ∧ b.job = j ∧ b.job < 64 ∧ v.kind = 1 ∧ b.delivered = false ∧ chosen = false)
    ∧ (∃ (s : State) (dt : Nat) (k : Nat) (addr : Nat) (port : Nat) (e : Nat) (bytes : List Byte) (j : _) (b : _), let u := (s.pass dt).m;
        let v := verdictOf j (pageWords 32 bytes); let whole' : Bool := decide (addr % 32 = 0) && decide (bytes.length = 32);
        let chosen : Bool := (u.choosesItself && b.switchAt.isNone) || b.told = some 1; isCore k = true ∧ addr < 2 ^ 40 ∧ port < 16 ∧ e < 23
        ∧ s.live dt ∧ u.coreJob k = some j ∧ (u.core k).running = true ∧ 0x1800B40000 ≤ addr ∧ addr < 0x1800B80000 ∧ whole' = true
        ∧ u.monBlk v.port v.block = some b ∧ b.job = j ∧ b.job < 64 ∧ v.kind = 1 ∧ b.delivered = false ∧ chosen = true)
    ∧ (∃ (s : State) (dt : Nat) (k : Nat) (addr : Nat) (port : Nat) (e : Nat) (bytes : List Byte) (j : _) (b : _), let u := (s.pass dt).m;
        let v := verdictOf j (pageWords 32 bytes); let whole' : Bool := decide (addr % 32 = 0) && decide (bytes.length = 32); isCore k = true
        ∧ addr < 2 ^ 40 ∧ port < 16 ∧ e < 23 ∧ s.live dt ∧ u.coreJob k = some j ∧ (u.core k).running = true ∧ 0x1800B40000 ≤ addr
        ∧ addr < 0x1800B80000 ∧ whole' = true ∧ u.monBlk v.port v.block = some b ∧ b.job = j ∧ b.job < 64 ∧ (2 ≤ v.kind ∨ (v.kind = 1
        ∧ b.delivered = true)))
    ∧ (∃ (s : State) (dt : Nat) (k : Nat) (addr : Nat) (port : Nat) (e : Nat) (bytes : List Byte) (j : _), let u := (s.pass dt).m;
        let v := verdictOf j (pageWords 32 bytes); let whole' : Bool := decide (addr % 32 = 0) && decide (bytes.length = 32); isCore k = true
        ∧ addr < 2 ^ 40 ∧ port < 16 ∧ e < 23 ∧ s.live dt ∧ u.coreJob k = some j ∧ (u.core k).running = true ∧ 0x1800B40000 ≤ addr
        ∧ addr < 0x1800B80000 ∧ whole' = true ∧ ((∀ b, u.monBlk v.port v.block = some b → b.job ≠ j)))
    ∧ (∃ (s : State) (dt : Nat) (k : Nat) (addr : Nat) (port : Nat) (e : Nat) (bytes : List Byte) (j : _), let u := (s.pass dt).m;
        let whole' : Bool := decide (addr % 32 = 0) && decide (bytes.length = 32); isCore k = true ∧ addr < 2 ^ 40 ∧ port < 16 ∧ e < 23 ∧ s.live dt
        ∧ u.coreJob k = some j ∧ (u.core k).running = true ∧ 0x1800B40000 ≤ addr ∧ addr < 0x1800B80000 ∧ whole' = false)
    ∧ (∃ (s : State) (dt : Nat) (k : Nat) (addr : Nat) (port : Nat) (e : Nat), let u := (s.pass dt).m; isCore k = true ∧ addr < 2 ^ 40 ∧ port < 16
        ∧ e < 23 ∧ s.live dt ∧ (u.coreJob k = none ∨ (u.core k).running = false ∨ addr < 0x1800B40000 ∨ 0x1800B80000 ≤ addr)) :=
  ⟨⟨wst [] (coreMon (blkOf false none none)), 0, 6143, 0x1800B40000, 2, 22, vbytes 1, 0, blkOf false none none, by decide +kernel⟩,
   ⟨wst [] (coreMon { blkOf false none none with switchAt := none }), 0, 6143, 0x1800B40000, 2, 22, vbytes 1, 0, { blkOf false none none with switchAt := none }, by decide +kernel⟩,
   ⟨wst [] (coreMon (blkOf false none none)), 0, 6143, 0x1800B40000, 2, 22, vbytes 2, 0, blkOf false none none, by decide +kernel⟩,
   ⟨wst [] (coreMon { blkOf false none none with job := 1 }), 0, 6143, 0x1800B40000, 2, 22, vbytes 0, 0, by decide +kernel⟩,
   ⟨wst [] (coreMon (blkOf false none none)), 0, 6143, 0x1800B7FFE8, 2, 22, vbytes 0, 0, by decide +kernel⟩,
   ⟨wst [] (coreMon (blkOf false none none)), 0, 6143, 0x1800B80000, 2, 22, by decide +kernel⟩⟩

theorem wit_RestartsArmReportAndDecide_1 :
    (∃ (s : State) (dt : Nat) (agent : Nat) (val : Word), let u := (s.pass dt).m; let mode := (val.extractLsb' 1 2).toNat;
        let scope := u.get F.schRestartScope_JOBS; let ahead := wrapI 64 ((u.get F.schRestartAt_TICK : Int) - u.reel);
        let named := if scope = 2 ^ 64 - 1 then u.scopeJobs scope else (List.range 64).filter scope.testBit;
        let stands : Bool := !u.armed && decide (mode < 2) && (mode = 0 || scope = 2 ^ 64 - 1) && decide (1000000 ≤ ahead) && decide (ahead ≤ 10000000000) && named.all fun j => u.jobState j = 1 || u.jobState j = 4; s.live dt ∧ (s.pass dt).flips = [] ∧ s.heeds dt agent 11 ∧ val.getLsbD 0 = true ∧ stands = true)
    ∧ (∃ (s : State) (dt : Nat) (agent : Nat) (val : Word), let u := (s.pass dt).m; let mode := (val.extractLsb' 1 2).toNat;
        let scope := u.get F.schRestartScope_JOBS; let ahead := wrapI 64 ((u.get F.schRestartAt_TICK : Int) - u.reel);
        let named := if scope = 2 ^ 64 - 1 then u.scopeJobs scope else (List.range 64).filter scope.testBit;
        let stands : Bool := !u.armed && decide (mode < 2) && (mode = 0 || scope = 2 ^ 64 - 1) && decide (1000000 ≤ ahead) && decide (ahead ≤ 10000000000) && named.all fun j => u.jobState j = 1 || u.jobState j = 4; s.live dt ∧ (s.pass dt).flips = [] ∧ s.heeds dt agent 11 ∧ val.getLsbD 0 = true ∧ stands = false)
    ∧ (∃ (s : State) (dt : Nat) (agent : Nat) (val : Word), s.live dt ∧ (s.pass dt).flips = [] ∧ s.heeds dt agent 11 ∧ val.getLsbD 0 = false)
    ∧ (∃ (s : State) (dt : Nat), let u := (s.pass dt).m; let takes : Bool := !u.armed && !u.tngIs 1 && !u.tngIs 5; s.live dt ∧ (s.pass dt).flips = []
        ∧ takes = true)
    ∧ (∃ (s : State) (dt : Nat) (md : _), let u := (s.pass dt).m; let takes : Bool := !u.armed && !u.tngIs 1 && !u.tngIs 5; s.live dt
        ∧ (s.pass dt).flips = [] ∧ takes = false ∧ md ≠ 1)
    ∧ (∃ (s : State) (dt : Nat) (pos : _) (fol : _) (r : _), let u := (s.pass dt).m;
        let awaited : Bool := r.origin && r.go.isNone && !r.reports.contains (pos, fol) && decide (u.reel ≤ r.tick - 200000); s.live dt
        ∧ (s.pass dt).flips = [] ∧ pos < 32 ∧ u.restart = some r ∧ awaited = true)
    ∧ (∃ (s : State) (dt : Nat) (pos : _) (fol : _) (r : _), let u := (s.pass dt).m;
        let awaited : Bool := r.origin && r.go.isNone && !r.reports.contains (pos, fol) && decide (u.reel ≤ r.tick - 200000); s.live dt
        ∧ (s.pass dt).flips = [] ∧ pos < 32 ∧ u.restart = some r ∧ awaited = false)
    ∧ (∃ (s : State) (dt : Nat) (pos : _), let u := (s.pass dt).m; s.live dt ∧ (s.pass dt).flips = [] ∧ pos < 32 ∧ u.restart = none)
    ∧ (∃ (s : State) (dt : Nat) (r : _), let u := (s.pass dt).m; let due : Bool := r.origin && r.go.isNone && decide (r.tick - 200000 ≤ u.reel);
        let quiet := u.expected.filter fun p => !r.reports.contains p; let n := r.lags.length + quiet.length; s.live dt ∧ (s.pass dt).flips = []
        ∧ u.restart = some r ∧ due = true ∧ n = 0)
    ∧ (∃ (s : State) (dt : Nat) (r : _), let u := (s.pass dt).m; let due : Bool := r.origin && r.go.isNone && decide (r.tick - 200000 ≤ u.reel);
        let quiet := u.expected.filter fun p => !r.reports.contains p; let n := r.lags.length + quiet.length; s.live dt ∧ (s.pass dt).flips = []
        ∧ u.restart = some r ∧ due = true ∧ n ≠ 0)
    ∧ (∃ (s : State) (dt : Nat) (r : _), let u := (s.pass dt).m; let due : Bool := r.origin && r.go.isNone && decide (r.tick - 200000 ≤ u.reel);
        s.live dt ∧ (s.pass dt).flips = [] ∧ u.restart = some r ∧ due = false)
    ∧ (∃ (s : State) (dt : Nat) (r : _) (id : _) (go : _), let u := (s.pass dt).m; s.live dt ∧ (s.pass dt).flips = [] ∧ u.restart = some r
        ∧ r.origin = false ∧ r.id = id ∧ r.go = none ∧ go = true) :=
  ⟨⟨wst [(F.schRestartScope_JOBS, 2 ^ 64 - 1), (F.schRestartAt_TICK, 1000000)], 0, 1, 1, by decide +kernel⟩,
   ⟨wst [(F.schRestartScope_JOBS, 2 ^ 64 - 1), (F.schRestartAt_TICK, 999999)], 0, 1, 1, by decide +kernel⟩,
   ⟨wst [], 0, 1, 6, by decide +kernel⟩,
   ⟨wst [(F.tngStat_STATE, 0)], 0, by decide +kernel⟩,
   ⟨wst [(F.tngStat_STATE, 5)], 0, 0, by decide +kernel⟩,
   ⟨wst [] (fun m => { m with restart := some (restartOf true false none 300000) }), 0, 31, true, restartOf true false none 300000, by decide +kernel⟩,
   ⟨wst [] (fun m => { m with restart := some (restartOf true false none 199999) }), 0, 31, true, restartOf true false none 199999, by decide +kernel⟩,
   ⟨wst [], 0, 31, by decide +kernel⟩,
   ⟨wst [] (fun m => { m with restart := some { restartOf true false none 200000 with reports := [(0, false)] } }), 0, { restartOf true false none 200000 with reports := [(0, false)] }, by decide +kernel⟩,
   ⟨wst [] (fun m => { m with chain := [(3, true)], restart := some (restartOf true false none 200000) }), 0, restartOf true false none 200000, by decide +kernel⟩,
   ⟨wst [] (fun m => { m with restart := some (restartOf true false none 200001) }), 0, restartOf true false none 200001, by decide +kernel⟩,
   ⟨wst [] (fun m => { m with restart := some { restartOf false false none 300000 with id := 9 } }), 0, { restartOf false false none 300000 with id := 9 }, 9, true, by decide +kernel⟩⟩

theorem wit_RestartsArmReportAndDecide_2 :
    (∃ (s : State) (dt : Nat) (r : _) (id : _) (go : _), let u := (s.pass dt).m; s.live dt ∧ (s.pass dt).flips = [] ∧ u.restart = some r
        ∧ r.origin = false ∧ r.id = id ∧ r.go = none ∧ go = false)
    ∧ (∃ (s : State) (dt : Nat) (r : _) (id : _), let u := (s.pass dt).m; s.live dt ∧ (s.pass dt).flips = [] ∧ u.restart = some r
        ∧ (r.origin = true ∨ r.id ≠ id ∨ r.go ≠ none))
    ∧ (∃ (s : State) (dt : Nat), let u := (s.pass dt).m; s.live dt ∧ (s.pass dt).flips = [] ∧ u.restart = none)
    ∧ (∃ (s : State) (dt : Nat), let u := (s.pass dt).m; s.live dt ∧ (s.pass dt).flips = [] ∧ u.restart = none) :=
  ⟨⟨wst [] (fun m => { m with restart := some { restartOf false false none 300000 with id := 9 } }), 0, { restartOf false false none 300000 with id := 9 }, 9, false, by decide +kernel⟩,
   ⟨wst [] (fun m => { m with restart := some (restartOf false false none 300000) }), 0, restartOf false false none 300000, 9, by decide +kernel⟩,
   ⟨wst [], 0, by decide +kernel⟩,
   ⟨wst [], 0, by decide +kernel⟩⟩

theorem wit_RestartsStartAtTheirTick :
    (∃ (s : State) (dt : Nat) (r : _), let u := (s.pass dt).m; let due : Bool := !r.started && decide (r.tick ≤ u.reel); s.live dt
        ∧ u.restart = some r ∧ due = true ∧ r.go = some true)
    ∧ (∃ (s : State) (dt : Nat) (r : _), let u := (s.pass dt).m; let due : Bool := !r.started && decide (r.tick ≤ u.reel); s.live dt
        ∧ u.restart = some r ∧ due = true ∧ r.go ≠ some true)
    ∧ (∃ (s : State) (dt : Nat) (r : _), let u := (s.pass dt).m; let due : Bool := !r.started && decide (r.tick ≤ u.reel); s.live dt
        ∧ u.restart = some r ∧ due = false)
    ∧ (∃ (s : State) (dt : Nat) (r : _) (pos : _) (fol : _), let u := (s.pass dt).m; s.live dt ∧ u.restart = some r ∧ pos < 32 ∧ r.origin = true
        ∧ (pos, fol) ∉ r.acks)
    ∧ (∃ (s : State) (dt : Nat) (r : _) (pos : _) (fol : _), let u := (s.pass dt).m; s.live dt ∧ u.restart = some r ∧ pos < 32
        ∧ (r.origin = false ∨ (pos, fol) ∈ r.acks))
    ∧ (∃ (s : State) (dt : Nat) (r : _), let u := (s.pass dt).m; let overran : Bool := r.origin && r.started && decide (r.tick + 50000 ≤ u.reel);
        let quiet := u.expected.filter fun p => !r.acks.contains p; s.live dt ∧ u.restart = some r ∧ overran = true ∧ quiet = [])
    ∧ (∃ (s : State) (dt : Nat) (r : _), let u := (s.pass dt).m; let overran : Bool := r.origin && r.started && decide (r.tick + 50000 ≤ u.reel);
        let quiet := u.expected.filter fun p => !r.acks.contains p; s.live dt ∧ u.restart = some r ∧ overran = true ∧ quiet ≠ [])
    ∧ (∃ (s : State) (dt : Nat) (r : _), let u := (s.pass dt).m; let overran : Bool := r.origin && r.started && decide (r.tick + 50000 ≤ u.reel);
        s.live dt ∧ u.restart = some r ∧ overran = false)
    ∧ (∃ (s : State) (dt : Nat), let u := (s.pass dt).m; s.live dt ∧ u.restart = none)
    ∧ (∃ (s : State) (dt : Nat), let u := (s.pass dt).m; s.live dt ∧ u.restart = none)
    ∧ (∃ (s : State) (dt : Nat), let u := (s.pass dt).m; s.live dt ∧ u.restart = none) :=
  ⟨⟨wst [] (fun m => { m with restart := some { restartOf true false (some true) 0 with mode := 0 } }), 0, { restartOf true false (some true) 0 with mode := 0 }, by decide +kernel⟩,
   ⟨wst [] (fun m => { m with restart := some (restartOf false false none 0) }), 0, restartOf false false none 0, by decide +kernel⟩,
   ⟨wst [] (fun m => { m with restart := some (restartOf true true (some true) 0) }), 0, restartOf true true (some true) 0, by decide +kernel⟩,
   ⟨wst [] (fun m => { m with restart := some (restartOf true true (some true) 0) }), 0, restartOf true true (some true) 0, 31, true, by decide +kernel⟩,
   ⟨wst [] (fun m => { m with restart := some (restartOf false true (some true) 0) }), 0, restartOf false true (some true) 0, 31, true, by decide +kernel⟩,
   ⟨wst [] (fun m => { m with reelT := 50000 * 2 ^ 40, restart := some { restartOf true true (some true) 0 with acks := [(0, false)] } }), 0, { restartOf true true (some true) 0 with acks := [(0, false)] }, by decide +kernel⟩,
   ⟨wst [] (fun m => { m with chain := [(3, true)], reelT := 50000 * 2 ^ 40, restart := some (restartOf true true (some true) 0) }), 0, restartOf true true (some true) 0, by decide +kernel⟩,
   ⟨wst [] (fun m => { m with reelT := 49999 * 2 ^ 40, restart := some (restartOf true true (some true) 0) }), 0, restartOf true true (some true) 0, by decide +kernel⟩,
   ⟨wst [], 0, by decide +kernel⟩,
   ⟨wst [], 0, by decide +kernel⟩,
   ⟨wst [], 0, by decide +kernel⟩⟩

theorem wit_SyncObjectsAndMailboxes :
    (∃ (s : State) (dt : Nat) (agent : Nat) (val : Word), let inc := (val.extractLsb' 0 8).toNat; s.live dt ∧ (s.pass dt).m.stepsDone
        ∧ (s.pass dt).m.violated = [] ∧ s.heeds dt agent 12 ∧ inc ≠ 0)
    ∧ (∃ (s : State) (dt : Nat) (agent : Nat) (val : Word), let inc := (val.extractLsb' 0 8).toNat; s.live dt ∧ (s.pass dt).m.stepsDone
        ∧ (s.pass dt).m.violated = [] ∧ s.heeds dt agent 12 ∧ inc = 0)
    ∧ (∃ (s : State) (dt : Nat) (agent : Nat) (n : Nat), let u := (s.pass dt).m; s.live dt ∧ (s.pass dt).m.stepsDone ∧ (s.pass dt).m.violated = []
        ∧ s.heeds dt agent 12 ∧ n < 16384 ∧ u.jobLocked (u.get (F.synObj_OWNER n)) = false)
    ∧ (∃ (s : State) (dt : Nat) (agent : Nat) (n : Nat) (val : Word), let u := (s.pass dt).m; let mask : Word := 0xFE000000FFFFFFFF; s.live dt
        ∧ (s.pass dt).m.stepsDone ∧ (s.pass dt).m.violated = [] ∧ s.heeds dt agent 12 ∧ n < 16384 ∧ u.jobLocked (u.get (F.synObj_OWNER n)) = true
        ∧ (val ^^^ u.rd (R.synObj n)) &&& mask ≠ 0)
    ∧ (∃ (s : State) (dt : Nat) (agent : Nat) (n : Nat) (val : Word), let u := (s.pass dt).m; let mask : Word := 0xFE000000FFFFFFFF; s.live dt
        ∧ (s.pass dt).m.stepsDone ∧ (s.pass dt).m.violated = [] ∧ s.heeds dt agent 12 ∧ n < 16384 ∧ u.jobLocked (u.get (F.synObj_OWNER n)) = true
        ∧ (val ^^^ u.rd (R.synObj n)) &&& mask = 0)
    ∧ (∃ (s : State) (dt : Nat) (agent : Nat) (n : Nat), let u := (s.pass dt).m; let full := u.on (F.mbxSide_FULL n); s.live dt
        ∧ (s.pass dt).m.stepsDone ∧ (s.pass dt).m.violated = [] ∧ s.heeds dt agent 13 ∧ n < 512 ∧ full = false)
    ∧ (∃ (s : State) (dt : Nat) (agent : Nat) (n : Nat), let u := (s.pass dt).m; let full := u.on (F.mbxSide_FULL n); s.live dt
        ∧ (s.pass dt).m.stepsDone ∧ (s.pass dt).m.violated = [] ∧ s.heeds dt agent 13 ∧ n < 512 ∧ full = true)
    ∧ (∃ (s : State) (dt : Nat) (agent : Nat) (n : Nat), let u := (s.pass dt).m; let full := u.on (F.mbxSide_FULL n); s.live dt
        ∧ (s.pass dt).m.stepsDone ∧ (s.pass dt).m.violated = [] ∧ s.heeds dt agent 13 ∧ n < 512 ∧ full = true
        ∧ u.mbxWait.find? (fun w => w.mbx = n) = none)
    ∧ (∃ (s : State) (dt : Nat) (agent : Nat) (n : Nat) (w : _), let u := (s.pass dt).m; let full := u.on (F.mbxSide_FULL n); s.live dt
        ∧ (s.pass dt).m.stepsDone ∧ (s.pass dt).m.violated = [] ∧ s.heeds dt agent 13 ∧ n < 512 ∧ full = true
        ∧ u.mbxWait.find? (fun w => w.mbx = n) = some w)
    ∧ (∃ (s : State) (dt : Nat) (agent : Nat) (n : Nat), let u := (s.pass dt).m; let full := u.on (F.mbxSide_FULL n); s.live dt
        ∧ (s.pass dt).m.stepsDone ∧ (s.pass dt).m.violated = [] ∧ s.heeds dt agent 13 ∧ n < 512 ∧ full = false) :=
  ⟨⟨wst [] (·.modPort 3 fun p => { p with armed := true, obj := 16383, thr := 200 }), 0, 1, 0xFFFC0000000000FF, by decide +kernel⟩,
   ⟨wst [], 0, 1, 0xFFFC000000000000, by decide +kernel⟩,
   ⟨wst [] (·.modPort 3 fun p => { p with armed := true, obj := 16383, thr := 200 }), 0, 1, 16383, by decide +kernel⟩,
   ⟨wst [(F.schJobStat_STATE 5, 2), (F.synObj_OWNER 16383, 5)], 0, 1, 16383, 0xFFFC0000000000FF, by decide +kernel⟩,
   ⟨wst [(F.schJobStat_STATE 0, 2)], 0, 1, 16383, 0, by decide +kernel⟩,
   ⟨wst [(F.mbxSide_FULL 511, 0)], 0, 1, 511, by decide +kernel⟩,
   ⟨wst [(F.mbxSide_FULL 511, 1)], 0, 1, 511, by decide +kernel⟩,
   ⟨wst [(F.mbxSide_FULL 511, 1)], 0, 1, 511, by decide +kernel⟩,
   ⟨wst [(F.mbxSide_FULL 511, 1)] (fun m => { m with mbxWait := [⟨511, 6143, 9, 77, 31⟩] }), 0, 1, 511, ⟨511, 6143, 9, 77, 31⟩, by decide +kernel⟩,
   ⟨wst [(F.mbxSide_FULL 511, 0)], 0, 1, 511, by decide +kernel⟩⟩

theorem wit_StepsIssueWorkItems :
    (∃ (s : State) (dt : Nat) (e : Nat), let u := (s.pass dt).m; let st := u.hopNext e; let j := u.hopJob e;
        let b := bucketOf (u.rows e st * u.across e); let k := u.ringIdx j b; let slots := max 1 (u.get (F.hopJobList_SLOTS j));
        let a := u.get (F.hopJobList_BASE j) + (b * slots + k % slots) * 32; let list := (u.get (F.hopJobSync_LIST_OBJ j) + b) % 16384;
        let halo (r : Bool) : Nat := u.haloObj e r; let masks := (List.range (u.layers e)).map fun l => (u.maskAddr e st l, u.maskB e);
        let turn : Bool := u.mayIssue e && u.ringRoom j b && !u.traceStalls 0x060 && !u.outranked e;
        let known : Bool := (u.stepPages e st).all fun vp => (u.page e vp).isSome;
        let back : Bool := u.pages.all fun p => p.ent ≠ e || p.st = .resident;
        let free : Prop := (u.hopEnt e).held = [] ∧ u.violated = [] ∧ (s.pass dt).unflipped ∧ u.on F.hopPoolStat_SPILLING = false;
        let reach : Bool := masks.all fun x => (u.reaches (u.hopAcc e) true x.1 x.2).1;
        let owns : Bool := [list, halo false, halo true].all (u.synOwns j); e < 1024 ∧ s.live dt ∧ turn = true ∧ (u.hopClass e = 0 ∨ (known = true
        ∧ back = true)) ∧ free ∧ (u.itemTasks j).isSome = true ∧ reach = true ∧ (u.reaches (u.hopAcc e) true a 32).1 = true ∧ st + 1 < 2 ^ 64
        ∧ owns = true ∧ list ≠ halo false ∧ list ≠ halo true ∧ halo false ≠ halo true ∧ ((∀ x ∈ masks, a + 32 ≤ x.1 ∨ x.1 + x.2 ≤ a)))
    ∧ (∃ (s : State) (dt : Nat) (e : Nat), let u := (s.pass dt).m; let st := u.hopNext e; let j := u.hopJob e;
        let b := bucketOf (u.rows e st * u.across e); let turn : Bool := u.mayIssue e && u.ringRoom j b && !u.traceStalls 0x060 && !u.outranked e;
        let known : Bool := (u.stepPages e st).all fun vp => (u.page e vp).isSome;
        let back : Bool := u.pages.all fun p => p.ent ≠ e || p.st = .resident;
        let free : Prop := (u.hopEnt e).held = [] ∧ u.violated = [] ∧ (s.pass dt).unflipped ∧ u.on F.hopPoolStat_SPILLING = false; e < 1024
        ∧ s.live dt ∧ turn = true ∧ u.hopClass e ≠ 0 ∧ free ∧ known = true ∧ back = false)
    ∧ (∃ (s : State) (dt : Nat) (e : Nat), let u := (s.pass dt).m; let st := u.hopNext e; let j := u.hopJob e;
        let b := bucketOf (u.rows e st * u.across e); let turn : Bool := u.mayIssue e && u.ringRoom j b && !u.traceStalls 0x060 && !u.outranked e;
        let known : Bool := (u.stepPages e st).all fun vp => (u.page e vp).isSome;
        let free : Prop := (u.hopEnt e).held = [] ∧ u.violated = [] ∧ (s.pass dt).unflipped ∧ u.on F.hopPoolStat_SPILLING = false; e < 1024
        ∧ s.live dt ∧ turn = true ∧ u.hopClass e ≠ 0 ∧ free ∧ known = false ∧ u.freeFrame = none)
    ∧ (∃ (s : State) (dt : Nat) (e : Nat), let u := (s.pass dt).m; let st := u.hopNext e; let j := u.hopJob e;
        let b := bucketOf (u.rows e st * u.across e); let masks := (List.range (u.layers e)).map fun l => (u.maskAddr e st l, u.maskB e);
        let turn : Bool := u.mayIssue e && u.ringRoom j b && !u.traceStalls 0x060 && !u.outranked e;
        let free : Prop := (u.hopEnt e).held = [] ∧ u.violated = [] ∧ (s.pass dt).unflipped ∧ u.on F.hopPoolStat_SPILLING = false;
        let reach : Bool := masks.all fun x => (u.reaches (u.hopAcc e) true x.1 x.2).1; e < 1024 ∧ s.live dt ∧ turn = true ∧ u.hopClass e = 0 ∧ free
        ∧ (u.itemTasks j).isSome = true ∧ reach = false)
    ∧ (∃ (s : State) (dt : Nat) (e : Nat), let u := (s.pass dt).m; let st := u.hopNext e; let j := u.hopJob e;
        let b := bucketOf (u.rows e st * u.across e); let turn : Bool := u.mayIssue e && u.ringRoom j b && !u.traceStalls 0x060 && !u.outranked e;
        let free : Prop := (u.hopEnt e).held = [] ∧ u.violated = [] ∧ (s.pass dt).unflipped ∧ u.on F.hopPoolStat_SPILLING = false; e < 1024
        ∧ s.live dt ∧ turn = true ∧ u.hopClass e = 0 ∧ free ∧ u.itemTasks j = none)
    ∧ (∃ (s : State) (dt : Nat) (e : Nat), let u := (s.pass dt).m; let st := u.hopNext e; let j := u.hopJob e;
        let b := bucketOf (u.rows e st * u.across e); let turn : Bool := u.mayIssue e && u.ringRoom j b && !u.traceStalls 0x060 && !u.outranked e;
        e < 1024 ∧ s.live dt ∧ turn = false) :=
  ⟨⟨wst [(F.memFlipCtl_ARM, 0), (F.hopPoolStat_SPILLING, 0)] (hopSt [] id), 0, 1023, by decide +kernel⟩,
   ⟨wst [(F.memFlipCtl_ARM, 0), (F.hopPoolStat_SPILLING, 0)] (fun m => { hopSt [(F.schJobStat_CLASS 0, 1)] id m with pages := [⟨1023, 0, none, some 4, .spilled, 0⟩] }), 0, 1023, by decide +kernel⟩,
   ⟨wst [(F.memFlipCtl_ARM, 0), (F.hopPoolStat_SPILLING, 0), (F.hopPool_NPAGES, 0)] (hopSt [(F.schJobStat_CLASS 0, 1)] id), 0, 1023, by decide +kernel⟩,
   ⟨wst [(F.memFlipCtl_ARM, 0), (F.hopPoolStat_SPILLING, 0)] (hopSt [(F.hopEntSync2_MASK 1023, 0xF000000000)] id), 0, 1023, by decide +kernel⟩,
   ⟨wst [(F.memFlipCtl_ARM, 0), (F.hopPoolStat_SPILLING, 0)] (fun m => { hopSt [] id m with asms := List.replicate 64 ⟨0, 1, tileOn 1 0 2 false⟩, jobs := [(0, { jobOf 0 with itemTasks := [wds8 (2 ^ 46)] })] }), 0, 1023, by decide +kernel⟩,
   ⟨wst [(F.memFlipCtl_ARM, 0)] (hopSt [(F.synObj_VALUE 16383, 0)] id), 0, 1023, by decide +kernel⟩⟩

theorem wit_HalosMoveOrDetach_1 :
    (∃ (s : State) (dt : Nat) (e : Nat) (side : Nat), let u := (s.pass dt).m; let right : Bool := side = 1; let h := (u.hopEnt e).side right;
        let layers := u.layers e; let ty := u.nbrType e right;
        let sends : Bool := decide (h.sent < u.hopNext e * layers) && (u.hopEnt e).live && (ty = 1 || ty = 2) && satisfied (u.get (F.synObj_VALUE (u.get (F.hopEntSync_EDGE_OBJ e)))) ((h.sent + 1) % 2 ^ 32); e < 1024 ∧ side < 2 ∧ s.live dt ∧ sends = true ∧ ty = 1)
    ∧ (∃ (s : State) (dt : Nat) (e : Nat) (side : Nat) (b : _), let u := (s.pass dt).m; let right : Bool := side = 1;
        let h := (u.hopEnt e).side right; let layers := u.layers e; let ty := u.nbrType e right;
        let sends : Bool := decide (h.sent < u.hopNext e * layers) && (u.hopEnt e).live && (ty = 1 || ty = 2) && satisfied (u.get (F.synObj_VALUE (u.get (F.hopEntSync_EDGE_OBJ e)))) ((h.sent + 1) % 2 ^ 32); let edge := (s.pass dt).fx.edgeTokens e right (h.sent / layers) (h.sent % layers); e < 1024 ∧ side < 2 ∧ s.live dt ∧ sends = true ∧ ty = 2 ∧ edge.1 = .ok b)
    ∧ (∃ (s : State) (dt : Nat) (e : Nat) (side : Nat), let u := (s.pass dt).m; let right : Bool := side = 1; let h := (u.hopEnt e).side right;
        let layers := u.layers e; let ty := u.nbrType e right;
        let sends : Bool := decide (h.sent < u.hopNext e * layers) && (u.hopEnt e).live && (ty = 1 || ty = 2) && satisfied (u.get (F.synObj_VALUE (u.get (F.hopEntSync_EDGE_OBJ e)))) ((h.sent + 1) % 2 ^ 32); let edge := (s.pass dt).fx.edgeTokens e right (h.sent / layers) (h.sent % layers); e < 1024 ∧ side < 2 ∧ s.live dt ∧ sends = true ∧ ty = 2 ∧ edge.1 = .absent)
    ∧ (∃ (s : State) (dt : Nat) (e : Nat) (side : Nat), let u := (s.pass dt).m; let right : Bool := side = 1; let h := (u.hopEnt e).side right;
        let layers := u.layers e; let ty := u.nbrType e right;
        let sends : Bool := decide (h.sent < u.hopNext e * layers) && (u.hopEnt e).live && (ty = 1 || ty = 2) && satisfied (u.get (F.synObj_VALUE (u.get (F.hopEntSync_EDGE_OBJ e)))) ((h.sent + 1) % 2 ^ 32); let edge := (s.pass dt).fx.edgeTokens e right (h.sent / layers) (h.sent % layers); e < 1024 ∧ side < 2 ∧ s.live dt ∧ sends = true ∧ ty = 2 ∧ edge.1 = .error)
    ∧ (∃ (s : State) (dt : Nat) (e : Nat) (side : Nat), let u := (s.pass dt).m; let right : Bool := side = 1; let h := (u.hopEnt e).side right;
        let layers := u.layers e; let ty := u.nbrType e right;
        let sends : Bool := decide (h.sent < u.hopNext e * layers) && (u.hopEnt e).live && (ty = 1 || ty = 2) && satisfied (u.get (F.synObj_VALUE (u.get (F.hopEntSync_EDGE_OBJ e)))) ((h.sent + 1) % 2 ^ 32); e < 1024 ∧ side < 2 ∧ s.live dt ∧ sends = false)
    ∧ (∃ (s : State) (dt : Nat) (e : Nat) (side : Nat) (b : _), let u := (s.pass dt).m; let right : Bool := side = 1;
        let h := (u.hopEnt e).side right; let layers := u.layers e; let ty := u.nbrType e right; let dst := u.nbrEnt e right;
        let d := (u.hopEnt dst).side !right; let copies : Bool := ty = 1 && decide (h.copied < h.sent) && (u.hopEnt e).live;
        let takes : Bool := (u.hopEnt dst).live && !d.shut layers && decide (d.got = h.copied);
        let tokens := (s.pass dt).fx.edgeTokens e right (h.copied / layers) (h.copied % layers); e < 1024 ∧ side < 2 ∧ s.live dt ∧ copies = true
        ∧ tokens.1 = .ok b ∧ takes = true ∧ dst < 1024)
    ∧ (∃ (s : State) (dt : Nat) (e : Nat) (side : Nat) (b : _), let u := (s.pass dt).m; let right : Bool := side = 1;
        let h := (u.hopEnt e).side right; let layers := u.layers e; let ty := u.nbrType e right; let dst := u.nbrEnt e right;
        let d := (u.hopEnt dst).side !right; let copies : Bool := ty = 1 && decide (h.copied < h.sent) && (u.hopEnt e).live;
        let takes : Bool := (u.hopEnt dst).live && !d.shut layers && decide (d.got = h.copied);
        let tokens := (s.pass dt).fx.edgeTokens e right (h.copied / layers) (h.copied % layers); e < 1024 ∧ side < 2 ∧ s.live dt ∧ copies = true
        ∧ tokens.1 = .ok b ∧ takes = false ∧ u.hopState e = 2)
    ∧ (∃ (s : State) (dt : Nat) (e : Nat) (side : Nat), let u := (s.pass dt).m; let right : Bool := side = 1; let h := (u.hopEnt e).side right;
        let layers := u.layers e; let ty := u.nbrType e right; let copies : Bool := ty = 1 && decide (h.copied < h.sent) && (u.hopEnt e).live;
        let tokens := (s.pass dt).fx.edgeTokens e right (h.copied / layers) (h.copied % layers); e < 1024 ∧ side < 2 ∧ s.live dt ∧ copies = true
        ∧ tokens.1 = .absent)
    ∧ (∃ (s : State) (dt : Nat) (e : Nat) (side : Nat), let u := (s.pass dt).m; let right : Bool := side = 1; let h := (u.hopEnt e).side right;
        let layers := u.layers e; let ty := u.nbrType e right; let copies : Bool := ty = 1 && decide (h.copied < h.sent) && (u.hopEnt e).live;
        let tokens := (s.pass dt).fx.edgeTokens e right (h.copied / layers) (h.copied % layers); e < 1024 ∧ side < 2 ∧ s.live dt ∧ copies = true
        ∧ tokens.1 = .error)
    ∧ (∃ (s : State) (dt : Nat) (e : Nat) (side : Nat), let u := (s.pass dt).m; let right : Bool := side = 1; let h := (u.hopEnt e).side right;
        let ty := u.nbrType e right; let copies : Bool := ty = 1 && decide (h.copied < h.sent) && (u.hopEnt e).live; e < 1024 ∧ side < 2 ∧ s.live dt
        ∧ copies = false)
    ∧ (∃ (s : State) (dt : Nat) (e : Nat) (side : Nat) (w0 : Word) (w1 : Word) (w2 : Word) (payload : List Byte), let u := (s.pass dt).m;
        let j := u.hopJob e; let right : Bool := side = 1; let hd := haloHdr w0; let step : Int := (w1.toNat : Int) - u.stepBase j;
        let halo : Bool := hd.typ = 0x48 && hd.ver = 1 && !hd.fin && payload.length = 2048 && !u.replaying; e < 1024 ∧ side < 2 ∧ s.live dt
        ∧ hd.dst = e ∧ hd.right = right ∧ halo = true ∧ u.haloReason hd step w2 = none)
    ∧ (∃ (s : State) (dt : Nat) (e : Nat) (side : Nat) (w0 : Word) (w1 : Word) (w2 : Word) (payload : List Byte), let u := (s.pass dt).m;
        let j := u.hopJob e; let hd := haloHdr w0; let step : Int := (w1.toNat : Int) - u.stepBase j;
        let halo : Bool := hd.typ = 0x48 && hd.ver = 1 && !hd.fin && payload.length = 2048 && !u.replaying; e < 1024 ∧ side < 2 ∧ s.live dt
        ∧ hd.dst = e ∧ halo = true ∧ u.haloReason hd step w2 ≠ none) :=
  ⟨⟨wst [] (hopSt (edgeOn ++ [(F.hopEntNbr_R_TYPE 1023, 1)]) id), 0, 1023, 1, by decide +kernel⟩,
   ⟨{ wst [] (hopSt (edgeOn ++ [(F.hopEntNbr_R_TYPE 1023, 2)]) id) with mem := pageMem }, 0, 1023, 1, tokB ({ wst [] (hopSt (edgeOn ++ [(F.hopEntNbr_R_TYPE 1023, 2)]) id) with mem := pageMem }), by decide +kernel⟩,
   ⟨wst [] (hopSt (edgeOn ++ [(F.hopEntNbr_R_TYPE 1023, 2)]) id), 0, 1023, 1, by decide +kernel⟩,
   ⟨wst [] (hopSt (edgeOn ++ [(F.hopEntNbr_R_TYPE 1023, 2), (F.hopEntPt_ROOT 1023, 0xF000000000 / 512 % 2 ^ 31)]) id), 0, 1023, 1, by decide +kernel⟩,
   ⟨wst [] (hopSt (edgeOn ++ [(F.hopEntNbr_R_TYPE 1023, 0)]) id), 0, 1023, 1, by decide +kernel⟩,
   ⟨{ wst [] (fun m => ((hopSt [(F.hopEntNbr_R_TYPE 1023, 1), (F.hopEntNbr_R_ENTRY 1023, 1022), (F.hopEntNbr_L_TYPE 1022, 1), (F.hopEntCfg_WIN_ROWS 1022, 2), (F.hopEntPt_ROOT 1022, 0x800000 / 512), (F.hopEntSync_HALO_L_OBJ 1022, 77), (F.memFlipCtl_ARM, 0)] (fun h => { h with right := { h.right with sent := 1 } }) m).modHop 1022 fun h => { h with live := true })) with mem := pageMem }, 0, 1023, 1, tokB ({ wst [] (fun m => ((hopSt [(F.hopEntNbr_R_TYPE 1023, 1), (F.hopEntNbr_R_ENTRY 1023, 1022), (F.hopEntNbr_L_TYPE 1022, 1), (F.hopEntCfg_WIN_ROWS 1022, 2), (F.hopEntPt_ROOT 1022, 0x800000 / 512), (F.hopEntSync_HALO_L_OBJ 1022, 77), (F.memFlipCtl_ARM, 0)] (fun h => { h with right := { h.right with sent := 1 } }) m).modHop 1022 fun h => { h with live := true })) with mem := pageMem }), by decide +kernel⟩,
   ⟨{ wst [] (hopSt [(F.hopEntNbr_R_TYPE 1023, 1), (F.hopEntNbr_R_ENTRY 1023, 1022)] fun h => { h with right := { h.right with sent := 1 } }) with mem := pageMem }, 0, 1023, 1, tokB ({ wst [] (hopSt [(F.hopEntNbr_R_TYPE 1023, 1), (F.hopEntNbr_R_ENTRY 1023, 1022)] fun h => { h with right := { h.right with sent := 1 } }) with mem := pageMem }), by decide +kernel⟩,
   ⟨wst [] (hopSt [(F.hopEntNbr_R_TYPE 1023, 1)] fun h => { h with right := { h.right with sent := 1 } }), 0, 1023, 1, by decide +kernel⟩,
   ⟨wst [] (hopSt [(F.hopEntNbr_R_TYPE 1023, 1), (F.hopEntPt_ROOT 1023, 0xF000000000 / 512 % 2 ^ 31)] fun h => { h with right := { h.right with sent := 1 } }), 0, 1023, 1, by decide +kernel⟩,
   ⟨wst [] (hopSt [(F.hopEntNbr_R_TYPE 1023, 1)] id), 0, 1023, 1, by decide +kernel⟩,
   ⟨wst [(F.tngStat_STATE, 0)] (hopSt [(F.hopEntNbr_R_TYPE 1023, 2), (F.hopEntNbr_R_POS 1023, 3), (F.hopEntNbr_R_ENTRY 1023, 9)] id), 0, 1023, 1, hdr 0, 0, 0, List.replicate 2048 (3 : Byte), by decide +kernel⟩,
   ⟨wst [] (hopSt [(F.hopEntNbr_R_TYPE 1023, 2), (F.hopEntNbr_R_POS 1023, 3), (F.hopEntNbr_R_ENTRY 1023, 8)] id), 0, 1023, 1, hdr 0, 0, 0, List.replicate 2048 (3 : Byte), by decide +kernel⟩⟩

theorem wit_HalosMoveOrDetach_2 :
    (∃ (s : State) (dt : Nat) (e : Nat) (side : Nat) (w0 : Word) (payload : List Byte), let u := (s.pass dt).m; let hd := haloHdr w0;
        let halo : Bool := hd.typ = 0x48 && hd.ver = 1 && !hd.fin && payload.length = 2048 && !u.replaying; e < 1024 ∧ side < 2 ∧ s.live dt
        ∧ halo = false)
    ∧ (∃ (s : State) (dt : Nat) (e : Nat) (side : Nat) (w0 : Word) (w1 : Word) (w2 : Word), let u := (s.pass dt).m; let j := u.hopJob e;
        let right : Bool := side = 1; let hd := haloHdr w0; let step : Int := (w1.toNat : Int) - u.stepBase j;
        let fin : Bool := hd.typ = 0x48 && hd.ver = 1 && hd.fin && !u.replaying; e < 1024 ∧ side < 2 ∧ s.live dt ∧ hd.dst = e ∧ hd.right = right
        ∧ fin = true ∧ u.haloReason hd step w2 = none)
    ∧ (∃ (s : State) (dt : Nat) (e : Nat) (side : Nat) (w0 : Word) (w1 : Word) (w2 : Word), let u := (s.pass dt).m; let j := u.hopJob e;
        let hd := haloHdr w0; let step : Int := (w1.toNat : Int) - u.stepBase j;
        let fin : Bool := hd.typ = 0x48 && hd.ver = 1 && hd.fin && !u.replaying; e < 1024 ∧ side < 2 ∧ s.live dt ∧ hd.dst = e ∧ fin = true
        ∧ u.haloReason hd step w2 ≠ none)
    ∧ (∃ (s : State) (dt : Nat) (e : Nat) (side : Nat) (w0 : Word), let u := (s.pass dt).m; let hd := haloHdr w0;
        let fin : Bool := hd.typ = 0x48 && hd.ver = 1 && hd.fin && !u.replaying; e < 1024 ∧ side < 2 ∧ s.live dt ∧ fin = false)
    ∧ (∃ (s : State) (dt : Nat) (e : Nat) (side : Nat) (at' : Int) (tmo : Nat), let u := (s.pass dt).m; let right : Bool := side = 1;
        let h := (u.hopEnt e).side right; let st := h.got / u.layers e;
        let late : Bool := decide (at' + u.get F.hopHaloCfg_LATE_NS ≤ u.reel) && h.lateFor ≠ some st; e < 1024 ∧ side < 2 ∧ s.live dt
        ∧ u.sideWaits e right = some (at', tmo) ∧ late = true)
    ∧ (∃ (s : State) (dt : Nat) (e : Nat) (side : Nat) (at' : Int) (tmo : Nat), let u := (s.pass dt).m; let right : Bool := side = 1;
        let h := (u.hopEnt e).side right; let st := h.got / u.layers e;
        let late : Bool := decide (at' + u.get F.hopHaloCfg_LATE_NS ≤ u.reel) && h.lateFor ≠ some st; e < 1024 ∧ side < 2 ∧ s.live dt
        ∧ u.sideWaits e right = some (at', tmo) ∧ late = false)
    ∧ (∃ (s : State) (dt : Nat) (e : Nat) (side : Nat) (at' : Int) (tmo : Nat), let u := (s.pass dt).m; let right : Bool := side = 1;
        let overran : Bool := decide (at' + (tmo : Int) * 1000 ≤ u.reel) && !u.follower && !u.replaying; e < 1024 ∧ side < 2 ∧ s.live dt
        ∧ u.sideWaits e right = some (at', tmo) ∧ overran = true)
    ∧ (∃ (s : State) (dt : Nat) (e : Nat) (side : Nat) (at' : Int) (tmo : Nat), let u := (s.pass dt).m; let right : Bool := side = 1;
        let overran : Bool := decide (at' + (tmo : Int) * 1000 ≤ u.reel) && !u.follower && !u.replaying; e < 1024 ∧ side < 2 ∧ s.live dt
        ∧ u.sideWaits e right = some (at', tmo) ∧ overran = false)
    ∧ (∃ (s : State) (dt : Nat) (e : Nat) (side : Nat), let u := (s.pass dt).m; let right : Bool := side = 1; e < 1024 ∧ side < 2 ∧ s.live dt
        ∧ u.sideWaits e right = none) :=
  ⟨⟨wst [] (hopSt [] id), 0, 1023, 1, hdr 0, [1], by decide +kernel⟩,
   ⟨wst [(F.tngStat_STATE, 0)] (hopSt [(F.hopEntNbr_R_TYPE 1023, 2), (F.hopEntNbr_R_POS 1023, 3), (F.hopEntNbr_R_ENTRY 1023, 9)] id), 0, 1023, 1, hdr 1, 0, 0, by decide +kernel⟩,
   ⟨wst [] (hopSt [(F.hopEntStat_STATE 1023, 4)] id), 0, 1023, 1, hdr 1, 0, 0, by decide +kernel⟩,
   ⟨wst [] (hopSt [] id), 0, 1023, 1, hdr 0, by decide +kernel⟩,
   ⟨wst [] (fun m => { hopSt [(F.hopEntNbr_R_TYPE 1023, 2), (F.hopEntStep_STEP 1023, 1)] (fun h => { h with edgeAt := [(1, 0, 0)] }) m with reelT := 10 ^ 9 * 2 ^ 40 }), 0, 1023, 1, (0 : Int), 0, by decide +kernel⟩,
   ⟨wst [] (fun m => { hopSt [(F.hopEntNbr_R_TYPE 1023, 2), (F.hopEntStep_STEP 1023, 1)] (fun h => { h with right := { h.right with lateFor := some 0 }, edgeAt := [(1, 0, 0)] }) m with reelT := 10 ^ 9 * 2 ^ 40 }), 0, 1023, 1, (0 : Int), 0, by decide +kernel⟩,
   ⟨wst [(F.tngStat_STATE, 0)] (hopSt [(F.hopEntNbr_R_TYPE 1023, 2), (F.hopEntStep_STEP 1023, 1)] (fun h => { h with edgeAt := [(1, 0, 0)] })), 0, 1023, 1, (0 : Int), 0, by decide +kernel⟩,
   ⟨wst [(F.tngStat_STATE, 3)] (hopSt [(F.hopEntNbr_R_TYPE 1023, 2), (F.hopEntStep_STEP 1023, 1)] (fun h => { h with edgeAt := [(1, 0, 0)] })), 0, 1023, 1, (0 : Int), 0, by decide +kernel⟩,
   ⟨wst [] (hopSt [] id), 0, 1023, 1, by decide +kernel⟩⟩

theorem wit_PagesSpillAndReturn :
    (∃ (s : State) (dt : Nat) (e : Nat) (vp : Nat) (p : _) (f : _) (n : _), let u := (s.pass dt).m; let acc : Acc := { agent := 0x060 };
        let still : Prop := (s.pass dt).unflipped ∧ (u.on F.hopPoolStat_SPILLING = false ∨ u.victims = []) ∧ (∀ y ∈ u.hop, y.1 ≠ e → y.2.live = true → y.2.fetching = false ∧ y.2.stalled = none); let next : Bool := p.st = .resident && u.least (u.victims.filter fun q => u.hopJob q.ent = u.hopJob e) = some p && u.on (F.schJobStat_PREEMPTED (u.hopJob e)) && u.hopClass e != 0 && decide ((u.pages.filter fun q => q.st = .spilling).length < 8); e < 1024 ∧ s.live dt ∧ u.page e vp = some p ∧ ((∀ q ∈ u.pages, q.ent = e → q.vpage = vp → q = p)) ∧ p.frame = some f ∧ ((p.st = .spilling ∧ p.slot = some n) ∨ (next = true ∧ u.freeSlot = some n)) ∧ u.stalls (u.slotAddr n) = false ∧ still ∧ (s.pass dt).tableOpen e vp = true ∧ (u.hopEnt e).fetching = false ∧ (u.hopEnt e).stalled = none ∧ (u.reaches acc false (u.frameAddr f) 16384).1 = true ∧ (u.reaches acc true (u.slotAddr n) 16384).1 = true ∧ ((∀ pa, (s.pass dt).tableAt e vp = some pa → ∀ r ∈ [u.slotAddr n, u.frameAddr f], pa + 8 ≤ r ∨ r + 16384 ≤ pa)) ∧ ((∀ pa, (s.pass dt).tableAt e vp = some pa → ∀ r ∈ [u.get (F.hopEntPt_ROOT e) * 512 + vp / 64 * 8], (pa + 8 ≤ r ∨ r + 8 ≤ pa) ∧ (r + 8 ≤ u.slotAddr n ∨ u.slotAddr n + 16384 ≤ r))) ∧ vp < 4096)
    ∧ (∃ (s : State) (dt : Nat) (e : Nat) (vp : Nat) (p : _), let u := (s.pass dt).m;
        let next : Bool := p.st = .resident && u.least (u.victims.filter fun q => u.hopJob q.ent = u.hopJob e) = some p && u.on (F.schJobStat_PREEMPTED (u.hopJob e)) && u.hopClass e != 0 && decide ((u.pages.filter fun q => q.st = .spilling).length < 8); e < 1024 ∧ s.live dt ∧ u.page e vp = some p ∧ ((∀ q ∈ u.pages, q.ent = e → q.vpage = vp → q = p)) ∧ p.st ≠ .spilling ∧ next = false)
    ∧ (∃ (s : State) (dt : Nat) (e : Nat) (vp : Nat) (p : _) (n : _), let u := (s.pass dt).m; e < 1024 ∧ s.live dt ∧ u.page e vp = some p
        ∧ ((∀ q ∈ u.pages, q.ent = e → q.vpage = vp → q = p)) ∧ p.st = .spilling ∧ p.slot = some n ∧ u.stalls (u.slotAddr n) = true)
    ∧ (∃ (s : State) (dt : Nat) (e : Nat) (vp : Nat) (p : _) (f : _) (n : _), let u := (s.pass dt).m; let acc : Acc := { agent := 0x060 };
        let still : Prop := (s.pass dt).unflipped ∧ (u.on F.hopPoolStat_SPILLING = false ∨ u.victims = []) ∧ (∀ y ∈ u.hop, y.1 ≠ e → y.2.live = true → y.2.fetching = false ∧ y.2.stalled = none); e < 1024 ∧ s.live dt ∧ u.page e vp = some p ∧ ((∀ q ∈ u.pages, q.ent = e → q.vpage = vp → q = p)) ∧ p.frame = some f ∧ p.slot = some n ∧ p.st = .fetching ∧ u.stalls (u.slotAddr n) = false ∧ still ∧ (s.pass dt).tableOpen e vp = true ∧ (u.hopEnt e).held = [] ∧ ((∀ q ∈ u.pages, q.ent = e → q.st ≠ .spilled)) ∧ (u.reaches acc false (u.slotAddr n) 16384).1 = true ∧ (u.reaches acc true (u.frameAddr f) 16384).1 = true ∧ ((∀ pa, (s.pass dt).tableAt e vp = some pa → pa + 8 ≤ u.frameAddr f ∨ u.frameAddr f + 16384 ≤ pa)) ∧ ((∀ r ∈ [u.get (F.hopEntPt_ROOT e) * 512 + vp / 64 * 8], r + 8 ≤ u.frameAddr f ∨ u.frameAddr f + 16384 ≤ r)) ∧ vp < 4096)
    ∧ (∃ (s : State) (dt : Nat) (e : Nat) (vp : Nat) (p : _) (n : _), let u := (s.pass dt).m; e < 1024 ∧ s.live dt ∧ u.page e vp = some p
        ∧ ((∀ q ∈ u.pages, q.ent = e → q.vpage = vp → q = p)) ∧ p.slot = some n ∧ (p.st ≠ .fetching ∨ u.stalls (u.slotAddr n) = true))
    ∧ (∃ (s : State) (dt : Nat) (e : Nat) (vp : Nat), let u := (s.pass dt).m; e < 1024 ∧ s.live dt ∧ u.page e vp = none)
    ∧ (∃ (s : State) (dt : Nat) (e : Nat), let u := (s.pass dt).m;
        let due : Bool := match (u.hopEnt e).formed with | a :: b :: _ => decide (a + (a - b) - ((u.hopEnt e).lead : Int) * 1000 ≤ u.reel) | _ => false; let go : Bool := (u.hopEnt e).live && u.hopClass e != 0 && !(u.hopEnt e).fetching && (due || u.on (F.schJobStat_PREEMPTED (u.hopJob e))); let away := u.pages.filter fun p => p.ent = e && p.st = .spilled; e < 1024 ∧ s.live dt ∧ go = true ∧ away = [])
    ∧ (∃ (s : State) (dt : Nat) (e : Nat), let u := (s.pass dt).m;
        let due : Bool := match (u.hopEnt e).formed with | a :: b :: _ => decide (a + (a - b) - ((u.hopEnt e).lead : Int) * 1000 ≤ u.reel) | _ => false; let go : Bool := (u.hopEnt e).live && u.hopClass e != 0 && !(u.hopEnt e).fetching && (due || u.on (F.schJobStat_PREEMPTED (u.hopJob e))); e < 1024 ∧ s.live dt ∧ go = true)
    ∧ (∃ (s : State) (dt : Nat) (e : Nat) (p : _) (f : _) (n : _), let u := (s.pass dt).m;
        let due : Bool := match (u.hopEnt e).formed with | a :: b :: _ => decide (a + (a - b) - ((u.hopEnt e).lead : Int) * 1000 ≤ u.reel) | _ => false; let go : Bool := (u.hopEnt e).live && u.hopClass e != 0 && !(u.hopEnt e).fetching && (due || u.on (F.schJobStat_PREEMPTED (u.hopJob e))); let away := u.pages.filter fun p => p.ent = e && p.st = .spilled; e < 1024 ∧ s.live dt ∧ go = true ∧ away = [p] ∧ u.freeFrame = some f ∧ p.slot = some n ∧ (s.pass dt).tableOpen e p.vpage = true ∧ u.page e p.vpage = some p)
    ∧ (∃ (s : State) (dt : Nat) (e : Nat), let u := (s.pass dt).m;
        let due : Bool := match (u.hopEnt e).formed with | a :: b :: _ => decide (a + (a - b) - ((u.hopEnt e).lead : Int) * 1000 ≤ u.reel) | _ => false; let go : Bool := (u.hopEnt e).live && u.hopClass e != 0 && !(u.hopEnt e).fetching && (due || u.on (F.schJobStat_PREEMPTED (u.hopJob e))); e < 1024 ∧ s.live dt ∧ go = false) :=
  ⟨⟨{ wst poolOf (fun m => { hopSt [(F.schJobStat_CLASS 0, 1)] id m with pages := [pageOf .spilling] }) with mem := awayMem }, 0, 1023, 0, pageOf .spilling, 3, 4, by decide +kernel⟩,
   ⟨wst poolOf (fun m => { hopSt [] id m with pages := [pageOf .resident] }), 0, 1023, 0, pageOf .resident, by decide +kernel⟩,
   ⟨wst poolOf (fun m => { hopSt [] id m with pages := [pageOf .spilling], dramKeys := false }), 0, 1023, 0, pageOf .spilling, 4, by decide +kernel⟩,
   ⟨{ wst poolOf (fun m => { hopSt [(F.schJobStat_CLASS 0, 1)] (fun h => { h with fetching := true }) m with pages := [pageOf .fetching] }) with mem := awayMem }, 0, 1023, 0, pageOf .fetching, 3, 4, by decide +kernel⟩,
   ⟨wst poolOf (fun m => { hopSt [] id m with pages := [pageOf .spilling] }), 0, 1023, 0, pageOf .spilling, 4, by decide +kernel⟩,
   ⟨wst poolOf (hopSt [] id), 0, 1023, 0, by decide +kernel⟩,
   ⟨wst poolOf (fun m => { hopSt [(F.schJobStat_CLASS 0, 1)] (fun h => { h with formed := [-5, -10] }) m with pages := [pageOf .resident] }), 0, 1023, by decide +kernel⟩,
   ⟨wst poolOf (fun m => { hopSt [(F.schJobStat_CLASS 0, 1), (F.schJobStat_PREEMPTED 0, 1)] id m with pages := [pageOf .spilled] }), 0, 1023, by decide +kernel⟩,
   ⟨{ wst poolOf (fun m => { hopSt [(F.schJobStat_CLASS 0, 1)] (fun h => { h with formed := [-5, -10] }) m with pages := [⟨1023, 0, none, some 4, .spilled, 0⟩] }) with mem := awayMem }, 0, 1023, ⟨1023, 0, none, some 4, .spilled, 0⟩, 0, 4, by decide +kernel⟩,
   ⟨wst poolOf (fun m => { hopSt [(F.schJobStat_CLASS 0, 1)] (fun h => { h with formed := [1000, -5], lead := 1 }) m with pages := [pageOf .spilled] }), 0, 1023, by decide +kernel⟩⟩

theorem wit_LanesTrainAndSleep_1 :
    (∃ (s : State) (dt : Nat) (agent : Nat) (n : Nat) (val : Word), let u := (s.pass dt).m; n < 28 ∧ s.live dt ∧ s.heeds dt agent 17
        ∧ val.getLsbD 0 = true ∧ u.on (F.pnxCtl_EN n) = false ∧ u.tapsBad n = false)
    ∧ (∃ (s : State) (dt : Nat) (agent : Nat) (n : Nat) (val : Word), let u := (s.pass dt).m; n < 28 ∧ s.live dt ∧ s.heeds dt agent 17
        ∧ val.getLsbD 0 = true ∧ u.on (F.pnxCtl_EN n) = false ∧ u.tapsBad n = true)
    ∧ (∃ (s : State) (dt : Nat) (agent : Nat) (n : Nat) (val : Word), let u := (s.pass dt).m; n < 28 ∧ s.live dt ∧ s.heeds dt agent 17
        ∧ val.getLsbD 0 = false ∧ u.on (F.pnxCtl_EN n) = true)
    ∧ (∃ (s : State) (dt : Nat) (agent : Nat) (n : Nat) (val : Word), let u := (s.pass dt).m; n < 28 ∧ s.live dt ∧ s.heeds dt agent 17
        ∧ val.getLsbD 0 = u.on (F.pnxCtl_EN n))
    ∧ (∃ (s : State) (dt : Nat) (agent : Nat) (n : Nat), n < 28 ∧ s.live dt ∧ s.heeds dt agent 17)
    ∧ (∃ (s : State) (dt : Nat) (n : Nat), let u := (s.pass dt).m; let st := u.laneState n; let pwr := u.get (F.pnxStat_PWR n);
        let wakes : Bool := st = 2 && pwr != 0 && (u.lane n).wakeAt.isSome; n < 28 ∧ s.live dt ∧ wakes = true)
    ∧ (∃ (s : State) (dt : Nat) (n : Nat), let u := (s.pass dt).m; let st := u.laneState n; let pwr := u.get (F.pnxStat_PWR n);
        let wakes : Bool := st = 2 && pwr != 0 && (u.lane n).wakeAt.isSome; n < 28 ∧ s.live dt ∧ wakes = false)
    ∧ (∃ (s : State) (dt : Nat) (n : Nat), let u := (s.pass dt).m; let st := u.laneState n; let pwr := u.get (F.pnxStat_PWR n);
        let quiet : Bool := decide ((u.lane n).idleAt + u.get F.pnxCfg_IDLE_US * 1000 ≤ u.now);
        let naps : Bool := st = 2 && u.on (F.pnxCtl_L1_EN n) && pwr = 0 && quiet && (u.activeLanes (laneLink n)).head? != some n; n < 28 ∧ s.live dt
        ∧ naps = true)
    ∧ (∃ (s : State) (dt : Nat) (n : Nat), let u := (s.pass dt).m; let st := u.laneState n; let pwr := u.get (F.pnxStat_PWR n);
        let quiet : Bool := decide ((u.lane n).idleAt + u.get F.pnxCfg_IDLE_US * 1000 ≤ u.now);
        let naps : Bool := st = 2 && u.on (F.pnxCtl_L1_EN n) && pwr = 0 && quiet && (u.activeLanes (laneLink n)).head? != some n; n < 28 ∧ s.live dt
        ∧ naps = false)
    ∧ (∃ (s : State) (dt : Nat) (n : Nat), let u := (s.pass dt).m; let st := u.laneState n; let pwr := u.get (F.pnxStat_PWR n);
        let held : Bool := u.on (F.pnxCtl_FORCE_L2 n) || (decide (12 ≤ n) && decide (2 ≤ u.get F.pwrStat_STAGE));
        let quiet : Bool := decide ((u.lane n).idleAt + u.get F.pnxCfg_IDLE_US * 1000 ≤ u.now);
        let sleeps : Bool := st = 2 && held && pwr = 0 && quiet; n < 28 ∧ s.live dt ∧ sleeps = true)
    ∧ (∃ (s : State) (dt : Nat) (n : Nat), let u := (s.pass dt).m; let st := u.laneState n; let pwr := u.get (F.pnxStat_PWR n);
        let held : Bool := u.on (F.pnxCtl_FORCE_L2 n) || (decide (12 ≤ n) && decide (2 ≤ u.get F.pwrStat_STAGE));
        let quiet : Bool := decide ((u.lane n).idleAt + u.get F.pnxCfg_IDLE_US * 1000 ≤ u.now);
        let sleeps : Bool := st = 2 && held && pwr = 0 && quiet; n < 28 ∧ s.live dt ∧ sleeps = false)
    ∧ (∃ (s : State) (dt : Nat) (n : Nat), let u := (s.pass dt).m; let st := u.laneState n; n < 28 ∧ s.live dt ∧ st ≠ 0 ∧ st ≠ 4) :=
  ⟨⟨wst [(F.pnxCtl_EN 27, 0), (F.pnxTx_MAIN 27, 40), (F.pnxTx_PRE 27, 3), (F.pnxTx_POST 27, 3)], 0, 1, 27, 5, by decide +kernel⟩,
   ⟨wst [(F.pnxCtl_EN 27, 0), (F.pnxTx_MAIN 27, 31)], 0, 1, 27, 1, by decide +kernel⟩,
   ⟨wst [(F.pnxCtl_EN 27, 1)], 0, 1, 27, 0, by decide +kernel⟩,
   ⟨wst [(F.pnxCtl_EN 27, 1), (F.pnxStat_STATE 27, 2)], 0, 1, 27, 5, by decide +kernel⟩,
   ⟨wst [(F.pnxStat_STATE 27, 2)], 0, 1, 27, by decide +kernel⟩,
   ⟨wst [(F.pnxStat_STATE 27, 2), (F.pnxStat_PWR 27, 1)] (·.modLane 27 fun l => { l with wakeAt := some 0 }), 0, 27, by decide +kernel⟩,
   ⟨wst [(F.pnxStat_STATE 27, 2), (F.pnxStat_PWR 27, 1)], 0, 27, by decide +kernel⟩,
   ⟨wst [(F.pnxStat_STATE 27, 2), (F.pnxStat_STATE 26, 2), (F.pnxStat_PWR 27, 0), (F.pnxCtl_L1_EN 27, 1), (F.pnxCfg_IDLE_US, 0)], 0, 27, by decide +kernel⟩,
   ⟨wst [(F.pnxStat_STATE 27, 2), (F.pnxStat_STATE 26, 0), (F.pnxStat_STATE 25, 0), (F.pnxStat_STATE 24, 0), (F.pnxStat_PWR 27, 0), (F.pnxCtl_L1_EN 27, 1), (F.pnxCfg_IDLE_US, 0)], 0, 27, by decide +kernel⟩,
   ⟨wst [(F.pnxStat_STATE 27, 2), (F.pnxStat_PWR 27, 0), (F.pnxCtl_FORCE_L2 27, 1), (F.pnxCfg_IDLE_US, 0)], 0, 27, by decide +kernel⟩,
   ⟨wst [(F.pnxStat_STATE 27, 2), (F.pnxStat_PWR 27, 0), (F.pnxCtl_FORCE_L2 27, 1), (F.pnxCfg_IDLE_US, 1)], 0, 27, by decide +kernel⟩,
   ⟨wst [(F.pnxStat_STATE 27, 1)], 0, 27, by decide +kernel⟩⟩

theorem wit_LanesTrainAndSleep_2 :
    (∃ (s : State) (dt : Nat) (n : Nat), let u := (s.pass dt).m; let st := u.laneState n; n < 28 ∧ s.live dt ∧ (st = 0 ∨ st = 4))
    ∧ (∃ (s : State) (dt : Nat) (n : Nat), n < 28 ∧ s.live dt)
    ∧ (∃ (s : State) (dt : Nat) (n : Nat), let u := (s.pass dt).m; let st := u.laneState n; n < 28 ∧ s.live dt ∧ st = 2
        ∧ 16 ≤ (u.recentFails n).length)
    ∧ (∃ (s : State) (dt : Nat) (n : Nat), let u := (s.pass dt).m; let st := u.laneState n; n < 28 ∧ s.live dt
        ∧ (st ≠ 2 ∨ (u.recentFails n).length < 16))
    ∧ (∃ (s : State) (dt : Nat) (n : Nat) (bits : _), let u := (s.pass dt).m; let got := (u.lane n).rx.take bits; n < 28 ∧ s.live dt ∧ got.2.1 = true)
    ∧ (∃ (s : State) (dt : Nat) (n : Nat) (bits : _), let u := (s.pass dt).m; let got := (u.lane n).rx.take bits; n < 28 ∧ s.live dt
        ∧ got.2.1 = false)
    ∧ (∃ (s : State) (dt : Nat) (n : Nat), let u := (s.pass dt).m; let st := u.laneState n; n < 28 ∧ s.live dt ∧ st = 3)
    ∧ (∃ (s : State) (dt : Nat) (n : Nat), let u := (s.pass dt).m; let st := u.laneState n; n < 28 ∧ s.live dt ∧ st ≠ 3) :=
  ⟨⟨wst [(F.pnxStat_STATE 27, 4)], 0, 27, by decide +kernel⟩,
   ⟨wst [(F.pnxStat_STATE 27, 1)], 0, 27, by decide +kernel⟩,
   ⟨wst [(F.pnxStat_STATE 27, 2)] (·.modLane 27 fun l => { l with fails := List.replicate 16 0 }), 0, 27, by decide +kernel⟩,
   ⟨wst [(F.pnxStat_STATE 27, 2)] (·.modLane 27 fun l => { l with fails := List.replicate 15 0 }), 0, 27, by decide +kernel⟩,
   ⟨wst [], 0, 27, [true, false], by decide +kernel⟩,
   ⟨wst [], 0, 27, goodBits, by decide +kernel⟩,
   ⟨wst [(F.pnxStat_STATE 27, 3), (F.pnxPrbs_SYNC 27, 1), (F.pnxCtl_PATTERN 27, 1)], 0, 27, by decide +kernel⟩,
   ⟨wst [(F.pnxStat_STATE 27, 1)], 0, 27, by decide +kernel⟩⟩

theorem wit_CellsMoveALink_1 :
    (∃ (s : State) (dt : Nat) (n : Nat) (c : Cell) (x : _), let u := (s.pass dt).m; let st := u.laneState n; n < 28 ∧ c.payload.length = 64
        ∧ s.live dt ∧ x ∈ cellCommands dt n c ∧ (st = 0 ∨ st = 4))
    ∧ (∃ (s : State) (dt : Nat) (n : Nat) (c : Cell) (x : _), let u := (s.pass dt).m; let st := u.laneState n; n < 28 ∧ c.payload.length = 64
        ∧ s.live dt ∧ x ∈ cellCommands dt n c ∧ st ≠ 0 ∧ st ≠ 4 ∧ (c.crcOk = false ∨ c.wellTyped x.1 = false))
    ∧ (∃ (s : State) (dt : Nat) (n : Nat) (c : Cell) (x : _), let u := (s.pass dt).m; let st := u.laneState n;
        let passes (typ : Nat) : Bool := st != 0 && st != 4 && c.crcOk && c.wellTyped typ; n < 28 ∧ c.payload.length = 64 ∧ s.live dt
        ∧ x ∈ cellCommands dt n c ∧ passes x.1 = true)
    ∧ (∃ (s : State) (dt : Nat) (n : Nat) (c : Cell), let u := (s.pass dt).m; let st := u.laneState n; let k := laneLink n; let l := u.link k;
        let passes (typ : Nat) : Bool := st != 0 && st != 4 && c.crcOk && c.wellTyped typ;
        let up : Bool := st = 2 && u.linkUp k && l.txq.isEmpty && l.opened.isEmpty && !u.rekeyDue k; n < 28 ∧ c.payload.length = 64 ∧ s.live dt
        ∧ up = true ∧ passes 0 = true)
    ∧ (∃ (s : State) (dt : Nat) (n : Nat) (c : Cell), let u := (s.pass dt).m; let st := u.laneState n; let k := laneLink n;
        let passes (typ : Nat) : Bool := st != 0 && st != 4 && c.crcOk && c.wellTyped typ; n < 28 ∧ c.payload.length = 64 ∧ s.live dt
        ∧ passes 0 = true ∧ (st ≠ 2 ∨ u.linkUp k = false))
    ∧ (∃ (s : State) (dt : Nat) (n : Nat) (c : Cell) (x : _), let u := (s.pass dt).m; let st := u.laneState n; let k := laneLink n; let l := u.link k;
        let passes (typ : Nat) : Bool := st != 0 && st != 4 && c.crcOk && c.wellTyped typ; let left := l.replay.filter fun x => !seqLe x.lseq c.ack;
        n < 28 ∧ c.payload.length = 64 ∧ s.live dt ∧ passes 0 = true ∧ st = 2 ∧ u.linkUp k = true ∧ u.rekeyDue k = false ∧ l.opened = []
        ∧ l.segTx + 2 < 2 ^ 48 ∧ left.length < 1023 ∧ l.txq = [x] ∧ x.left ≠ [] ∧ x.left.length ≤ 64)
    ∧ (∃ (s : State) (dt : Nat) (n : Nat) (c : Cell), let u := (s.pass dt).m; let st := u.laneState n; let k := laneLink n; let l := u.link k;
        let passes (typ : Nat) : Bool := st != 0 && st != 4 && c.crcOk && c.wellTyped typ;
        let up : Bool := st = 2 && u.linkUp k && l.txq.isEmpty && l.opened.isEmpty && !u.rekeyDue k; n < 28 ∧ c.payload.length = 64 ∧ s.live dt
        ∧ up = true ∧ passes 1 = true ∧ c.ch < 6 ∧ 1 ≤ c.len ∧ c.len ≤ 64 ∧ c.lseq = l.expect ∧ l.early = [])
    ∧ (∃ (s : State) (dt : Nat) (n : Nat) (c : Cell), let u := (s.pass dt).m; let st := u.laneState n; let k := laneLink n; let l := u.link k;
        let passes (typ : Nat) : Bool := st != 0 && st != 4 && c.crcOk && c.wellTyped typ;
        let up : Bool := st = 2 && u.linkUp k && l.txq.isEmpty && l.opened.isEmpty && !u.rekeyDue k; n < 28 ∧ c.payload.length = 64 ∧ s.live dt
        ∧ up = true ∧ passes 1 = true ∧ c.ch < 6 ∧ 1 ≤ c.len ∧ c.len ≤ 64 ∧ c.lseq ≠ l.expect ∧ (c.lseq + 65536 - l.expect) % 65536 < 1024
        ∧ (l.early.any fun r => r.lseq = c.lseq) = false)
    ∧ (∃ (s : State) (dt : Nat) (n : Nat) (c : Cell), let u := (s.pass dt).m; let st := u.laneState n; let k := laneLink n; let l := u.link k;
        let passes (typ : Nat) : Bool := st != 0 && st != 4 && c.crcOk && c.wellTyped typ;
        let up : Bool := st = 2 && u.linkUp k && l.txq.isEmpty && l.opened.isEmpty && !u.rekeyDue k; n < 28 ∧ c.payload.length = 64 ∧ s.live dt
        ∧ up = true ∧ passes 1 = true ∧ c.ch < 6 ∧ 1 ≤ c.len ∧ c.len ≤ 64 ∧ c.lseq ≠ l.expect
        ∧ (1024 ≤ (c.lseq + 65536 - l.expect) % 65536 ∨ (l.early.any fun r => r.lseq = c.lseq) = true))
    ∧ (∃ (s : State) (dt : Nat) (n : Nat) (c : Cell) (ok : _), let u := (s.pass dt).m; let st := u.laneState n; let k := laneLink n;
        let l := u.link k; let passes (typ : Nat) : Bool := st != 0 && st != 4 && c.crcOk && c.wellTyped typ;
        let up : Bool := st = 2 && u.linkUp k && l.txq.isEmpty && l.opened.isEmpty && !u.rekeyDue k;
        let first := (l.expect + 65536 - l.seg.length) % 65536;
        let whole : Bool := ok && c.num 0 8 = l.segRx && c.num 8 2 = first && c.num 10 1 = l.seg.length; n < 28 ∧ c.payload.length = 64 ∧ s.live dt
        ∧ up = true ∧ passes 2 = true ∧ c.lseq = l.expect ∧ l.early = [] ∧ whole = true ∧ l.expect < 65536 ∧ l.segRx + 2 < 2 ^ 48)
    ∧ (∃ (s : State) (dt : Nat) (n : Nat) (c : Cell) (ok : _), let u := (s.pass dt).m; let st := u.laneState n; let k := laneLink n;
        let l := u.link k; let passes (typ : Nat) : Bool := st != 0 && st != 4 && c.crcOk && c.wellTyped typ;
        let up : Bool := st = 2 && u.linkUp k && l.txq.isEmpty && l.opened.isEmpty && !u.rekeyDue k;
        let first := (l.expect + 65536 - l.seg.length) % 65536;
        let whole : Bool := ok && c.num 0 8 = l.segRx && c.num 8 2 = first && c.num 10 1 = l.seg.length; n < 28 ∧ c.payload.length = 64 ∧ s.live dt
        ∧ up = true ∧ passes 2 = true ∧ c.lseq = l.expect ∧ l.early = [] ∧ whole = false ∧ l.expect < 65536 ∧ l.tagFails < 2)
    ∧ (∃ (s : State) (dt : Nat) (n : Nat) (c : Cell) (ok : _), let u := (s.pass dt).m; let st := u.laneState n; let k := laneLink n;
        let l := u.link k; let passes (typ : Nat) : Bool := st != 0 && st != 4 && c.crcOk && c.wellTyped typ;
        let up : Bool := st = 2 && u.linkUp k && l.txq.isEmpty && l.opened.isEmpty && !u.rekeyDue k;
        let first := (l.expect + 65536 - l.seg.length) % 65536;
        let whole : Bool := ok && c.num 0 8 = l.segRx && c.num 8 2 = first && c.num 10 1 = l.seg.length; n < 28 ∧ c.payload.length = 64 ∧ s.live dt
        ∧ up = true ∧ passes 2 = true ∧ c.lseq = l.expect ∧ l.early = [] ∧ whole = false ∧ 2 ≤ l.tagFails) :=
  ⟨⟨wst [(F.pnxStat_STATE 27, 4)], 0, 27, cell 0 0 0 0 0 [], ((0 : Nat), Instr.idleCell (0) (27) (cell 0 0 0 0 0 [])), by decide +kernel⟩,
   ⟨wst [(F.pnxStat_STATE 27, 1)], 0, 27, { cell 0 0 0 0 0 [] with crc := 0 }, ((0 : Nat), Instr.idleCell (0) (27) ({ cell 0 0 0 0 0 [] with crc := 0 })), by decide +kernel⟩,
   ⟨wst [(F.pnxStat_STATE 27, 1)], 0, 27, cell 0 0 0 0 0 [], ((0 : Nat), Instr.idleCell (0) (27) (cell 0 0 0 0 0 [])), by decide +kernel⟩,
   ⟨wst [] (upN 27 fun l => { l with replay := [txc 65534, txc 65535, txc 0, txc 1] }), 0, 27, cell 0 0 0 0 0 [], by decide +kernel⟩,
   ⟨wst [(F.pnxStat_STATE 27, 1)], 0, 27, cell 0 0 0 0 0 [], by decide +kernel⟩,
   ⟨wst [] (upN 27 fun l => { l with next := 65535, replay := [txc 65534, txc 0], txq := [⟨⟨5, 2, [], [1, 2, 3]⟩, true, [1, 2, 3]⟩] }), 0, 27, cell 0 0 0 0 65535 [], ⟨⟨5, 2, [], [1, 2, 3]⟩, true, [1, 2, 3]⟩, by decide +kernel⟩,
   ⟨wst [] (upN 27 fun l => { l with replay := [txc 65534, txc 65535, txc 0, txc 1], expect := 65535 }), 0, 27, cell 1 5 64 65535 65534 [1, 2], by decide +kernel⟩,
   ⟨wst [] (upN 27 fun l => { l with replay := [txc 65534, txc 65535, txc 0, txc 1], expect := 65535 }), 0, 27, cell 1 0 1 1022 65534 [1, 2], by decide +kernel⟩,
   ⟨wst [] (upN 27 fun l => { l with replay := [txc 65534, txc 65535, txc 0, txc 1], expect := 65535 }), 0, 27, cell 1 0 1 1023 65534 [1, 2], by decide +kernel⟩,
   ⟨wst [] (upN 27 (segLink 0)), 0, 27, segTag 65534 1 65535 65534, true, by decide +kernel⟩,
   ⟨wst [] (upN 27 (segLink 1)), 0, 27, segTag 65534 1 65535 65534, false, by decide +kernel⟩,
   ⟨wst [] (upN 27 (segLink 2)), 0, 27, segTag 65534 2 65535 65534, true, by decide +kernel⟩⟩

theorem wit_CellsMoveALink_2 :
    (∃ (s : State) (dt : Nat) (n : Nat) (c : Cell), let u := (s.pass dt).m; let st := u.laneState n; let k := laneLink n; let l := u.link k;
        let passes (typ : Nat) : Bool := st != 0 && st != 4 && c.crcOk && c.wellTyped typ;
        let up : Bool := st = 2 && u.linkUp k && l.txq.isEmpty && l.opened.isEmpty && !u.rekeyDue k; n < 28 ∧ c.payload.length = 64 ∧ s.live dt
        ∧ up = true ∧ passes 6 = true)
    ∧ (∃ (s : State) (dt : Nat) (n : Nat) (c : Cell), let u := (s.pass dt).m; let st := u.laneState n;
        let passes (typ : Nat) : Bool := st != 0 && st != 4 && c.crcOk && c.wellTyped typ; n < 28 ∧ c.payload.length = 64 ∧ s.live dt
        ∧ passes 4 = true)
    ∧ (∃ (s : State) (dt : Nat) (n : Nat) (c : Cell), let u := (s.pass dt).m; let st := u.laneState n; let k := laneLink n;
        let prev := ofLe ((u.lane n).syncOut.take 8);
        let due : Bool := st = 2 && u.get (F.pnxStat_PWR n) = 0 && u.linkUp k && ((u.lane n).syncOut.isEmpty || decide ((prev : Int) / 1000 < u.reel / 1000)); n < 28 ∧ c.payload.length = 64 ∧ s.live dt ∧ due = true)
    ∧ (∃ (s : State) (dt : Nat) (n : Nat) (c : Cell), let u := (s.pass dt).m; let st := u.laneState n; let k := laneLink n;
        let prev := ofLe ((u.lane n).syncOut.take 8);
        let due : Bool := st = 2 && u.get (F.pnxStat_PWR n) = 0 && u.linkUp k && ((u.lane n).syncOut.isEmpty || decide ((prev : Int) / 1000 < u.reel / 1000)); n < 28 ∧ c.payload.length = 64 ∧ s.live dt ∧ due = false)
    ∧ (∃ (s : State) (dt : Nat) (n : Nat) (c : Cell), let u := (s.pass dt).m; let st := u.laneState n;
        let passes (typ : Nat) : Bool := st != 0 && st != 4 && c.crcOk && c.wellTyped typ; n < 28 ∧ c.payload.length = 64 ∧ s.live dt
        ∧ passes 3 = true)
    ∧ (∃ (s : State) (dt : Nat) (n : Nat) (c : Cell) (j : _), let u := (s.pass dt).m;
        let late : Bool := u.linkUp j && !(u.link j).early.isEmpty && match (u.link j).gapAt with | some t0 => decide (t0 + 100 ≤ u.now) | none => false; n < 28 ∧ c.payload.length = 64 ∧ s.live dt ∧ j < 5 ∧ late = true)
    ∧ (∃ (s : State) (dt : Nat) (n : Nat) (c : Cell) (j : _), let u := (s.pass dt).m;
        let late : Bool := u.linkUp j && !(u.link j).early.isEmpty && match (u.link j).gapAt with | some t0 => decide (t0 + 100 ≤ u.now) | none => false; n < 28 ∧ c.payload.length = 64 ∧ s.live dt ∧ j < 5 ∧ late = false)
    ∧ (∃ (s : State) (dt : Nat) (n : Nat) (c : Cell) (j : _), let u := (s.pass dt).m;
        let gone : Bool := (u.linkUp j || u.get (F.pnxLink_STATE j) = 1) && match (u.link j).emptyAt with | some t0 => decide (t0 + 1000000 ≤ u.now) | none => false; n < 28 ∧ c.payload.length = 64 ∧ s.live dt ∧ j < 5 ∧ gone = true)
    ∧ (∃ (s : State) (dt : Nat) (n : Nat) (c : Cell) (j : _), let u := (s.pass dt).m;
        let gone : Bool := (u.linkUp j || u.get (F.pnxLink_STATE j) = 1) && match (u.link j).emptyAt with | some t0 => decide (t0 + 1000000 ≤ u.now) | none => false; n < 28 ∧ c.payload.length = 64 ∧ s.live dt ∧ j < 5 ∧ gone = false) :=
  ⟨⟨wst [] (upN 27 fun l => { l with replay := [txc 65534, txc 65535, txc 0, txc 1] }), 0, 27, cell 6 0 0 0 65534 [], by decide +kernel⟩,
   ⟨wst [(F.pnxStat_STATE 27, 1)], 0, 27, cell 4 0 0 0 0 [], by decide +kernel⟩,
   ⟨wst [(F.timReelStat_STATE, 2), (F.timReelStat_HOPS, 5)] (upN 27 id), 0, 27, cell 0 0 0 0 0 [], by decide +kernel⟩,
   ⟨wst [] (fun m => { upN 27 id m with reelT := 999 * 2 ^ 40 }.modLane 27 fun l => { l with syncOut := List.replicate 64 0 }), 0, 27, cell 0 0 0 0 0 [], by decide +kernel⟩,
   ⟨wst [(F.pnxStat_STATE 27, 2)], 0, 27, cell 3 0 0 0 0 (List.replicate 64 9), by decide +kernel⟩,
   ⟨wst [(F.pnxLink_STATE 4, 2)] (fun m => lnk 4 (fun l => { l with early := [⟨9, cell 0 0 0 0 0 [], true⟩], gapAt := some 0 }) { m with now := 100 }), 0, 27, cell 0 0 0 0 0 [], 4, by decide +kernel⟩,
   ⟨wst [(F.pnxLink_STATE 4, 2)] (fun m => lnk 4 (fun l => { l with early := [⟨9, cell 0 0 0 0 0 [], true⟩], gapAt := some 0 }) { m with now := 99 }), 0, 27, cell 0 0 0 0 0 [], 4, by decide +kernel⟩,
   ⟨wst [(F.pnxLink_STATE 4, 2)] (fun m => lnk 4 (fun l => { l with emptyAt := some 0, replay := [txc 3] }) { m with now := 1000000 }), 0, 27, cell 0 0 0 0 0 [], 4, by decide +kernel⟩,
   ⟨wst [(F.pnxLink_STATE 4, 2)] (fun m => lnk 4 (fun l => { l with emptyAt := some 0, replay := [txc 3] }) { m with now := 999999 }), 0, 27, cell 0 0 0 0 0 [], 4, by decide +kernel⟩⟩

theorem wit_KeysAndChain_1 :
    (∃ (s : State) (dt : Nat) (n : Nat) (k : Nat) (pos : Nat) (c : Cell), let u := (s.pass dt).m; let st := u.laneState n; n < 28
        ∧ c.payload.length = 64 ∧ k < 5 ∧ pos < 32 ∧ s.live dt ∧ (st = 0 ∨ st = 4))
    ∧ (∃ (s : State) (dt : Nat) (n : Nat) (k : Nat) (pos : Nat) (c : Cell), let u := (s.pass dt).m; let st := u.laneState n; n < 28
        ∧ c.payload.length = 64 ∧ k < 5 ∧ pos < 32 ∧ s.live dt ∧ st ≠ 0 ∧ st ≠ 4 ∧ (c.crcOk = false ∨ c.wellTyped 5 = false))
    ∧ (∃ (s : State) (dt : Nat) (n : Nat) (k : Nat) (pos : Nat) (c : Cell), let u := (s.pass dt).m; let st := u.laneState n;
        let passes : Bool := st != 0 && st != 4 && c.crcOk && c.wellTyped 5; n < 28 ∧ c.payload.length = 64 ∧ k < 5 ∧ pos < 32 ∧ s.live dt
        ∧ passes = true ∧ st ≠ 2)
    ∧ (∃ (s : State) (dt : Nat) (n : Nat) (k : Nat) (pos : Nat) (c : Cell), let u := (s.pass dt).m; let j := laneLink n; let st := u.laneState n;
        let passes : Bool := st != 0 && st != 4 && c.crcOk && c.wellTyped 5; let agreeing (i : Nat) : Bool := u.get (F.secLink_STATE i) = 1; n < 28
        ∧ c.payload.length = 64 ∧ k < 5 ∧ pos < 32 ∧ s.live dt ∧ passes = true ∧ st = 2 ∧ u.linkUp j = false ∧ u.secReady = true ∧ agreeing j = false)
    ∧ (∃ (s : State) (dt : Nat) (n : Nat) (k : Nat) (pos : Nat) (c : Cell), let u := (s.pass dt).m; let j := laneLink n; let st := u.laneState n;
        let passes : Bool := st != 0 && st != 4 && c.crcOk && c.wellTyped 5; let agreeing (i : Nat) : Bool := u.get (F.secLink_STATE i) = 1; n < 28
        ∧ c.payload.length = 64 ∧ k < 5 ∧ pos < 32 ∧ s.live dt ∧ passes = true ∧ st = 2
        ∧ (u.linkUp j = true ∨ u.secReady = false ∨ agreeing j = true))
    ∧ (∃ (s : State) (dt : Nat) (n : Nat) (k : Nat) (pos : Nat) (c : Cell), let u := (s.pass dt).m; let j := laneLink n; let st := u.laneState n;
        let passes : Bool := st != 0 && st != 4 && c.crcOk && c.wellTyped 5; let agreeing (i : Nat) : Bool := u.get (F.secLink_STATE i) = 1; n < 28
        ∧ c.payload.length = 64 ∧ k < 5 ∧ pos < 32 ∧ s.live dt ∧ passes = true ∧ st = 2 ∧ u.linkUp j = false ∧ agreeing j = true)
    ∧ (∃ (s : State) (dt : Nat) (n : Nat) (k : Nat) (pos : Nat) (c : Cell), let u := (s.pass dt).m; let j := laneLink n; let st := u.laneState n;
        let passes : Bool := st != 0 && st != 4 && c.crcOk && c.wellTyped 5; let agreeing (i : Nat) : Bool := u.get (F.secLink_STATE i) = 1; n < 28
        ∧ c.payload.length = 64 ∧ k < 5 ∧ pos < 32 ∧ s.live dt ∧ passes = true ∧ st = 2 ∧ agreeing j = false ∧ (12 ≤ n ∨ u.twinPres = false))
    ∧ (∃ (s : State) (dt : Nat) (n : Nat) (k : Nat) (pos : Nat) (c : Cell), let u := (s.pass dt).m; let j := laneLink n; let st := u.laneState n;
        let passes : Bool := st != 0 && st != 4 && c.crcOk && c.wellTyped 5; let agreeing (i : Nat) : Bool := u.get (F.secLink_STATE i) = 1; n < 28
        ∧ c.payload.length = 64 ∧ k < 5 ∧ pos < 32 ∧ s.live dt ∧ passes = true ∧ st = 2 ∧ agreeing j = true)
    ∧ (∃ (s : State) (dt : Nat) (n : Nat) (k : Nat) (pos : Nat) (c : Cell), let u := (s.pass dt).m; let j := laneLink n; let st := u.laneState n;
        let passes : Bool := st != 0 && st != 4 && c.crcOk && c.wellTyped 5; let agreeing (i : Nat) : Bool := u.get (F.secLink_STATE i) = 1; n < 28
        ∧ c.payload.length = 64 ∧ k < 5 ∧ pos < 32 ∧ s.live dt ∧ passes = true ∧ st = 2 ∧ agreeing j = false)
    ∧ (∃ (s : State) (dt : Nat) (n : Nat) (k : Nat) (pos : Nat) (c : Cell), let u := (s.pass dt).m;
        let agreeing (i : Nat) : Bool := u.get (F.secLink_STATE i) = 1;
        let due : Bool := match (u.link k).keyDue with | some t0 => decide (t0 ≤ u.now) | none => false; n < 28 ∧ c.payload.length = 64 ∧ k < 5
        ∧ pos < 32 ∧ s.live dt ∧ due = true ∧ agreeing k = true)
    ∧ (∃ (s : State) (dt : Nat) (n : Nat) (k : Nat) (pos : Nat) (c : Cell), let u := (s.pass dt).m;
        let agreeing (i : Nat) : Bool := u.get (F.secLink_STATE i) = 1;
        let due : Bool := match (u.link k).keyDue with | some t0 => decide (t0 ≤ u.now) | none => false; n < 28 ∧ c.payload.length = 64 ∧ k < 5
        ∧ pos < 32 ∧ s.live dt ∧ (due = false ∨ agreeing k = false))
    ∧ (∃ (s : State) (dt : Nat) (n : Nat) (k : Nat) (pos : Nat) (c : Cell), let u := (s.pass dt).m;
        let due : Bool := match (u.link k).keyDue with | some t0 => decide (t0 ≤ u.now) | none => false; n < 28 ∧ c.payload.length = 64 ∧ k < 5
        ∧ pos < 32 ∧ s.live dt ∧ due = true ∧ u.get (F.secLink_STATE k) = 3 ∧ k ≠ 0) :=
  ⟨⟨wst [(F.pnxStat_STATE 27, 0)], 0, 27, 4, 31, cell 5 0 0 0 0 [], by decide +kernel⟩,
   ⟨wst [(F.pnxStat_STATE 27, 2)], 0, 27, 4, 31, cell 4 0 0 0 0 [], by decide +kernel⟩,
   ⟨wst [(F.pnxStat_STATE 27, 1)], 0, 27, 4, 31, cell 5 0 0 0 0 [], by decide +kernel⟩,
   ⟨wst [(F.pnxStat_STATE 27, 2), (F.secStat_STATE, 1), (F.secLink_STATE 4, 0), (F.pnxLink_STATE 4, 1)], 0, 27, 4, 31, cell 5 0 0 0 0 [], by decide +kernel⟩,
   ⟨wst [(F.pnxStat_STATE 3, 2), (F.secStat_STATE, 1), (F.secLink_STATE 0, 1), (F.pnxLink_STATE 0, 1)], 0, 3, 4, 31, cell 5 0 0 0 0 [], by decide +kernel⟩,
   ⟨wst [(F.pnxStat_STATE 27, 2), (F.secLink_STATE 4, 1), (F.pnxLink_STATE 4, 1)], 0, 27, 4, 31, cell 5 0 0 0 0 [], by decide +kernel⟩,
   ⟨wst [(F.pnxStat_STATE 27, 2), (F.secLink_STATE 4, 3), (F.pnxLink_STATE 4, 1)], 0, 27, 4, 31, cell 5 0 0 0 0 [], by decide +kernel⟩,
   ⟨wst [(F.pnxStat_STATE 27, 2), (F.secLink_STATE 4, 1)], 0, 27, 4, 31, cell 5 0 0 0 0 [], by decide +kernel⟩,
   ⟨wst [(F.pnxStat_STATE 27, 2), (F.secLink_STATE 4, 2)], 0, 27, 4, 31, cell 5 0 0 0 0 [], by decide +kernel⟩,
   ⟨wst [(F.secLink_STATE 4, 1)] (lnk 4 fun l => { l with keyDue := some 0 }), 0, 27, 4, 31, cell 5 0 0 0 0 [], by decide +kernel⟩,
   ⟨wst [(F.secLink_STATE 4, 1)] (lnk 4 fun l => { l with keyDue := some 1 }), 0, 27, 4, 31, cell 5 0 0 0 0 [], by decide +kernel⟩,
   ⟨wst [(F.secLink_STATE 4, 3)] (lnk 4 fun l => { l with keyDue := some 0 }), 0, 27, 4, 31, cell 5 0 0 0 0 [], by decide +kernel⟩⟩

theorem wit_KeysAndChain_2 :
    (∃ (s : State) (dt : Nat) (n : Nat) (k : Nat) (pos : Nat) (c : Cell), let u := (s.pass dt).m;
        let due : Bool := match (u.link k).keyDue with | some t0 => decide (t0 ≤ u.now) | none => false; n < 28 ∧ c.payload.length = 64 ∧ k < 5
        ∧ pos < 32 ∧ s.live dt ∧ (due = false ∨ u.get (F.secLink_STATE k) ≠ 3 ∨ k = 0))
    ∧ (∃ (s : State) (dt : Nat) (n : Nat) (k : Nat) (pos : Nat) (c : Cell), let u := (s.pass dt).m;
        let alone : Bool := u.secReady && !u.on F.pnxChain_VALID && !u.linkUp 1 && !u.linkUp 2 && decide (u.keysAt + u.get F.pnxCfg_CHAIN_WAIT_MS * 1000000 ≤ u.now); n < 28 ∧ c.payload.length = 64 ∧ k < 5 ∧ pos < 32 ∧ s.live dt ∧ alone = true)
    ∧ (∃ (s : State) (dt : Nat) (n : Nat) (k : Nat) (pos : Nat) (c : Cell), let u := (s.pass dt).m;
        let alone : Bool := u.secReady && !u.on F.pnxChain_VALID && !u.linkUp 1 && !u.linkUp 2 && decide (u.keysAt + u.get F.pnxCfg_CHAIN_WAIT_MS * 1000000 ≤ u.now); n < 28 ∧ c.payload.length = 64 ∧ k < 5 ∧ pos < 32 ∧ s.live dt ∧ alone = false)
    ∧ (∃ (s : State) (dt : Nat) (n : Nat) (k : Nat) (pos : Nat) (c : Cell), let u := (s.pass dt).m;
        let told : Bool := (k = 1 || k = 2) && u.linkUp k && !u.on F.pnxChain_VALID && !u.on F.pnxChain_TOO_LONG; n < 28 ∧ c.payload.length = 64
        ∧ k < 5 ∧ pos < 32 ∧ s.live dt ∧ told = true ∧ pos < 31)
    ∧ (∃ (s : State) (dt : Nat) (n : Nat) (k : Nat) (pos : Nat) (c : Cell), let u := (s.pass dt).m;
        let told : Bool := (k = 1 || k = 2) && u.linkUp k && !u.on F.pnxChain_VALID && !u.on F.pnxChain_TOO_LONG; n < 28 ∧ c.payload.length = 64
        ∧ k < 5 ∧ pos < 32 ∧ s.live dt ∧ told = true ∧ pos = 31)
    ∧ (∃ (s : State) (dt : Nat) (n : Nat) (k : Nat) (pos : Nat) (c : Cell), let u := (s.pass dt).m;
        let told : Bool := (k = 1 || k = 2) && u.linkUp k && !u.on F.pnxChain_VALID && !u.on F.pnxChain_TOO_LONG; n < 28 ∧ c.payload.length = 64
        ∧ k < 5 ∧ pos < 32 ∧ s.live dt ∧ told = false) :=
  ⟨⟨wst [(F.secLink_STATE 0, 3)] (lnk 0 fun l => { l with keyDue := some 0 }), 0, 27, 0, 31, cell 5 0 0 0 0 [], by decide +kernel⟩,
   ⟨wst [(F.secStat_STATE, 1), (F.pnxChain_VALID, 0), (F.pnxLink_STATE 1, 0), (F.pnxLink_STATE 2, 0), (F.pnxCfg_CHAIN_WAIT_MS, 0)], 0, 27, 4, 31, cell 5 0 0 0 0 [], by decide +kernel⟩,
   ⟨wst [(F.secStat_STATE, 1), (F.pnxChain_VALID, 0), (F.pnxLink_STATE 1, 2), (F.pnxLink_STATE 2, 0), (F.pnxCfg_CHAIN_WAIT_MS, 0)], 0, 27, 4, 31, cell 5 0 0 0 0 [], by decide +kernel⟩,
   ⟨wst [(F.pnxChain_VALID, 0), (F.pnxChain_TOO_LONG, 0), (F.pnxLink_STATE 1, 2)], 0, 27, 1, 30, cell 5 0 0 0 0 [], by decide +kernel⟩,
   ⟨wst [(F.pnxChain_VALID, 0), (F.pnxChain_TOO_LONG, 0), (F.pnxLink_STATE 2, 2)], 0, 27, 2, 31, cell 5 0 0 0 0 [], by decide +kernel⟩,
   ⟨wst [(F.pnxChain_VALID, 0), (F.pnxChain_TOO_LONG, 0), (F.pnxLink_STATE 3, 2)], 0, 27, 3, 31, cell 5 0 0 0 0 [], by decide +kernel⟩⟩

theorem wit_TwinsPairBeatAndPart_1 :
    (∃ (s : State) (dt : Nat) (agent : Nat) (n : Nat) (c : Cell), let u := (s.pass dt).m;
        let overran : Bool := u.tngIs 1 && u.tng.peer.isNone && decide (u.tng.startAt + u.get F.tngCfg_PAIR_WAIT_MS * 1000000 ≤ u.now);
        isAgent agent = true ∧ n < 12 ∧ c.payload.length = 64 ∧ s.live dt ∧ overran = true)
    ∧ (∃ (s : State) (dt : Nat) (agent : Nat) (n : Nat) (c : Cell), let u := (s.pass dt).m;
        let overran : Bool := u.tngIs 1 && u.tng.peer.isNone && decide (u.tng.startAt + u.get F.tngCfg_PAIR_WAIT_MS * 1000000 ≤ u.now);
        isAgent agent = true ∧ n < 12 ∧ c.payload.length = 64 ∧ s.live dt ∧ overran = false)
    ∧ (∃ (s : State) (dt : Nat) (agent : Nat) (n : Nat) (c : Cell), let u := (s.pass dt).m;
        let fit : Bool := u.twinPres && u.laneState n = 2 && c.wellTyped 5 && c.crcOk && u.linkUp 0 && !u.rekeyDue 0; isAgent agent = true ∧ n < 12
        ∧ c.payload.length = 64 ∧ s.live dt ∧ fit = true)
    ∧ (∃ (s : State) (dt : Nat) (agent : Nat) (n : Nat) (c : Cell) (ok : Bool), let u := (s.pass dt).m; let beat := u.reel.fdiv 10000 * 10000;
        let sends : Bool := u.tngIs 2 && ok && !u.on F.pwrStat_PWRFAIL && !(u.get F.tngHb_H != 0 && decide (beat ≤ u.geti F.tngHb_H));
        isAgent agent = true ∧ n < 12 ∧ c.payload.length = 64 ∧ s.live dt ∧ sends = true)
    ∧ (∃ (s : State) (dt : Nat) (agent : Nat) (n : Nat) (c : Cell) (ok : Bool), let u := (s.pass dt).m; let beat := u.reel.fdiv 10000 * 10000;
        let sends : Bool := u.tngIs 2 && ok && !u.on F.pwrStat_PWRFAIL && !(u.get F.tngHb_H != 0 && decide (beat ≤ u.geti F.tngHb_H));
        isAgent agent = true ∧ n < 12 ∧ c.payload.length = 64 ∧ s.live dt ∧ sends = false)
    ∧ (∃ (s : State) (dt : Nat) (agent : Nat) (n : Nat) (c : Cell), let u := (s.pass dt).m; isAgent agent = true ∧ n < 12 ∧ c.payload.length = 64
        ∧ s.live dt ∧ u.follower = true)
    ∧ (∃ (s : State) (dt : Nat) (agent : Nat) (n : Nat) (c : Cell), let u := (s.pass dt).m; isAgent agent = true ∧ n < 12 ∧ c.payload.length = 64
        ∧ s.live dt ∧ u.follower = false)
    ∧ (∃ (s : State) (dt : Nat) (agent : Nat) (seq : Nat) (n : Nat) (c : Cell) (h0 : _) (z0 : _), let u := (s.pass dt).m; isAgent agent = true
        ∧ n < 12 ∧ c.payload.length = 64 ∧ s.live dt ∧ u.tngIs 2 = true ∧ u.tng.sent.find? (fun x => x.1 = seq) = some (seq, h0, z0))
    ∧ (∃ (s : State) (dt : Nat) (agent : Nat) (seq : Nat) (n : Nat) (c : Cell), let u := (s.pass dt).m; isAgent agent = true ∧ n < 12
        ∧ c.payload.length = 64 ∧ s.live dt ∧ (u.tngIs 2 = false ∨ (u.tng.sent.find? fun x => x.1 = seq) = none))
    ∧ (∃ (s : State) (dt : Nat) (agent : Nat) (n : Nat) (c : Cell), let u := (s.pass dt).m; let missed := u.get F.tngStat_MISSED;
        let due : Bool := u.follower && decide (u.tng.lastH + 13000 + 10000 * missed ≤ u.reel); isAgent agent = true ∧ n < 12 ∧ c.payload.length = 64
        ∧ s.live dt ∧ due = true ∧ missed ≠ 2)
    ∧ (∃ (s : State) (dt : Nat) (agent : Nat) (n : Nat) (c : Cell), let u := (s.pass dt).m; let missed := u.get F.tngStat_MISSED;
        let due : Bool := u.follower && decide (u.tng.lastH + 13000 + 10000 * missed ≤ u.reel); isAgent agent = true ∧ n < 12 ∧ c.payload.length = 64
        ∧ s.live dt ∧ due = true ∧ missed = 2)
    ∧ (∃ (s : State) (dt : Nat) (agent : Nat) (n : Nat) (c : Cell), let u := (s.pass dt).m; let missed := u.get F.tngStat_MISSED;
        let due : Bool := u.follower && decide (u.tng.lastH + 13000 + 10000 * missed ≤ u.reel); isAgent agent = true ∧ n < 12 ∧ c.payload.length = 64
        ∧ s.live dt ∧ due = false) :=
  ⟨⟨wst [(F.tngStat_STATE, 1), (F.tngCfg_PAIR_WAIT_MS, 0)] (fun m => { m with twinPres := true }), 0, 1, 11, cell 5 0 0 0 0 [], by decide +kernel⟩,
   ⟨wst [(F.tngStat_STATE, 1), (F.tngCfg_PAIR_WAIT_MS, 1)], 0, 1, 11, cell 5 0 0 0 0 [], by decide +kernel⟩,
   ⟨pairState 1 id, 0, 1, 11, cell 5 0 0 0 0 [], by decide +kernel⟩,
   ⟨wst [(F.tngStat_STATE, 2), (F.pwrStat_PWRFAIL, 0), (F.tngHb_H, 0)] (fun m => { m with reelT := 10000 * 2 ^ 40 }), 0, 1, 11, cell 5 0 0 0 0 [], true, by decide +kernel⟩,
   ⟨wst [(F.tngStat_STATE, 2), (F.pwrStat_PWRFAIL, 0), (F.tngHb_H, 10000)] (fun m => { m with reelT := 10000 * 2 ^ 40 }), 0, 1, 11, cell 5 0 0 0 0 [], true, by decide +kernel⟩,
   ⟨wst [(F.tngStat_STATE, 3)], 0, 1, 11, cell 5 0 0 0 0 [], by decide +kernel⟩,
   ⟨wst [(F.tngStat_STATE, 2)], 0, 1, 11, cell 5 0 0 0 0 [], by decide +kernel⟩,
   ⟨wst [(F.tngStat_STATE, 2), (F.tngStat_MISSED, 3)] (fun m => { m with tng := { m.tng with sent := [(3, 0, 14000), (4, 10000, 24000), (5, 20000, 34000)], lost := true } }), 0, 1, 4, 11, cell 5 0 0 0 0 [], 10000, 24000, by decide +kernel⟩,
   ⟨wst [(F.tngStat_STATE, 2)] (fun m => { m with tng := { m.tng with sent := [(3, 0, 14000)] } }), 0, 1, 4, 11, cell 5 0 0 0 0 [], by decide +kernel⟩,
   ⟨wst [(F.tngStat_STATE, 3), (F.tngStat_MISSED, 1)] (fun m => { m with reelT := 23000 * 2 ^ 40 }), 0, 1, 11, cell 5 0 0 0 0 [], by decide +kernel⟩,
   ⟨wst [(F.tngStat_STATE, 3), (F.tngStat_MISSED, 2)] (fun m => { m with reelT := 33000 * 2 ^ 40 }), 0, 1, 11, cell 5 0 0 0 0 [], by decide +kernel⟩,
   ⟨wst [(F.tngStat_STATE, 3), (F.tngStat_MISSED, 2)] (fun m => { m with reelT := 32999 * 2 ^ 40 }), 0, 1, 11, cell 5 0 0 0 0 [], by decide +kernel⟩⟩

theorem wit_TwinsPairBeatAndPart_2 :
    (∃ (s : State) (dt : Nat) (agent : Nat) (n : Nat) (c : Cell), let u := (s.pass dt).m;
        let gone : Bool := u.tngIs 2 && decide (3 ≤ u.get F.tngStat_MISSED) && !u.tng.lost; isAgent agent = true ∧ n < 12 ∧ c.payload.length = 64
        ∧ s.live dt ∧ gone = true)
    ∧ (∃ (s : State) (dt : Nat) (agent : Nat) (n : Nat) (c : Cell), let u := (s.pass dt).m;
        let gone : Bool := u.tngIs 2 && decide (3 ≤ u.get F.tngStat_MISSED) && !u.tng.lost; isAgent agent = true ∧ n < 12 ∧ c.payload.length = 64
        ∧ s.live dt ∧ gone = false)
    ∧ (∃ (s : State) (dt : Nat) (agent : Nat) (n : Nat) (c : Cell), let u := (s.pass dt).m;
        let overran : Bool := u.tngIs 2 && u.tng.lost && u.on F.tngCfg_AUTO_SOLO && decide (u.tng.ackAt + u.get F.tngCfg_SOLO_US * 1000 ≤ u.now);
        isAgent agent = true ∧ n < 12 ∧ c.payload.length = 64 ∧ s.live dt ∧ overran = true)
    ∧ (∃ (s : State) (dt : Nat) (agent : Nat) (n : Nat) (c : Cell), let u := (s.pass dt).m;
        let overran : Bool := u.tngIs 2 && u.tng.lost && u.on F.tngCfg_AUTO_SOLO && decide (u.tng.ackAt + u.get F.tngCfg_SOLO_US * 1000 ≤ u.now);
        isAgent agent = true ∧ n < 12 ∧ c.payload.length = 64 ∧ s.live dt ∧ overran = false)
    ∧ (∃ (s : State) (dt : Nat) (agent : Nat) (n : Nat) (c : Cell), let u := (s.pass dt).m;
        let fires : Bool := u.tngIs 2 && !u.tng.wdFired && decide (u.tng.wdAt + 25000 ≤ u.now); isAgent agent = true ∧ n < 12 ∧ c.payload.length = 64
        ∧ s.live dt ∧ fires = true)
    ∧ (∃ (s : State) (dt : Nat) (agent : Nat) (n : Nat) (c : Cell), let u := (s.pass dt).m;
        let fires : Bool := u.tngIs 2 && !u.tng.wdFired && decide (u.tng.wdAt + 25000 ≤ u.now); isAgent agent = true ∧ n < 12 ∧ c.payload.length = 64
        ∧ s.live dt ∧ fires = false)
    ∧ (∃ (s : State) (dt : Nat) (agent : Nat) (n : Nat) (c : Cell), let u := (s.pass dt).m; let may : Bool := u.tngIs 5 || (u.tngIs 2 && u.tng.lost);
        isAgent agent = true ∧ n < 12 ∧ c.payload.length = 64 ∧ s.live dt ∧ s.heeds dt agent 18 ∧ may = true)
    ∧ (∃ (s : State) (dt : Nat) (agent : Nat) (n : Nat) (c : Cell), let u := (s.pass dt).m; let may : Bool := u.tngIs 5 || (u.tngIs 2 && u.tng.lost);
        isAgent agent = true ∧ n < 12 ∧ c.payload.length = 64 ∧ s.live dt ∧ s.heeds dt agent 18 ∧ may = false)
    ∧ (∃ (s : State) (dt : Nat) (agent : Nat) (n : Nat) (c : Cell), let u := (s.pass dt).m;
        let takes : Bool := u.tngIs 4 && u.tng.checked && !u.tng.joined; isAgent agent = true ∧ n < 12 ∧ c.payload.length = 64 ∧ s.live dt
        ∧ s.heeds dt agent 18 ∧ takes = true)
    ∧ (∃ (s : State) (dt : Nat) (agent : Nat) (n : Nat) (c : Cell), let u := (s.pass dt).m;
        let takes : Bool := u.tngIs 4 && u.tng.checked && !u.tng.joined; isAgent agent = true ∧ n < 12 ∧ c.payload.length = 64 ∧ s.live dt
        ∧ s.heeds dt agent 18 ∧ takes = false)
    ∧ (∃ (s : State) (dt : Nat) (agent : Nat) (n : Nat) (c : Cell), let u := (s.pass dt).m; isAgent agent = true ∧ n < 12 ∧ c.payload.length = 64
        ∧ s.live dt ∧ u.tngIs 2 = true)
    ∧ (∃ (s : State) (dt : Nat) (agent : Nat) (n : Nat) (c : Cell), let u := (s.pass dt).m; isAgent agent = true ∧ n < 12 ∧ c.payload.length = 64
        ∧ s.live dt ∧ u.tngIs 2 = false) :=
  ⟨⟨wst [(F.tngStat_STATE, 2), (F.tngStat_MISSED, 3)], 0, 1, 11, cell 5 0 0 0 0 [], by decide +kernel⟩,
   ⟨wst [(F.tngStat_STATE, 2), (F.tngStat_MISSED, 2)], 0, 1, 11, cell 5 0 0 0 0 [], by decide +kernel⟩,
   ⟨wst [(F.tngStat_STATE, 2), (F.tngCfg_AUTO_SOLO, 1), (F.tngCfg_SOLO_US, 0)] (fun m => { m with tng := { m.tng with lost := true } }), 0, 1, 11, cell 5 0 0 0 0 [], by decide +kernel⟩,
   ⟨wst [(F.tngStat_STATE, 2), (F.tngCfg_AUTO_SOLO, 1), (F.tngCfg_SOLO_US, 1)] (fun m => { m with tng := { m.tng with lost := true } }), 0, 1, 11, cell 5 0 0 0 0 [], by decide +kernel⟩,
   ⟨wst [(F.tngStat_STATE, 2), (F.fioSafe_CAUSE, 0)] (fun m => { m with now := 25000 }), 0, 1, 11, cell 5 0 0 0 0 [], by decide +kernel⟩,
   ⟨wst [(F.tngStat_STATE, 2)] (fun m => { m with now := 24999 }), 0, 1, 11, cell 5 0 0 0 0 [], by decide +kernel⟩,
   ⟨wst [(F.tngStat_STATE, 5)], 0, 1, 11, cell 5 0 0 0 0 [], by decide +kernel⟩,
   ⟨wst [(F.tngStat_STATE, 2)], 0, 1, 11, cell 5 0 0 0 0 [], by decide +kernel⟩,
   ⟨wst [(F.tngStat_STATE, 4)] (fun m => { m with tng := { m.tng with checked := true } }), 0, 1, 11, cell 5 0 0 0 0 [], by decide +kernel⟩,
   ⟨wst [(F.tngStat_STATE, 4)], 0, 1, 11, cell 5 0 0 0 0 [], by decide +kernel⟩,
   ⟨wst [(F.tngStat_STATE, 2)], 0, 1, 11, cell 5 0 0 0 0 [], by decide +kernel⟩,
   ⟨wst [(F.tngStat_STATE, 3)], 0, 1, 11, cell 5 0 0 0 0 [], by decide +kernel⟩⟩

theorem wit_FollowersTakeTheLeadsInputs_1 :
    (∃ (s : State) (dt : Nat) (p : Nat) (i : Nat) (e : Nat) (side : Nat) (port : Nat) (choice : Nat) (r : EdgeRec), let u := (s.pass dt).m; p < 16
        ∧ i < 32 ∧ e < 1024 ∧ side < 2 ∧ port < 16 ∧ r.axis < 8 ∧ 1 ≤ choice ∧ choice ≤ 3 ∧ s.live dt ∧ u.follower = false)
    ∧ (∃ (s : State) (dt : Nat) (p : Nat) (i : Nat) (e : Nat) (side : Nat) (port : Nat) (choice : Nat) (r : EdgeRec), let u := (s.pass dt).m; p < 16
        ∧ i < 32 ∧ e < 1024 ∧ side < 2 ∧ port < 16 ∧ r.axis < 8 ∧ 1 ≤ choice ∧ choice ≤ 3 ∧ s.live dt ∧ u.follower = true)
    ∧ (∃ (s : State) (dt : Nat) (p : Nat) (i : Nat) (e : Nat) (side : Nat) (port : Nat) (choice : Nat) (r : EdgeRec), let u := (s.pass dt).m; p < 16
        ∧ i < 32 ∧ e < 1024 ∧ side < 2 ∧ port < 16 ∧ r.axis < 8 ∧ 1 ≤ choice ∧ choice ≤ 3 ∧ s.live dt ∧ u.follower = true)
    ∧ (∃ (s : State) (dt : Nat) (p : Nat) (i : Nat) (e : Nat) (side : Nat) (port : Nat) (choice : Nat) (r : EdgeRec), let u := (s.pass dt).m; p < 16
        ∧ i < 32 ∧ e < 1024 ∧ side < 2 ∧ port < 16 ∧ r.axis < 8 ∧ 1 ≤ choice ∧ choice ≤ 3 ∧ s.live dt ∧ u.follower = true)
    ∧ (∃ (s : State) (dt : Nat) (p : Nat) (i : Nat) (e : Nat) (side : Nat) (port : Nat) (choice : Nat) (r : EdgeRec), let u := (s.pass dt).m; p < 16
        ∧ i < 32 ∧ e < 1024 ∧ side < 2 ∧ port < 16 ∧ r.axis < 8 ∧ 1 ≤ choice ∧ choice ≤ 3 ∧ s.live dt ∧ u.follower = true)
    ∧ (∃ (s : State) (dt : Nat) (p : Nat) (i : Nat) (e : Nat) (side : Nat) (port : Nat) (choice : Nat) (r : EdgeRec), let u := (s.pass dt).m; p < 16
        ∧ i < 32 ∧ e < 1024 ∧ side < 2 ∧ port < 16 ∧ r.axis < 8 ∧ 1 ≤ choice ∧ choice ≤ 3 ∧ s.live dt ∧ u.follower = true)
    ∧ (∃ (s : State) (dt : Nat) (p : Nat) (i : Nat) (e : Nat) (side : Nat) (port : Nat) (block : Nat) (choice : Nat) (r : EdgeRec), let u := (s.pass dt).m; p < 16 ∧ i < 32 ∧ e < 1024 ∧ side < 2 ∧ port < 16 ∧ r.axis < 8 ∧ 1 ≤ choice ∧ choice ≤ 3 ∧ s.live dt ∧ u.follower = true ∧ u.monBlk port block = none)
    ∧ (∃ (s : State) (dt : Nat) (p : Nat) (i : Nat) (e : Nat) (side : Nat) (port : Nat) (block : Nat) (choice : Nat) (r : EdgeRec) (b : _), let u := (s.pass dt).m; p < 16 ∧ i < 32 ∧ e < 1024 ∧ side < 2 ∧ port < 16 ∧ r.axis < 8 ∧ 1 ≤ choice ∧ choice ≤ 3 ∧ s.live dt ∧ u.follower = true ∧ u.monBlk port block = some b ∧ b.delivered = true)
    ∧ (∃ (s : State) (dt : Nat) (p : Nat) (i : Nat) (e : Nat) (side : Nat) (port : Nat) (block : Nat) (choice : Nat) (r : EdgeRec) (b : _), let u := (s.pass dt).m; p < 16 ∧ i < 32 ∧ e < 1024 ∧ side < 2 ∧ port < 16 ∧ r.axis < 8 ∧ 1 ≤ choice ∧ choice ≤ 3 ∧ s.live dt ∧ u.follower = true ∧ u.monBlk port block = some b ∧ b.delivered = false ∧ b.reserve = none ∧ choice = 1)
    ∧ (∃ (s : State) (dt : Nat) (p : Nat) (i : Nat) (e : Nat) (side : Nat) (port : Nat) (block : Nat) (choice : Nat) (r : EdgeRec) (b : _) (v : _), let u := (s.pass dt).m; p < 16 ∧ i < 32 ∧ e < 1024 ∧ side < 2 ∧ port < 16 ∧ r.axis < 8 ∧ 1 ≤ choice ∧ choice ≤ 3 ∧ s.live dt ∧ u.follower = true ∧ u.monBlk port block = some b ∧ b.delivered = false ∧ b.reserve = some v ∧ choice = 1)
    ∧ (∃ (s : State) (dt : Nat) (p : Nat) (i : Nat) (e : Nat) (side : Nat) (port : Nat) (block : Nat) (choice : Nat) (r : EdgeRec) (b : _), let u := (s.pass dt).m; p < 16 ∧ i < 32 ∧ e < 1024 ∧ side < 2 ∧ port < 16 ∧ r.axis < 8 ∧ 1 ≤ choice ∧ choice ≤ 3 ∧ s.live dt ∧ u.follower = true ∧ u.monBlk port block = some b ∧ b.delivered = false ∧ b.main = none ∧ choice = 2)
    ∧ (∃ (s : State) (dt : Nat) (p : Nat) (i : Nat) (e : Nat) (side : Nat) (port : Nat) (block : Nat) (choice : Nat) (r : EdgeRec) (b : _), let u := (s.pass dt).m; p < 16 ∧ i < 32 ∧ e < 1024 ∧ side < 2 ∧ port < 16 ∧ r.axis < 8 ∧ 1 ≤ choice ∧ choice ≤ 3 ∧ s.live dt ∧ u.follower = true ∧ u.monBlk port block = some b ∧ b.delivered = false ∧ b.main = none ∧ choice = 3) :=
  ⟨⟨wst [(F.tngStat_STATE, 2)], 0, 15, 31, 1023, 1, 15, 1, edgeRec, by decide +kernel⟩,
   ⟨wst [(F.tngStat_STATE, 3)], 0, 15, 31, 1023, 1, 15, 1, edgeRec, by decide +kernel⟩,
   ⟨wst [(F.tngStat_STATE, 3)], 0, 15, 31, 1023, 1, 15, 1, edgeRec, by decide +kernel⟩,
   ⟨wst [(F.tngStat_STATE, 3)], 0, 15, 31, 1023, 1, 15, 1, edgeRec, by decide +kernel⟩,
   ⟨wst [(F.tngStat_STATE, 3)], 0, 15, 31, 1023, 1, 15, 1, edgeRec, by decide +kernel⟩,
   ⟨wst [(F.tngStat_STATE, 3)], 0, 15, 31, 1023, 1, 15, 1, edgeRec, by decide +kernel⟩,
   ⟨wst [(F.tngStat_STATE, 3)] (fun m => { m with rplChoices := [(15, 5, 1)] }), 0, 15, 31, 1023, 1, 15, 5, 1, edgeRec, by decide +kernel⟩,
   ⟨wst [(F.tngStat_STATE, 3)] (fun m => { m with mon := [{ blkOf true none none with port := 15 }] }), 0, 15, 31, 1023, 1, 15, 5, 1, edgeRec, { blkOf true none none with port := 15 }, by decide +kernel⟩,
   ⟨wst [(F.tngStat_STATE, 3)] (fun m => { m with mon := [{ blkOf false none none with port := 15 }] }), 0, 15, 31, 1023, 1, 15, 5, 1, edgeRec, { blkOf false none none with port := 15 }, by decide +kernel⟩,
   ⟨wst [(F.tngStat_STATE, 3)] (fun m => { m with mon := [{ blkOf false (some vd) none with port := 15 }] }), 0, 15, 31, 1023, 1, 15, 5, 1, edgeRec, { blkOf false (some vd) none with port := 15 }, vd, by decide +kernel⟩,
   ⟨wst [(F.tngStat_STATE, 3)] (fun m => { m with mon := [{ blkOf false none none with port := 15 }] }), 0, 15, 31, 1023, 1, 15, 5, 2, edgeRec, { blkOf false none none with port := 15 }, by decide +kernel⟩,
   ⟨wst [(F.tngStat_STATE, 3)] (fun m => { m with mon := [{ blkOf false none none with port := 15 }] }), 0, 15, 31, 1023, 1, 15, 5, 3, edgeRec, { blkOf false none none with port := 15 }, by decide +kernel⟩⟩

theorem wit_FollowersTakeTheLeadsInputs_2 :
    (∃ (s : State) (dt : Nat) (p : Nat) (i : Nat) (e : Nat) (side : Nat) (port : Nat) (choice : Nat) (r : EdgeRec), let u := (s.pass dt).m;
        let right : Bool := side = 1; let takes : Bool := u.follower && (u.hopEnt e).live && ((u.hopEnt e).side right).detach.isNone; p < 16 ∧ i < 32
        ∧ e < 1024 ∧ side < 2 ∧ port < 16 ∧ r.axis < 8 ∧ 1 ≤ choice ∧ choice ≤ 3 ∧ s.live dt ∧ takes = true)
    ∧ (∃ (s : State) (dt : Nat) (p : Nat) (i : Nat) (e : Nat) (side : Nat) (port : Nat) (choice : Nat) (r : EdgeRec), let u := (s.pass dt).m;
        let right : Bool := side = 1; let takes : Bool := u.follower && (u.hopEnt e).live && ((u.hopEnt e).side right).detach.isNone; p < 16 ∧ i < 32
        ∧ e < 1024 ∧ side < 2 ∧ port < 16 ∧ r.axis < 8 ∧ 1 ≤ choice ∧ choice ≤ 3 ∧ s.live dt ∧ takes = false)
    ∧ (∃ (s : State) (dt : Nat) (p : Nat) (i : Nat) (e : Nat) (side : Nat) (port : Nat) (choice : Nat) (r : EdgeRec), let u := (s.pass dt).m; p < 16
        ∧ i < 32 ∧ e < 1024 ∧ side < 2 ∧ port < 16 ∧ r.axis < 8 ∧ 1 ≤ choice ∧ choice ≤ 3 ∧ s.live dt ∧ u.follower = true ∧ u.hopState e = 2)
    ∧ (∃ (s : State) (dt : Nat) (p : Nat) (i : Nat) (e : Nat) (side : Nat) (port : Nat) (choice : Nat) (r : EdgeRec), let u := (s.pass dt).m; p < 16
        ∧ i < 32 ∧ e < 1024 ∧ side < 2 ∧ port < 16 ∧ r.axis < 8 ∧ 1 ≤ choice ∧ choice ≤ 3 ∧ s.live dt ∧ u.hopState e ≠ 2)
    ∧ (∃ (s : State) (dt : Nat) (p : Nat) (i : Nat) (e : Nat) (side : Nat) (port : Nat) (choice : Nat) (r : EdgeRec), let u := (s.pass dt).m; p < 16
        ∧ i < 32 ∧ e < 1024 ∧ side < 2 ∧ port < 16 ∧ r.axis < 8 ∧ 1 ≤ choice ∧ choice ≤ 3 ∧ s.live dt ∧ u.paired = false)
    ∧ (∃ (s : State) (dt : Nat) (p : Nat) (i : Nat) (e : Nat) (side : Nat) (step : Nat) (port : Nat) (choice : Nat) (r : EdgeRec) (w0 : Word) (w1 : Word) (v : Bool) (a : _) (b : _), let u := (s.pass dt).m; let key := step * 1024 + e; let x := u.posAx r.axis; let vtag := (w0.extractLsb' 32 32).toNat; let vkey (v : Bool) : Nat := if v then vtag else key; let body (v : Bool) : Nat × Nat := (w0.toNat, if v then w1.toNat else 0); let mine (m : Mach) (v : Bool) := if v then m.ownVerdicts else m.ownDigests; p < 16 ∧ i < 32 ∧ e < 1024 ∧ side < 2 ∧ port < 16 ∧ r.axis < 8 ∧ 1 ≤ choice ∧ choice ≤ 3 ∧ s.live dt ∧ u.paired = true ∧ (mine u v).find? (fun x => x.1 = vkey v) = some (vkey v, a, b) ∧ (a, b) ≠ body v)
    ∧ (∃ (s : State) (dt : Nat) (p : Nat) (i : Nat) (e : Nat) (side : Nat) (step : Nat) (port : Nat) (choice : Nat) (r : EdgeRec) (w0 : Word) (w1 : Word) (v : Bool) (a : _) (b : _), let u := (s.pass dt).m; let key := step * 1024 + e; let x := u.posAx r.axis; let vtag := (w0.extractLsb' 32 32).toNat; let vkey (v : Bool) : Nat := if v then vtag else key; let body (v : Bool) : Nat × Nat := (w0.toNat, if v then w1.toNat else 0); let mine (m : Mach) (v : Bool) := if v then m.ownVerdicts else m.ownDigests; p < 16 ∧ i < 32 ∧ e < 1024 ∧ side < 2 ∧ port < 16 ∧ r.axis < 8 ∧ 1 ≤ choice ∧ choice ≤ 3 ∧ s.live dt ∧ u.paired = true ∧ (mine u v).find? (fun x => x.1 = vkey v) = some (vkey v, a, b) ∧ (a, b) = body v)
    ∧ (∃ (s : State) (dt : Nat) (p : Nat) (i : Nat) (e : Nat) (side : Nat) (step : Nat) (port : Nat) (choice : Nat) (r : EdgeRec) (w0 : Word) (v : Bool), let u := (s.pass dt).m; let key := step * 1024 + e; let x := u.posAx r.axis; let vtag := (w0.extractLsb' 32 32).toNat; let vkey (v : Bool) : Nat := if v then vtag else key; let mine (m : Mach) (v : Bool) := if v then m.ownVerdicts else m.ownDigests; let theirs (m : Mach) (v : Bool) := if v then m.peerVerdicts else m.peerDigests; p < 16 ∧ i < 32 ∧ e < 1024 ∧ side < 2 ∧ port < 16 ∧ r.axis < 8 ∧ 1 ≤ choice ∧ choice ≤ 3 ∧ s.live dt ∧ u.paired = true ∧ (mine u v).find? (fun x => x.1 = vkey v) = none ∧ (theirs u v).length < 4096) :=
  ⟨⟨wst [(F.tngStat_STATE, 3), (F.hopEntStep_STEP 1023, 0)] (·.modHop 1023 fun h => { h with live := true }), 0, 15, 31, 1023, 1, 15, 1, edgeRec, by decide +kernel⟩,
   ⟨wst [(F.tngStat_STATE, 3), (F.hopEntStep_STEP 1023, 0)], 0, 15, 31, 1023, 1, 15, 1, edgeRec, by decide +kernel⟩,
   ⟨wst [(F.tngStat_STATE, 3), (F.hopEntStat_STATE 1023, 2)], 0, 15, 31, 1023, 1, 15, 1, edgeRec, by decide +kernel⟩,
   ⟨wst [(F.tngStat_STATE, 3), (F.hopEntStat_STATE 1023, 3)], 0, 15, 31, 1023, 1, 15, 1, edgeRec, by decide +kernel⟩,
   ⟨wst [(F.tngStat_STATE, 4)], 0, 15, 31, 1023, 1, 15, 1, edgeRec, by decide +kernel⟩,
   ⟨wst [(F.tngStat_STATE, 3), (F.tngDiv_VALID, 0)] (fun m => { m with ownDigests := [(9 * 1024 + 1023, 7, 0)] }), 0, 15, 31, 1023, 1, 9, 15, 1, edgeRec, 0x500000003, 7, false, 7, 0, by decide +kernel⟩,
   ⟨wst [(F.tngStat_STATE, 3)] (fun m => { m with ownDigests := [(9 * 1024 + 1023, 0x500000003, 0)] }), 0, 15, 31, 1023, 1, 9, 15, 1, edgeRec, 0x500000003, 7, false, 0x500000003, 0, by decide +kernel⟩,
   ⟨wst [(F.tngStat_STATE, 3)], 0, 15, 31, 1023, 1, 9, 15, 1, edgeRec, 0x500000003, true, by decide +kernel⟩⟩

theorem wit_RecordingStartsCheckpointsAndFreezes :
    (∃ (s : State) (dt : Nat) (agent : Nat), s.live dt ∧ s.heeds dt agent 25)
    ∧ (∃ (s : State) (dt : Nat) (agent : Nat), let u := (s.pass dt).m; let en := u.on F.trcRecCtl_EN; let held : Bool := u.on F.trcRecCtl_FROZEN;
        let open' : Bool := en && !held; s.live dt ∧ s.heeds dt agent 25 ∧ open' = false)
    ∧ (∃ (s : State) (dt : Nat) (agent : Nat), let u := (s.pass dt).m; let en := u.on F.trcRecCtl_EN; let held : Bool := u.on F.trcRecCtl_FROZEN;
        let open' : Bool := en && !held; s.live dt ∧ s.heeds dt agent 25 ∧ open' = true)
    ∧ (∃ (s : State) (dt : Nat) (agent : Nat) (r : _), let u := (s.pass dt).m; let en := u.on F.trcRecCtl_EN;
        let held : Bool := u.on F.trcRecCtl_FROZEN; let open' : Bool := en && !held; let off := u.get F.trcRecWptr_BYTES % u.ringSize;
        let pad : Bool := u.ringSize < off + r.bytes; let at' := u.ringBase + if pad then 0 else off; s.live dt ∧ s.heeds dt agent 25 ∧ open' = true
        ∧ u.recBuf = [r] ∧ u.ringSize ≠ 0 ∧ u.stalls u.ringBase = false ∧ (s.pass dt).unflipped ∧ 16 ≤ u.ringSize - off ∧ r.bytes ≤ u.ringSize
        ∧ (u.reaches trcAcc true at' r.bytes).1 = true ∧ ((pad = true → (u.reaches trcAcc true (u.ringBase + off) (u.ringSize - off)).1 = true))
        ∧ u.get F.trcRecWptr_BYTES + u.ringSize + r.bytes < 2 ^ 64)
    ∧ (∃ (s : State) (dt : Nat), let u := (s.pass dt).m; let buffered : Nat := u.recBuf.foldl (fun a x => a + x.bytes) 0;
        let room : Bool := u.recording && u.recDropped != 0 && decide (buffered + 32 ≤ 0x800000); s.live dt ∧ room = true)
    ∧ (∃ (s : State) (dt : Nat), let u := (s.pass dt).m; let buffered : Nat := u.recBuf.foldl (fun a x => a + x.bytes) 0;
        let room : Bool := u.recording && u.recDropped != 0 && decide (buffered + 32 ≤ 0x800000); s.live dt ∧ room = false)
    ∧ (∃ (s : State) (dt : Nat), let u := (s.pass dt).m;
        let due : Bool := u.recording && decide (u.ckptAt + max 10 (u.get F.trcRecCtl_CKPT_MS) * 1000000 ≤ u.now); s.live dt ∧ due = true)
    ∧ (∃ (s : State) (dt : Nat), let u := (s.pass dt).m;
        let due : Bool := u.recording && decide (u.ckptAt + max 10 (u.get F.trcRecCtl_CKPT_MS) * 1000000 ≤ u.now); s.live dt ∧ due = false)
    ∧ (∃ (s : State) (dt : Nat) (t0 : _) (cause : _), let u := (s.pass dt).m; let en := u.on F.trcRecCtl_EN;
        let held : Bool := u.on F.trcRecCtl_FROZEN; let open' : Bool := en && !held; s.live dt ∧ u.recFreeze = some (t0, cause) ∧ t0 ≤ u.now
        ∧ open' = true)
    ∧ (∃ (s : State) (dt : Nat), let u := (s.pass dt).m; let en := u.on F.trcRecCtl_EN; let held : Bool := u.on F.trcRecCtl_FROZEN;
        let open' : Bool := en && !held; s.live dt ∧ ((open' = false ∨ ∀ x ∈ u.recFreeze, u.now < x.1))) :=
  ⟨⟨wst [(F.trcRecCtl_EN, 0), (F.trcRecRing_BASE, 8), (F.trcRecRing_SIZE, 1), (F.schStat_MODE, 0)] (openWin ·), 0, 1, by decide +kernel⟩,
   ⟨wst [(F.trcRecCtl_EN, 0)], 0, 1, by decide +kernel⟩,
   ⟨recOn [] id, 0, 1, by decide +kernel⟩,
   ⟨recOn [(F.trcRecWptr_BYTES, 0x100000), (F.memFlipCtl_ARM, 0)] (fun m => { m with recBuf := [recOf 3 7 5] }), 0, 1, recOf 3 7 5, by decide +kernel⟩,
   ⟨recOn [] (fun m => { m with recDropped := 3, recFirst := -1 }), 0, by decide +kernel⟩,
   ⟨recOn [] id, 0, by decide +kernel⟩,
   ⟨recOn [(F.trcRecCtl_CKPT_MS, 10)] (fun m => { m with now := 10000000 }), 0, by decide +kernel⟩,
   ⟨recOn [(F.trcRecCtl_CKPT_MS, 0)] (fun m => { m with now := 9999999 }), 0, by decide +kernel⟩,
   ⟨recOn [] (fun m => { m with recFreeze := some (0, 3) }), 0, 0, 3, by decide +kernel⟩,
   ⟨recOn [] (fun m => { m with recFreeze := some (1, 3) }), 0, by decide +kernel⟩⟩

theorem wit_RingsExportAndReplay :
    (∃ (s : State) (dt : Nat) (agent : Nat), s.live dt ∧ s.heeds dt agent 25)
    ∧ (∃ (s : State) (dt : Nat), let u := (s.pass dt).m; let busy : Bool := u.on F.trcExportCtl_BUSY; s.live dt ∧ busy = true)
    ∧ (∃ (s : State) (dt : Nat), let u := (s.pass dt).m; let busy : Bool := u.on F.trcExportCtl_BUSY; s.live dt ∧ busy = false)
    ∧ (∃ (s : State) (dt : Nat) (r : _), let u := (s.pass dt).m; let next := ((s.pass dt).fx.ringRead u.rplPos).1;
        let runs : Bool := u.get F.trcRplStat_STATE = 1; let at' : Bool := u.rplPos = u.get F.trcRplTo_OFF; s.live dt ∧ runs = true ∧ at' = false
        ∧ next = some r ∧ r.typ ≠ 0x0D ∧ (r.typ = 0x0E ∨ r.reel + u.rplOff ≤ u.reel))
    ∧ (∃ (s : State) (dt : Nat) (r : _), let u := (s.pass dt).m; let next := ((s.pass dt).fx.ringRead u.rplPos).1;
        let runs : Bool := u.get F.trcRplStat_STATE = 1; let at' : Bool := u.rplPos = u.get F.trcRplTo_OFF; s.live dt ∧ runs = true ∧ at' = false
        ∧ next = some r ∧ r.typ ≠ 0x0D ∧ r.typ ≠ 0x0E ∧ u.reel < r.reel + u.rplOff ∧ (s.pass dt).unflipped)
    ∧ (∃ (s : State) (dt : Nat), let u := (s.pass dt).m; let runs : Bool := u.get F.trcRplStat_STATE = 1;
        let at' : Bool := u.rplPos = u.get F.trcRplTo_OFF; s.live dt ∧ (runs = false ∨ at' = true))
    ∧ (∃ (s : State) (dt : Nat) (r : _), let u := (s.pass dt).m; let next := ((s.pass dt).fx.ringRead u.rplPos).1;
        let runs : Bool := u.get F.trcRplStat_STATE = 1; s.live dt ∧ runs = true ∧ next = some r ∧ r.typ = 0x0D ∧ (s.pass dt).unflipped)
    ∧ (∃ (s : State) (dt : Nat), let u := (s.pass dt).m; let next := ((s.pass dt).fx.ringRead u.rplPos).1;
        let runs : Bool := u.get F.trcRplStat_STATE = 1; let at' : Bool := u.rplPos = u.get F.trcRplTo_OFF;
        let gap : Bool := next.any fun r => r.typ = 0x0D; s.live dt ∧ runs = true ∧ (at' || gap) = true)
    ∧ (∃ (s : State) (dt : Nat), let u := (s.pass dt).m; let runs : Bool := u.get F.trcRplStat_STATE = 1; s.live dt ∧ runs = false)
    ∧ (∃ (s : State) (dt : Nat), let u := (s.pass dt).m; let next := ((s.pass dt).fx.ringRead u.rplPos).1;
        let runs : Bool := u.get F.trcRplStat_STATE = 1; let at' : Bool := u.rplPos = u.get F.trcRplTo_OFF;
        let gap : Bool := next.any fun r => r.typ = 0x0D; s.live dt ∧ runs = true ∧ (at' || gap) = false ∧ next.isSome = true
        ∧ (s.pass dt).unflipped) :=
  ⟨⟨wst [(F.trcRecCtl_FROZEN, 1)], 0, 1, by decide +kernel⟩,
   ⟨wst [(F.trcExportCtl_BUSY, 1), (F.trcExportCtl_LEN, 0)] (openWin ·), 0, by decide +kernel⟩,
   ⟨wst [(F.trcExportCtl_BUSY, 0)], 0, by decide +kernel⟩,
   ⟨ringAt [] (recOf 4 63 0) id, 0, recOf 4 63 0, by decide +kernel⟩,
   ⟨ringAt [] (recOf 4 63 1) id, 0, recOf 4 63 1, by decide +kernel⟩,
   ⟨ringAt [(F.trcRplTo_OFF, 0)] (recOf 4 63 1) id, 0, by decide +kernel⟩,
   ⟨ringAt [] (recOf 13 63 1) id, 0, recOf 13 63 1, by decide +kernel⟩,
   ⟨ringAt [(F.trcRplTo_OFF, 0)] (recOf 4 63 1) id, 0, by decide +kernel⟩,
   ⟨ringAt [(F.trcRplStat_STATE, 0)] (recOf 13 63 1) id, 0, by decide +kernel⟩,
   ⟨ringAt [] (recOf 3 63 1) id, 0, by decide +kernel⟩⟩

theorem wit_SpargeFlipsAndRandomBits_1 :
    (∃ (s : State) (dt : Nat) (agent : Nat) (test : Nat), let u := (s.pass dt).m; let lo := u.get F.memSpgFrom_ADDR; let hi := u.get F.memSpgTo_ADDR;
        ((test = 1 ∨ test = 2)) ∧ s.live dt ∧ s.heeds dt agent 19 ∧ u.spgGood lo hi = true)
    ∧ (∃ (s : State) (dt : Nat) (agent : Nat) (test : Nat), let u := (s.pass dt).m; let lo := u.get F.memSpgFrom_ADDR;
        let hi := u.get F.memSpgTo_ADDR; ((test = 1 ∨ test = 2)) ∧ s.live dt ∧ s.heeds dt agent 19 ∧ u.spgGood lo hi = false)
    ∧ (∃ (s : State) (dt : Nat) (agent : Nat) (test : Nat) (p : _), let u := (s.pass dt).m; ((test = 1 ∨ test = 2)) ∧ s.live dt ∧ s.heeds dt agent 19
        ∧ u.spg = some p)
    ∧ (∃ (s : State) (dt : Nat) (agent : Nat) (test : Nat), let u := (s.pass dt).m; ((test = 1 ∨ test = 2)) ∧ s.live dt ∧ s.heeds dt agent 19
        ∧ u.spg = none)
    ∧ (∃ (s : State) (dt : Nat) (agent : Nat) (test : Nat), ((test = 1 ∨ test = 2)) ∧ s.live dt ∧ s.heeds dt agent 19)
    ∧ (∃ (s : State) (dt : Nat) (test : Nat) (p : _), let u := (s.pass dt).m;
        let overran (p : Pass) : Bool := decide ((p.hi - p.lo) / 8 ≤ (u.now - p.since) * spgRate ((spgKind p.lo).getD 0)); ((test = 1 ∨ test = 2))
        ∧ s.live dt ∧ u.spg = some p ∧ overran p = true)
    ∧ (∃ (s : State) (dt : Nat) (test : Nat) (p : _), let u := (s.pass dt).m;
        let overran (p : Pass) : Bool := decide ((p.hi - p.lo) / 8 ≤ (u.now - p.since) * spgRate ((spgKind p.lo).getD 0)); ((test = 1 ∨ test = 2))
        ∧ s.live dt ∧ u.spg = some p ∧ overran p = false)
    ∧ (∃ (s : State) (dt : Nat) (test : Nat), let u := (s.pass dt).m; ((test = 1 ∨ test = 2)) ∧ s.live dt ∧ u.spg = none)
    ∧ (∃ (s : State) (dt : Nat) (test : Nat), let u := (s.pass dt).m; let st := u.get F.secStat_STATE; ((test = 1 ∨ test = 2)) ∧ s.live dt ∧ st = 0)
    ∧ (∃ (s : State) (dt : Nat) (test : Nat), let u := (s.pass dt).m; let st := u.get F.secStat_STATE; ((test = 1 ∨ test = 2)) ∧ s.live dt ∧ st ≠ 0)
    ∧ (∃ (s : State) (dt : Nat) (test : Nat), let u := (s.pass dt).m; let st := u.get F.secStat_STATE; ((test = 1 ∨ test = 2)) ∧ s.live dt ∧ st < 2)
    ∧ (∃ (s : State) (dt : Nat) (test : Nat), let u := (s.pass dt).m; let st := u.get F.secStat_STATE; ((test = 1 ∨ test = 2)) ∧ s.live dt
        ∧ 2 ≤ st) :=
  ⟨⟨wst [(F.memSpgFrom_ADDR, 0), (F.memSpgTo_ADDR, 0x1000000000)], 0, 1, 1, by decide +kernel⟩,
   ⟨wst [(F.memSpgFrom_ADDR, 0), (F.memSpgTo_ADDR, 0x1000000008)], 0, 1, 1, by decide +kernel⟩,
   ⟨wst [] (fun m => { m with spg := some { since := 0, lo := 0, hi := 64 } }), 0, 1, 1, { since := 0, lo := 0, hi := 64 }, by decide +kernel⟩,
   ⟨wst [], 0, 1, 1, by decide +kernel⟩,
   ⟨wst [], 0, 1, 1, by decide +kernel⟩,
   ⟨wst [] (fun m => { m with now := 4, spg := some { since := 0, lo := 0, hi := 64 } }), 0, 1, { since := 0, lo := 0, hi := 64 }, by decide +kernel⟩,
   ⟨wst [] (fun m => { m with now := 3, spg := some { since := 0, lo := 0, hi := 64 } }), 0, 1, { since := 0, lo := 0, hi := 64 }, by decide +kernel⟩,
   ⟨wst [], 0, 1, by decide +kernel⟩,
   ⟨wst [(F.secStat_STATE, 0)] (fun m => { m with now := 99 }), 0, 1, by decide +kernel⟩,
   ⟨wst [(F.secStat_STATE, 1)], 0, 1, by decide +kernel⟩,
   ⟨wst [(F.secStat_STATE, 0)] (fun m => { m with healthRun := 3 }), 0, 1, by decide +kernel⟩,
   ⟨wst [(F.secStat_STATE, 2)], 0, 1, by decide +kernel⟩⟩

theorem wit_SpargeFlipsAndRandomBits_2 :
    (∃ (s : State) (dt : Nat) (test : Nat), let u := (s.pass dt).m;
        let due : Bool := u.secReady && (decide (u.drbgAt + 1000000000 ≤ u.now) || decide (2 ^ 20 ≤ u.drbgN)); ((test = 1 ∨ test = 2)) ∧ s.live dt
        ∧ due = true)
    ∧ (∃ (s : State) (dt : Nat) (test : Nat), let u := (s.pass dt).m;
        let due : Bool := u.secReady && (decide (u.drbgAt + 1000000000 ≤ u.now) || decide (2 ^ 20 ≤ u.drbgN)); ((test = 1 ∨ test = 2)) ∧ s.live dt
        ∧ due = false)
    ∧ (∃ (s : State) (dt : Nat) (agent : Nat) (test : Nat), let u := (s.pass dt).m; ((test = 1 ∨ test = 2)) ∧ s.live dt ∧ s.heeds dt agent 20
        ∧ u.secReady = true)
    ∧ (∃ (s : State) (dt : Nat) (agent : Nat) (test : Nat), let u := (s.pass dt).m; ((test = 1 ∨ test = 2)) ∧ s.live dt ∧ s.heeds dt agent 20
        ∧ u.secReady = false) :=
  ⟨⟨wst [(F.secStat_STATE, 1)] (fun m => { m with now := 1000000000 }), 0, 1, by decide +kernel⟩,
   ⟨wst [(F.secStat_STATE, 1)] (fun m => { m with drbgN := 2 ^ 20 - 1 }), 0, 1, by decide +kernel⟩,
   ⟨wst [(F.secStat_STATE, 1)], 0, 1, 1, by decide +kernel⟩,
   ⟨wst [(F.secStat_STATE, 0)], 0, 1, 1, by decide +kernel⟩⟩

theorem wit_SupplyShedsFailsAndRecovers :
    (∃ (s : State) (dt : Nat) (mv10 : Nat), let u := (s.pass dt).m; let st := u.get F.pwrStat_STAGE; s.live dt ∧ mv10 < 65536
        ∧ ((∀ x ∈ u.supply.samples, x < 65536)) ∧ st ≤ 3)
    ∧ (∃ (s : State) (dt : Nat) (reserve : Bool), let u := (s.pass dt).m;
        let low : Bool := match u.supply.low with | some t0 => decide (t0 + 1000000 ≤ u.now) | none => false;
        let fails : Bool := !u.on F.pwrStat_PWRFAIL && (reserve || low); s.live dt ∧ fails = true)
    ∧ (∃ (s : State) (dt : Nat) (reserve : Bool), let u := (s.pass dt).m;
        let low : Bool := match u.supply.low with | some t0 => decide (t0 + 1000000 ≤ u.now) | none => false;
        let fails : Bool := !u.on F.pwrStat_PWRFAIL && (reserve || low); s.live dt ∧ fails = false)
    ∧ (∃ (s : State) (dt : Nat) (t0 : _), let u := (s.pass dt).m;
        let fine : Bool := match u.supply.good with | some g => decide (g + 100000000 ≤ u.now) | none => false;
        let back : Bool := fine && (!u.supply.trip || decide (t0 + 60000000000 ≤ u.now)); s.live dt ∧ u.supply.failAt = some t0 ∧ back = true)
    ∧ (∃ (s : State) (dt : Nat) (t0 : _), let u := (s.pass dt).m;
        let fine : Bool := match u.supply.good with | some g => decide (g + 100000000 ≤ u.now) | none => false;
        let back : Bool := fine && (!u.supply.trip || decide (t0 + 60000000000 ≤ u.now)); s.live dt ∧ u.supply.failAt = some t0 ∧ back = false)
    ∧ (∃ (s : State) (dt : Nat), let u := (s.pass dt).m; s.live dt ∧ u.supply.failAt = none) :=
  ⟨⟨wst [(F.pwrStat_STAGE, 0), (F.pwrStat_PWRFAIL, 0), (F.schGuar_HELD, 1)], 0, 65535, by decide +kernel⟩,
   ⟨full (wst [(F.pwrStat_STAGE, 3), (F.pwrStat_PWRFAIL, 0)] (fun m => { m with now := 1000000, supply := { m.supply with low := some 0 } })), 0, false, by decide +kernel⟩,
   ⟨wst [(F.pwrStat_PWRFAIL, 0)] (fun m => { m with now := 999999, supply := { m.supply with low := some 0 } }), 0, false, by decide +kernel⟩,
   ⟨full (wst [(F.pwrStat_PWRFAIL, 1)] (fun m => { m with now := 100000000, supply := { m.supply with failAt := some 0, good := some 0, held := 2 } })), 0, 0, by decide +kernel⟩,
   ⟨wst [(F.pwrStat_PWRFAIL, 1)] (fun m => { m with now := 59999999999, supply := { m.supply with failAt := some 0, good := some 8, trip := true } }), 0, 0, by decide +kernel⟩,
   ⟨wst [], 0, by decide +kernel⟩⟩

theorem wit_ResetsReachWhatTheyName_1 :
    (∃ (s : State) (dt : Nat) (agent : Nat) (val : Word), let kind := (val.extractLsb' 0 3).toNat; s.live dt ∧ s.heeds dt agent 22 ∧ kind ≠ 1)
    ∧ (∃ (s : State) (dt : Nat) (agent : Nat) (val : Word), let kind := (val.extractLsb' 0 3).toNat;
        let keyed : Bool := (val.extractLsb' 48 16).toNat = 0x5A17; s.live dt ∧ s.heeds dt agent 22 ∧ kind = 1 ∧ keyed = false)
    ∧ (∃ (s : State) (dt : Nat) (agent : Nat) (val : Word), let u := (s.pass dt).m; let kind := (val.extractLsb' 0 3).toNat;
        let keyed : Bool := (val.extractLsb' 48 16).toNat = 0x5A17; let fail := u.on F.pwrStat_PWRFAIL; s.live dt ∧ s.heeds dt agent 22 ∧ kind = 1
        ∧ keyed = true ∧ fail = true)
    ∧ (∃ (s : State) (dt : Nat) (agent : Nat) (val : Word) (s0 : _) (r0 : _), let u := (s.pass dt).m; let kind := (val.extractLsb' 0 3).toNat;
        let keyed : Bool := (val.extractLsb' 48 16).toNat = 0x5A17; let fail := u.on F.pwrStat_PWRFAIL; s.live dt ∧ s.heeds dt agent 22 ∧ kind = 1
        ∧ keyed = true ∧ fail = false ∧ u.rst.asserted = some (s0, r0))
    ∧ (∃ (s : State) (dt : Nat) (agent : Nat) (val : Word), let u := (s.pass dt).m; let kind := (val.extractLsb' 0 3).toNat;
        let keyed : Bool := (val.extractLsb' 48 16).toNat = 0x5A17; let fail := u.on F.pwrStat_PWRFAIL;
        let alone : Bool := !fail && u.rst.asserted.isNone; s.live dt ∧ s.heeds dt agent 22 ∧ kind = 1 ∧ keyed = true ∧ alone = true
        ∧ u.nvmBusy = true)
    ∧ (∃ (s : State) (dt : Nat) (agent : Nat) (val : Word), let u := (s.pass dt).m; let kind := (val.extractLsb' 0 3).toNat;
        let keyed : Bool := (val.extractLsb' 48 16).toNat = 0x5A17; let fail := u.on F.pwrStat_PWRFAIL;
        let alone : Bool := !fail && u.rst.asserted.isNone; let runs : Bool := alone && !u.nvmBusy; s.live dt ∧ s.heeds dt agent 22 ∧ kind = 1
        ∧ keyed = true ∧ runs = true)
    ∧ (∃ (s : State) (dt : Nat) (agent : Nat) (val : Word), let kind := (val.extractLsb' 0 3).toNat; s.live dt ∧ s.heeds dt agent 22 ∧ kind ≠ 2)
    ∧ (∃ (s : State) (dt : Nat) (agent : Nat) (val : Word), let kind := (val.extractLsb' 0 3).toNat;
        let keyed : Bool := (val.extractLsb' 48 16).toNat = 0x5A17; s.live dt ∧ s.heeds dt agent 22 ∧ kind = 2 ∧ keyed = false)
    ∧ (∃ (s : State) (dt : Nat) (agent : Nat) (val : Word), let u := (s.pass dt).m; let kind := (val.extractLsb' 0 3).toNat;
        let keyed : Bool := (val.extractLsb' 48 16).toNat = 0x5A17; let fail := u.on F.pwrStat_PWRFAIL; s.live dt ∧ s.heeds dt agent 22 ∧ kind = 2
        ∧ keyed = true ∧ fail = true)
    ∧ (∃ (s : State) (dt : Nat) (agent : Nat) (val : Word) (s0 : _) (r0 : _), let u := (s.pass dt).m; let kind := (val.extractLsb' 0 3).toNat;
        let keyed : Bool := (val.extractLsb' 48 16).toNat = 0x5A17; let fail := u.on F.pwrStat_PWRFAIL; s.live dt ∧ s.heeds dt agent 22 ∧ kind = 2
        ∧ keyed = true ∧ fail = false ∧ u.rst.asserted = some (s0, r0))
    ∧ (∃ (s : State) (dt : Nat) (agent : Nat) (val : Word), let u := (s.pass dt).m; let kind := (val.extractLsb' 0 3).toNat;
        let keyed : Bool := (val.extractLsb' 48 16).toNat = 0x5A17; let fail := u.on F.pwrStat_PWRFAIL;
        let alone : Bool := !fail && u.rst.asserted.isNone; s.live dt ∧ s.heeds dt agent 22 ∧ kind = 2 ∧ keyed = true ∧ alone = true
        ∧ u.nvmBusy = true)
    ∧ (∃ (s : State) (dt : Nat) (agent : Nat) (val : Word), let u := (s.pass dt).m; let kind := (val.extractLsb' 0 3).toNat;
        let keyed : Bool := (val.extractLsb' 48 16).toNat = 0x5A17; let fail := u.on F.pwrStat_PWRFAIL;
        let alone : Bool := !fail && u.rst.asserted.isNone; let runs : Bool := alone && !u.nvmBusy; s.live dt ∧ s.heeds dt agent 22 ∧ kind = 2
        ∧ keyed = true ∧ runs = true) :=
  ⟨⟨wst [], 0, 1, 0x5A17000000000000, by decide +kernel⟩,
   ⟨wst [], 0, 1, 0x5A16000000000001, by decide +kernel⟩,
   ⟨wst [(F.pwrStat_PWRFAIL, 1)], 0, 1, 0x5A17000000000001, by decide +kernel⟩,
   ⟨waits (wst [(F.pwrStat_PWRFAIL, 0)]) 2 1, 0, 1, 0x5A17000000000001, 2, 1, by decide +kernel⟩,
   ⟨full (wst [(F.pwrStat_PWRFAIL, 0), (F.mgtNetCtl_BUSY, 1)]), 0, 1, 0x5A17000000000001, by decide +kernel⟩,
   ⟨calm [] id, 0, 1, 0x5A17000000000001, by decide +kernel⟩,
   ⟨wst [], 0, 1, 0x5A17000000000000, by decide +kernel⟩,
   ⟨wst [], 0, 1, 0x5A16000000000002, by decide +kernel⟩,
   ⟨wst [(F.pwrStat_PWRFAIL, 1)], 0, 1, 0x5A17000000000002, by decide +kernel⟩,
   ⟨waits (wst [(F.pwrStat_PWRFAIL, 0)]) 2 1, 0, 1, 0x5A17000000000002, 2, 1, by decide +kernel⟩,
   ⟨full (wst [(F.pwrStat_PWRFAIL, 0), (F.mgtNetCtl_BUSY, 1)]), 0, 1, 0x5A17000000000002, by decide +kernel⟩,
   ⟨calm [] id, 0, 1, 0x5A17000000000002, by decide +kernel⟩⟩

theorem wit_ResetsReachWhatTheyName_2 :
    (∃ (s : State) (dt : Nat) (agent : Nat) (val : Word), let kind := (val.extractLsb' 0 3).toNat; s.live dt ∧ s.heeds dt agent 22 ∧ kind ≠ 3)
    ∧ (∃ (s : State) (dt : Nat) (agent : Nat) (val : Word), let kind := (val.extractLsb' 0 3).toNat;
        let keyed : Bool := (val.extractLsb' 48 16).toNat = 0x5A17; s.live dt ∧ s.heeds dt agent 22 ∧ kind = 3 ∧ keyed = false)
    ∧ (∃ (s : State) (dt : Nat) (agent : Nat) (val : Word), let u := (s.pass dt).m; let kind := (val.extractLsb' 0 3).toNat;
        let keyed : Bool := (val.extractLsb' 48 16).toNat = 0x5A17; let fail := u.on F.pwrStat_PWRFAIL; s.live dt ∧ s.heeds dt agent 22 ∧ kind = 3
        ∧ keyed = true ∧ fail = true)
    ∧ (∃ (s : State) (dt : Nat) (agent : Nat) (val : Word) (s0 : _) (r0 : _), let u := (s.pass dt).m; let kind := (val.extractLsb' 0 3).toNat;
        let keyed : Bool := (val.extractLsb' 48 16).toNat = 0x5A17; let fail := u.on F.pwrStat_PWRFAIL; s.live dt ∧ s.heeds dt agent 22 ∧ kind = 3
        ∧ keyed = true ∧ fail = false ∧ u.rst.asserted = some (s0, r0))
    ∧ (∃ (s : State) (dt : Nat) (agent : Nat) (val : Word), let u := (s.pass dt).m; let kind := (val.extractLsb' 0 3).toNat;
        let keyed : Bool := (val.extractLsb' 48 16).toNat = 0x5A17; let fail := u.on F.pwrStat_PWRFAIL;
        let alone : Bool := !fail && u.rst.asserted.isNone; s.live dt ∧ s.heeds dt agent 22 ∧ kind = 3 ∧ keyed = true ∧ alone = true
        ∧ u.nvmBusy = true)
    ∧ (∃ (s : State) (dt : Nat) (agent : Nat) (val : Word), let u := (s.pass dt).m; let kind := (val.extractLsb' 0 3).toNat;
        let keyed : Bool := (val.extractLsb' 48 16).toNat = 0x5A17; let fail := u.on F.pwrStat_PWRFAIL;
        let alone : Bool := !fail && u.rst.asserted.isNone; let runs : Bool := alone && !u.nvmBusy; s.live dt ∧ s.heeds dt agent 22 ∧ kind = 3
        ∧ keyed = true ∧ runs = true)
    ∧ (∃ (s : State) (dt : Nat) (agent : Nat) (val : Word), let u := (s.pass dt).m; let kind := (val.extractLsb' 0 3).toNat;
        let keyed : Bool := (val.extractLsb' 48 16).toNat = 0x5A17; let fail := u.on F.pwrStat_PWRFAIL;
        let alone : Bool := !fail && u.rst.asserted.isNone; let runs : Bool := alone && !u.nvmBusy; s.live dt ∧ s.heeds dt agent 22 ∧ keyed = true
        ∧ runs = true ∧ u.rst.low = false ∧ kind = 1)
    ∧ (∃ (s : State) (dt : Nat) (agent : Nat) (val : Word), let u := (s.pass dt).m; let kind := (val.extractLsb' 0 3).toNat;
        let keyed : Bool := (val.extractLsb' 48 16).toNat = 0x5A17; let fail := u.on F.pwrStat_PWRFAIL;
        let alone : Bool := !fail && u.rst.asserted.isNone; let runs : Bool := alone && !u.nvmBusy; s.live dt ∧ s.heeds dt agent 22 ∧ keyed = true
        ∧ runs = true ∧ u.rst.low = false ∧ kind = 2)
    ∧ (∃ (s : State) (dt : Nat) (agent : Nat) (val : Word), let u := (s.pass dt).m; let kind := (val.extractLsb' 0 3).toNat;
        let keyed : Bool := (val.extractLsb' 48 16).toNat = 0x5A17; let fail := u.on F.pwrStat_PWRFAIL;
        let alone : Bool := !fail && u.rst.asserted.isNone; let runs : Bool := alone && !u.nvmBusy; s.live dt ∧ s.heeds dt agent 22 ∧ keyed = true
        ∧ runs = true ∧ u.rst.low = false ∧ kind = 3)
    ∧ (∃ (s : State) (dt : Nat) (agent : Nat) (val : Word), let kind := (val.extractLsb' 0 3).toNat; let blk := (val.extractLsb' 40 8).toNat;
        let inst := (val.extractLsb' 30 10).toNat; let keyed : Bool := (val.extractLsb' 48 16).toNat = 0x5A17;
        let valid : Bool := keyed && kind = 4 && blockOk blk inst; s.live dt ∧ s.heeds dt agent 22 ∧ (kind = 0 ∨ 4 ≤ kind) ∧ valid = false)
    ∧ (∃ (s : State) (dt : Nat) (agent : Nat) (val : Word), let u := (s.pass dt).m; let kind := (val.extractLsb' 0 3).toNat;
        let blk := (val.extractLsb' 40 8).toNat; let inst := (val.extractLsb' 30 10).toNat;
        let keyed : Bool := (val.extractLsb' 48 16).toNat = 0x5A17; let fail := u.on F.pwrStat_PWRFAIL;
        let valid : Bool := keyed && kind = 4 && blockOk blk inst; s.live dt ∧ s.heeds dt agent 22 ∧ valid = true ∧ fail = true)
    ∧ (∃ (s : State) (dt : Nat) (agent : Nat) (val : Word), let u := (s.pass dt).m; let kind := (val.extractLsb' 0 3).toNat;
        let blk := (val.extractLsb' 40 8).toNat; let inst := (val.extractLsb' 30 10).toNat;
        let keyed : Bool := (val.extractLsb' 48 16).toNat = 0x5A17; let fail := u.on F.pwrStat_PWRFAIL;
        let valid : Bool := keyed && kind = 4 && blockOk blk inst; s.live dt ∧ s.heeds dt agent 22 ∧ valid = true ∧ fail = false) :=
  ⟨⟨wst [], 0, 1, 0x5A17000000000000, by decide +kernel⟩,
   ⟨wst [], 0, 1, 0x5A16000000000003, by decide +kernel⟩,
   ⟨wst [(F.pwrStat_PWRFAIL, 1)], 0, 1, 0x5A17000000000003, by decide +kernel⟩,
   ⟨waits (wst [(F.pwrStat_PWRFAIL, 0)]) 2 1, 0, 1, 0x5A17000000000003, 2, 1, by decide +kernel⟩,
   ⟨full (wst [(F.pwrStat_PWRFAIL, 0), (F.mgtNetCtl_BUSY, 1)]), 0, 1, 0x5A17000000000003, by decide +kernel⟩,
   ⟨calm [] id, 0, 1, 0x5A17000000000003, by decide +kernel⟩,
   ⟨calm [] id, 0, 1, 0x5A17000000000001, by decide +kernel⟩,
   ⟨calm [] (fun m => { m with now := 9 }), 0, 1, 0x5A17000000000002, by decide +kernel⟩,
   ⟨calm [(F.cmpCtl_STATE 3, 1)] id, 0, 1, 0x5A17000000000003, by decide +kernel⟩,
   ⟨wst [], 0, 1, BitVec.ofNat 64 (0x5A16 * 2 ^ 48 + 0x12 * 2 ^ 40 + 27 * 2 ^ 30 + 4), by decide +kernel⟩,
   ⟨wst [(F.pwrStat_PWRFAIL, 1)], 0, 1, blkVal 0x12 27, by decide +kernel⟩,
   ⟨wst [(F.pwrStat_PWRFAIL, 0)], 0, 1, blkVal 18 27, by decide +kernel⟩⟩

theorem wit_ResetsReachWhatTheyName_3 :
    (∃ (s : State) (dt : Nat), let u := (s.pass dt).m; s.live dt ∧ u.rst.low = true)
    ∧ (∃ (s : State) (dt : Nat), let u := (s.pass dt).m; let fail := u.on F.pwrStat_PWRFAIL; let alone : Bool := !fail && u.rst.asserted.isNone;
        let runs : Bool := alone && !u.nvmBusy; s.live dt ∧ runs = true ∧ u.rst.low = false)
    ∧ (∃ (s : State) (dt : Nat), let u := (s.pass dt).m; let fail := u.on F.pwrStat_PWRFAIL; let alone : Bool := !fail && u.rst.asserted.isNone;
        s.live dt ∧ alone = true ∧ u.nvmBusy = true ∧ u.rst.low = false)
    ∧ (∃ (s : State) (dt : Nat), let u := (s.pass dt).m; let fail := u.on F.pwrStat_PWRFAIL; s.live dt ∧ fail = true ∧ u.rst.low = false)
    ∧ (∃ (s : State) (dt : Nat) (src : _) (r : _), let u := (s.pass dt).m; s.live dt ∧ u.rst.asserted = some (src, r) ∧ u.rst.waits = true)
    ∧ (∃ (s : State) (dt : Nat), let u := (s.pass dt).m; s.live dt ∧ u.rst.asserted = none)
    ∧ (∃ (s : State) (dt : Nat), s.live dt) :=
  ⟨⟨wst [] (fun m => { m with rst := { m.rst with low := true } }), 0, by decide +kernel⟩,
   ⟨calm [] id, 0, by decide +kernel⟩,
   ⟨full (wst [(F.pwrStat_PWRFAIL, 0), (F.mgtNetCtl_BUSY, 1)]), 0, by decide +kernel⟩,
   ⟨wst [(F.pwrStat_PWRFAIL, 1)], 0, by decide +kernel⟩,
   ⟨waits (wst [] (fun m => { m with rst := { m.rst with low := true } })) 10 1, 0, 10, 1, by decide +kernel⟩,
   ⟨wst [], 0, by decide +kernel⟩,
   ⟨wst [] (fun m => { m with rst := { m.rst with low := true } }), 0, by decide +kernel⟩⟩

theorem wit_PowerOnAndPinReleaseStartAgain :
    (∃ (s : State) (dt : Nat), let u := (s.pass dt).m; let frees (r : Nat) : Prop := ∃ src < 256, u.rst.asserted = some (src, r); u.rst.low = true
        ∧ u.rst.waits = false ∧ frees 0)
    ∧ (∃ (s : State) (dt : Nat), let u := (s.pass dt).m; let frees (r : Nat) : Prop := ∃ src < 256, u.rst.asserted = some (src, r); u.rst.low = true
        ∧ u.rst.waits = false ∧ frees 1)
    ∧ (∃ (s : State) (dt : Nat), let u := (s.pass dt).m; let frees (r : Nat) : Prop := ∃ src < 256, u.rst.asserted = some (src, r); u.rst.low = true
        ∧ u.rst.waits = false ∧ frees 2)
    ∧ (∃ (s : State) (dt : Nat) (src : _) (r : _), let u := (s.pass dt).m; u.on F.pwrStat_PWRFAIL = false ∧ u.rst.low = false ∧ u.rst.waits = false
        ∧ u.rst.asserted = some (src, r)) :=
  ⟨⟨wst [] (fun m => { m with rst := { m.rst with low := true, asserted := some (2, 0) } }), 0, by decide +kernel⟩,
   ⟨wst [] (fun m => { m with rst := { m.rst with low := true, asserted := some (2, 1) } }), 0, by decide +kernel⟩,
   ⟨wst [] (fun m => { m with rst := { m.rst with low := true, asserted := some (2, 2) } }), 0, by decide +kernel⟩,
   ⟨wst [(F.pwrStat_PWRFAIL, 0)] (fun m => { m with rst := { m.rst with asserted := some (8, 1) } }), 0, 8, 1, by decide +kernel⟩⟩

theorem wit_StartsEndInReadyOrFail_1 :
    (∃ (s : State) (dt : Nat) (f : PhaseFacts), let u := (s.pass dt).m; let ph := u.get F.rstStat_PHASE; s.live dt ∧ u.starting = true ∧ ph = 0
        ∧ (s.pass dt).unflipped ∧ f.reason = 0 ∧ u.bootBad = false)
    ∧ (∃ (s : State) (dt : Nat) (f : PhaseFacts), let u := (s.pass dt).m; let ph := u.get F.rstStat_PHASE; s.live dt ∧ u.starting = true ∧ ph = 0
        ∧ (s.pass dt).unflipped ∧ f.reason = 0 ∧ u.bootBad = true)
    ∧ (∃ (s : State) (dt : Nat) (f : PhaseFacts), let u := (s.pass dt).m; let ph := u.get F.rstStat_PHASE; s.live dt ∧ u.starting = true ∧ ph = 0
        ∧ (s.pass dt).unflipped ∧ f.reason ≠ 0)
    ∧ (∃ (s : State) (dt : Nat) (f : PhaseFacts), let u := (s.pass dt).m; let ph := u.get F.rstStat_PHASE; s.live dt ∧ u.starting = true ∧ ph = 1
        ∧ f.reason ≠ 0 ∧ f.reason ≠ 5)
    ∧ (∃ (s : State) (dt : Nat) (f : PhaseFacts), let u := (s.pass dt).m; let ph := u.get F.rstStat_PHASE; s.live dt ∧ u.starting = true ∧ ph = 1
        ∧ ((f.reason = 0 ∨ f.reason = 5)))
    ∧ (∃ (s : State) (dt : Nat) (f : PhaseFacts), let u := (s.pass dt).m; let ph := u.get F.rstStat_PHASE; s.live dt ∧ u.starting = true ∧ ph = 2
        ∧ f.reason = 0)
    ∧ (∃ (s : State) (dt : Nat) (f : PhaseFacts), let u := (s.pass dt).m; let ph := u.get F.rstStat_PHASE; s.live dt ∧ u.starting = true ∧ ph = 2
        ∧ f.reason ≠ 0)
    ∧ (∃ (s : State) (dt : Nat), let u := (s.pass dt).m; let ph := u.get F.rstStat_PHASE; s.live dt ∧ u.starting = true ∧ ph = 3
        ∧ u.get F.secStat_STATE = 2)
    ∧ (∃ (s : State) (dt : Nat) (f : PhaseFacts), let u := (s.pass dt).m; let ph := u.get F.rstStat_PHASE; s.live dt ∧ u.starting = true ∧ ph = 3
        ∧ u.get F.secStat_STATE ≠ 2 ∧ f.reason ≠ 0)
    ∧ (∃ (s : State) (dt : Nat) (f : PhaseFacts), let u := (s.pass dt).m; let ph := u.get F.rstStat_PHASE; s.live dt ∧ u.starting = true ∧ ph = 3
        ∧ u.secReady = true ∧ f.reason = 0)
    ∧ (∃ (s : State) (dt : Nat) (f : PhaseFacts), let u := (s.pass dt).m; let ph := u.get F.rstStat_PHASE; s.live dt ∧ u.starting = true ∧ ph = 3
        ∧ u.get F.secStat_STATE ≠ 2 ∧ u.secReady = false ∧ f.reason = 0)
    ∧ (∃ (s : State) (dt : Nat) (f : PhaseFacts), let u := (s.pass dt).m; let ph := u.get F.rstStat_PHASE; s.live dt ∧ u.starting = true ∧ ph = 4
        ∧ f.reason ≠ 0) :=
  ⟨⟨wst [(F.rstStat_PHASE, 0), (F.rstStat_MINIMAL, 0), (F.pwrStat_PWRFAIL, 0)], 0, facts, by decide +kernel⟩,
   ⟨wst [(F.rstStat_PHASE, 0), (F.rstStat_MINIMAL, 0), (F.pwrStat_PWRFAIL, 0)] (fun m => { m with nvm := [(5, 1)] }), 0, facts, by decide +kernel⟩,
   ⟨wst [(F.rstStat_PHASE, 0), (F.rstStat_MINIMAL, 0), (F.pwrStat_PWRFAIL, 0)], 0, factsOf 3, by decide +kernel⟩,
   ⟨wst [(F.rstStat_PHASE, 1), (F.rstStat_MINIMAL, 0), (F.pwrStat_PWRFAIL, 0)], 0, factsOf 1, by decide +kernel⟩,
   ⟨wst [(F.rstStat_PHASE, 1), (F.rstStat_MINIMAL, 0), (F.pwrStat_PWRFAIL, 0)], 0, facts, by decide +kernel⟩,
   ⟨wst [(F.rstStat_PHASE, 2), (F.rstStat_MINIMAL, 0), (F.pwrStat_PWRFAIL, 0)], 0, facts, by decide +kernel⟩,
   ⟨wst [(F.rstStat_PHASE, 2), (F.rstStat_MINIMAL, 0), (F.pwrStat_PWRFAIL, 0)], 0, factsOf 0xC, by decide +kernel⟩,
   ⟨wst [(F.rstStat_PHASE, 3), (F.rstStat_MINIMAL, 0), (F.pwrStat_PWRFAIL, 0), (F.secStat_STATE, 2)], 0, by decide +kernel⟩,
   ⟨wst [(F.rstStat_PHASE, 3), (F.rstStat_MINIMAL, 0), (F.pwrStat_PWRFAIL, 0), (F.secStat_STATE, 0)], 0, factsOf 0x12, by decide +kernel⟩,
   ⟨wst [(F.rstStat_PHASE, 3), (F.rstStat_MINIMAL, 0), (F.pwrStat_PWRFAIL, 0), (F.secStat_STATE, 1)], 0, facts, by decide +kernel⟩,
   ⟨wst [(F.rstStat_PHASE, 3), (F.rstStat_MINIMAL, 0), (F.pwrStat_PWRFAIL, 0), (F.secStat_STATE, 0)], 0, facts, by decide +kernel⟩,
   ⟨wst [(F.rstStat_PHASE, 4), (F.rstStat_MINIMAL, 0), (F.pwrStat_PWRFAIL, 0)], 0, factsOf 7, by decide +kernel⟩⟩

theorem wit_StartsEndInReadyOrFail_2 :
    (∃ (s : State) (dt : Nat) (f : PhaseFacts), let u := (s.pass dt).m; let ph := u.get F.rstStat_PHASE; s.live dt ∧ u.starting = true ∧ ph = 4
        ∧ f.reason = 0)
    ∧ (∃ (s : State) (dt : Nat) (j : _) (r : _), let u := (s.pass dt).m; let ph := u.get F.rstStat_PHASE;
        let admits := u.admission ⟨(s.pass dt).mem, (s.pass dt).flips⟩; s.live dt ∧ u.starting = true ∧ ph = 5 ∧ admits = some (j, r))
    ∧ (∃ (s : State) (dt : Nat) (f : PhaseFacts), let u := (s.pass dt).m; let ph := u.get F.rstStat_PHASE;
        let admits := u.admission ⟨(s.pass dt).mem, (s.pass dt).flips⟩; s.live dt ∧ u.starting = true ∧ ph = 5 ∧ admits = none ∧ f.reason ≠ 0)
    ∧ (∃ (s : State) (dt : Nat) (f : PhaseFacts), let u := (s.pass dt).m; let ph := u.get F.rstStat_PHASE;
        let admits := u.admission ⟨(s.pass dt).mem, (s.pass dt).flips⟩; s.live dt ∧ u.starting = true ∧ ph = 5 ∧ admits = none ∧ f.reason = 0
        ∧ u.windowsGood u.imageRanges = false)
    ∧ (∃ (s : State) (dt : Nat) (f : PhaseFacts), let u := (s.pass dt).m; let ph := u.get F.rstStat_PHASE;
        let admits := u.admission ⟨(s.pass dt).mem, (s.pass dt).flips⟩; s.live dt ∧ u.starting = true ∧ ph = 5 ∧ admits = none ∧ f.reason = 0
        ∧ u.windowsGood u.imageRanges = true)
    ∧ (∃ (s : State) (dt : Nat) (f : PhaseFacts), let u := (s.pass dt).m; let ph := u.get F.rstStat_PHASE; s.live dt ∧ u.starting = true ∧ ph = 6
        ∧ f.reason ≠ 0)
    ∧ (∃ (s : State) (dt : Nat) (f : PhaseFacts), let u := (s.pass dt).m; let ph := u.get F.rstStat_PHASE; s.live dt ∧ u.starting = true ∧ ph = 6
        ∧ f.reason = 0 ∧ u.on F.pnxChain_TOO_LONG = true)
    ∧ (∃ (s : State) (dt : Nat) (f : PhaseFacts), let u := (s.pass dt).m; let ph := u.get F.rstStat_PHASE; s.live dt ∧ u.starting = true ∧ ph = 6
        ∧ f.reason = 0 ∧ u.on F.pnxChain_TOO_LONG = false ∧ ((u.on F.pnxChain_VALID = false ∨ u.tngIs 1 = true)))
    ∧ (∃ (s : State) (dt : Nat) (f : PhaseFacts), let u := (s.pass dt).m; let ph := u.get F.rstStat_PHASE; s.live dt ∧ u.starting = true ∧ ph = 6
        ∧ f.reason = 0 ∧ u.on F.pnxChain_TOO_LONG = false ∧ u.on F.pnxChain_VALID = true ∧ u.tngIs 1 = false
        ∧ u.pkg.parts.find? (fun q => q.1 = u.chainPos) = none)
    ∧ (∃ (s : State) (dt : Nat) (f : PhaseFacts) (p : _), let u := (s.pass dt).m; let ph := u.get F.rstStat_PHASE; s.live dt ∧ u.starting = true
        ∧ ph = 6 ∧ f.reason = 0 ∧ u.on F.pnxChain_TOO_LONG = false ∧ u.on F.pnxChain_VALID = true ∧ u.tngIs 1 = false
        ∧ u.pkg.parts.find? (fun q => q.1 = u.chainPos) = some (p, []) ∧ u.loadCheck.1 = false)
    ∧ (∃ (s : State) (dt : Nat) (f : PhaseFacts) (p : _), let u := (s.pass dt).m; let ph := u.get F.rstStat_PHASE; s.live dt ∧ u.starting = true
        ∧ ph = 6 ∧ f.reason = 0 ∧ u.on F.pnxChain_TOO_LONG = false ∧ u.on F.pnxChain_VALID = true ∧ u.tngIs 1 = false
        ∧ u.pkg.parts.find? (fun q => q.1 = u.chainPos) = some (p, []) ∧ u.loadCheck.1 = true)
    ∧ (∃ (s : State) (dt : Nat), let u := (s.pass dt).m; s.live dt ∧ u.starting = false) :=
  ⟨⟨wst [(F.rstStat_PHASE, 4), (F.rstStat_MINIMAL, 0), (F.pwrStat_PWRFAIL, 0), (F.memFlipCtl_ARM, 0)] (fun m => { m with dramKeys := true, pkg := { m.pkg with regs := [], jobs := [jobOf 3], images := [(0x800000, [1, 2, 3])] } }), 0, facts, by decide +kernel⟩,
   ⟨wst [(F.rstStat_PHASE, 5), (F.rstStat_MINIMAL, 0), (F.pwrStat_PWRFAIL, 0), (F.schSlot_C0 3, 57)], 0, 0, 2, ⟨by decide +kernel, by decide +kernel, by decide +kernel, (admission_of_no_job _ _ (by decide +kernel)).trans (by decide +kernel)⟩⟩,
   ⟨wst [(F.rstStat_PHASE, 5), (F.rstStat_MINIMAL, 0), (F.pwrStat_PWRFAIL, 0)], 0, factsOf 0xA, ⟨by decide +kernel, by decide +kernel, by decide +kernel, (admission_of_no_job _ _ (by decide +kernel)).trans (by decide +kernel), by decide +kernel⟩⟩,
   ⟨wst [(F.rstStat_PHASE, 5), (F.rstStat_MINIMAL, 0), (F.pwrStat_PWRFAIL, 0), (F.secWin_VALID 0, 1), (F.secWin_W 0, 1), (F.secWinJobs_JOBS 0, 1), (F.secWin_VALID 1, 1), (F.secWinJobs_JOBS 1, 2)], 0, facts, ⟨by decide +kernel, by decide +kernel, by decide +kernel, (admission_of_no_job _ _ (by decide +kernel)).trans (by decide +kernel), by decide +kernel, by decide +kernel⟩⟩,
   ⟨wst [(F.rstStat_PHASE, 5), (F.rstStat_MINIMAL, 0), (F.pwrStat_PWRFAIL, 0)], 0, facts, ⟨by decide +kernel, by decide +kernel, by decide +kernel, (admission_of_no_job _ _ (by decide +kernel)).trans (by decide +kernel), by decide +kernel, by decide +kernel⟩⟩,
   ⟨wst [(F.rstStat_PHASE, 6), (F.rstStat_MINIMAL, 0), (F.pwrStat_PWRFAIL, 0)], 0, factsOf 0xD, by decide +kernel⟩,
   ⟨wst [(F.rstStat_PHASE, 6), (F.rstStat_MINIMAL, 0), (F.pwrStat_PWRFAIL, 0), (F.pnxChain_TOO_LONG, 1)], 0, facts, by decide +kernel⟩,
   ⟨wst [(F.rstStat_PHASE, 6), (F.rstStat_MINIMAL, 0), (F.pwrStat_PWRFAIL, 0), (F.pnxChain_TOO_LONG, 0), (F.pnxChain_VALID, 0)], 0, facts, by decide +kernel⟩,
   ⟨wst [(F.rstStat_PHASE, 6), (F.rstStat_MINIMAL, 0), (F.pwrStat_PWRFAIL, 0), (F.pnxChain_TOO_LONG, 0), (F.pnxChain_VALID, 1), (F.pnxChain_POS, 3), (F.tngStat_STATE, 0)] (fun m => { m with pkg := { m.pkg with parts := [(2, [])] } }), 0, facts, by decide +kernel⟩,
   ⟨wst [(F.rstStat_PHASE, 6), (F.rstStat_MINIMAL, 0), (F.pwrStat_PWRFAIL, 0), (F.pnxChain_TOO_LONG, 0), (F.pnxChain_VALID, 1), (F.pnxChain_POS, 3), (F.tngStat_STATE, 0)] (fun m => { m with pkg := { m.pkg with parts := [(3, [])] } }), 0, facts, 3, by decide +kernel⟩,
   ⟨wst [(F.rstStat_PHASE, 6), (F.rstStat_MINIMAL, 0), (F.pwrStat_PWRFAIL, 0), (F.pnxChain_TOO_LONG, 0), (F.pnxChain_VALID, 1), (F.pnxChain_POS, 3), (F.tngStat_STATE, 0), (F.fioIcCfg_EDGE 0, 3)] (fun m => { m with pkg := { m.pkg with parts := [(3, [])] } }), 0, facts, 3, by decide +kernel⟩,
   ⟨wst [(F.rstStat_PHASE, 7), (F.rstStat_MINIMAL, 0), (F.pwrStat_PWRFAIL, 0)], 0, by decide +kernel⟩⟩

theorem wit_StartsEndInReadyOrFail_3 :
    (∃ (s : State) (dt : Nat), let u := (s.pass dt).m; s.live dt ∧ u.starting = true)
    ∧ (∃ (s : State) (dt : Nat), let u := (s.pass dt).m; s.live dt ∧ u.starting = true ∧ u.rst.startAt + u.pkg.startTmoS * 1000000000 ≤ u.now)
    ∧ (∃ (s : State) (dt : Nat), let u := (s.pass dt).m; s.live dt ∧ u.now < u.rst.startAt + u.pkg.startTmoS * 1000000000)
    ∧ (∃ (s : State) (dt : Nat) (t0 : _), let u := (s.pass dt).m; let due : Bool := !u.on F.rstStat_MINIMAL && decide (t0 + 100000000 ≤ u.now);
        s.live dt ∧ u.rst.failedAt = some t0 ∧ due = false)
    ∧ (∃ (s : State) (dt : Nat) (t0 : _), let u := (s.pass dt).m; let due : Bool := !u.on F.rstStat_MINIMAL && decide (t0 + 100000000 ≤ u.now);
        s.live dt ∧ u.rst.failedAt = some t0 ∧ due = true ∧ u.on F.pwrStat_PWRFAIL = false ∧ u.rst.asserted = none ∧ u.rst.low = false
        ∧ u.nvmBusy = false)
    ∧ (∃ (s : State) (dt : Nat), let u := (s.pass dt).m; s.live dt ∧ u.rst.failedAt = none)
    ∧ (∃ (s : State) (dt : Nat), let u := (s.pass dt).m; let code := u.get F.rstFault_CODE;
        let due : Bool := u.on F.rstStat_MINIMAL && decide (u.rst.flashAt + (flashPart code u.rst.flash).1 * 1000000 ≤ u.now); s.live dt ∧ due = true)
    ∧ (∃ (s : State) (dt : Nat), let u := (s.pass dt).m; let code := u.get F.rstFault_CODE;
        let due : Bool := u.on F.rstStat_MINIMAL && decide (u.rst.flashAt + (flashPart code u.rst.flash).1 * 1000000 ≤ u.now); s.live dt
        ∧ due = false)
    ∧ (∃ (s : State) (dt : Nat) (t0 : _), let u := (s.pass dt).m; s.live dt ∧ u.rst.autoAt = some t0 ∧ u.now < t0)
    ∧ (∃ (s : State) (dt : Nat) (t0 : _), let u := (s.pass dt).m; s.live dt ∧ u.rst.autoAt = some t0 ∧ t0 ≤ u.now)
    ∧ (∃ (s : State) (dt : Nat), let u := (s.pass dt).m; s.live dt ∧ u.rst.autoAt = none) :=
  ⟨⟨wst [(F.rstStat_PHASE, 5), (F.rstStat_MINIMAL, 0), (F.pwrStat_PWRFAIL, 0)], 0, by decide +kernel⟩,
   ⟨wst [(F.rstStat_PHASE, 4), (F.rstStat_MINIMAL, 0), (F.pwrStat_PWRFAIL, 0), (F.celBkp0_FAILS, 1)] (fun m => { m with now := 300000000000 }), 0, by decide +kernel⟩,
   ⟨wst [] (fun m => { m with now := 9, rst := { m.rst with startAt := 10 } }), 0, by decide +kernel⟩,
   ⟨wst [(F.rstStat_MINIMAL, 1)] (fun m => failedAgo m), 0, 0, by decide +kernel⟩,
   ⟨wst [(F.rstStat_MINIMAL, 0), (F.pwrStat_PWRFAIL, 0), (F.mgtNetCtl_BUSY, 0), (F.celCalCtl_BUSY, 0), (F.mgtUpdStat_STATE, 0), (F.mgtDump_STATE, 0)] (fun m => failedAgo m), 0, 0, by decide +kernel⟩,
   ⟨wst [], 0, by decide +kernel⟩,
   ⟨wst [(F.rstStat_MINIMAL, 1), (F.rstFault_CODE, 0xFF)] (fun m => { m with now := 3000000000 }), 0, by decide +kernel⟩,
   ⟨wst [(F.rstStat_MINIMAL, 0)], 0, by decide +kernel⟩,
   ⟨wst [] (fun m => { m with rst := { m.rst with autoAt := some 8 } }), 0, 8, by decide +kernel⟩,
   ⟨wst [(F.schRestartCtl_STATUS, 0)] (fun m => { m with rst := { m.rst with autoAt := some 0 } }), 0, 0, by decide +kernel⟩,
   ⟨wst [], 0, by decide +kernel⟩⟩

theorem wit_WatchdogDumpsAndCalibration_1 :
    (∃ (s : State) (dt : Nat) (agent : Nat) (val : Word), let u := (s.pass dt).m; let busy := u.on F.celCalCtl_BUSY; s.live dt ∧ s.heeds dt agent 28
        ∧ ((val.getLsbD 63 = false ∨ busy = true)))
    ∧ (∃ (s : State) (dt : Nat) (agent : Nat) (val : Word), let u := (s.pass dt).m; let busy := u.on F.celCalCtl_BUSY; s.live dt
        ∧ s.heeds dt agent 28 ∧ val.getLsbD 63 = true ∧ busy = false)
    ∧ (∃ (s : State) (dt : Nat) (slot : _) (b : _), let u := (s.pass dt).m; let busy := u.on F.celCalCtl_BUSY; s.live dt ∧ u.mgt.cal = some (slot, b)
        ∧ busy = false)
    ∧ (∃ (s : State) (dt : Nat) (slot : _) (b : _) (result : _), let u := (s.pass dt).m; let busy := u.on F.celCalCtl_BUSY; s.live dt
        ∧ u.mgt.cal = some (slot, b) ∧ busy = true ∧ result = 3)
    ∧ (∃ (s : State) (dt : Nat) (slot : _) (b : _) (result : _), let u := (s.pass dt).m; let busy := u.on F.celCalCtl_BUSY; s.live dt
        ∧ u.mgt.cal = some (slot, b) ∧ busy = true ∧ result ≠ 3 ∧ calGood (recOfBytes b) = false)
    ∧ (∃ (s : State) (dt : Nat) (slot : _) (b : _) (result : _), let u := (s.pass dt).m; let busy := u.on F.celCalCtl_BUSY; s.live dt
        ∧ u.mgt.cal = some (slot, b) ∧ busy = true ∧ result ≠ 3 ∧ calGood (recOfBytes b) = true)
    ∧ (∃ (s : State) (dt : Nat), let u := (s.pass dt).m; s.live dt ∧ u.mgt.cal = none)
    ∧ (∃ (s : State) (dt : Nat) (agent : Nat) (val : Word), let keyed : Bool := agent = 1 && (val.extractLsb' 48 16).toNat = 0x4B49; s.live dt
        ∧ s.heeds dt agent 23 ∧ keyed = true)
    ∧ (∃ (s : State) (dt : Nat) (agent : Nat) (val : Word), let keyed : Bool := agent = 1 && (val.extractLsb' 48 16).toNat = 0x4B49; s.live dt
        ∧ s.heeds dt agent 23 ∧ keyed = false)
    ∧ (∃ (s : State) (dt : Nat) (agent : Nat), let u := (s.pass dt).m; let up : Bool := !u.on F.rstStat_MINIMAL && !u.on F.pwrStat_PWRFAIL; s.live dt
        ∧ s.heeds dt agent 23 ∧ up = false)
    ∧ (∃ (s : State) (dt : Nat) (agent : Nat), let u := (s.pass dt).m; let up : Bool := !u.on F.rstStat_MINIMAL && !u.on F.pwrStat_PWRFAIL; s.live dt
        ∧ s.heeds dt agent 23 ∧ up = true ∧ u.starting = true)
    ∧ (∃ (s : State) (dt : Nat) (agent : Nat), let u := (s.pass dt).m; let up : Bool := !u.on F.rstStat_MINIMAL && !u.on F.pwrStat_PWRFAIL;
        let ready : Bool := up && decide (u.get F.rstStat_PHASE = 7) && u.rst.asserted.isNone && !u.rst.low; s.live dt ∧ s.heeds dt agent 23
        ∧ ready = true) :=
  ⟨⟨wst [(F.celCalCtl_BUSY, 1)], 0, 1, 0x8000000000000040, by decide +kernel⟩,
   ⟨wst [(F.celCalCtl_BUSY, 0)], 0, 1, 0x8000000000000040, by decide +kernel⟩,
   ⟨wst [(F.celCalCtl_BUSY, 0)] (fun m => withCal (1, [1, 2, 3]) m), 0, 1, [1, 2, 3], by decide +kernel⟩,
   ⟨wst [(F.celCalCtl_BUSY, 1)] (fun m => { withCal (1, [1, 2, 3]) m with nvm := [(calBase 1 + 5, 7), (calBase 1 + 70, 7)] }), 0, 1, [1, 2, 3], 3, by decide +kernel⟩,
   ⟨wst [(F.celCalCtl_BUSY, 1)] (fun m => withCal (1, [1, 2, 3]) m), 0, 1, [1, 2, 3], 1, by decide +kernel⟩,
   ⟨wst [(F.celCalCtl_BUSY, 1)] (fun m => withCal (1, calRecord) m), 0, 1, calRecord, 1, by decide +kernel⟩,
   ⟨wst [], 0, by decide +kernel⟩,
   ⟨wst [(F.mgtWdogCfg_WD_MS, 5)], 0, 1, 0x4B49000000000000, by decide +kernel⟩,
   ⟨wst [], 0, 1, 0x4B48000000000000, by decide +kernel⟩,
   ⟨wst [(F.rstStat_MINIMAL, 1)], 0, 1, by decide +kernel⟩,
   ⟨wst [(F.rstStat_PHASE, 5), (F.rstStat_MINIMAL, 0), (F.pwrStat_PWRFAIL, 0)], 0, 1, by decide +kernel⟩,
   ⟨wst [(F.rstStat_PHASE, 7), (F.rstStat_MINIMAL, 0), (F.pwrStat_PWRFAIL, 0), (F.mgtNetCtl_BUSY, 0), (F.celCalCtl_BUSY, 0), (F.mgtUpdStat_STATE, 0), (F.mgtDump_STATE, 0), (F.mgtWdogCfg_DUMP_EN, 0)], 0, 1, by decide +kernel⟩⟩

theorem wit_WatchdogDumpsAndCalibration_2 :
    (∃ (s : State) (dt : Nat) (agent : Nat), let u := (s.pass dt).m; s.live dt ∧ s.heeds dt agent 23 ∧ u.get F.mgtDump_STATE = 1)
    ∧ (∃ (s : State) (dt : Nat) (agent : Nat), let u := (s.pass dt).m; s.live dt ∧ s.heeds dt agent 23 ∧ u.get F.mgtDump_STATE ≠ 1)
    ∧ (∃ (s : State) (dt : Nat), let u := (s.pass dt).m; let up : Bool := !u.on F.rstStat_MINIMAL && !u.on F.pwrStat_PWRFAIL; s.live dt ∧ up = false)
    ∧ (∃ (s : State) (dt : Nat) (cause : _), s.live dt ∧ cause ≠ 1 ∧ cause ≠ 2)
    ∧ (∃ (s : State) (dt : Nat), let u := (s.pass dt).m; s.live dt ∧ u.now < u.mgt.kickAt + u.mgt.wdMs * 1000000)
    ∧ (∃ (s : State) (dt : Nat), let u := (s.pass dt).m; let up : Bool := !u.on F.rstStat_MINIMAL && !u.on F.pwrStat_PWRFAIL; s.live dt
        ∧ u.mgt.kickAt + u.mgt.wdMs * 1000000 ≤ u.now ∧ up = true ∧ u.starting = true)
    ∧ (∃ (s : State) (dt : Nat), let u := (s.pass dt).m; let up : Bool := !u.on F.rstStat_MINIMAL && !u.on F.pwrStat_PWRFAIL; s.live dt ∧ up = true
        ∧ u.starting = true)
    ∧ (∃ (s : State) (dt : Nat), let u := (s.pass dt).m; let up : Bool := !u.on F.rstStat_MINIMAL && !u.on F.pwrStat_PWRFAIL;
        let ready : Bool := up && decide (u.get F.rstStat_PHASE = 7) && u.rst.asserted.isNone && !u.rst.low; s.live dt
        ∧ u.mgt.kickAt + u.mgt.wdMs * 1000000 ≤ u.now ∧ ready = true)
    ∧ (∃ (s : State) (dt : Nat), let u := (s.pass dt).m; let up : Bool := !u.on F.rstStat_MINIMAL && !u.on F.pwrStat_PWRFAIL;
        let ready : Bool := up && decide (u.get F.rstStat_PHASE = 7) && u.rst.asserted.isNone && !u.rst.low; s.live dt ∧ ready = true)
    ∧ (∃ (s : State) (dt : Nat), let u := (s.pass dt).m; s.live dt ∧ u.get F.mgtDump_STATE = 3)
    ∧ (∃ (s : State) (dt : Nat), let u := (s.pass dt).m; s.live dt ∧ u.get F.mgtDump_STATE ≠ 3)
    ∧ (∃ (s : State) (dt : Nat) (j : Nat), let u := (s.pass dt).m; let ms := u.get (F.mgtHang_HANG_MS j);
        let told : Bool := match (u.jrt j).hung with | some t => decide ((u.jrt j).progressAt ≤ t) | none => false;
        let hangs : Bool := decide (j < 64) && ms != 0 && decide (u.jobState j = 2) && !u.on (F.schJobStat_PREEMPTED j) && !u.on (F.schJobStat_PAUSED j) && u.jobHolds j && decide ((u.jrt j).progressAt + ms * 1000000 ≤ u.now) && !told; let up : Bool := !u.on F.rstStat_MINIMAL && !u.on F.pwrStat_PWRFAIL; s.live dt ∧ hangs = true ∧ ((u.on (F.mgtHang_ACT j) = false ∨ up = false))) :=
  ⟨⟨wst [(F.mgtDump_STATE, 1)], 0, 1, by decide +kernel⟩,
   ⟨wst [(F.mgtDump_STATE, 2)], 0, 1, by decide +kernel⟩,
   ⟨wst [(F.pwrStat_PWRFAIL, 1)], 0, by decide +kernel⟩,
   ⟨wst [], 0, 5, by decide +kernel⟩,
   ⟨wst [], 0, by decide +kernel⟩,
   ⟨wst [(F.rstStat_PHASE, 5), (F.rstStat_MINIMAL, 0), (F.pwrStat_PWRFAIL, 0)] (fun m => { m with now := 100000000000 }), 0, by decide +kernel⟩,
   ⟨wst [(F.rstStat_PHASE, 5), (F.rstStat_MINIMAL, 0), (F.pwrStat_PWRFAIL, 0)], 0, by decide +kernel⟩,
   ⟨wst [(F.rstStat_PHASE, 7), (F.rstStat_MINIMAL, 0), (F.pwrStat_PWRFAIL, 0), (F.mgtNetCtl_BUSY, 0), (F.celCalCtl_BUSY, 0), (F.mgtUpdStat_STATE, 0), (F.mgtDump_STATE, 0), (F.mgtWdogCfg_DUMP_EN, 0)] (fun m => { m with now := 100000000000 }), 0, by decide +kernel⟩,
   ⟨wst [(F.rstStat_PHASE, 7), (F.rstStat_MINIMAL, 0), (F.pwrStat_PWRFAIL, 0), (F.mgtNetCtl_BUSY, 0), (F.celCalCtl_BUSY, 0), (F.mgtUpdStat_STATE, 0), (F.mgtDump_STATE, 0), (F.mgtWdogCfg_DUMP_EN, 0)], 0, by decide +kernel⟩,
   ⟨wst [(F.mgtDump_STATE, 3)] (fun m => { m with nvm := [(dumpBase, 3), (dumpBase + 0x3FFFFF, 3), (dumpBase + 0x400000, 3)] }), 0, by decide +kernel⟩,
   ⟨wst [(F.mgtDump_STATE, 2)], 0, by decide +kernel⟩,
   ⟨wst [(F.mgtHang_ACT 63, 0), (F.mgtHang_HANG_MS 63, 1), (F.schJobStat_STATE 63, 2), (F.schJobStat_PREEMPTED 63, 0), (F.schJobStat_PAUSED 63, 0)] (fun m => { (engRun 0 0 { cmdOf 0 0 0 0 0 0 with job := 63 } m) with now := 1000000, jobs := [(63, jobOf 63)] }), 0, 63, by decide +kernel⟩⟩

theorem wit_WatchdogDumpsAndCalibration_3 :
    (∃ (s : State) (dt : Nat) (j : Nat), let u := (s.pass dt).m; let ms := u.get (F.mgtHang_HANG_MS j);
        let told : Bool := match (u.jrt j).hung with | some t => decide ((u.jrt j).progressAt ≤ t) | none => false;
        let hangs : Bool := decide (j < 64) && ms != 0 && decide (u.jobState j = 2) && !u.on (F.schJobStat_PREEMPTED j) && !u.on (F.schJobStat_PAUSED j) && u.jobHolds j && decide ((u.jrt j).progressAt + ms * 1000000 ≤ u.now) && !told; let up : Bool := !u.on F.rstStat_MINIMAL && !u.on F.pwrStat_PWRFAIL; let ready : Bool := up && decide (u.get F.rstStat_PHASE = 7) && u.rst.asserted.isNone && !u.rst.low; s.live dt ∧ hangs = true ∧ u.on (F.mgtHang_ACT j) = true ∧ ready = true)
    ∧ (∃ (s : State) (dt : Nat) (j : Nat), let u := (s.pass dt).m; let ms := u.get (F.mgtHang_HANG_MS j);
        let told : Bool := match (u.jrt j).hung with | some t => decide ((u.jrt j).progressAt ≤ t) | none => false;
        let hangs : Bool := decide (j < 64) && ms != 0 && decide (u.jobState j = 2) && !u.on (F.schJobStat_PREEMPTED j) && !u.on (F.schJobStat_PAUSED j) && u.jobHolds j && decide ((u.jrt j).progressAt + ms * 1000000 ≤ u.now) && !told; s.live dt ∧ hangs = false) :=
  ⟨⟨wst [(F.mgtHang_ACT 63, 1), (F.mgtHang_HANG_MS 63, 1), (F.schJobStat_STATE 63, 2), (F.schJobStat_PREEMPTED 63, 0), (F.schJobStat_PAUSED 63, 0), (F.rstStat_PHASE, 7), (F.rstStat_MINIMAL, 0), (F.pwrStat_PWRFAIL, 0), (F.mgtNetCtl_BUSY, 0), (F.celCalCtl_BUSY, 0), (F.mgtUpdStat_STATE, 0), (F.mgtDump_STATE, 0), (F.mgtWdogCfg_DUMP_EN, 0)] (fun m => { (engRun 0 0 { cmdOf 0 0 0 0 0 0 with job := 63 } m) with now := 1000000, jobs := [(63, jobOf 63)] }), 0, 63, by decide +kernel⟩,
   ⟨wst [(F.mgtHang_HANG_MS 63, 1), (F.schJobStat_STATE 63, 2), (F.schJobStat_PREEMPTED 63, 0), (F.schJobStat_PAUSED 63, 0), (F.mgtHang_ACT 63, 0)], 0, 63, by decide +kernel⟩⟩

theorem wit_NcpOperationsAndUpdates_1 :
    (∃ (s : State) (dt : Nat) (n : Nat) (h : NcpHdr), let u := (s.pass dt).m; n < 65536 ∧ s.live dt ∧ u.ncpFiltered h.srcIp = true ∧ h.index = 0)
    ∧ (∃ (s : State) (dt : Nat) (n : Nat) (h : NcpHdr), let u := (s.pass dt).m; n < 65536 ∧ s.live dt ∧ u.ncpFiltered h.srcIp = false
        ∧ ncpBad h = true ∧ h.index = 0)
    ∧ (∃ (s : State) (dt : Nat) (n : Nat) (h : NcpHdr), let u := (s.pass dt).m; let taken : Bool := !u.ncpFiltered h.srcIp && !ncpBad h; n < 65536
        ∧ s.live dt ∧ taken = false ∧ h.index ≠ 0)
    ∧ (∃ (s : State) (dt : Nat) (n : Nat) (h : NcpHdr) (r : _), let u := (s.pass dt).m; let taken : Bool := !u.ncpFiltered h.srcIp && !ncpBad h;
        n < 65536 ∧ s.live dt ∧ taken = true ∧ u.ncpKept h = some r ∧ h.index = 0 ∧ r.ops.length = r.nops ∧ u.now ≤ r.sent + 2000000000)
    ∧ (∃ (s : State) (dt : Nat) (n : Nat) (h : NcpHdr), let u := (s.pass dt).m; let taken : Bool := !u.ncpFiltered h.srcIp && !ncpBad h; n < 65536
        ∧ s.live dt ∧ taken = true ∧ u.ncpKept h = none ∧ h.index = 0 ∧ 1472 < h.respLen)
    ∧ (∃ (s : State) (dt : Nat) (n : Nat) (h : NcpHdr), let u := (s.pass dt).m; let taken : Bool := !u.ncpFiltered h.srcIp && !ncpBad h; n < 65536
        ∧ s.live dt ∧ taken = true ∧ u.ncpKept h = none ∧ h.index ≠ 0)
    ∧ (∃ (s : State) (dt : Nat) (n : Nat) (h : NcpHdr) (r : _), let u := (s.pass dt).m; let taken : Bool := !u.ncpFiltered h.srcIp && !ncpBad h;
        n < 65536 ∧ s.live dt ∧ taken = true ∧ u.ncpKept h = some r ∧ h.index ≠ 0 ∧ ((r.ops.length ≠ h.index ∨ r.nops ≤ h.index)))
    ∧ (∃ (s : State) (dt : Nat) (n : Nat) (h : NcpHdr) (r : _), let u := (s.pass dt).m; let taken : Bool := !u.ncpFiltered h.srcIp && !ncpBad h;
        n < 65536 ∧ s.live dt ∧ taken = true ∧ u.ncpKept h = some r ∧ h.index ≠ 0 ∧ r.ops.length = h.index ∧ h.index < r.nops ∧ r.status ≠ 0)
    ∧ (∃ (s : State) (dt : Nat) (addr : Nat) (n : Nat) (h : NcpHdr), let u := (s.pass dt).m; let runs := u.ncpRuns h; n < 65536 ∧ s.live dt
        ∧ runs = true ∧ addr % 8 = 0 ∧ u.barred addr = false)
    ∧ (∃ (s : State) (dt : Nat) (addr : Nat) (n : Nat) (h : NcpHdr), let u := (s.pass dt).m; let runs := u.ncpRuns h; n < 65536 ∧ s.live dt
        ∧ runs = true ∧ addr % 8 ≠ 0)
    ∧ (∃ (s : State) (dt : Nat) (addr : Nat) (n : Nat) (h : NcpHdr), let u := (s.pass dt).m; let runs := u.ncpRuns h; n < 65536 ∧ s.live dt
        ∧ runs = true ∧ addr % 8 = 0 ∧ u.barred addr = true)
    ∧ (∃ (s : State) (dt : Nat) (addr : Nat) (n : Nat) (h : NcpHdr), let u := (s.pass dt).m; let runs := u.ncpRuns h; n < 65536 ∧ s.live dt
        ∧ runs = true ∧ addr % 8 = 0 ∧ ((u.barred addr = true ∨ addr = R.mgtWdog))) :=
  ⟨⟨wst [(F.mgtNcpAllow_EN 0, 1), (F.mgtNcpAllow_ADDR 0, 5), (F.mgtNcpAllow_EN 1, 0), (F.mgtNcpAllow_EN 2, 0), (F.mgtNcpAllow_EN 3, 0)], 0, 2, ncpH 0, by decide +kernel⟩,
   ⟨wst [(F.mgtNcpAllow_EN 0, 0), (F.mgtNcpAllow_EN 1, 0), (F.mgtNcpAllow_EN 2, 0), (F.mgtNcpAllow_EN 3, 0)], 0, 2, { ncpH 0 with magic := 3 }, by decide +kernel⟩,
   ⟨wst [(F.mgtNcpAllow_EN 0, 0), (F.mgtNcpAllow_EN 1, 0), (F.mgtNcpAllow_EN 2, 0), (F.mgtNcpAllow_EN 3, 0)], 0, 2, { ncpH 0 with index := 1, kind := 2 }, by decide +kernel⟩,
   ⟨keptR (wst [(F.mgtNcpAllow_EN 0, 0), (F.mgtNcpAllow_EN 1, 0), (F.mgtNcpAllow_EN 2, 0), (F.mgtNcpAllow_EN 3, 0)]) (respOf (ncpH 0) 1 0 [(0, [])]), 0, 2, ncpH 0, respOf (ncpH 0) 1 0 [(0, [])], by decide +kernel⟩,
   ⟨wst [(F.mgtNcpAllow_EN 0, 0), (F.mgtNcpAllow_EN 1, 0), (F.mgtNcpAllow_EN 2, 0), (F.mgtNcpAllow_EN 3, 0)], 0, 2, { ncpH 0 with respLen := 1473, nops := 3 }, by decide +kernel⟩,
   ⟨wst [(F.mgtNcpAllow_EN 0, 0), (F.mgtNcpAllow_EN 1, 0), (F.mgtNcpAllow_EN 2, 0), (F.mgtNcpAllow_EN 3, 0)], 0, 2, { ncpH 0 with index := 2, nops := 3 }, by decide +kernel⟩,
   ⟨keptR (wst [(F.mgtNcpAllow_EN 0, 0), (F.mgtNcpAllow_EN 1, 0), (F.mgtNcpAllow_EN 2, 0), (F.mgtNcpAllow_EN 3, 0)]) (respOf (ncpH 0) 3 0 [(0, [])]), 0, 2, { ncpH 0 with index := 2, nops := 3 }, respOf (ncpH 0) 3 0 [(0, [])], by decide +kernel⟩,
   ⟨keptR (wst [(F.mgtNcpAllow_EN 0, 0), (F.mgtNcpAllow_EN 1, 0), (F.mgtNcpAllow_EN 2, 0), (F.mgtNcpAllow_EN 3, 0)]) (respOf (ncpH 0) 2 3 [(3, [])]), 0, 2, { ncpH 0 with index := 1, nops := 2 }, respOf (ncpH 0) 2 3 [(3, [])], by decide +kernel⟩,
   ⟨wst [(F.rstStat_PHASE, 7), (F.rstStat_MINIMAL, 0), (F.mgtNcpAllow_EN 0, 0), (F.mgtNcpAllow_EN 1, 0), (F.mgtNcpAllow_EN 2, 0), (F.mgtNcpAllow_EN 3, 0)], 0, 0x1700008, 2, ncpH 0, by decide +kernel⟩,
   ⟨wst [(F.rstStat_PHASE, 7), (F.rstStat_MINIMAL, 0), (F.mgtNcpAllow_EN 0, 0), (F.mgtNcpAllow_EN 1, 0), (F.mgtNcpAllow_EN 2, 0), (F.mgtNcpAllow_EN 3, 0)], 0, 12, 2, ncpH 0, by decide +kernel⟩,
   ⟨wst [(F.rstStat_PHASE, 3), (F.rstStat_MINIMAL, 1), (F.mgtNcpAllow_EN 0, 0), (F.mgtNcpAllow_EN 1, 0), (F.mgtNcpAllow_EN 2, 0), (F.mgtNcpAllow_EN 3, 0)], 0, 0, 2, ncpH 0, by decide +kernel⟩,
   ⟨wst [(F.rstStat_PHASE, 3), (F.rstStat_MINIMAL, 1), (F.mgtNcpAllow_EN 0, 0), (F.mgtNcpAllow_EN 1, 0), (F.mgtNcpAllow_EN 2, 0), (F.mgtNcpAllow_EN 3, 0)], 0, 0, 2, ncpH 0, by decide +kernel⟩⟩

theorem wit_NcpOperationsAndUpdates_2 :
    (∃ (s : State) (dt : Nat) (addr : Nat) (n : Nat) (h : NcpHdr), let u := (s.pass dt).m; let runs := u.ncpRuns h; n < 65536 ∧ s.live dt
        ∧ runs = true ∧ addr % 8 = 0 ∧ u.barred addr = false ∧ addr ≠ R.mgtWdog ∧ ((∀ r ∈ u.runs, r.is 0x18 0x18 0 0 = false)))
    ∧ (∃ (s : State) (dt : Nat) (addr : Nat) (n : Nat) (h : NcpHdr), let u := (s.pass dt).m; let runs := u.ncpRuns h;
        let bad : Nat := if n = 0 ∨ 64 < n then 4 else if addr % 8 ≠ 0 then 3 else if (List.range n).any (fun i => u.barred (addr + 8 * i)) then 5 else 0; n < 65536 ∧ s.live dt ∧ runs = true ∧ bad = 0)
    ∧ (∃ (s : State) (dt : Nat) (addr : Nat) (n : Nat) (h : NcpHdr), let u := (s.pass dt).m; let runs := u.ncpRuns h;
        let bad : Nat := if n = 0 ∨ 64 < n then 4 else if addr % 8 ≠ 0 then 3 else if (List.range n).any (fun i => u.barred (addr + 8 * i)) then 5 else 0; n < 65536 ∧ s.live dt ∧ runs = true ∧ bad ≠ 0)
    ∧ (∃ (s : State) (dt : Nat) (n : Nat) (h : NcpHdr), let u := (s.pass dt).m; let runs := u.ncpRuns h; n < 65536 ∧ s.live dt ∧ runs = true)
    ∧ (∃ (s : State) (dt : Nat) (n : Nat) (h : NcpHdr), let u := (s.pass dt).m; let runs := u.ncpRuns h; n < 65536 ∧ s.live dt ∧ runs = true
        ∧ ((n = 0 ∨ 16 < n)))
    ∧ (∃ (s : State) (dt : Nat) (n : Nat) (first : Nat) (h : NcpHdr), let u := (s.pass dt).m; let runs := u.ncpRuns h; n < 65536 ∧ s.live dt
        ∧ runs = true ∧ 1 ≤ n ∧ n ≤ 16 ∧ (List.range n).mapM (fun i => u.logEntry ((first + i) % 2 ^ 32)) = none)
    ∧ (∃ (s : State) (dt : Nat) (n : Nat) (first : Nat) (h : NcpHdr) (l : _), let u := (s.pass dt).m; let runs := u.ncpRuns h; n < 65536 ∧ s.live dt
        ∧ runs = true ∧ 1 ≤ n ∧ n ≤ 16 ∧ (List.range n).mapM (fun i => u.logEntry ((first + i) % 2 ^ 32)) = some l)
    ∧ (∃ (s : State) (dt : Nat) (n : Nat) (h : NcpHdr), let u := (s.pass dt).m; let runs := u.ncpRuns h; n < 65536 ∧ s.live dt ∧ runs = true
        ∧ u.mgt.upd.isSome = true)
    ∧ (∃ (s : State) (dt : Nat) (n : Nat) (h : NcpHdr) (val : Word), let u := (s.pass dt).m; let runs := u.ncpRuns h;
        let kind := (val.extractLsb' 32 1).toNat; let len := (val.extractLsb' 0 32).toNat; n < 65536 ∧ s.live dt ∧ runs = true ∧ u.mgt.upd = none
        ∧ ((len = 0 ∨ (slotSpan kind (1 - (if kind = 0 then u.boot.fw else u.boot.pkg))).2 < len ∨ len % 8 ≠ 0)))
    ∧ (∃ (s : State) (dt : Nat) (n : Nat) (h : NcpHdr) (val : Word), let u := (s.pass dt).m; let runs := u.ncpRuns h;
        let kind := (val.extractLsb' 32 1).toNat; let len := (val.extractLsb' 0 32).toNat; n < 65536 ∧ s.live dt ∧ runs = true ∧ u.mgt.upd = none
        ∧ 0 < len ∧ len ≤ (slotSpan kind (1 - (if kind = 0 then u.boot.fw else u.boot.pkg))).2 ∧ len % 8 = 0)
    ∧ (∃ (s : State) (dt : Nat) (n : Nat) (h : NcpHdr) (words : List Word), let u := (s.pass dt).m; let runs := u.ncpRuns h; n < 65536 ∧ s.live dt
        ∧ runs = true ∧ ((words.length = 0 ∨ 128 < words.length)))
    ∧ (∃ (s : State) (dt : Nat) (n : Nat) (h : NcpHdr) (words : List Word), let u := (s.pass dt).m; let runs := u.ncpRuns h; n < 65536 ∧ s.live dt
        ∧ runs = true ∧ 1 ≤ words.length ∧ words.length ≤ 128 ∧ u.mgt.upd = none) :=
  ⟨⟨wst [(F.rstStat_PHASE, 7), (F.rstStat_MINIMAL, 0), (F.mgtNcpAllow_EN 0, 0), (F.mgtNcpAllow_EN 1, 0), (F.mgtNcpAllow_EN 2, 0), (F.mgtNcpAllow_EN 3, 0)], 0, 0x1700010, 2, ncpH 0, by decide +kernel⟩,
   ⟨wst [(F.rstStat_PHASE, 7), (F.rstStat_MINIMAL, 0), (F.mgtNcpAllow_EN 0, 0), (F.mgtNcpAllow_EN 1, 0), (F.mgtNcpAllow_EN 2, 0), (F.mgtNcpAllow_EN 3, 0)], 0, 0x100000, 64, ncpH 0, by decide +kernel⟩,
   ⟨wst [(F.rstStat_PHASE, 7), (F.rstStat_MINIMAL, 0), (F.mgtNcpAllow_EN 0, 0), (F.mgtNcpAllow_EN 1, 0), (F.mgtNcpAllow_EN 2, 0), (F.mgtNcpAllow_EN 3, 0)], 0, 0x100000, 65, ncpH 0, by decide +kernel⟩,
   ⟨wst [(F.mgtNcpAllow_EN 0, 0), (F.mgtNcpAllow_EN 1, 0), (F.mgtNcpAllow_EN 2, 0), (F.mgtNcpAllow_EN 3, 0)], 0, 2, ncpH 0, by decide +kernel⟩,
   ⟨wst [(F.mgtNcpAllow_EN 0, 0), (F.mgtNcpAllow_EN 1, 0), (F.mgtNcpAllow_EN 2, 0), (F.mgtNcpAllow_EN 3, 0)], 0, 17, ncpH 0, by decide +kernel⟩,
   ⟨wst [(F.mgtNcpAllow_EN 0, 0), (F.mgtNcpAllow_EN 1, 0), (F.mgtNcpAllow_EN 2, 0), (F.mgtNcpAllow_EN 3, 0)] (fun m => { m with log := { m.log with held := [(5, 0)] } }), 0, 2, 0, ncpH 0, by decide +kernel⟩,
   ⟨wst [(F.mgtNcpAllow_EN 0, 0), (F.mgtNcpAllow_EN 1, 0), (F.mgtNcpAllow_EN 2, 0), (F.mgtNcpAllow_EN 3, 0)] (fun m => { m with log := { m.log with held := [(5, 0), (6, 1)] } }), 0, 2, 0, ncpH 0, [List.replicate 64 0xFF, List.replicate 64 0xFF], by decide +kernel⟩,
   ⟨wst [(F.mgtNcpAllow_EN 0, 0), (F.mgtNcpAllow_EN 1, 0), (F.mgtNcpAllow_EN 2, 0), (F.mgtNcpAllow_EN 3, 0)] (fun m => withUpd ⟨1, 1, 64, 8⟩ m), 0, 2, ncpH 0, by decide +kernel⟩,
   ⟨wst [(F.mgtNcpAllow_EN 0, 0), (F.mgtNcpAllow_EN 1, 0), (F.mgtNcpAllow_EN 2, 0), (F.mgtNcpAllow_EN 3, 0)], 0, 2, ncpH 0, BitVec.ofNat 64 (2 ^ 32 + 63), by decide +kernel⟩,
   ⟨wst [(F.mgtNcpAllow_EN 0, 0), (F.mgtNcpAllow_EN 1, 0), (F.mgtNcpAllow_EN 2, 0), (F.mgtNcpAllow_EN 3, 0)] (fun m => { m with nvm := [(0x1000000, 3), (0x8000000, 4)] }), 0, 2, ncpH 0, BitVec.ofNat 64 (2 ^ 32 + 64), by decide +kernel⟩,
   ⟨wst [(F.mgtNcpAllow_EN 0, 0), (F.mgtNcpAllow_EN 1, 0), (F.mgtNcpAllow_EN 2, 0), (F.mgtNcpAllow_EN 3, 0)] (fun m => withUpd ⟨1, 1, 64, 8⟩ m), 0, 2, ncpH 0, [], by decide +kernel⟩,
   ⟨wst [(F.mgtNcpAllow_EN 0, 0), (F.mgtNcpAllow_EN 1, 0), (F.mgtNcpAllow_EN 2, 0), (F.mgtNcpAllow_EN 3, 0)], 0, 2, ncpH 0, [1, 2, 3], by decide +kernel⟩⟩

theorem wit_NcpOperationsAndUpdates_3 :
    (∃ (s : State) (dt : Nat) (n : Nat) (h : NcpHdr), let u := (s.pass dt).m; let runs := u.ncpRuns h; n < 65536 ∧ s.live dt ∧ runs = true
        ∧ u.mgt.upd = none)
    ∧ (∃ (s : State) (dt : Nat) (n : Nat) (h : NcpHdr) (words : List Word) (w : _), let u := (s.pass dt).m; let runs := u.ncpRuns h; n < 65536
        ∧ s.live dt ∧ runs = true ∧ u.mgt.upd = some w ∧ 1 ≤ words.length ∧ words.length ≤ 128 ∧ u.updBusy = true)
    ∧ (∃ (s : State) (dt : Nat) (addr : Nat) (n : Nat) (h : NcpHdr) (words : List Word) (w : _), let u := (s.pass dt).m; let runs := u.ncpRuns h;
        n < 65536 ∧ s.live dt ∧ runs = true ∧ u.mgt.upd = some w ∧ 1 ≤ words.length ∧ words.length ≤ 128 ∧ u.updBusy = false
        ∧ ((addr ≠ w.wptr ∨ w.len < addr + 8 * words.length)))
    ∧ (∃ (s : State) (dt : Nat) (addr : Nat) (n : Nat) (h : NcpHdr) (words : List Word) (w : _), let u := (s.pass dt).m; let runs := u.ncpRuns h;
        n < 65536 ∧ s.live dt ∧ runs = true ∧ u.mgt.upd = some w ∧ 1 ≤ words.length ∧ words.length ≤ 128 ∧ u.updBusy = false ∧ addr = w.wptr
        ∧ addr + 8 * words.length ≤ w.len ∧ w.len < 2 ^ 32)
    ∧ (∃ (s : State) (dt : Nat) (n : Nat) (h : NcpHdr) (w : _), let u := (s.pass dt).m; let runs := u.ncpRuns h; n < 65536 ∧ s.live dt ∧ runs = true
        ∧ u.mgt.upd = some w ∧ u.updBusy = true)
    ∧ (∃ (s : State) (dt : Nat) (n : Nat) (h : NcpHdr) (w : _), let u := (s.pass dt).m; let runs := u.ncpRuns h; n < 65536 ∧ s.live dt ∧ runs = true
        ∧ u.mgt.upd = some w ∧ u.updBusy = false ∧ w.wptr ≠ w.len)
    ∧ (∃ (s : State) (dt : Nat) (n : Nat) (h : NcpHdr) (w : _), let u := (s.pass dt).m; let runs := u.ncpRuns h; n < 65536 ∧ s.live dt ∧ runs = true
        ∧ u.mgt.upd = some w ∧ u.updBusy = false ∧ w.wptr = w.len)
    ∧ (∃ (s : State) (dt : Nat) (n : Nat) (h : NcpHdr), let u := (s.pass dt).m; let runs := u.ncpRuns h; n < 65536 ∧ s.live dt ∧ runs = true)
    ∧ (∃ (s : State) (dt : Nat) (n : Nat), let u := (s.pass dt).m; n < 65536 ∧ s.live dt ∧ u.get F.mgtUpdStat_STATE = 1)
    ∧ (∃ (s : State) (dt : Nat) (n : Nat), let u := (s.pass dt).m; n < 65536 ∧ s.live dt ∧ u.get F.mgtUpdStat_STATE ≠ 1)
    ∧ (∃ (s : State) (dt : Nat) (n : Nat), let u := (s.pass dt).m; n < 65536 ∧ s.live dt ∧ ((u.mgt.upd = none ∨ u.get F.mgtUpdStat_STATE ≠ 3)))
    ∧ (∃ (s : State) (dt : Nat) (n : Nat) (w : _) (signed : _), let u := (s.pass dt).m; n < 65536 ∧ s.live dt ∧ u.mgt.upd = some w
        ∧ u.get F.mgtUpdStat_STATE = 3 ∧ u.updGood w signed = true ∧ w.slot < 2) :=
  ⟨⟨wst [(F.mgtNcpAllow_EN 0, 0), (F.mgtNcpAllow_EN 1, 0), (F.mgtNcpAllow_EN 2, 0), (F.mgtNcpAllow_EN 3, 0)], 0, 2, ncpH 0, by decide +kernel⟩,
   ⟨wst [(F.mgtNcpAllow_EN 0, 0), (F.mgtNcpAllow_EN 1, 0), (F.mgtNcpAllow_EN 2, 0), (F.mgtNcpAllow_EN 3, 0), (F.mgtUpdStat_STATE, 3)] (fun m => withUpd ⟨1, 1, 64, 8⟩ m), 0, 2, ncpH 0, [1, 2, 3], ⟨1, 1, 64, 8⟩, by decide +kernel⟩,
   ⟨wst [(F.mgtNcpAllow_EN 0, 0), (F.mgtNcpAllow_EN 1, 0), (F.mgtNcpAllow_EN 2, 0), (F.mgtNcpAllow_EN 3, 0), (F.mgtUpdStat_STATE, 2)] (fun m => withUpd ⟨1, 1, 64, 8⟩ m), 0, 16, 2, ncpH 0, [1, 2, 3], ⟨1, 1, 64, 8⟩, by decide +kernel⟩,
   ⟨wst [(F.mgtNcpAllow_EN 0, 0), (F.mgtNcpAllow_EN 1, 0), (F.mgtNcpAllow_EN 2, 0), (F.mgtNcpAllow_EN 3, 0), (F.mgtUpdStat_STATE, 2)] (fun m => withUpd ⟨1, 1, 64, 8⟩ m), 0, 8, 2, ncpH 0, [1, 2, 3], ⟨1, 1, 64, 8⟩, by decide +kernel⟩,
   ⟨wst [(F.mgtNcpAllow_EN 0, 0), (F.mgtNcpAllow_EN 1, 0), (F.mgtNcpAllow_EN 2, 0), (F.mgtNcpAllow_EN 3, 0), (F.mgtUpdStat_STATE, 1)] (fun m => withUpd ⟨1, 1, 64, 8⟩ m), 0, 2, ncpH 0, ⟨1, 1, 64, 8⟩, by decide +kernel⟩,
   ⟨wst [(F.mgtNcpAllow_EN 0, 0), (F.mgtNcpAllow_EN 1, 0), (F.mgtNcpAllow_EN 2, 0), (F.mgtNcpAllow_EN 3, 0), (F.mgtUpdStat_STATE, 2)] (fun m => withUpd ⟨1, 1, 64, 8⟩ m), 0, 2, ncpH 0, ⟨1, 1, 64, 8⟩, by decide +kernel⟩,
   ⟨wst [(F.mgtNcpAllow_EN 0, 0), (F.mgtNcpAllow_EN 1, 0), (F.mgtNcpAllow_EN 2, 0), (F.mgtNcpAllow_EN 3, 0), (F.mgtUpdStat_STATE, 2)] (fun m => withUpd ⟨1, 1, 64, 64⟩ m), 0, 2, ncpH 0, ⟨1, 1, 64, 64⟩, by decide +kernel⟩,
   ⟨wst [(F.mgtNcpAllow_EN 0, 0), (F.mgtNcpAllow_EN 1, 0), (F.mgtNcpAllow_EN 2, 0), (F.mgtNcpAllow_EN 3, 0)] (fun m => withUpd ⟨1, 1, 64, 8⟩ m), 0, 2, ncpH 0, by decide +kernel⟩,
   ⟨wst [(F.mgtUpdStat_STATE, 1)], 0, 2, by decide +kernel⟩,
   ⟨wst [(F.mgtUpdStat_STATE, 2)], 0, 2, by decide +kernel⟩,
   ⟨wst [(F.mgtUpdStat_STATE, 3)], 0, 2, by decide +kernel⟩,
   ⟨wst [(F.mgtUpdStat_STATE, 3)] (fun m => withUpd ⟨0, 1, 64, 64⟩ m), 0, 2, ⟨0, 1, 64, 64⟩, true, by decide +kernel⟩⟩

theorem wit_NcpOperationsAndUpdates_4 :
    (∃ (s : State) (dt : Nat) (n : Nat) (w : _) (signed : _), let u := (s.pass dt).m; n < 65536 ∧ s.live dt ∧ u.mgt.upd = some w
        ∧ u.get F.mgtUpdStat_STATE = 3 ∧ u.updGood w signed = false)
    ∧ (∃ (s : State) (dt : Nat) (agent : Nat) (n : Nat), n < 65536 ∧ s.live dt ∧ s.heeds dt agent 23)
    ∧ (∃ (s : State) (dt : Nat) (n : Nat), let u := (s.pass dt).m; n < 65536 ∧ s.live dt ∧ u.on F.mgtNetCtl_BUSY = true)
    ∧ (∃ (s : State) (dt : Nat) (n : Nat), let u := (s.pass dt).m; n < 65536 ∧ s.live dt ∧ u.on F.mgtNetCtl_BUSY = false) :=
  ⟨⟨wst [(F.mgtUpdStat_STATE, 3)] (fun m => withUpd ⟨1, 1, 64, 64⟩ m), 0, 2, ⟨1, 1, 64, 64⟩, true, by decide +kernel⟩,
   ⟨wst [], 0, 1, 2, by decide +kernel⟩,
   ⟨wst [(F.mgtNetCtl_BUSY, 1), (F.mgtNet_ADDR, 0x0A000001), (F.mgtNet_PREFIX, 24), (F.mgtNetGw_GW, 5)], 0, 2, by decide +kernel⟩,
   ⟨wst [(F.mgtNetCtl_BUSY, 0)], 0, 2, by decide +kernel⟩⟩

theorem wit_SpiHostAndEthernetPorts_1 :
    (∃ (s : State) (dt : Nat) (frame : BitVec 32), let u := (s.pass dt).m; let cmd := (frame.extractLsb' 28 4).toNat; s.live dt
        ∧ u.mgt.spiOpen = none ∧ cmd = 0)
    ∧ (∃ (s : State) (dt : Nat) (frame : BitVec 32), let u := (s.pass dt).m; let cmd := (frame.extractLsb' 28 4).toNat; s.live dt
        ∧ u.mgt.spiOpen = none ∧ cmd ≠ 0)
    ∧ (∃ (s : State) (dt : Nat) (frame : BitVec 32) (frames : _), let u := (s.pass dt).m; let cmd := (frame.extractLsb' 28 4).toNat; s.live dt
        ∧ u.mgt.spiOpen = none ∧ cmd = 1 ∧ frames ≤ 2)
    ∧ (∃ (s : State) (dt : Nat) (frame : BitVec 32) (frames : _), let u := (s.pass dt).m; let cmd := (frame.extractLsb' 28 4).toNat; s.live dt
        ∧ u.mgt.spiOpen = none ∧ ((cmd ≠ 1 ∨ 2 < frames)))
    ∧ (∃ (s : State) (dt : Nat) (frame : BitVec 32), let u := (s.pass dt).m; let cmd := (frame.extractLsb' 28 4).toNat; let o := spiOff frame;
        s.live dt ∧ u.mgt.spiOpen = none ∧ cmd = 2 ∧ u.barred o = false)
    ∧ (∃ (s : State) (dt : Nat) (frame : BitVec 32), let u := (s.pass dt).m; let cmd := (frame.extractLsb' 28 4).toNat; let o := spiOff frame;
        s.live dt ∧ u.mgt.spiOpen = none ∧ cmd = 2 ∧ u.barred o = true)
    ∧ (∃ (s : State) (dt : Nat) (frame : BitVec 32) (l : List (BitVec 32)), let u := (s.pass dt).m; let cmd := (frame.extractLsb' 28 4).toNat;
        s.live dt ∧ u.mgt.spiOpen = none ∧ cmd = 2 ∧ l.length ≤ 1)
    ∧ (∃ (s : State) (dt : Nat) (frame : BitVec 32) (l : List (BitVec 32)), let u := (s.pass dt).m; let cmd := (frame.extractLsb' 28 4).toNat;
        s.live dt ∧ u.mgt.spiOpen = none ∧ ((cmd ≠ 2 ∨ 2 < l.length)))
    ∧ (∃ (s : State) (dt : Nat) (frame : BitVec 32), let u := (s.pass dt).m; let cmd := (frame.extractLsb' 28 4).toNat; s.live dt
        ∧ u.mgt.spiOpen = none ∧ 3 ≤ cmd)
    ∧ (∃ (s : State) (dt : Nat) (edges : _), let u := (s.pass dt).m; s.live dt ∧ u.mgt.spiOpen = none ∧ edges < 32)
    ∧ (∃ (s : State) (dt : Nat), let u := (s.pass dt).m; s.live dt ∧ u.mgt.spiOpen = none)
    ∧ (∃ (s : State) (dt : Nat) (frame : BitVec 32), let cmd := (frame.extractLsb' 28 4).toNat; s.live dt ∧ cmd < 3) :=
  ⟨⟨wst [], 0, spiF 0 0, by decide +kernel⟩,
   ⟨wst [], 0, spiF 1 0, by decide +kernel⟩,
   ⟨wst [(F.rstStat_PHASE, 7), (F.rstStat_MINIMAL, 0)], 0, spiF 1 (R.timBase / 8), 2, by decide +kernel⟩,
   ⟨wst [], 0, spiF 0 0, 2, by decide +kernel⟩,
   ⟨wst [(F.rstStat_PHASE, 7), (F.rstStat_MINIMAL, 0)], 0, spiF 2 (R.timWallAdj / 8), by decide +kernel⟩,
   ⟨wst [(F.rstStat_PHASE, 3)], 0, spiF 2 8, by decide +kernel⟩,
   ⟨wst [], 0, spiF 2 8, [], by decide +kernel⟩,
   ⟨wst [], 0, spiF 0 0, [7, 8], by decide +kernel⟩,
   ⟨wst [], 0, spiF 15 5, by decide +kernel⟩,
   ⟨wst [], 0, 31, by decide +kernel⟩,
   ⟨wst [], 0, by decide +kernel⟩,
   ⟨wst [], 0, spiF 2 0, by decide +kernel⟩⟩

theorem wit_SpiHostAndEthernetPorts_2 :
    (∃ (s : State) (dt : Nat) (edges : _), s.live dt ∧ 32 ≤ edges)
    ∧ (∃ (s : State) (dt : Nat), let u := (s.pass dt).m; let busy : Prop := ∃ t0, u.mgt.spiOpen = some t0 ∧ u.now ≤ t0 + 100000; s.live dt ∧ busy)
    ∧ (∃ (s : State) (dt : Nat), let u := (s.pass dt).m; let busy : Prop := ∃ t0, u.mgt.spiOpen = some t0 ∧ u.now ≤ t0 + 100000; s.live dt ∧ busy)
    ∧ (∃ (s : State) (dt : Nat), let u := (s.pass dt).m; let busy : Prop := ∃ t0, u.mgt.spiOpen = some t0 ∧ u.now ≤ t0 + 100000; s.live dt ∧ busy)
    ∧ (∃ (s : State) (dt : Nat), let u := (s.pass dt).m; let busy : Prop := ∃ t0, u.mgt.spiOpen = some t0 ∧ u.now ≤ t0 + 100000; s.live dt ∧ busy)
    ∧ (∃ (s : State) (dt : Nat), let u := (s.pass dt).m; let busy : Prop := ∃ t0, u.mgt.spiOpen = some t0 ∧ u.now ≤ t0 + 100000; s.live dt ∧ busy)
    ∧ (∃ (s : State) (dt : Nat) (edges : _), let u := (s.pass dt).m; let busy : Prop := ∃ t0, u.mgt.spiOpen = some t0 ∧ u.now ≤ t0 + 100000;
        s.live dt ∧ busy ∧ edges < 32)
    ∧ (∃ (s : State) (dt : Nat) (t0 : _), let u := (s.pass dt).m; s.live dt ∧ u.mgt.spiOpen = some t0 ∧ t0 + 100000 < u.now)
    ∧ (∃ (s : State) (dt : Nat) (frame : BitVec 32) (t0 : _), let u := (s.pass dt).m; let cmd := (frame.extractLsb' 28 4).toNat; s.live dt
        ∧ u.mgt.spiOpen = some t0 ∧ t0 + 100000 < u.now ∧ cmd = 0)
    ∧ (∃ (s : State) (dt : Nat) (width : _) (speed : _), let u := (s.pass dt).m; let shut : Bool := u.on F.rstStat_MINIMAL || u.on F.pwrStat_PWRFAIL;
        s.live dt ∧ width < 16 ∧ speed < 8 ∧ shut = true)
    ∧ (∃ (s : State) (dt : Nat) (width : _) (speed : _), let u := (s.pass dt).m; let shut : Bool := u.on F.rstStat_MINIMAL || u.on F.pwrStat_PWRFAIL;
        let same : Bool := u.on F.mgtPcieStat_UP && decide (u.get F.mgtPcieStat_WIDTH = width) && decide (u.get F.mgtPcieStat_SPEED = speed);
        s.live dt ∧ width < 16 ∧ speed < 8 ∧ shut = false ∧ same = true)
    ∧ (∃ (s : State) (dt : Nat) (width : _) (speed : _), let u := (s.pass dt).m; let shut : Bool := u.on F.rstStat_MINIMAL || u.on F.pwrStat_PWRFAIL;
        let same : Bool := u.on F.mgtPcieStat_UP && decide (u.get F.mgtPcieStat_WIDTH = width) && decide (u.get F.mgtPcieStat_SPEED = speed);
        s.live dt ∧ width < 16 ∧ speed < 8 ∧ shut = false ∧ same = false) :=
  ⟨⟨wst [], 0, 32, by decide +kernel⟩,
   ⟨wst [] (fun m => isOpen 100000 m), 0, by decide +kernel⟩,
   ⟨wst [] (fun m => isOpen 100000 m), 0, by decide +kernel⟩,
   ⟨wst [] (fun m => isOpen 100000 m), 0, by decide +kernel⟩,
   ⟨wst [] (fun m => isOpen 100000 m), 0, by decide +kernel⟩,
   ⟨wst [] (fun m => isOpen 100000 m), 0, by decide +kernel⟩,
   ⟨wst [] (fun m => isOpen 100000 m), 0, 31, by decide +kernel⟩,
   ⟨wst [] (fun m => isOpen 99999 m), 0, 99999, by decide +kernel⟩,
   ⟨wst [] (fun m => isOpen 99999 m), 0, spiF 0 0, 99999, by decide +kernel⟩,
   ⟨wst [(F.rstStat_MINIMAL, 1)], 0, 8, 5, by decide +kernel⟩,
   ⟨wst [(F.rstStat_MINIMAL, 0), (F.pwrStat_PWRFAIL, 0), (F.mgtPcieStat_UP, 1), (F.mgtPcieStat_WIDTH, 8), (F.mgtPcieStat_SPEED, 5)], 0, 8, 5, by decide +kernel⟩,
   ⟨wst [(F.rstStat_MINIMAL, 0), (F.pwrStat_PWRFAIL, 0), (F.mgtPcieStat_UP, 1), (F.mgtPcieStat_WIDTH, 4), (F.mgtPcieStat_SPEED, 5)], 0, 8, 5, by decide +kernel⟩⟩

theorem wit_SpiHostAndEthernetPorts_3 :
    (∃ (s : State) (dt : Nat), s.live dt)
    ∧ (∃ (s : State) (dt : Nat), s.live dt)
    ∧ (∃ (s : State) (dt : Nat), s.live dt)
    ∧ (∃ (s : State) (dt : Nat), let u := (s.pass dt).m; s.live dt ∧ u.on F.mgtPcieStat_UP = true)
    ∧ (∃ (s : State) (dt : Nat), let u := (s.pass dt).m; s.live dt ∧ u.on F.mgtPcieStat_UP = false)
    ∧ (∃ (s : State) (dt : Nat) (off : Nat) (bytes : List Byte), let u := (s.pass dt).m; s.live dt ∧ (s.pass dt).unflipped
        ∧ u.hostReach off bytes.length = true ∧ (u.reaches hostAcc true off bytes.length).1 = true)
    ∧ (∃ (s : State) (dt : Nat) (off : Nat) (bytes : List Byte), let u := (s.pass dt).m; s.live dt ∧ u.hostReach off bytes.length = false)
    ∧ (∃ (s : State) (dt : Nat) (off : Nat) (len : Nat), let u := (s.pass dt).m; s.live dt ∧ (s.pass dt).unflipped ∧ u.hostReach off len = true
        ∧ (u.reaches hostAcc false off len).1 = true)
    ∧ (∃ (s : State) (dt : Nat) (off : Nat) (len : Nat), let u := (s.pass dt).m; s.live dt ∧ u.hostReach off len = true
        ∧ (u.reaches hostAcc false off len).1 = false)
    ∧ (∃ (s : State) (dt : Nat) (off : Nat) (len : Nat), let u := (s.pass dt).m; s.live dt ∧ u.hostReach off len = false)
    ∧ (∃ (s : State) (dt : Nat), s.live dt)
    ∧ (∃ (s : State) (dt : Nat) (x : _), let u := (s.pass dt).m; s.live dt ∧ x ≠ u.mgt.ip) :=
  ⟨⟨wst [(F.mgtPcieStat_UP, 1)], 0, by decide +kernel⟩,
   ⟨wst [(F.mgtPcieStat_UP, 1)] (fun m => { m with pba := 3, msix := [(3, 4)] }), 0, by decide +kernel⟩,
   ⟨wst [(F.mgtPcieStat_UP, 1)] (fun m => { m with pba := 3, msix := [(3, 4)] }), 0, by decide +kernel⟩,
   ⟨wst [(F.mgtPcieStat_UP, 1)], 0, by decide +kernel⟩,
   ⟨wst [(F.mgtPcieStat_UP, 0)], 0, by decide +kernel⟩,
   ⟨wst [(F.mgtPcieStat_UP, 1), (F.rstStat_MINIMAL, 0), (F.pwrStat_PWRFAIL, 0), (F.memFlipCtl_ARM, 0)] (openWin ·), 0, 0xFFFFFFFFD, [1, 2, 3], by decide +kernel⟩,
   ⟨wst [(F.mgtPcieStat_UP, 1)] (openWin ·), 0, 0xFFFFFFFFE, [1, 2, 3], by decide +kernel⟩,
   ⟨{ wst [(F.mgtPcieStat_UP, 1), (F.rstStat_MINIMAL, 0), (F.pwrStat_PWRFAIL, 0), (F.memFlipCtl_ARM, 0)] (openWin ·) with mem := cellsAt 100 [1, 2, 3] }, 0, 99, 5, by decide +kernel⟩,
   ⟨wst [(F.mgtPcieStat_UP, 1), (F.rstStat_MINIMAL, 0), (F.pwrStat_PWRFAIL, 0), (F.memFlipCtl_ARM, 0), (F.secWin_VALID 511, 0)] (fun m => { m with dramKeys := true }), 0, 99, 5, by decide +kernel⟩,
   ⟨wst [(F.mgtPcieStat_UP, 1), (F.rstStat_MINIMAL, 0), (F.pwrStat_PWRFAIL, 0), (F.memFlipCtl_ARM, 0)] (openWin ·), 0, 99, 0, by decide +kernel⟩,
   ⟨wst [], 0, by decide +kernel⟩,
   ⟨wst [], 0, 5, by decide +kernel⟩⟩

theorem wit_SpiHostAndEthernetPorts_4 :
    (∃ (s : State) (dt : Nat), s.live dt)
    ∧ (∃ (s : State) (dt : Nat), s.live dt)
    ∧ (∃ (s : State) (dt : Nat) (up : Bool), let u := (s.pass dt).m; s.live dt ∧ up ≠ u.mgt.netUp) :=
  ⟨⟨wst [], 0, by decide +kernel⟩,
   ⟨wst [], 0, by decide +kernel⟩,
   ⟨wst [], 0, true, by decide +kernel⟩⟩

theorem wit_ClocksStampsAndSnapshots_1 :
    (∃ (s : State) (dt : Nat) (agent : Nat), s.live dt ∧ s.heeds dt agent 24)
    ∧ (∃ (s : State) (dt : Nat) (agent : Nat), s.live dt ∧ s.heeds dt agent 24)
    ∧ (∃ (s : State) (dt : Nat) (agent : Nat), s.live dt ∧ s.heeds dt agent 24)
    ∧ (∃ (s : State) (dt : Nat) (agent : Nat), s.live dt ∧ s.heeds dt agent 24)
    ∧ (∃ (s : State) (dt : Nat), let u := (s.pass dt).m; let st := u.get F.timReelStat_STATE;
        let due : Bool := (decide (st = 1) || decide (st = 2)) && decide (u.reelSeen + 10000 ≤ u.now); s.live dt ∧ due = true)
    ∧ (∃ (s : State) (dt : Nat), let u := (s.pass dt).m; let st := u.get F.timReelStat_STATE;
        let due : Bool := (decide (st = 1) || decide (st = 2)) && decide (u.reelSeen + 10000 ≤ u.now); s.live dt ∧ due = false)
    ∧ (∃ (s : State) (dt : Nat) (typ : Nat), let u := (s.pass dt).m; s.live dt ∧ ((u.on F.timPtpCfg_EN = false ∨ 3 < typ)))
    ∧ (∃ (s : State) (dt : Nat) (typ : Nat), let u := (s.pass dt).m; s.live dt ∧ u.on F.timPtpCfg_EN = true ∧ typ ≤ 3)
    ∧ (∃ (s : State) (dt : Nat), let u := (s.pass dt).m;
        let due : Bool := u.on F.timPtpCfg_EN && decide (u.tim.syncAt + u.get F.timPtpCfg_SYNC_TMO_MS * 1000000 ≤ u.now) && !u.on F.timWallStat_HOLDOVER; s.live dt ∧ due = true)
    ∧ (∃ (s : State) (dt : Nat), let u := (s.pass dt).m;
        let due : Bool := u.on F.timPtpCfg_EN && decide (u.tim.syncAt + u.get F.timPtpCfg_SYNC_TMO_MS * 1000000 ≤ u.now) && !u.on F.timWallStat_HOLDOVER; s.live dt ∧ due = false)
    ∧ (∃ (s : State) (dt : Nat) (agent : Nat) (val : Word), let u := (s.pass dt).m; let ahead := wrapI 64 ((u.get F.trcSnapTick_TICK : Int) - u.reel);
        let want := (val.extractLsb' 0 16).toNat;
        let may : Bool := u.snap.armed.isNone && want != 0 && decide (20000 ≤ ahead) && decide (ahead ≤ 10000000000); s.live dt ∧ s.heeds dt agent 25
        ∧ val.getLsbD 63 = true ∧ may = true)
    ∧ (∃ (s : State) (dt : Nat) (agent : Nat) (val : Word), let u := (s.pass dt).m; let ahead := wrapI 64 ((u.get F.trcSnapTick_TICK : Int) - u.reel);
        let want := (val.extractLsb' 0 16).toNat;
        let may : Bool := u.snap.armed.isNone && want != 0 && decide (20000 ≤ ahead) && decide (ahead ≤ 10000000000); s.live dt ∧ s.heeds dt agent 25
        ∧ ((val.getLsbD 63 = false ∨ may = false))) :=
  ⟨⟨wst [] (fun m => { m with now := 12345 }), 3, 1, by decide +kernel⟩,
   ⟨wst [], 0, 1, by decide +kernel⟩,
   ⟨wst [(F.timWallStat_SEEN, 1), (F.timWallStat_HOLDOVER, 1)], 0, 1, by decide +kernel⟩,
   ⟨wst [] (fun m => { m with tim := { m.tim with rx := List.replicate 2 ⟨0, 0, 0, 0, 0, 0, 0⟩ } }), 0, 1, by decide +kernel⟩,
   ⟨wst [(F.timReelStat_STATE, 2)] (fun m => { m with now := 10000, reelSeen := 0 }), 0, by decide +kernel⟩,
   ⟨wst [(F.timReelStat_STATE, 1)] (fun m => { m with now := 9999, reelSeen := 0 }), 0, by decide +kernel⟩,
   ⟨wst [(F.timPtpCfg_EN, 0)], 0, 0, by decide +kernel⟩,
   ⟨wst [(F.timPtpCfg_EN, 1), (F.timPtpCfg_DOMAIN, 3)], 0, 0, by decide +kernel⟩,
   ⟨wst [(F.timPtpCfg_EN, 1), (F.timPtpCfg_SYNC_TMO_MS, 10), (F.timWallStat_HOLDOVER, 0)] (fun m => { m with now := 10000000 }), 0, by decide +kernel⟩,
   ⟨wst [(F.timPtpCfg_EN, 1), (F.timPtpCfg_SYNC_TMO_MS, 10), (F.timWallStat_HOLDOVER, 0)] (fun m => { m with now := 9999999 }), 0, by decide +kernel⟩,
   ⟨wst [(F.trcSnapTick_TICK, 20000)], 0, 1, 0x800000000000FFFF, by decide +kernel⟩,
   ⟨wst [(F.trcSnapTick_TICK, 19999)], 0, 1, 0x800000000000FFFF, by decide +kernel⟩⟩

theorem wit_ClocksStampsAndSnapshots_2 :
    (∃ (s : State) (dt : Nat) (agent : Nat), let u := (s.pass dt).m; s.live dt ∧ s.heeds dt agent 25 ∧ u.tracer.held = [])
    ∧ (∃ (s : State) (dt : Nat) (agent : Nat) (val : Word), let u := (s.pass dt).m; s.live dt ∧ s.heeds dt agent 25 ∧ u.tracer.held ≠ []
        ∧ ((u.traceCap = 0 ∨ u.traceCap ≤ u.tracer.widx - (val.extractLsb' 0 (F.trcTraceRidx_IDX).w).toNat)))
    ∧ (∃ (s : State) (dt : Nat) (agent : Nat) (val : Word) (x : _), let u := (s.pass dt).m; s.live dt ∧ s.heeds dt agent 25 ∧ u.tracer.held = [x]
        ∧ u.traceCap ≠ 0 ∧ u.tracer.widx - (val.extractLsb' 0 (F.trcTraceRidx_IDX).w).toNat < u.traceCap)
    ∧ (∃ (s : State) (dt : Nat), s.live dt)
    ∧ (∃ (s : State) (dt : Nat), let u := (s.pass dt).m; s.live dt ∧ u.snap.armed = none)
    ∧ (∃ (s : State) (dt : Nat) (id : Nat) (tick : Int) (late : _), let u := (s.pass dt).m; s.live dt ∧ u.snap.armed = some (id, tick, late)
        ∧ u.reel < tick)
    ∧ (∃ (s : State) (dt : Nat) (id : Nat) (tick : Int), let u := (s.pass dt).m; s.live dt ∧ u.snap.armed = some (id, tick, true) ∧ tick ≤ u.reel)
    ∧ (∃ (s : State) (dt : Nat) (id : Nat) (tick : Int), let u := (s.pass dt).m; s.live dt ∧ u.snap.armed = some (id, tick, false) ∧ tick ≤ u.reel)
    ∧ (∃ (s : State) (dt : Nat), let u := (s.pass dt).m; let g := u.tracer.gain u.now;
        let due : Bool := decide (u.get F.trcTraceCtl_MODE = 1) && u.tracer.lost != 0 && decide (1000 ≤ g.tok) && u.traceCap != 0; s.live dt
        ∧ due = false)
    ∧ (∃ (s : State) (dt : Nat), let u := (s.pass dt).m; let g := u.tracer.gain u.now;
        let due : Bool := decide (u.get F.trcTraceCtl_MODE = 1) && u.tracer.lost != 0 && decide (1000 ≤ g.tok) && u.traceCap != 0; s.live dt
        ∧ due = true ∧ (u.get F.trcTraceCtl_SRC).testBit 6 = false)
    ∧ (∃ (s : State) (dt : Nat), let u := (s.pass dt).m; let g := u.tracer.gain u.now;
        let due : Bool := decide (u.get F.trcTraceCtl_MODE = 1) && u.tracer.lost != 0 && decide (1000 ≤ g.tok) && u.traceCap != 0; s.live dt
        ∧ due = true ∧ (u.get F.trcTraceCtl_SRC).testBit 6 = true) :=
  ⟨⟨wst [], 0, 1, by decide +kernel⟩,
   ⟨wst [(F.trcTraceRing_SIZE, 1), (F.trcTraceRing_BASE, 1)] (fun m => { m with tracer := { m.tracer with widx := 2048, held := [(0, ⟨1, 2, 3, 4, 5, 6, 7, 8, 9⟩)] } }), 0, 1, 0, by decide +kernel⟩,
   ⟨wst [(F.trcTraceRing_SIZE, 1), (F.trcTraceRing_BASE, 1)] (fun m => { m with now := 5000, tracer := { m.tracer with widx := 2048, held := [(0, ⟨1, 2, 3, 4, 5, 6, 7, 8, 9⟩)] } }), 0, 1, 1, (0, ⟨1, 2, 3, 4, 5, 6, 7, 8, 9⟩), by decide +kernel⟩,
   ⟨wst [], 0, by decide +kernel⟩,
   ⟨wst [], 0, by decide +kernel⟩,
   ⟨wst [] (fun m => { m with snap := { m.snap with armed := some (65535, 20000, false) } }), 0, 65535, 20000, false, by decide +kernel⟩,
   ⟨wst [] (fun m => { m with snap := { m.snap with armed := some (65535, -5, true) } }), 0, 65535, -5, by decide +kernel⟩,
   ⟨wst [] (fun m => { m with now := 20000, reelB := 20000, reelT := 20000 * 2 ^ 40, snap := { m.snap with armed := some (65535, 20000, false) } }), 0, 65535, 20000, by decide +kernel⟩,
   ⟨wst [(F.trcTraceCtl_MODE, 0)] (fun m => { m with now := 7 }), 0, by decide +kernel⟩,
   ⟨wst [(F.trcTraceRing_SIZE, 1), (F.trcTraceRing_BASE, 1), (F.trcTraceCtl_MODE, 1), (F.trcTraceCtl_SRC, 0)] (fun m => { m with tracer := { m.tracer with lost := 7, tok := 4096000 } }), 0, by decide +kernel⟩,
   ⟨wst [(F.trcTraceRing_SIZE, 1), (F.trcTraceRing_BASE, 1), (F.trcTraceCtl_MODE, 1), (F.trcTraceCtl_SRC, 127)] (fun m => { m with tracer := { m.tracer with lost := 7, tok := 4096000 } }), 0, by decide +kernel⟩⟩

theorem wit_SensorsLevelsAndBoost_1 :
    (∃ (s : State) (dt : Nat) (k : Nat) (dies : List (Option Int)) (r : Nat → Int) (tcp : Int) (tj : Int), let u := (s.pass dt).m; k < 24 ∧ s.live dt
        ∧ ((∀ i < 24, dies.getD i none = some (r i) ∧ -32768 ≤ r i ∧ r i ≤ tj)) ∧ ((∃ i < 24, r i = tj)) ∧ -32768 ≤ tcp ∧ tcp < 32768 ∧ tj < 32768
        ∧ u.get F.kilnSensFail_FAILED = 0 ∧ u.on F.pwrStat_PWRFAIL = false ∧ u.get F.kilnStat_LEVEL = 0)
    ∧ (∃ (s : State) (dt : Nat) (k : Nat) (tcp : Int), let u := (s.pass dt).m; k < 24 ∧ s.live dt ∧ -32768 ≤ tcp ∧ tcp < 32768
        ∧ u.on F.pwrStat_PWRFAIL = true)
    ∧ (∃ (s : State) (dt : Nat) (k : Nat), let u := (s.pass dt).m;
        let failing : Bool := (u.kiln.missing.any fun x => decide (x.1 = k) && decide (x.2 + 10000000 ≤ u.now)) && !u.sensFailed k; k < 24
        ∧ s.live dt ∧ failing = true)
    ∧ (∃ (s : State) (dt : Nat) (k : Nat), let u := (s.pass dt).m;
        let failing : Bool := (u.kiln.missing.any fun x => decide (x.1 = k) && decide (x.2 + 10000000 ≤ u.now)) && !u.sensFailed k; k < 24
        ∧ s.live dt ∧ failing = false)
    ∧ (∃ (s : State) (dt : Nat) (k : Nat) (x : _), k < 24 ∧ s.live dt ∧ 24 ≤ x)
    ∧ (∃ (s : State) (dt : Nat) (agent : Nat) (k : Nat) (val : Word), let u := (s.pass dt).m; let secs := min (val.extractLsb' 0 7).toNat 120;
        let bar := u.boostBar; k < 24 ∧ s.live dt ∧ s.heeds dt agent 27 ∧ 0 < secs ∧ u.kiln.boost = none ∧ bar = 0)
    ∧ (∃ (s : State) (dt : Nat) (agent : Nat) (k : Nat) (val : Word), let u := (s.pass dt).m; let secs := min (val.extractLsb' 0 7).toNat 120;
        let bar := u.boostBar; k < 24 ∧ s.live dt ∧ s.heeds dt agent 27 ∧ 0 < secs ∧ u.kiln.boost = none ∧ bar ≠ 0)
    ∧ (∃ (s : State) (dt : Nat) (agent : Nat) (k : Nat) (val : Word) (since : _) (stop : _), let u := (s.pass dt).m;
        let secs := min (val.extractLsb' 0 7).toNat 120; k < 24 ∧ s.live dt ∧ s.heeds dt agent 27 ∧ val.getLsbD 63 = false ∧ 0 < secs
        ∧ u.kiln.boost = some (since, stop))
    ∧ (∃ (s : State) (dt : Nat) (agent : Nat) (k : Nat) (val : Word), let u := (s.pass dt).m; let secs := min (val.extractLsb' 0 7).toNat 120; k < 24
        ∧ s.live dt ∧ s.heeds dt agent 27 ∧ secs = 0 ∧ ((val.getLsbD 63 = false ∨ u.kiln.boost = none)))
    ∧ (∃ (s : State) (dt : Nat) (agent : Nat) (k : Nat) (val : Word), let u := (s.pass dt).m; k < 24 ∧ s.live dt ∧ s.heeds dt agent 27
        ∧ val.getLsbD 63 = true ∧ u.kiln.boost.isSome = true)
    ∧ (∃ (s : State) (dt : Nat) (agent : Nat) (k : Nat), let u := (s.pass dt).m; k < 24 ∧ s.live dt ∧ s.heeds dt agent 27
        ∧ u.kiln.boost.isSome = true)
    ∧ (∃ (s : State) (dt : Nat) (agent : Nat) (k : Nat), let u := (s.pass dt).m; k < 24 ∧ s.live dt ∧ s.heeds dt agent 27 ∧ u.kiln.boost = none) :=
  ⟨⟨wst [(F.kilnSensFail_FAILED, 0), (F.pwrStat_PWRFAIL, 0), (F.kilnStat_LEVEL, 0)], 0, 23, List.replicate 24 (some 1600), fun _ => 1600, 500, 1600, by decide +kernel⟩,
   ⟨wst [(F.pwrStat_PWRFAIL, 1), (F.kilnCfg_COLD_MARK, 640)], 0, 23, 641, by decide +kernel⟩,
   ⟨wst [(F.kilnSensFail_FAILED, 0), (F.pwrStat_PWRFAIL, 0)] (fun m => { m with now := 10000000, kiln := { m.kiln with missing := [(23, 0)] } }), 0, 23, by decide +kernel⟩,
   ⟨wst [] (fun m => { m with now := 9999999, kiln := { m.kiln with missing := [(23, 0)] } }), 0, 23, by decide +kernel⟩,
   ⟨wst [], 0, 23, 24, by decide +kernel⟩,
   ⟨wst [(F.kilnCfg_BOOST_EN, 1), (F.kilnStat_LEVEL, 0), (F.kilnStat_COOLDOWN, 0), (F.kilnStat_TJ, 0), (F.kilnStat_TCP, 0), (F.kilnSensFail_FAILED, 0), (F.pwrStat_STAGE, 0), (F.pwrStat_PWRFAIL, 0)], 0, 1, 23, BitVec.ofNat 64 120, by decide +kernel⟩,
   ⟨wst [(F.kilnCfg_BOOST_EN, 0)], 0, 1, 23, BitVec.ofNat 64 120, by decide +kernel⟩,
   ⟨wst [] (fun m => { m with now := 5, kiln := { m.kiln with boost := some (0, 9) } }), 0, 1, 23, BitVec.ofNat 64 120, 0, 9, by decide +kernel⟩,
   ⟨wst [] (fun m => { m with now := 5, kiln := { m.kiln with boost := some (0, 9) } }), 0, 1, 23, 0, by decide +kernel⟩,
   ⟨wst [] (fun m => { m with now := 5, kiln := { m.kiln with boost := some (0, 9) } }), 0, 1, 23, 0x8000000000000000, by decide +kernel⟩,
   ⟨wst [] (fun m => { m with now := 5, kiln := { m.kiln with boost := some (0, 9) } }), 0, 1, 23, by decide +kernel⟩,
   ⟨wst [], 0, 1, 23, by decide +kernel⟩⟩

theorem wit_SensorsLevelsAndBoost_2 :
    (∃ (s : State) (dt : Nat) (k : Nat) (since : _) (stop : _), let u := (s.pass dt).m; k < 24 ∧ s.live dt ∧ u.kiln.boost = some (since, stop)
        ∧ stop ≤ u.now)
    ∧ (∃ (s : State) (dt : Nat) (k : Nat) (since : _) (stop : _), let u := (s.pass dt).m; k < 24 ∧ s.live dt ∧ u.kiln.boost = some (since, stop)
        ∧ u.now < stop)
    ∧ (∃ (s : State) (dt : Nat) (k : Nat), let u := (s.pass dt).m; k < 24 ∧ s.live dt ∧ u.kiln.boost = none)
    ∧ (∃ (s : State) (dt : Nat) (k : Nat) (t0 : _), let u := (s.pass dt).m; k < 24 ∧ s.live dt ∧ u.kiln.cool = some t0 ∧ t0 ≤ u.now)
    ∧ (∃ (s : State) (dt : Nat) (k : Nat) (t0 : _), let u := (s.pass dt).m; k < 24 ∧ s.live dt ∧ u.kiln.cool = some t0 ∧ u.now < t0)
    ∧ (∃ (s : State) (dt : Nat) (k : Nat), let u := (s.pass dt).m; k < 24 ∧ s.live dt ∧ u.kiln.cool = none) :=
  ⟨⟨wst [] (fun m => { m with now := 9, kiln := { m.kiln with boost := some (0, 9) } }), 0, 23, 0, 9, by decide +kernel⟩,
   ⟨wst [] (fun m => { m with now := 5, kiln := { m.kiln with boost := some (0, 9) } }), 0, 23, 0, 9, by decide +kernel⟩,
   ⟨wst [], 0, 23, by decide +kernel⟩,
   ⟨wst [(F.kilnStat_COOLDOWN, 1)] (fun m => { m with now := 9, kiln := { m.kiln with cool := some 9 } }), 0, 23, 9, by decide +kernel⟩,
   ⟨wst [(F.kilnStat_COOLDOWN, 1)] (fun m => { m with now := 8, kiln := { m.kiln with cool := some 9 } }), 0, 23, 9, by decide +kernel⟩,
   ⟨wst [], 0, 23, by decide +kernel⟩⟩

theorem wit_RegistersEventsAndLog_1 :
    (∃ (s : State) (dt : Nat) (agent : Nat) (off : Nat), s.live dt ∧ isAgent agent = true ∧ s.lets dt agent (off / 0x100000) = false)
    ∧ (∃ (s : State) (dt : Nat) (agent : Nat) (off : Nat), s.live dt ∧ isAgent agent = true ∧ s.lets dt agent (off / 0x100000) = true ∧ ¬(¬(agent = 2
        ∧ off % 8 ≠ 0)))
    ∧ (∃ (s : State) (dt : Nat) (agent : Nat) (off : Nat) (r : _) (ix : _), s.live dt ∧ isAgent agent = true
        ∧ s.lets dt agent (off / 0x100000) = true ∧ (¬(agent = 2 ∧ off % 8 ≠ 0)) ∧ msixTable off = false ∧ off ≠ msixPba ∧ regAt off = some (r, ix)
        ∧ regMapped off = true ∧ r.base ∉ ownCommand)
    ∧ (∃ (s : State) (dt : Nat) (agent : Nat) (off : Nat), s.live dt ∧ isAgent agent = true ∧ s.lets dt agent (off / 0x100000) = true ∧ (¬(agent = 2
        ∧ off % 8 ≠ 0)) ∧ msixTable off = false ∧ off ≠ msixPba ∧ regMapped off = false)
    ∧ (∃ (s : State) (dt : Nat) (agent : Nat) (off : Nat), s.live dt ∧ isAgent agent = true ∧ s.lets dt agent (off / 0x100000) = true ∧ (¬(agent = 2
        ∧ off % 8 ≠ 0)) ∧ msixTable off = true)
    ∧ (∃ (s : State) (dt : Nat) (agent : Nat) (off : Nat), s.live dt ∧ isAgent agent = true ∧ s.lets dt agent (off / 0x100000) = true ∧ (¬(agent = 2
        ∧ off % 8 ≠ 0)) ∧ off = msixPba)
    ∧ (∃ (s : State) (dt : Nat) (blk : Nat) (inst : Nat), let u := (s.pass dt).m; s.live dt ∧ u.evLost blk inst ≠ 0 ∧ u.evLevel blk inst < 64)
    ∧ (∃ (s : State) (dt : Nat) (blk : Nat) (inst : Nat), let u := (s.pass dt).m; s.live dt ∧ (u.evLost blk inst = 0 ∨ 64 ≤ u.evLevel blk inst))
    ∧ (∃ (s : State) (dt : Nat) (blk : Nat) (loc : Nat) (inst : Nat) (unit : Nat) (r : _), let u := (s.pass dt).m; s.live dt
        ∧ u.runs.find? (·.is blk loc inst unit) = some r ∧ r.counted = true ∧ r.start + 10000000 ≤ u.now)
    ∧ (∃ (s : State) (dt : Nat) (blk : Nat) (loc : Nat) (inst : Nat) (unit : Nat), let u := (s.pass dt).m; s.live dt
        ∧ ((∀ r, u.runs.find? (·.is blk loc inst unit) = some r → r.counted = true → u.now < r.start + 10000000)))
    ∧ (∃ (s : State) (dt : Nat) (fails : Nat) (e : _) (rest : _), let u := (s.pass dt).m; s.live dt ∧ u.logBuf = e :: rest
        ∧ u.on F.pwrStat_PWRFAIL = false ∧ fails < 2)
    ∧ (∃ (s : State) (dt : Nat) (fails : Nat) (e : _) (rest : _), let u := (s.pass dt).m; s.live dt ∧ u.logBuf = e :: rest
        ∧ u.on F.pwrStat_PWRFAIL = false ∧ 2 ≤ fails) :=
  ⟨⟨wst [(F.rstStat_MINIMAL, 1)], 0, 3, 0x200008, by decide +kernel⟩,
   ⟨wst [] (fun m => { (m.set F.rstStat_PHASE 7).setb F.mgtPcieStat_UP true with now := 5 }), 0, 2, R.pwrStat + 4, by decide +kernel⟩,
   ⟨wst [], 0, 1, R.pwrStat, (someRow R.pwrStat).1, (someRow R.pwrStat).2, by decide +kernel⟩,
   ⟨wst [], 0, 1, 0xFFFFFF8, by decide +kernel⟩,
   ⟨wst [], 0, 1, 0x1780008, by decide +kernel⟩,
   ⟨wst [], 0, 1, msixPba, by decide +kernel⟩,
   ⟨wst [] (fun m => { m with evDropped := [(unitKey 0x10 3, 5)] }), 0, 0x10, 3, by decide +kernel⟩,
   ⟨wst [] (fun m => { m with evDropped := [(unitKey 0x10 4, 5)] }), 0, 0x10, 3, by decide +kernel⟩,
   ⟨wst [(F.trcTraceCtl_MODE, 0)] (fun m => { m with now := 10000000, runs := [⟨0x10, 5, 3, 7, true, 0, 12, [(8, 3)]⟩] }), 0, 0x10, 5, 3, 7, ⟨0x10, 5, 3, 7, true, 0, 12, [(8, 3)]⟩, by decide +kernel⟩,
   ⟨wst [] (fun m => { m with now := 9999999, runs := [⟨0x10, 5, 3, 7, true, 0, 12, [(8, 3)]⟩] }), 0, 0x10, 5, 3, 7, by decide +kernel⟩,
   ⟨wst [(F.pwrStat_PWRFAIL, 0)] (fun m => { m with logBuf := [⟨1, 2, 3, 4, 5, 6⟩, ⟨7, 8, 9, 4, 5, 6⟩] }), 0, 0, ⟨1, 2, 3, 4, 5, 6⟩, [⟨7, 8, 9, 4, 5, 6⟩], by decide +kernel⟩,
   ⟨wst [(F.pwrStat_PWRFAIL, 0)] (fun m => { m with log := { m.log with pos := 65535, held := [(0, 9), (65534, 15)] }, logBuf := [⟨1, 2, 3, 4, 5, 6⟩] }), 0, 2, ⟨1, 2, 3, 4, 5, 6⟩, [], by decide +kernel⟩⟩

theorem wit_RegistersEventsAndLog_2 :
    (∃ (s : State) (dt : Nat), let u := (s.pass dt).m; s.live dt ∧ (u.logBuf = [] ∨ u.on F.pwrStat_PWRFAIL = true)) :=
  ⟨wst [(F.pwrStat_PWRFAIL, 1)] (fun m => { m with logBuf := [⟨1, 2, 3, 4, 5, 6⟩] }), 0, by decide +kernel⟩

/-! ## Engines: every operation has a head that runs, on small tensors -/

theorem wit_EngineArithmetic : (∃ w, w < 2 ^ 32 ∧ fp32.ofBits w ≠ .nan) ∧ ∃ w, w < 2 ^ 16 ∧ bf16.ofBits w ≠ .nan :=
  ⟨⟨0xFF7FFFFF, by decide +kernel⟩, 0x8000, by decide +kernel⟩

/-- Engine `e` starts its head, whose opcode is `op`, and that command runs to its end: the hypotheses of `EnginesRunTheirHead`'s
clause about a start. -/
def headRuns (e op : Nat) (c : Cmd) : Bool :=
  let s := engWith e c
  let u := (s.pass 0).m
  isEngine e && decide (s.live 0) && !u.traceStalls (engAgent e) && (u.toStart e).isSome && (popC s e).opcode == op && (popC s e).part.isNone
    && isOk (runOf s e)

theorem wit_EnginesRunTheirHead_convolve : headRuns 0 0x10 (cmdOf 0x10 0 1 0xFFFF 2 (2 ^ 61 + 2 ^ 58)) = true := by decide +kernel
theorem wit_EnginesRunTheirHead_multiply : headRuns 4 0x20 (cmdOf 0x20 0 1 0xFFFF 2 0) = true := by decide +kernel
theorem wit_EnginesRunTheirHead_attend : headRuns 12 0x30 (cmdOf 0x30 4 4 4 5 0) = true := by decide +kernel
theorem wit_EnginesRunTheirHead_elements : headRuns 16 0x40 (cmdOf 0x40 3 0xFFFF 0xFFFF 6 0) = true
    ∧ headRuns 17 0x41 (cmdOf 0x41 3 0xFFFF 0xFFFF 2 0) = true ∧ headRuns 18 0x42 (cmdOf 0x42 3 0xFFFF 0xFFFF 6 0) = true
    ∧ headRuns 19 0x43 (cmdOf 0x43 3 0xFFFF 0xFFFF 6 0x10) = true ∧ headRuns 19 0x44 (cmdOf 0x44 3 0xFFFF 0xFFFF 6 0) = true := by decide +kernel
theorem wit_EnginesRunTheirHead_compress : headRuns 20 0x50 (cmdOf 0x50 7 0xFFFF 0xFFFF 8 0) = true
    ∧ headRuns 21 0x51 (cmdOf 0x51 8 0xFFFF 0xFFFF 7 0) = true ∧ headRuns 21 0x52 (cmdOf 0x52 9 0xFFFF 0xFFFF 10 0) = true := by decide +kernel
theorem wit_EnginesRunTheirHead_verdict : headRuns 22 0x60 (cmdOf 0x60 0 0xFFFF 0xFFFF 1 (2 ^ 32 + 1)) = true
    ∧ headRuns 22 0x61 (cmdOf 0x61 0 11 0xFFFF 12 1) = true := by decide +kernel

/-! ## Words, steps and the whole block -/

theorem wit_CoreWordsReadBack : (Instr.ld64 0 5 31 1 0xFFFF).wf = true ∧ coreWord (.ld64 0 5 31 1 0xFFFF) = some (wordI 0x08 31 1 0xFFFF) := by
  decide +kernel
theorem wit_DecodedWordsAreWellFormed : isCore 6143 = true
    ∧ coreDecode 0 6143 (wordI 0x08 31 1 0xFFFF) = some (.ld64 0 6143 31 1 0xFFFF) := by decide +kernel

theorem wit_StepRunsFront : State.reset.pending = [] := rfl

theorem wit_StepsKeepMemoryCanonical : let s := { State.reset with pending := [.latch 7 1], mem := [(5, 1)], flips := [(2, 4)] }
    s.memWf ∧ (match step s with | .next t => decide (t.mem = [(5, 1)] ∧ t.flips = [(2, 4)]) | _ => false) = true := by decide +kernel

theorem wit_CommandsCompleteAndTimePasses : (Instr.portLocked 7 16 [] []).wf = false
    ∧ sender (.registerWrite 7 0xFFF 3 0) = some (0xFFF, 0) ∧ (wst []).lets 7 0xFFF 0 = false
    ∧ (({ State.reset with m := { State.reset.m with rst := { State.reset.m.rst with asserted := some (1, 0), waits := false } } } : State).pass 7).m.halted
      = true := by decide +kernel

/-- Core 6143 at word `w`, with s1 = x, s2 = y and s31 = 3, in a tile of its own. -/
def coreOn (w : BitVec 32) (x y : Word) (l : List (Fld × Nat) := []) (g : Mach → Mach := id) : State := wst l fun m => g (cw w x y m)
def dmaOn : State := coreOn 0 1 0x8FFFC0 [] (·.modCore 6143 fun c => { c with dma := [(1, dmaWords)] })

/-! ## Values: the worked examples of the spec -/

/-- 01_architecture.md, R507's example: the arguments of LATE_VERDICT. -/
theorem test_event_arguments : leBytes 16 (packArgs [(32, 0x01234513), (3, 2), (3, 1), (32, 500062), (32, 24675500)])
    = [0x13, 0x45, 0x23, 0x01, 2, 1, 0, 0, 0x5E, 0xA1, 0x07, 0, 0xAC, 0x84, 0x78, 0x01] := by decide +kernel

/-- 03_image_pipeline.md, R83's example: v = 300,000 between K[420] = 50,000 and K[421] = 50,400. -/
theorem test_tone_curve : tone { tone := [(420, 50000), (421, 50400)] } 0 300000 = 50248 := by decide +kernel

/-- 04_engines_floor_tun.md, R139's example: an INT8 row of 128 that holds 5, −2 and 9. -/
theorem test_compressed_row :
    compress 0 ((List.range 128).map fun i => if i = 3 then 5 else if i = 70 then 0xFE else if i = 71 then 9 else 0)
      = [2, 0, 2, 0, 3, 0, 0, 0, 8, 0, 0, 0, 0, 0, 0, 0, 0xC0, 0, 0, 0, 0, 0, 0, 0, 0x05, 0xFE, 0x09] := by decide +kernel

/-- 05_sequence_model.md, R169's example: the key of column 37 in slot 5 of layer 3. -/
theorem test_window_key : (wst [(F.hopEntCfg_ACROSS 7, 64)]).m.ownOff 7 3 5 37 = 0xC59400 := by decide +kernel

/-- 10_determinism_and_replay.md, R347's examples: a slot's generation for a sequence number. -/
theorem test_slot_generation : slotGen 0x012345 0x345 = 0x13 ∧ slotGen 0x1000 0 = 1 := by decide +kernel

def beltTrack (p te : Int) (ns : Nat) : Track := { p, te, period := ns * 65536, still := false }
/-- 07_tracking_and_ejection.md, the firing example: steps 4, 6 and 7, and the late verdict of object 2. -/
theorem test_firing_example :
    predict (beltTrack 500062 19998000 4000) (502398 * 256) 1500000 392 = some 27841976
      ∧ predict (beltTrack 500062 19998000 4000) (502441 * 256) 900000 416 = some 28613974
      ∧ predict (beltTrack 500062 19998000 4000) (502406 * 256) 1500000 392 = some 27873976
      ∧ predict (beltTrack 501063 24003000 4250) (502398 * 256) 1500000 392 = some 28176726
      ∧ predict (beltTrack 501066 24018000 5000) (502398 * 256) 1500000 392 = some 29177976
      ∧ predict (beltTrack 501066 24018000 5000) (502441 * 256) 900000 416 = some 29992974
      ∧ predict (beltTrack 501197 24673000 5000) (501304 * 256) 1800000 400 = some 23407975 := by decide +kernel

/-- 07_tracking_and_ejection.md, R235's example: on a 60 − 2 wheel the gap comes one tooth late. -/
theorem test_tooth_discrepancy : ((wst [(F.posTooth_TEETH 0, 60), (F.posTooth_MISSING 0, 2)]
    (·.modPos 0 fun x => { x with index := 58 })).m.toothRef 0).1 = -1 := by decide +kernel

/-- 12_power_reset_start.md, R391's example: V in 10 mV, sample after sample, and the stage it leads to. -/
theorem test_supply_dip : (([2038, 1918, 1861, 1958, 1962, 2079, 2081].foldl (fun (y : Mach × List Nat) v =>
    let m := supplySample v { y.1 with supply := { y.1.supply with samples := [] } }
    (m, y.2 ++ [m.get F.pwrStat_STAGE])) ((wst [(F.pwrStat_STAGE, 0), (F.pwrStat_PWRFAIL, 0)]).m, [])).2) = [1, 2, 2, 2, 1, 1, 0] := by
  decide +kernel

/-- 12_power_reset_start.md, R418's example: reason 0x05 gives one pulse, a pause, then six pulses. -/
theorem test_fault_flash : (List.range (flashLen 5)).map (flashPart 5) = [(1500, false), (200, true), (200, false), (800, false)]
    ++ (List.range 12).map (fun i => (200, decide (i % 2 = 0))) := by decide +kernel

/-- 13_management_time_observability.md, R450's example: the rate of an oscillator 12 ppm fast. -/
theorem test_wall_rate : { State.reset.m with now := 11000012000, wallB := 10000000000, wallT := 1700000000000000000 * 2 ^ 40,
                                               wallRate := 1099498433795 }.wall = 1700000001000000000 := by decide +kernel

/-- 13_management_time_observability.md, R440's example: index 0x16_0260 is SCH_JOB_CTL of J3. -/
theorem test_spi_index : spiOff 0x20160260 = R.schJobCtl 3 ∧ spiOff 0x10160261 = R.schJobStat 3 := by decide +kernel

/-- 01_architecture.md, R29's example and 07_tracking_and_ejection.md, R262: where instances stand. -/
theorem test_control_offsets : R.cmpCtl 5 = 0xF05000 ∧ R.pnxCtl 14 = 0x110E000 := by decide +kernel

/-- 11_memory_integrity_security.md, R366's example: one word with one bit flipped and one with two. -/
theorem test_sparge_pass : (let s := { wst [] (fun m => { m with now := 65536, spg := some ⟨0, 0x240000000, 0x240100000⟩ }) with
        flips := [(0x240003540 / 8, 0x100), (0x240003580 / 8, 3)] }
      let m := spargeDone ⟨s.mem, s.flips⟩ s.m
      ([F.memSpgSum0_CE, F.memSpgSum0_UE, F.memSpgSum3_WORST, F.memSpgSum3_WORST_CNT].map m.get,
        [R.memSpgSum1, R.memSpgSum2, R.memSpgSum4].map fun o => (m.rd o).toNat))
    = ([1, 1, 83, 2], [0x240003540, 0x240003580, 131072]) := by decide +kernel

/-! ## Floor words of R149's table, written out field by field (6 bits of opcode, three of 5, FUNC of 11 or IMM of 16), and steps -/

theorem test_decode_words : coreDecode 0 5 0b000001_00010_00011_00001_00000000000 = some (.add 0 5 2 3 1)
    ∧ coreDecode 0 5 0b010000_00001_00010_1111111111111111 = some (.beq 0 5 1 2 0xFFFF)
    ∧ coreDecode 0 5 0b001100_11111_00000_0000000000001000 = some (.st64 0 5 31 0 8)
    ∧ coreDecode 0 5 0b011000_00100_00101_0000000000100000 = some (.vld 0 5 4 5 32)
    ∧ coreDecode 0 5 0b100010_00001_00010_00011_00000000001 = some (.vbcast 0 5 1 2 3)
    ∧ coreDecode 0 5 0b110000_00000_00001_0000000000000001 = some (.signal 0 5 0 1 1)
    ∧ coreDecode 0 5 0b111111_00000_00000_00000_00000000000 = none := by decide

def after (o : Host.Outcome State Fault Refusal) : Mach := match o with | .next t => t.m | _ => State.reset.m

theorem test_add_wraps : ((after (exec (.add 0 6143 31 1 2) (coreOn (wordR 0x01 31 1 2 0) 0xFFFFFFFFFFFFFFFF 2))).core 6143).sreg 31 = 1 := by
  decide +kernel
theorem test_div_by_zero : ((after (exec (.div 0 6143 1 1 2) (coreOn (wordR 0x01 1 1 2 0xA) 7 0))).core 6143).sreg 1 = 0xFFFFFFFFFFFFFFFF := by
  decide +kernel
theorem test_s0_stays : ((after (exec (.addi 0 6143 0 1 5) (coreOn (wordI 0x02 0 1 5) 7 0))).core 6143).sreg 0 = 0 := by decide +kernel
theorem test_branch_back : ((after (exec (.bne 0 6143 1 2 0xFFFF) (coreOn (wordI 0x11 1 2 0xFFFF) 7 0 [] (·.modCore 6143 fun c => { c with pc := 4 })))).core 6143).pc
    = 0 := by decide +kernel
theorem test_fence_waits_for_dma : (after (exec (.fence 0 6143) { dmaOn with m := { dmaOn.m with istore := [(95 * 8192, wordR 0x33 0 0 0 0)] } })).core 6143
    = dmaOn.m.core 6143 := by decide +kernel
theorem test_illegal_word_traps : (after (exec (.coreTrap 0 6143) (coreOn 0xFFFFFFFF 1 2))).get (F.flrTrap_CAUSE 95) = 1 := by decide +kernel

theorem test_queue_is_first_in_first_out : (match step { State.reset with pending := [.latch 7 1, .retentionLoss 0] } with
    | .next t => (t.m.now, t.pending) | _ => (0, [])) = (7, [Instr.retentionLoss 0]) := by decide +kernel
theorem test_idle : step State.reset = .next State.reset := by rfl

/-! ## Well-formedness: for each check an ill-formed command that it refuses, and its nearest well-formed one -/

def badCell : Cell := ⟨0, [], 0⟩
theorem test_wf_instances : [Instr.rngRead 0 5, .spgGo 0 0, .portLocked 0 16 [] [], .sync 0 23, .fence 0 6144, .laneWake 0 28, .zEdge 0 8 0, .overload 0 96,
      .gateEnd 0 32, .posStop 0 1 8, .clusterParked 0 96, .jobStopped 0 64, .keyFail 0 5, .grpLow 0 12 0, .maxOnClamp 0 96, .pipelineLine 0 16,
      .commitComplete 0 64, .synObj 0 1 16384 0, .mbxTake 0 1 512, .preempt 0 3 64, .translationMiss 0 3 1024 0 false, .restartAck 0 32 false,
      .forwardedEndRow 0 1024 0, .forwardedDetach 0 5 2 0 0, .chainAnnounce 0 4 32].all (fun i => !i.wf) = true := by decide
theorem test_wf_instances_last : [Instr.rngRead 0 4, .spgGo 0 1, .portLocked 0 15 [] [], .sync 0 22, .fence 0 6143, .laneWake 0 27, .zEdge 0 7 0, .overload 0 95,
      .gateEnd 0 31, .posStop 0 1 7, .clusterParked 0 95, .jobStopped 0 63, .keyFail 0 4, .grpLow 0 11 0, .maxOnClamp 0 95, .pipelineLine 0 15,
      .commitComplete 0 63, .synObj 0 1 16383 0, .mbxTake 0 1 511, .preempt 0 3 63, .translationMiss 0 3 1023 0 false, .restartAck 0 31 true,
      .forwardedEndRow 0 1023 0, .forwardedDetach 0 5 1 0 0, .chainAnnounce 0 4 31].all (·.wf) = true := by decide
theorem test_wf_entries : [Instr.linStore 0 1 0 4 0 0, .linStore 0 1 0 3 4096 0, .linStore 0 1 0 3 0 65536, .ffStore 0 1 0 32768 0 0, .ffStore 0 1 0 0 65536 0,
      .ffStore 0 1 0 0 0 65536, .toneStore 0 1 0 4 0 0, .toneStore 0 1 0 0 512 0, .toneStore 0 1 0 0 0 65536, .slotClosePoint 0 0 4096,
      .edgeFire 0 0 4096 true].all (fun i => !i.wf) = true := by decide
theorem test_wf_instructions : [Instr.add 0 0 32 0 0, .add 0 0 0 32 0, .add 0 0 0 0 32, .addi 0 0 0 0 65536, .ld8 0 0 32 0 0, .jal 0 0 0 (2 ^ 21), .vld64 0 0 31 0 0,
      .vop 0 0 0 0 0 0xE, .vcvt 0 0 0 0 0 0x40, .signal 0 0 0 0 0, .signal 0 0 0 0 256, .rdspec 0 0 0 0 4, .mbxsend 0 0 0 0 0 2,
      .mbxrecv 0 0 0 0 0 1].all (fun i => !i.wf) = true := by decide
theorem test_wf_values : [Instr.commandWrite 0 0xFF 0 0 [], .commandWrite 0 1 64 0 [], .commandWrite 0 1 0 (2 ^ 40) [], .taskWrite 0 1 64 0 [], .verdictStore 0 6144 0 [],
      .verdictStore 0 0 (2 ^ 40) [], .idleCell 0 0 badCell, .healthFail 0 3, .globalWarmReset 0 1 2, .globalColdReset 0 1 1,
      .computeReset 0 1 1, .blockReset 0 1 1, .wdogExpired 0 16, .spiRead 0 0 3 false, .spiWrite 0 0 [0, 0, 0],
      .spiPartial 0 32].all (fun i => !i.wf) = true := by decide

end Sys2Proof.Machine
end

section
/-! ## The tone curve (R83)

The segment table of R83 is a relation between a value and its segment. `tone_eq_interpolate` says that the model's curve interpolates in
whichever segment the table gives; the clauses of `Obligations.ToneCurveInterpolates` follow from that and from the table's own facts. -/
namespace Sys2Proof.Machine

/-- The two rows of R83's table: value `v` lies in segment `s`, which begins at `start` and is `2 ^ b` wide. -/
def InToneSegment (v b s start : Nat) : Prop :=
  (v < 64 ∧ b = 1 ∧ s = v / 2 ∧ start = 2 * s) ∨ (∃ k, 6 ≤ k ∧ k ≤ 19 ∧ 2 ^ k ≤ v ∧ v < 2 ^ (k + 1) ∧ b = k - 5
    ∧ s = 32 + 32 * (k - 6) + v / 2 ^ b % 32 ∧ start = v / 2 ^ b * 2 ^ b)

/-- R83's output at distance `d` into a segment `2 ^ b` wide, between the knots `p` and `q`. -/
def interpolate (p q d : Int) (b : Nat) : Int := p + ((q - p) * d + 2 ^ (b - 1)).fdiv (2 ^ b)

/-- Between two knots that are not negative the output is not negative, however steeply the curve falls: the sum before the shift is
`p * (2 ^ b - d) + q * d` and the rounding term. -/
theorem interpolate_nonneg {p q d : Int} {b : Nat} (hp : 0 ≤ p) (hq : 0 ≤ q) (hd : 0 ≤ d) (hdb : d ≤ 2 ^ b) : 0 ≤ interpolate p q d b := by
  have hpos : (0 : Int) < 2 ^ b := by positivity
  have hround : (0 : Int) ≤ 2 ^ (b - 1) := by positivity
  have hsum : -p * 2 ^ b ≤ (q - p) * d + 2 ^ (b - 1) := by
    linarith only [mul_nonneg hp (sub_nonneg.mpr hdb), mul_nonneg hq hd, hround]
  have hshift := (Int.le_ediv_iff_mul_le hpos).mpr hsum
  rw [interpolate, Int.fdiv_eq_ediv_of_nonneg _ hpos.le]
  omega

/-- The table covers every 20-bit value. -/
theorem exists_inToneSegment {v : Nat} (hv : v < 2 ^ 20) : ∃ b s start, InToneSegment v b s start := by
  by_cases hlow : v < 64
  · exact ⟨_, _, _, .inl ⟨hlow, rfl, rfl, rfl⟩⟩
  · have hne : v ≠ 0 := by omega
    have hk : 6 ≤ v.log2 := (Nat.le_log2 hne).mpr (by omega)
    have hk' : v.log2 < 20 := (Nat.log2_lt hne).mpr hv
    exact ⟨_, _, _, .inr ⟨v.log2, hk, by omega, Nat.log2_self_le hne, Nat.lt_log2_self, rfl, rfl, rfl⟩⟩

theorem InToneSegment.succ_le {v b s start : Nat} (h : InToneSegment v b s start) : s + 1 ≤ 480 := by
  rcases h with ⟨hv, -, rfl, -⟩ | ⟨k, hk, hk', hlo, hhi, rfl, rfl, -⟩ <;> omega

/-- In both rows the start is the value rounded down to a multiple of the width. -/
theorem InToneSegment.start_eq {v b s start : Nat} (h : InToneSegment v b s start) : start = v / 2 ^ b * 2 ^ b := by
  rcases h with ⟨-, rfl, rfl, rfl⟩ | ⟨k, -, -, -, -, -, -, rfl⟩
  · rw [pow_one, mul_comm]
  · rfl

theorem InToneSegment.start_le {v b s start : Nat} (h : InToneSegment v b s start) : start ≤ v :=
  h.start_eq ▸ Nat.div_mul_le_self v (2 ^ b)

theorem InToneSegment.lt_end {v b s start : Nat} (h : InToneSegment v b s start) : v < start + 2 ^ b :=
  h.start_eq ▸ Nat.lt_div_mul_add (by positivity)

/-- The model's width and segment are those of the table. -/
theorem InToneSegment.model_eq {v b s start : Nat} (h : InToneSegment v b s start) :
    (if v < 64 then 1 else v.log2 - 5) = b ∧ (if v < 64 then v / 2 else 32 + 32 * (v.log2 - 6) + v / 2 ^ b % 32) = s := by
  rcases h with ⟨hv, rfl, rfl, -⟩ | ⟨k, hk, -, hlo, hhi, rfl, rfl, -⟩
  · simp only [if_pos hv, and_self]
  · have h64 : 2 ^ 6 ≤ 2 ^ k := Nat.pow_le_pow_right (by omega) hk
    have hlog : v.log2 = k := (Nat.log2_eq_iff (by omega)).mpr ⟨hlo, hhi⟩
    have hv : ¬ v < 64 := by omega
    simp only [if_neg hv, hlog, and_self]

/-- R83: the curve at a value of segment `s` interpolates between the channel's knots `s` and `s + 1`. -/
theorem tone_eq_interpolate {v b s start : Nat} (x : CxSet) (ch : Nat) (h : InToneSegment v b s start) :
    (tone x ch v : Int) = interpolate (x.knot ch s) (x.knot ch (s + 1)) ((v : Int) - start) b := by
  obtain ⟨hb, hs⟩ := h.model_eq
  have hle : (start : Int) ≤ v := mod_cast h.start_le
  have hlt : (v : Int) < start + 2 ^ b := mod_cast h.lt_end
  have hnonneg := interpolate_nonneg (Int.natCast_nonneg (x.knot ch s)) (Int.natCast_nonneg (x.knot ch (s + 1)))
    (sub_nonneg.mpr hle) (b := b) (by omega)
  have htone : tone x ch v = (interpolate (x.knot ch s) (x.knot ch (s + 1)) ((v : Int) - start) b).toNat := by
    simp only [tone, interpolate, hb, hs, ← h.start_eq]
  rw [htone, Int.toNat_of_nonneg hnonneg]

/-- The curve of a channel depends on its own 481 knots alone. -/
theorem tone_congr {x y : CxSet} {ch v : Nat} (hv : v < 2 ^ 20) (hxy : ∀ n ≤ 480, x.knot ch n = y.knot ch n) : tone x ch v = tone y ch v := by
  obtain ⟨b, s, start, h⟩ := exists_inToneSegment hv
  have hs := h.succ_le
  refine Int.ofNat_inj.mp ?_
  rw [tone_eq_interpolate x ch h, tone_eq_interpolate y ch h, hxy s (by omega), hxy (s + 1) hs]

/-- With no knot stored, a channel's knot is R83's reset knot, the same in every channel. -/
theorem knot_empty {ch n : Nat} (hn : n < 512) : CxSet.knot {} ch n = if n = 480 then 0xFFFF else toneStart n / 16 := by
  have hmod : (ch * 512 + n) % 512 = n := by omega
  simp only [CxSet.knot, spGet, toneReset, hmod]

theorem toneStart_of_lt {n : Nat} (hn : n < 32) : toneStart n = 2 * n := if_pos hn

theorem toneStart_octave {k j : Nat} (hk : 6 ≤ k) (hj : j < 32) : toneStart (32 + 32 * (k - 6) + j) = (32 + j) * 2 ^ (k - 5) := by
  have hstep : (32 + 32 * (k - 6) + j - 32) % 32 = j := by omega
  have hexp : (32 + 32 * (k - 6) + j - 32) / 32 + 1 = k - 5 := by omega
  rw [toneStart, if_neg (by omega), hstep, hexp]

/-- Settles O11: the curve interpolates in the segment that R83's table gives, which it reads from one channel's knots alone; the reset
knots are the segments' starts divided by 16. -/
theorem toneCurveInterpolates : Obligations.ToneCurveInterpolates := by
  refine ⟨fun x ch v b s start _ hseg => ?_, fun x y ch v hv hxy => tone_congr hv hxy,
    fun ch _ => ⟨rfl, fun n hn => ?_, fun k j hk hk' hj => ?_, ?_⟩⟩
  · have h : InToneSegment v b s start := hseg
    exact ⟨h.succ_le, h.start_le, h.lt_end, tone_eq_interpolate x ch h⟩
  · rw [knot_empty (by omega), if_neg (by omega), toneStart_of_lt hn]
  · rw [knot_empty (by omega), if_neg (by omega), toneStart_octave hk hj]
  · rw [knot_empty (by omega), if_pos rfl]

end Sys2Proof.Machine
end

section
/-! ## The engines' arithmetic (R110, R112)

Integer operands have exponent 0, and the model's exact sum and product keep it: the accumulator's bare sum stands for an integer, which
`accum` reduces modulo 2^32. A code of an IEEE-like format is its three fields; its value lies on the format's grid already, so that
rounding leaves it and `Fmt.fields` reads the same three fields back. -/
namespace Sys2Proof.Machine

/-! ### Integer accumulation -/

/-- `v` is the integer `i` at exponent 0; a zero may have either sign. -/
def FVal.IsInt (v : FVal) (i : Int) : Prop := ∃ s m, v = .fin s m 0 ∧ FVal.scaled s m 0 0 = i

theorem FVal.scaled_zero (s : Bool) (m : Nat) : FVal.scaled s m 0 0 = (if s then -1 else 1) * (m : Int) := by
  simp [FVal.scaled]

theorem FVal.scaled_natAbs (i : Int) : FVal.scaled (i < 0) i.natAbs 0 0 = i := by
  rw [FVal.scaled_zero]
  by_cases h : i < 0
  · simp only [h, decide_true, if_true]; omega
  · simp only [h, decide_false, Bool.false_eq_true, if_false]; omega

theorem FVal.isInt_ofInt (i : Int) : (FVal.ofInt i).IsInt i := ⟨_, _, rfl, FVal.scaled_natAbs i⟩

theorem FVal.IsInt.mul {v w : FVal} {i j : Int} (hv : v.IsInt i) (hw : w.IsInt j) : (v.mul w).IsInt (i * j) := by
  obtain ⟨s, m, rfl, rfl⟩ := hv
  obtain ⟨t, n, rfl, rfl⟩ := hw
  refine ⟨s != t, m * n, rfl, ?_⟩
  cases s <;> cases t <;> simp [FVal.scaled_zero]

/-- `add` returns an operand when the other is zero, and else the sum of the two as multiples of `2 ^ 0`. -/
theorem FVal.IsInt.add {v w : FVal} {i j : Int} (hv : v.IsInt i) (hw : w.IsInt j) : (v.add w).IsInt (i + j) := by
  obtain ⟨s, m, rfl, rfl⟩ := hv
  obtain ⟨t, n, rfl, rfl⟩ := hw
  rw [FVal.add]
  split_ifs with hboth hm hn
  · exact ⟨_, _, rfl, by simp [FVal.scaled_zero, hboth]⟩
  · exact ⟨_, _, rfl, by simp [FVal.scaled_zero, hm]⟩
  · exact ⟨_, _, rfl, by simp [FVal.scaled_zero, hn]⟩
  · exact ⟨_, _, rfl, FVal.scaled_natAbs _⟩

theorem FVal.IsInt.foldl_add {v : FVal} {z : Int} (hv : v.IsInt z) (ps : List (Int × Int)) :
    ((ps.map fun p => (FVal.ofInt p.1).mul (FVal.ofInt p.2)).foldl FVal.add v).IsInt (z + (ps.map fun p => p.1 * p.2).sum) := by
  induction ps generalizing v z with
  | nil => simpa using hv
  | cons p ps ih =>
    have hp := (FVal.isInt_ofInt p.1).mul (FVal.isInt_ofInt p.2)
    simpa only [List.map_cons, List.foldl_cons, List.sum_cons, add_assoc] using ih (hv.add hp)

/-- An integer accumulator whose bare sum is the integer `i` holds `i` modulo 2^32. -/
theorem accum_eq_of_isInt {init : FVal} {ps : List FVal} {i : Int} (h : (ps.foldl FVal.add init).IsInt i) :
    accum true init ps = .ofInt (Int.bmod i (2 ^ 32)) := by
  obtain ⟨s, m, hfold, rfl⟩ := h
  simp only [accum, if_true, hfold]
  rfl

/-! ### The fields of a code -/

/-- The formats whose all-ones exponent is kept for infinities and NaN, and whose other exponents are all used. -/
structure Fmt.Ieee (f : Fmt) : Prop where
  p_pos : 1 ≤ f.p
  emin_eq : f.emin = 1 - f.bias
  emax_eq : f.emax = 2 ^ f.eb - 2 - f.bias

theorem fp32_ieee : fp32.Ieee := ⟨by decide, by decide, by decide⟩
theorem bf16_ieee : bf16.Ieee := ⟨by decide, by decide, by decide⟩

/-- The three fields of a code. -/
def Fmt.signOf (f : Fmt) (w : Nat) : Bool := w / 2 ^ (f.eb + f.p - 1) % 2 = 1
def Fmt.expOf (f : Fmt) (w : Nat) : Nat := w / 2 ^ (f.p - 1) % 2 ^ f.eb
def Fmt.manOf (f : Fmt) (w : Nat) : Nat := w % 2 ^ (f.p - 1)

/-- The code with the given fields. -/
def Fmt.code (f : Fmt) (s : Bool) (ex man : Nat) : Nat := (if s then 2 ^ (f.eb + f.p - 1) else 0) + ex * 2 ^ (f.p - 1) + man

theorem Fmt.value_eq (f : Fmt) (w : Nat) : f.value w = if f.expOf w = 0 then .fin (f.signOf w) (f.manOf w) (f.emin - (f.p - 1))
    else .fin (f.signOf w) (2 ^ (f.p - 1) + f.manOf w) ((f.expOf w : Int) - f.bias - (f.p - 1)) := rfl

theorem Fmt.ofBits_eq (f : Fmt) (w : Nat) : f.ofBits w = if f.expOf w = 2 ^ f.eb - 1 then
    (if f.manOf w = 0 then .inf (f.signOf w) else .nan) else f.value w := rfl

theorem Fmt.manOf_lt (f : Fmt) (w : Nat) : f.manOf w < 2 ^ (f.p - 1) := Nat.mod_lt _ (by positivity)

theorem Fmt.expOf_lt (f : Fmt) (w : Nat) : f.expOf w < 2 ^ f.eb := Nat.mod_lt _ (by positivity)

theorem Fmt.code_fields {f : Fmt} (hf : f.Ieee) {w : Nat} (hw : w < 2 ^ (f.eb + f.p)) :
    f.code (f.signOf w) (f.expOf w) (f.manOf w) = w := by
  have hp := hf.p_pos
  have hsplit : 2 ^ (f.eb + f.p - 1) = 2 ^ (f.p - 1) * 2 ^ f.eb := by rw [← pow_add]; congr 1; omega
  have hdouble : 2 ^ (f.eb + f.p) = 2 ^ (f.eb + f.p - 1) * 2 := by rw [← pow_succ]; congr 1; omega
  have hsign : (if f.signOf w then 2 ^ (f.eb + f.p - 1) else 0) = 2 ^ (f.eb + f.p - 1) * (w / 2 ^ (f.eb + f.p - 1)) := by
    have htop : w / 2 ^ (f.eb + f.p - 1) < 2 := Nat.div_lt_of_lt_mul (hdouble ▸ hw)
    simp only [Fmt.signOf]
    obtain h | h := Nat.le_one_iff_eq_zero_or_eq_one.mp (Nat.le_of_lt_succ htop) <;> simp [h]
  have hlow : f.expOf w * 2 ^ (f.p - 1) + f.manOf w = w % 2 ^ (f.eb + f.p - 1) := by
    rw [hsplit, Nat.mod_mul, Fmt.expOf, Fmt.manOf, add_comm, mul_comm]
  rw [Fmt.code, hsign, add_assoc, hlow, Nat.div_add_mod]

/-! ### Values on the grid -/

/-- A significand at the exponent that the format gives it is on the grid. -/
theorem Fmt.grid_self (f : Fmt) {m : Nat} {e : Int} (r : Rnd) (hm : m ≠ 0)
    (he : max ((Nat.log2 m : Int) + e - (f.p - 1)) (f.emin - (f.p - 1)) = e) : f.grid m e r = (m, e) := by
  simp only [Fmt.grid, if_neg hm, he, le_refl, if_true, sub_self, Int.toNat_zero, pow_zero, mul_one]

theorem Fmt.bits_of_grid (f : Fmt) {s : Bool} {m : Nat} {e : Int} (hm : m ≠ 0)
    (he : max ((Nat.log2 m : Int) + e - (f.p - 1)) (f.emin - (f.p - 1)) = e) (hmax : (Nat.log2 m : Int) + e ≤ f.emax) :
    f.bits (.fin s m e) = f.fields s m e := by
  have hround : f.round (.fin s m e) = .fin s m e := by
    simp only [Fmt.round, f.grid_self .rne hm he, if_neg hm, if_neg (not_lt.mpr hmax)]
  simp only [Fmt.bits, hround, f.grid_self .rne hm he]

theorem Fmt.bits_zero (f : Fmt) (s : Bool) (e : Int) : f.bits (.fin s 0 e) = f.code s 0 0 := by
  simp [Fmt.bits, Fmt.round, Fmt.grid, Fmt.fields, Fmt.code]

theorem Fmt.bits_inf (f : Fmt) (s : Bool) : f.bits (.inf s) = f.code s (2 ^ f.eb - 1) 0 := rfl

/-- A subnormal, whose significand has no bit `p - 1`, is the code of exponent field 0. -/
theorem Fmt.bits_subnormal {f : Fmt} (hf : f.Ieee) (heb : 1 < 2 ^ f.eb) {s : Bool} {man : Nat} (hman : man < 2 ^ (f.p - 1)) (hne : man ≠ 0) :
    f.bits (.fin s man (f.emin - (f.p - 1))) = f.code s 0 man := by
  have hlog : Nat.log2 man < f.p - 1 := (Nat.log2_lt hne).mpr hman
  have hmin := hf.emin_eq
  have hmax := hf.emax_eq
  have heb' : (1 : Int) < 2 ^ f.eb := mod_cast heb
  rw [f.bits_of_grid hne (by omega) (by omega), Fmt.fields, if_neg hne]
  simp only [if_pos (show (Nat.log2 man : Int) + (f.emin - (f.p - 1)) < f.emin by omega), Fmt.code, zero_mul, add_zero]

/-- A normal value, whose significand's top bit is bit `p - 1`, is the code of its exponent field. -/
theorem Fmt.bits_normal {f : Fmt} (hf : f.Ieee) {s : Bool} {ex man : Nat} (hman : man < 2 ^ (f.p - 1)) (hex : ex ≠ 0) (hex' : ex < 2 ^ f.eb - 1) :
    f.bits (.fin s (2 ^ (f.p - 1) + man) ((ex : Int) - f.bias - (f.p - 1))) = f.code s ex man := by
  have hp := hf.p_pos
  have hmin := hf.emin_eq
  have hmax := hf.emax_eq
  have hexI : (ex : Int) + 1 < 2 ^ f.eb := mod_cast (Nat.lt_sub_iff_add_lt.mp hex')
  have hne : 2 ^ (f.p - 1) + man ≠ 0 := by positivity
  have hlog : Nat.log2 (2 ^ (f.p - 1) + man) = f.p - 1 := (Nat.log2_eq_iff hne).mpr ⟨by omega, by rw [pow_succ]; omega⟩
  have htop : ((f.p - 1 : Nat) : Int) + ((ex : Int) - f.bias - (f.p - 1)) = ex - f.bias := by omega
  rw [f.bits_of_grid hne (by omega) (by omega), Fmt.fields, if_neg hne]
  simp only [hlog, htop, if_neg (show ¬ (ex : Int) - f.bias < f.emin by omega), le_refl, if_true, Nat.sub_self, pow_zero, mul_one,
    sub_add_cancel, Int.toNat_natCast, Nat.add_sub_cancel_left, Fmt.code]

theorem Fmt.bits_value {f : Fmt} (hf : f.Ieee) {w : Nat} (hw : w < 2 ^ (f.eb + f.p)) (hex : f.expOf w ≠ 2 ^ f.eb - 1) :
    f.bits (f.value w) = w := by
  have hlt := f.expOf_lt w
  have hman := f.manOf_lt w
  refine Eq.trans ?_ (Fmt.code_fields hf hw)
  rw [f.value_eq]
  split_ifs with hzero
  · rw [hzero]
    by_cases hm : f.manOf w = 0
    · rw [hm, f.bits_zero]
    · exact Fmt.bits_subnormal hf (by omega) hman hm
  · exact Fmt.bits_normal hf hman hzero (lt_of_le_of_ne (Nat.le_pred_of_lt hlt) hex)

/-- R110: in an IEEE-like format every code but a NaN is the code of its value. -/
theorem Fmt.bits_ofBits {f : Fmt} (hf : f.Ieee) {w : Nat} (hw : w < 2 ^ (f.eb + f.p)) (hnan : f.ofBits w ≠ .nan) :
    f.bits (f.ofBits w) = w := by
  rw [f.ofBits_eq] at hnan ⊢
  split_ifs at hnan ⊢ with hex hman
  · rw [f.bits_inf, ← hex, ← hman, Fmt.code_fields hf hw]
  · exact absurd rfl hnan
  · exact Fmt.bits_value hf hw hex

/-- Settles O15: a sum of integer products stands for the integer sum, which the accumulator reduces modulo 2^32; and FP32 and BF16 are
IEEE-like formats, whose codes are the codes of their values. -/
theorem engineArithmetic : Obligations.EngineArithmetic :=
  ⟨fun z ps => accum_eq_of_isInt ((FVal.isInt_ofInt z).foldl_add ps),
    fun _ hw => Fmt.bits_ofBits fp32_ieee hw, fun _ hw => Fmt.bits_ofBits bf16_ieee hw⟩

end Sys2Proof.Machine
end

section
/-! ## Encoder axes (R229, R257, R255)

An axis fault finds every open slot late, and `Mach.late` counts it in SCH_ACC_VERD of the slot's job. `Slot.job` is a plain number:
the device has 64 jobs, and the slots it opens take theirs from the six bits of CMP_PORT.JOB, but the statement ranges over every state.
With a job of 4,096 the count lands 0x100000 bytes further on, outside the windows that the statement lets change. -/
namespace Sys2Proof.Machine

/-- An open slot of a job beyond the 64 of the device. -/
def strayJobSlot : Slot := { idx := 0, tag := 0, port := 0, block := 0, first := 0, last := 0, job := 4096 }

/-- Axis 0 and its compare unit RUNNING after reset, with that slot open. -/
def strayJobState : State :=
  { State.reset with
      m := ((State.reset.m.set (F.posStat_STATE 0) 1).set (F.cmpCtl_STATE 0) 1).modCmp 0 fun c => { c with slots := [strayJobSlot] } }

theorem strayJobState_live : strayJobState.live 0 := by decide +kernel

/-- Line A of axis 0 is used, and no fault stands. -/
theorem strayJobState_fresh :
    (strayJobState.m.posRuns 0 && !strayJobState.m.on (F.posCfg_IN 0) && (1 &&& strayJobState.m.posUsed 0) != 0) = true := by decide +kernel

/-- The register that counts job 4,096 lies in SYN's window. -/
theorem schAccVerd_strayJob_window : R.schAccVerd strayJobSlot.job / 0x100000 = 12 := by decide

/-- The fault of line A counts the slot there. -/
theorem lineFault_counts_strayJob :
    (lineFault 0 1 strayJobState.m).rd (R.schAccVerd strayJobSlot.job) = strayJobState.m.rd (R.schAccVerd strayJobSlot.job) + 1 := by
  decide +kernel

/-- What LINE_FAULT answers holds of the state in which `lineFault` has acted. -/
theorem lineFault_of_answers {s : State} {dt ax lines : Nat} {P : State → Prop} (hax : ax < 8) (hl : s.live dt)
    (h : answers (.lineFault dt ax lines) s P) : P { s.pass dt with m := lineFault ax lines (s.pass dt).m } := by
  obtain ⟨t, ht, hP⟩ := h
  have hrow : exec (.lineFault dt ax lines) s = s.act dt (decide (ax < 8)) (lineFault ax lines) := rfl
  rw [hrow, decide_eq_true hax, State.act_live _ _ _ hl] at ht
  cases ht
  exact hP

/-- Refutes O5, at the clause for LINE_FAULT: a fault of line A puts axis 0 of `strayJobState` in FAULT, and the late slot is counted in
window 12, which is none of the windows 11, 14, 15 and 25 that the clause lets change. The state is outside what the device reaches: the
statement lacks the hypothesis that the jobs of slots and entries are below 64 (R225). -/
theorem not_encoderAxisFollowsItsLines : ¬ Obligations.EncoderAxisFollowsItsLines := by
  unfold Obligations.EncoderAxisFollowsItsLines
  intro h
  obtain ⟨-, -, -, -, -, -, hfault, -, -⟩ := h strayJobState 0 0 0 0 (by decide) strayJobState_live
  obtain ⟨-, -, -, -, -, -, hkeeps, -⟩ :=
    lineFault_of_answers (by decide) strayJobState_live ((hfault 1).1 strayJobState_fresh)
  have hsame := hkeeps (R.schAccVerd strayJobSlot.job) (by rw [schAccVerd_strayJob_window]; decide)
  have hcounted := lineFault_counts_strayJob
  exact absurd (hcounted.symm.trans hsame) (by decide +kernel)

end Sys2Proof.Machine
end
